-- ==== Sys2Proof/Word.lean ====
section
/-! DEFINITION. The word types of the WX9 and nothing else: what the manual treats as bits (R5, R13, R14, R52). -/

namespace Sys2Proof

/-- One byte. -/
abbrev Byte := BitVec 8
/-- A 32-bit word: token header, launch handle, Xwenxus instruction. -/
abbrev Word32 := BitVec 32
/-- A 64-bit word: tag, register, virtual address. -/
abbrev Word64 := BitVec 64
/-- A 128-bit instruction word (R52). -/
abbrev SlotWord := BitVec 128
/-- A 256-bit payload (R13, R33). -/
abbrev Payload := BitVec 256
/-- A 10-bit cause code (R8). -/
abbrev Cause := BitVec 10

end Sys2Proof
end

