-- ==== Sys2Proof/Syntax.lean ====
section
/-! DEFINITION. The instructions and steps of the WX9: one constructor of `Instr` per row of the opcode table.
The 162 fabric rows carry the fields of the 128-bit slot word (R52), the nine Xwenxus rows their registers (R72), and
the event rows name the object they act on together with whatever the outside world supplies (a flit, a store's value). -/

namespace Sys2Proof

/-- Element types, in ET-code order 0 to 15 (R33). -/
inductive ET where
  | i8 | n8 | i16 | n16 | i32 | n32 | i64 | cf8 | f8e4 | f8e5 | f16 | bf16 | f32 | i4 | n4 | lut4
  deriving DecidableEq, Repr

/-- The arity field AR, codes 0 to 3 (R19). -/
inductive Arity where
  | trigger | monadic | dyadic | predicated
  deriving DecidableEq, Repr

/-- A destination field (R59). -/
structure Dst where
  v : Bool
  dx : BitVec 7
  dy : BitVec 6
  slot : BitVec 5
  side : BitVec 2
  deriving DecidableEq, Repr

/-- The fields of an instruction word below its opcode (R52). -/
structure Fields where
  et : ET
  ar : Arity
  top : BitVec 3
  lsrc : BitVec 3
  rsrc : BitVec 3
  ksel : BitVec 3
  ssel : BitVec 2
  rnd : BitVec 3
  sat : Bool
  pinv : Bool
  bub : Bool
  ord : Bool
  mod : BitVec 8
  imm : BitVec 32
  dst0 : Dst
  dst1 : Dst
  xmod : BitVec 10
  deriving DecidableEq, Repr

/-- A region: a launch handle and the member of its image group, 0 for a single image (R193, R424). -/
structure Rid where
  h : Word32
  m : Nat
  deriving DecidableEq, Repr

/-- A site of a region in image-relative coordinates. -/
structure Site where
  r : Rid
  x : Nat
  y : Nat
  deriving DecidableEq, Repr

/-- Who put a token on the operand network: a site, or the port-table entry of an edge tile (R155, R404). -/
inductive Src where
  | site (x y : Nat)
  | port (i : Nat)
  | ctrl
  deriving DecidableEq, Repr

/-- Whose access reaches a register page or the memory: its world and trusted bit (R399), and whether it is a hart's, which alone may
give some commands of the trust block (R407, R408). -/
structure Accessor where
  world : BitVec 8
  trust : Bool
  hart : Bool
  deriving DecidableEq, Repr

/-- What an atomic instruction of a hart does with the old value and its operand (RISC-V, PRESUMED, log 5). -/
inductive AmoOp where
  | swap | add | xor | and | or | min | max | minu | maxu
  deriving DecidableEq, Repr

/-- A load or a store of `size` bytes by a hart or the host attach, or an atomic of a hart (R262, R269, R445). -/
inductive BusOp where
  | load (size : Nat)
  | store (size : Nat) (value : Word64)
  | amo (size : Nat) (op : AmoOp) (value : Word64)
  deriving DecidableEq, Repr

/-- A load or a store of the host attach, of any size (R436, R445). -/
inductive HostOp where
  | load (size : Nat)
  | store (bytes : List Byte)
  deriving DecidableEq, Repr

/-- Where a class 12 hardware error is found (R371). -/
inductive ErrPlace where
  | element (p : Site)
  | tile (p : Site)
  /-- The next read of a memory tile by a client of R209: 0 and 1 its copy channels, 2 to 5 its generators, 6 to 9 the elements beside
  it. -/
  | tileRead (p : Site) (client : Nat)
  /-- A queue of an edge tile or a port, by its port-table entry. -/
  | port (r : Rid) (port : Nat)
  | line (pa : Nat)
  | shared
  deriving DecidableEq, Repr

/-- A component of a flash slot (R438): its 4 KiB header, the vendor key and the signature of the header, its security version number
and its code. -/
structure Component where
  header : List Byte
  key : List Byte
  sig : List Byte
  version : Nat
  code : List Byte
  deriving DecidableEq, Repr

/-- A flash slot: the trust-block firmware, the M-mode monitor and Eftan (R438). -/
structure FlashSlot where
  firmware : Component
  monitor : Component
  eftan : Component
  deriving DecidableEq, Repr

/-- The fabric opcode rows, in table order: KVSEQ and NDROP have one row for each value of their OP or WHAT field. -/
inductive Op where
  | nop | const | mov | sink | steer | gate | merge | pick | lenter | lexit | wadv | tagset | tagget
  | alloc | release | call | ret | count | ired | fred | pset | pnot | pand | por | hold | reads | delay
  | repeatTok | add | sub | adds | subs | mul | mulhi | mad | div | rem | min | max | abs | neg | and
  | or | xor | andn | not | shl | shr | sar | rotl | clz | popc | cmpeq | cmpne | cmplt | cmple | sel
  | bcast | lane | shuf | pack | unpk | sumr | maxr | minr | index | bittst | fadd | fsub | fmul | ffma
  | fmin | fmax | fabs | fneg | fcmpeq | fcmplt | fcmple | fcmpun | frcp | frsq | fexp2 | flog2 | ftanh
  | fsqrt | fdiv | fsumr | fmaxr | fcvt | icvt | fcvti | qnt | dqnt | hads | hadx | fscale | fresc | launch
  | ctok | census | purge | quota | colget | colset | spanend | ctxnext | yield | horizon | ld | st | ldv
  | cmst | atadd | atmin | atmax | atand | ator | atxor | atswp | atcas | attsb | mtld | mtst | mttsb
  | agset | aggo | copy | cpwait | cpptr | order | ownpass | pin | unpin | pref | mfence | mma | mzero
  | mdrain | mscale | mcode | mepi | mswap | kvpack | kvxlat | massacc | kvevict | kvseqCreate | kvseqAttach
  | kvseqDetach | kvapp | kvstat | kvdrop | ndecl | nask | nann | ndropDecl | ndropOwn | nstat | trap
  | brk | fault | mark
  deriving DecidableEq, Repr

/-- One constructor per row of spec/opcode_table.json; the rows whose object State holds come last. -/
inductive Instr where
  -- fabric instructions, issued by an element
  | nop (f : Fields)
  | const (f : Fields)
  | mov (f : Fields)
  | sink (f : Fields)
  | steer (f : Fields)
  | gate (f : Fields)
  | merge (f : Fields)
  | pick (f : Fields)
  | lenter (f : Fields)
  | lexit (f : Fields)
  | wadv (f : Fields)
  | tagset (f : Fields)
  | tagget (f : Fields)
  | alloc (f : Fields)
  | release (f : Fields)
  | call (f : Fields)
  | ret (f : Fields)
  | count (f : Fields)
  | ired (f : Fields)
  | fred (f : Fields)
  | pset (f : Fields)
  | pnot (f : Fields)
  | pand (f : Fields)
  | por (f : Fields)
  | hold (f : Fields)
  | reads (f : Fields)
  | delay (f : Fields)
  | repeatTok (f : Fields)
  | add (f : Fields)
  | sub (f : Fields)
  | adds (f : Fields)
  | subs (f : Fields)
  | mul (f : Fields)
  | mulhi (f : Fields)
  | mad (f : Fields)
  | div (f : Fields)
  | rem (f : Fields)
  | min (f : Fields)
  | max (f : Fields)
  | abs (f : Fields)
  | neg (f : Fields)
  | and (f : Fields)
  | or (f : Fields)
  | xor (f : Fields)
  | andn (f : Fields)
  | not (f : Fields)
  | shl (f : Fields)
  | shr (f : Fields)
  | sar (f : Fields)
  | rotl (f : Fields)
  | clz (f : Fields)
  | popc (f : Fields)
  | cmpeq (f : Fields)
  | cmpne (f : Fields)
  | cmplt (f : Fields)
  | cmple (f : Fields)
  | sel (f : Fields)
  | bcast (f : Fields)
  | lane (f : Fields)
  | shuf (f : Fields)
  | pack (f : Fields)
  | unpk (f : Fields)
  | sumr (f : Fields)
  | maxr (f : Fields)
  | minr (f : Fields)
  | index (f : Fields)
  | bittst (f : Fields)
  | fadd (f : Fields)
  | fsub (f : Fields)
  | fmul (f : Fields)
  | ffma (f : Fields)
  | fmin (f : Fields)
  | fmax (f : Fields)
  | fabs (f : Fields)
  | fneg (f : Fields)
  | fcmpeq (f : Fields)
  | fcmplt (f : Fields)
  | fcmple (f : Fields)
  | fcmpun (f : Fields)
  | frcp (f : Fields)
  | frsq (f : Fields)
  | fexp2 (f : Fields)
  | flog2 (f : Fields)
  | ftanh (f : Fields)
  | fsqrt (f : Fields)
  | fdiv (f : Fields)
  | fsumr (f : Fields)
  | fmaxr (f : Fields)
  | fcvt (f : Fields)
  | icvt (f : Fields)
  | fcvti (f : Fields)
  | qnt (f : Fields)
  | dqnt (f : Fields)
  | hads (f : Fields)
  | hadx (f : Fields)
  | fscale (f : Fields)
  | fresc (f : Fields)
  | launch (f : Fields)
  | ctok (f : Fields)
  | census (f : Fields)
  | purge (f : Fields)
  | quota (f : Fields)
  | colget (f : Fields)
  | colset (f : Fields)
  | spanend (f : Fields)
  | ctxnext (f : Fields)
  | yield (f : Fields)
  | horizon (f : Fields)
  | ld (f : Fields)
  | st (f : Fields)
  | ldv (f : Fields)
  | cmst (f : Fields)
  | atadd (f : Fields)
  | atmin (f : Fields)
  | atmax (f : Fields)
  | atand (f : Fields)
  | ator (f : Fields)
  | atxor (f : Fields)
  | atswp (f : Fields)
  | atcas (f : Fields)
  | attsb (f : Fields)
  | mtld (f : Fields)
  | mtst (f : Fields)
  | mttsb (f : Fields)
  | agset (f : Fields)
  | aggo (f : Fields)
  | copy (f : Fields)
  | cpwait (f : Fields)
  | cpptr (f : Fields)
  | order (f : Fields)
  | ownpass (f : Fields)
  | pin (f : Fields)
  | unpin (f : Fields)
  | pref (f : Fields)
  | mfence (f : Fields)
  | mma (f : Fields)
  | mzero (f : Fields)
  | mdrain (f : Fields)
  | mscale (f : Fields)
  | mcode (f : Fields)
  | mepi (f : Fields)
  | mswap (f : Fields)
  | kvpack (f : Fields)
  | kvxlat (f : Fields)
  | massacc (f : Fields)
  | kvevict (f : Fields)
  | kvseqCreate (f : Fields)
  | kvseqAttach (f : Fields)
  | kvseqDetach (f : Fields)
  | kvapp (f : Fields)
  | kvstat (f : Fields)
  | kvdrop (f : Fields)
  | ndecl (f : Fields)
  | nask (f : Fields)
  | nann (f : Fields)
  | ndropDecl (f : Fields)
  | ndropOwn (f : Fields)
  | nstat (f : Fields)
  | trap (f : Fields)
  | brk (f : Fields)
  | fault (f : Fields)
  | mark (f : Fields)
  -- Xwenxus instructions, executed by a control-core hart: rd, rs1, rs2 (R72, R73)
  | wxLaunch (rd rs1 : BitVec 5)
  | wxPushtok (rd rs1 rs2 : BitVec 5)
  | wxPulltok (rd rs1 rs2 : BitVec 5)
  | wxCensus (rd rs1 : BitVec 5)
  | wxPurge (rd rs1 : BitVec 5)
  | wxSpanwait (rd rs1 : BitVec 5)
  | wxSummary (rd rs1 : BitVec 5)
  | wxFreeze (rd rs1 : BitVec 5)
  | wxResume (rd rs1 : BitVec 5)
  -- steps of the machine's other agents
  | tokenArrival (p : Site) (src : Src)
  | readyQueueEntry (p : Site)
  | outputTokenSend (p : Site)
  | entryPortInject (r : Rid) (ax ay : Nat)
  | exitPortAccept (r : Rid) (src : Src) (port : Nat)
  | sweepEnd (r : Rid) (late : List (Src × Nat))
  | stalledColour (r : Rid) (col : BitVec 6)
  | purgeComplete (h : Word32) (col : BitVec 6)
  | contextRetire (r : Rid) (ctx : BitVec 3)
  | autoClose (h : Word32)
  | regionRetire (h : Word32)
  | loadComplete (h : Word32)
  | ctxnextLoadComplete (r : Rid) (ctx : BitVec 3)
  | spanCommit (h : Word32)
  | heldAccessTimeout (id : Nat)
  | memoryRequestAccept (r : Rid) (id : Nat)
  | chainPerform (r : Rid) (id : Nat)
  | pageTableWalk (r : Rid) (id : Nat)
  | homeSliceAccess (r : Rid) (id : Nat)
  | cmstGroupSettle (r : Rid) (id : Nat)
  | windowFill (r : Rid) (tile win : Nat)
  | windowWriteback (r : Rid) (tile win : Nat)
  | generatorAccess (p : Site) (gen : Nat)
  | aggoNestEnd (p : Site) (gen : Nat)
  | bankAccess (p : Site) (bank : Nat)
  | copyTransferStart (p : Site) (ch : Nat)
  | copyPiece (p : Site) (ch : Nat)
  | copyDone (p : Site) (ch : Nat)
  | cpwaitRelease (p : Site) (ch : Nat)
  | mfenceComplete (p : Site)
  | ownpassComplete (p : Site)
  | streamTokenStaging (p : Site) (src : Src)
  | mmaKgroup (p : Site) (row col : Nat)
  | mmaPassComplete (p : Site)
  | mdrainComplete (p : Site)
  | kvevictCompaction (slice : Nat) (seq : Nat)
  | interestArrival (msg : Nat)
  | interestRetry (router : Nat)
  | interestRefresh (msg : Nat)
  | faceExpiry (router entry face : Nat)
  | tileArrival (msg : Nat)
  | negativeAnswerArrival (msg : Nat)
  | answerDelivery (p : Site) (ch : Nat)
  | stationInput (die station input : Nat)
  | flitStationToken (port : Nat) (flit : BitVec 512)
  | flitGalleryInterest (port : Nat) (flit : BitVec 512)
  | flitTileData (port : Nat) (flit : BitVec 512)
  | flitGalleryAnswer (port : Nat) (flit : BitVec 512)
  | flitManagement (port : Nat) (flit : BitVec 512)
  | flitAcknowledge (port : Nat) (flit : BitVec 512)
  | linkRetryTimeout (port : Nat)
  | regionFreeze (h : Word32)
  | snapshotScan (h : Word32)
  | preemptDrain (h : Word32)
  | drainTimeout (h : Word32)
  | regionRestore (h : Word32)
  | sealAdvance (h : Word32)
  | hardwareError (code : BitVec 6) (at' : ErrPlace)
  | packageMachineCheck (code : Cause)
  | frzNAssert (cycles : Nat)
  | packageReset (a b : FlashSlot)
  | throttleEnter (power temp : Nat)
  | thermalTrip (temp : Nat)
  | hartMemoryAccess (hart : Nat) (pa : Nat) (op : BusOp)
  | hostAccess (pa : Nat) (op : HostOp)
  | replayEntry (h : Word32)
  | wxvworldWrite (hart : Nat) (value : Word64)
  | regionPageForeignAccess (a : Accessor) (pa : Nat) (op : BusOp)
  | registerWrite (a : Accessor) (pa : Nat) (size : Nat) (value : Word64)
  | throttleExit (power temp : Nat)
  | droppedFlit (port : Nat) (flit : BitVec 512)
  | illegalInstructionException (w : Word32)
  | wxworldWrite (hart : Nat) (value : Word64)
  -- steps whose object State holds: the placer, the package, the store at a register page, the queued command
  | placementDecision
  | mctpFreeze
  | mctpReset
  | replayStart
  | pkgReleaseSave
  | pkgReleaseDiscard
  | xltInvPage
  | xltInvWorld
  | xltInvAll
  | galCfgWrite
  | wrldSnapszWrite
  | pkgDevidWrite
  | tbCreate
  | tbDestroy
  | tbExtend
  | tbEvidence
  | tbExport
  | tbImport
  | tbRelease
  | tbBadcmd
  deriving DecidableEq, Repr

/-- The instruction of a fabric row with the given fields. -/
def Instr.ofOp : Op → Fields → Instr
  | .nop, f => .nop f
  | .const, f => .const f
  | .mov, f => .mov f
  | .sink, f => .sink f
  | .steer, f => .steer f
  | .gate, f => .gate f
  | .merge, f => .merge f
  | .pick, f => .pick f
  | .lenter, f => .lenter f
  | .lexit, f => .lexit f
  | .wadv, f => .wadv f
  | .tagset, f => .tagset f
  | .tagget, f => .tagget f
  | .alloc, f => .alloc f
  | .release, f => .release f
  | .call, f => .call f
  | .ret, f => .ret f
  | .count, f => .count f
  | .ired, f => .ired f
  | .fred, f => .fred f
  | .pset, f => .pset f
  | .pnot, f => .pnot f
  | .pand, f => .pand f
  | .por, f => .por f
  | .hold, f => .hold f
  | .reads, f => .reads f
  | .delay, f => .delay f
  | .repeatTok, f => .repeatTok f
  | .add, f => .add f
  | .sub, f => .sub f
  | .adds, f => .adds f
  | .subs, f => .subs f
  | .mul, f => .mul f
  | .mulhi, f => .mulhi f
  | .mad, f => .mad f
  | .div, f => .div f
  | .rem, f => .rem f
  | .min, f => .min f
  | .max, f => .max f
  | .abs, f => .abs f
  | .neg, f => .neg f
  | .and, f => .and f
  | .or, f => .or f
  | .xor, f => .xor f
  | .andn, f => .andn f
  | .not, f => .not f
  | .shl, f => .shl f
  | .shr, f => .shr f
  | .sar, f => .sar f
  | .rotl, f => .rotl f
  | .clz, f => .clz f
  | .popc, f => .popc f
  | .cmpeq, f => .cmpeq f
  | .cmpne, f => .cmpne f
  | .cmplt, f => .cmplt f
  | .cmple, f => .cmple f
  | .sel, f => .sel f
  | .bcast, f => .bcast f
  | .lane, f => .lane f
  | .shuf, f => .shuf f
  | .pack, f => .pack f
  | .unpk, f => .unpk f
  | .sumr, f => .sumr f
  | .maxr, f => .maxr f
  | .minr, f => .minr f
  | .index, f => .index f
  | .bittst, f => .bittst f
  | .fadd, f => .fadd f
  | .fsub, f => .fsub f
  | .fmul, f => .fmul f
  | .ffma, f => .ffma f
  | .fmin, f => .fmin f
  | .fmax, f => .fmax f
  | .fabs, f => .fabs f
  | .fneg, f => .fneg f
  | .fcmpeq, f => .fcmpeq f
  | .fcmplt, f => .fcmplt f
  | .fcmple, f => .fcmple f
  | .fcmpun, f => .fcmpun f
  | .frcp, f => .frcp f
  | .frsq, f => .frsq f
  | .fexp2, f => .fexp2 f
  | .flog2, f => .flog2 f
  | .ftanh, f => .ftanh f
  | .fsqrt, f => .fsqrt f
  | .fdiv, f => .fdiv f
  | .fsumr, f => .fsumr f
  | .fmaxr, f => .fmaxr f
  | .fcvt, f => .fcvt f
  | .icvt, f => .icvt f
  | .fcvti, f => .fcvti f
  | .qnt, f => .qnt f
  | .dqnt, f => .dqnt f
  | .hads, f => .hads f
  | .hadx, f => .hadx f
  | .fscale, f => .fscale f
  | .fresc, f => .fresc f
  | .launch, f => .launch f
  | .ctok, f => .ctok f
  | .census, f => .census f
  | .purge, f => .purge f
  | .quota, f => .quota f
  | .colget, f => .colget f
  | .colset, f => .colset f
  | .spanend, f => .spanend f
  | .ctxnext, f => .ctxnext f
  | .yield, f => .yield f
  | .horizon, f => .horizon f
  | .ld, f => .ld f
  | .st, f => .st f
  | .ldv, f => .ldv f
  | .cmst, f => .cmst f
  | .atadd, f => .atadd f
  | .atmin, f => .atmin f
  | .atmax, f => .atmax f
  | .atand, f => .atand f
  | .ator, f => .ator f
  | .atxor, f => .atxor f
  | .atswp, f => .atswp f
  | .atcas, f => .atcas f
  | .attsb, f => .attsb f
  | .mtld, f => .mtld f
  | .mtst, f => .mtst f
  | .mttsb, f => .mttsb f
  | .agset, f => .agset f
  | .aggo, f => .aggo f
  | .copy, f => .copy f
  | .cpwait, f => .cpwait f
  | .cpptr, f => .cpptr f
  | .order, f => .order f
  | .ownpass, f => .ownpass f
  | .pin, f => .pin f
  | .unpin, f => .unpin f
  | .pref, f => .pref f
  | .mfence, f => .mfence f
  | .mma, f => .mma f
  | .mzero, f => .mzero f
  | .mdrain, f => .mdrain f
  | .mscale, f => .mscale f
  | .mcode, f => .mcode f
  | .mepi, f => .mepi f
  | .mswap, f => .mswap f
  | .kvpack, f => .kvpack f
  | .kvxlat, f => .kvxlat f
  | .massacc, f => .massacc f
  | .kvevict, f => .kvevict f
  | .kvseqCreate, f => .kvseqCreate f
  | .kvseqAttach, f => .kvseqAttach f
  | .kvseqDetach, f => .kvseqDetach f
  | .kvapp, f => .kvapp f
  | .kvstat, f => .kvstat f
  | .kvdrop, f => .kvdrop f
  | .ndecl, f => .ndecl f
  | .nask, f => .nask f
  | .nann, f => .nann f
  | .ndropDecl, f => .ndropDecl f
  | .ndropOwn, f => .ndropOwn f
  | .nstat, f => .nstat f
  | .trap, f => .trap f
  | .brk, f => .brk f
  | .fault, f => .fault f
  | .mark, f => .mark f

/-- The fabric row and fields of an instruction that an element issues; none for a hart instruction or an event. -/
def Instr.split : Instr → Option (Op × Fields)
  | .nop f => some (.nop, f)
  | .const f => some (.const, f)
  | .mov f => some (.mov, f)
  | .sink f => some (.sink, f)
  | .steer f => some (.steer, f)
  | .gate f => some (.gate, f)
  | .merge f => some (.merge, f)
  | .pick f => some (.pick, f)
  | .lenter f => some (.lenter, f)
  | .lexit f => some (.lexit, f)
  | .wadv f => some (.wadv, f)
  | .tagset f => some (.tagset, f)
  | .tagget f => some (.tagget, f)
  | .alloc f => some (.alloc, f)
  | .release f => some (.release, f)
  | .call f => some (.call, f)
  | .ret f => some (.ret, f)
  | .count f => some (.count, f)
  | .ired f => some (.ired, f)
  | .fred f => some (.fred, f)
  | .pset f => some (.pset, f)
  | .pnot f => some (.pnot, f)
  | .pand f => some (.pand, f)
  | .por f => some (.por, f)
  | .hold f => some (.hold, f)
  | .reads f => some (.reads, f)
  | .delay f => some (.delay, f)
  | .repeatTok f => some (.repeatTok, f)
  | .add f => some (.add, f)
  | .sub f => some (.sub, f)
  | .adds f => some (.adds, f)
  | .subs f => some (.subs, f)
  | .mul f => some (.mul, f)
  | .mulhi f => some (.mulhi, f)
  | .mad f => some (.mad, f)
  | .div f => some (.div, f)
  | .rem f => some (.rem, f)
  | .min f => some (.min, f)
  | .max f => some (.max, f)
  | .abs f => some (.abs, f)
  | .neg f => some (.neg, f)
  | .and f => some (.and, f)
  | .or f => some (.or, f)
  | .xor f => some (.xor, f)
  | .andn f => some (.andn, f)
  | .not f => some (.not, f)
  | .shl f => some (.shl, f)
  | .shr f => some (.shr, f)
  | .sar f => some (.sar, f)
  | .rotl f => some (.rotl, f)
  | .clz f => some (.clz, f)
  | .popc f => some (.popc, f)
  | .cmpeq f => some (.cmpeq, f)
  | .cmpne f => some (.cmpne, f)
  | .cmplt f => some (.cmplt, f)
  | .cmple f => some (.cmple, f)
  | .sel f => some (.sel, f)
  | .bcast f => some (.bcast, f)
  | .lane f => some (.lane, f)
  | .shuf f => some (.shuf, f)
  | .pack f => some (.pack, f)
  | .unpk f => some (.unpk, f)
  | .sumr f => some (.sumr, f)
  | .maxr f => some (.maxr, f)
  | .minr f => some (.minr, f)
  | .index f => some (.index, f)
  | .bittst f => some (.bittst, f)
  | .fadd f => some (.fadd, f)
  | .fsub f => some (.fsub, f)
  | .fmul f => some (.fmul, f)
  | .ffma f => some (.ffma, f)
  | .fmin f => some (.fmin, f)
  | .fmax f => some (.fmax, f)
  | .fabs f => some (.fabs, f)
  | .fneg f => some (.fneg, f)
  | .fcmpeq f => some (.fcmpeq, f)
  | .fcmplt f => some (.fcmplt, f)
  | .fcmple f => some (.fcmple, f)
  | .fcmpun f => some (.fcmpun, f)
  | .frcp f => some (.frcp, f)
  | .frsq f => some (.frsq, f)
  | .fexp2 f => some (.fexp2, f)
  | .flog2 f => some (.flog2, f)
  | .ftanh f => some (.ftanh, f)
  | .fsqrt f => some (.fsqrt, f)
  | .fdiv f => some (.fdiv, f)
  | .fsumr f => some (.fsumr, f)
  | .fmaxr f => some (.fmaxr, f)
  | .fcvt f => some (.fcvt, f)
  | .icvt f => some (.icvt, f)
  | .fcvti f => some (.fcvti, f)
  | .qnt f => some (.qnt, f)
  | .dqnt f => some (.dqnt, f)
  | .hads f => some (.hads, f)
  | .hadx f => some (.hadx, f)
  | .fscale f => some (.fscale, f)
  | .fresc f => some (.fresc, f)
  | .launch f => some (.launch, f)
  | .ctok f => some (.ctok, f)
  | .census f => some (.census, f)
  | .purge f => some (.purge, f)
  | .quota f => some (.quota, f)
  | .colget f => some (.colget, f)
  | .colset f => some (.colset, f)
  | .spanend f => some (.spanend, f)
  | .ctxnext f => some (.ctxnext, f)
  | .yield f => some (.yield, f)
  | .horizon f => some (.horizon, f)
  | .ld f => some (.ld, f)
  | .st f => some (.st, f)
  | .ldv f => some (.ldv, f)
  | .cmst f => some (.cmst, f)
  | .atadd f => some (.atadd, f)
  | .atmin f => some (.atmin, f)
  | .atmax f => some (.atmax, f)
  | .atand f => some (.atand, f)
  | .ator f => some (.ator, f)
  | .atxor f => some (.atxor, f)
  | .atswp f => some (.atswp, f)
  | .atcas f => some (.atcas, f)
  | .attsb f => some (.attsb, f)
  | .mtld f => some (.mtld, f)
  | .mtst f => some (.mtst, f)
  | .mttsb f => some (.mttsb, f)
  | .agset f => some (.agset, f)
  | .aggo f => some (.aggo, f)
  | .copy f => some (.copy, f)
  | .cpwait f => some (.cpwait, f)
  | .cpptr f => some (.cpptr, f)
  | .order f => some (.order, f)
  | .ownpass f => some (.ownpass, f)
  | .pin f => some (.pin, f)
  | .unpin f => some (.unpin, f)
  | .pref f => some (.pref, f)
  | .mfence f => some (.mfence, f)
  | .mma f => some (.mma, f)
  | .mzero f => some (.mzero, f)
  | .mdrain f => some (.mdrain, f)
  | .mscale f => some (.mscale, f)
  | .mcode f => some (.mcode, f)
  | .mepi f => some (.mepi, f)
  | .mswap f => some (.mswap, f)
  | .kvpack f => some (.kvpack, f)
  | .kvxlat f => some (.kvxlat, f)
  | .massacc f => some (.massacc, f)
  | .kvevict f => some (.kvevict, f)
  | .kvseqCreate f => some (.kvseqCreate, f)
  | .kvseqAttach f => some (.kvseqAttach, f)
  | .kvseqDetach f => some (.kvseqDetach, f)
  | .kvapp f => some (.kvapp, f)
  | .kvstat f => some (.kvstat, f)
  | .kvdrop f => some (.kvdrop, f)
  | .ndecl f => some (.ndecl, f)
  | .nask f => some (.nask, f)
  | .nann f => some (.nann, f)
  | .ndropDecl f => some (.ndropDecl, f)
  | .ndropOwn f => some (.ndropOwn, f)
  | .nstat f => some (.nstat, f)
  | .trap f => some (.trap, f)
  | .brk f => some (.brk, f)
  | .fault f => some (.fault, f)
  | .mark f => some (.mark, f)
  | _ => none

end Sys2Proof
end

