-- ==== Sys2Proof/Config.lean ====
section
/-! DEFINITION. What the spec leaves open and the model leaves free: constants without a body. No proof can see their
values, so a claim holds whatever they are. -/

namespace Sys2Proof.Config

/-- Which of the two neighbours a faithfully rounded F32 result takes, the one away from zero when true: function
number (0 FRCP, 1 FRSQ, 2 FEXP2, 3 FLOG2, 4 FTANH) and the exact operand n / d (R103). DESIGN CHOICE: a free value. -/
opaque faithfulAway : Nat → Int → Nat → Bool

/-- One AES-256 block under a key (R330, R393, R404). The standard is named, not given. DESIGN CHOICE: a free value. -/
opaque aes256 : BitVec 256 → BitVec 128 → BitVec 128

/-- The first 64 bits of the GMAC of SP 800-38D of a message under a key (R330, R393). DESIGN CHOICE: a free value. -/
opaque gmac64 : BitVec 256 → List Byte → BitVec 64

/-- SHAKE256 of a message, its first 512 bits (R406, R408). DESIGN CHOICE: a free value. -/
opaque shake256 : List Byte → BitVec 512

/-- Random 256-bit values of the trust block's generator, by draw number (R406). DESIGN CHOICE: a free value. -/
opaque random256 : Nat → BitVec 256

/-- AES key wrap of bytes under a key (R410, R411). DESIGN CHOICE: a free value. -/
opaque keyWrap : BitVec 256 → List Byte → List Byte

/-- AES key unwrap; none when the check fails (R410, R411). DESIGN CHOICE: a free value. -/
opaque keyUnwrap : BitVec 256 → List Byte → Option (List Byte)

/-- The ML-KEM-768 public key of a private value (R409). DESIGN CHOICE: a free value. -/
opaque kemPublic : BitVec 256 → List Byte

/-- ML-KEM-768 decapsulation: the shared secret (R411). DESIGN CHOICE: a free value. -/
opaque kemDecaps : BitVec 256 → List Byte → List Byte

/-- The ML-DSA-65 public key of the key pair of a secret (R406, R438). DESIGN CHOICE: a free value. -/
opaque dsaPublic : BitVec 512 → List Byte

/-- The ML-DSA-65 signature of a message under the key of a secret (R406, R409). DESIGN CHOICE: a free value. -/
opaque dsaSign : BitVec 512 → List Byte → List Byte

/-- Does ML-DSA-65 accept a signature of a message under a public key (R438)? DESIGN CHOICE: a free value. -/
opaque dsaVerify : List Byte → List Byte → List Byte → Bool

/-- The fused SHAKE256 hash of the vendor key (R438). DESIGN CHOICE: a free value. -/
opaque vendorHash : BitVec 512

/-- The fused minimum security version of each component of a flash slot, 0 to 2 (R438). DESIGN CHOICE: a free value. -/
opaque minVersion : Nat → Nat

/-- The trust block's boot ROM, which DICE layer 0 measures (R406). DESIGN CHOICE: a free value. -/
opaque bootRom : List Byte

/-- The fused device secret (R406). DESIGN CHOICE: a free value. -/
opaque deviceSecret : BitVec 256

/-- The throttle point in units of 0.125 °C (R439). DESIGN CHOICE: a free value. -/
opaque throttlePoint : Nat
/-- The trip point in units of 0.125 °C (R439). DESIGN CHOICE: a free value. -/
opaque tripPoint : Nat

/-- What a load at a register-page offset that holds no readable register returns, by move number and physical address: the
spec gives no value (R445). DESIGN CHOICE: a free value. -/
opaque openRead : Nat → Nat → Word64

/-- The fabric (0), page (1) and capture (2) keys of a world that no CREATE made, world 0 (R406). DESIGN CHOICE: a free value. -/
opaque bootKey : Nat → BitVec 8 → BitVec 256

/-- The RESP of the record of a package freeze: R372 gives it no code of its own (R390). DESIGN CHOICE: a free value. -/
opaque freezeResp : Nat

/-- A byte of a snapshot area whose place R381 gives to state without a layout of its own (engine, generator, channel and port state),
by move number and physical address. DESIGN CHOICE: a free value. -/
opaque snapByte : Nat → Nat → Byte

/-- A byte of a reassembled tile that no flit brought, by move number and offset: R430 counts the flits only. DESIGN CHOICE: a
free value. -/
opaque lostByte : Nat → Nat → Byte

/-- Does the module have a host attach (R436)? DESIGN CHOICE: a free value. -/
opaque hostAttached : Bool

/-- A byte of host memory that the device reads through CXL.cache, by move number and host physical address (R437): host memory
is no part of the package. DESIGN CHOICE: a free value. -/
opaque hostByte : Nat → Nat → Byte

end Sys2Proof.Config
end

