-- ==== Sys2Proof/Machine/Bits.lean ====
section
/-! DEFINITION. Bit fields, sign extension, byte order and lanes (R5, R33, R34), and the codes of the small field types. -/

namespace Sys2Proof.Machine

/-- Bits [lo + len - 1 : lo] of a word (R5). -/
def bitsAt {n : Nat} (w : BitVec n) (lo len : Nat) : BitVec len := w.extractLsb' lo len

/-- Bit i of a word. -/
def bitAt {n : Nat} (w : BitVec n) (i : Nat) : Bool := w.getLsbD i

/-- The word with bits [lo + len - 1 : lo] replaced by v. -/
def setBits {n len : Nat} (w : BitVec n) (lo : Nat) (v : BitVec len) : BitVec n :=
  (w &&& ~~~((BitVec.allOnes len).setWidth n <<< lo)) ||| (v.setWidth n <<< lo)

/-- One bit as a Bool. -/
def b2b (b : Bool) : BitVec 1 := BitVec.ofBool b

/-- A cause code from its class and detail (R8). -/
def mkCause (cls detail : Nat) : Cause := BitVec.ofNat 10 (cls * 64 + detail)

/-- Byte j of a word, least significant byte first (R34, R53). -/
def byteAt {n : Nat} (w : BitVec n) (j : Nat) : Byte := bitsAt w (8 * j) 8

/-- The `len` bytes of a word, least significant first (R34). -/
def toBytes {n : Nat} (w : BitVec n) (len : Nat) : List Byte := (List.range len).map (byteAt w)

/-- Bytes of a number. -/
def leBytes (n v : Nat) : List Byte := toBytes (BitVec.ofNat (8 * n) v) n

/-- The number whose bytes are given least significant first (R34). -/
def bytesToNat : List Byte → Nat
  | [] => 0
  | b :: bs => b.toNat + 256 * bytesToNat bs

/-- The word whose bytes are given least significant first (R34). -/
def ofBytes (n : Nat) (bs : List Byte) : BitVec n := BitVec.ofNat n (bytesToNat bs)

/-- One byte of a CRC-32C (Castagnoli), its bits taken least significant first, the polynomial in that order. -/
def crcByte (c : BitVec 32) (b : Byte) : BitVec 32 :=
  (List.range 8).foldl (fun c _ => if c.getLsbD 0 then (c >>> 1) ^^^ 0x82F63B78 else c >>> 1) (c ^^^ b.setWidth 32)

/-- CRC-32C of bytes in the order in which they are sent: it starts from all ones and is inverted at the end. R429 names the code and
the order of the bytes; the order of the bits, the start and the inversion are the code's usual ones. (PRESUMED, log 45.) -/
def crc32c (bs : List Byte) : BitVec 32 := bs.foldl crcByte 0xFFFFFFFF ^^^ 0xFFFFFFFF

/-- The CRC of a flit over its bits 511:32, byte 63 first (R429). -/
def flitCrc (b : BitVec 480) : BitVec 32 := crc32c (toBytes b 60).reverse

/-- The ET code of an element type (R33). -/
def etCode : ET → BitVec 4
  | .i8 => 0 | .n8 => 1 | .i16 => 2 | .n16 => 3 | .i32 => 4 | .n32 => 5 | .i64 => 6 | .cf8 => 7
  | .f8e4 => 8 | .f8e5 => 9 | .f16 => 10 | .bf16 => 11 | .f32 => 12 | .i4 => 13 | .n4 => 14 | .lut4 => 15

/-- The element type of an ET code (R33). -/
def etOfCode (c : BitVec 4) : ET :=
  match c.toNat with
  | 0 => .i8 | 1 => .n8 | 2 => .i16 | 3 => .n16 | 4 => .i32 | 5 => .n32 | 6 => .i64 | 7 => .cf8
  | 8 => .f8e4 | 9 => .f8e5 | 10 => .f16 | 11 => .bf16 | 12 => .f32 | 13 => .i4 | 14 => .n4 | _ => .lut4

/-- Lane width in bits (R33); CF8 has no lanes and is given 8, the width of what it decodes to. -/
def etWidth : ET → Nat
  | .i8 | .n8 | .cf8 | .f8e4 | .f8e5 => 8
  | .i16 | .n16 | .f16 | .bf16 => 16
  | .i32 | .n32 | .f32 => 32
  | .i64 => 64
  | .i4 | .n4 | .lut4 => 4

/-- Lanes per payload (R33). -/
def etLanes (t : ET) : Nat := 256 / etWidth t

/-- The two's complement types (R33). -/
def etSigned : ET → Bool
  | .i8 | .i16 | .i32 | .i64 | .i4 => true
  | _ => false

/-- The floating types (R33). -/
def etIsFloat : ET → Bool
  | .f8e4 | .f8e5 | .f16 | .bf16 | .f32 => true
  | _ => false

/-- The AR code of an arity (R19). -/
def arCode : Arity → BitVec 2
  | .trigger => 0 | .monadic => 1 | .dyadic => 2 | .predicated => 3

/-- The arity of an AR code (R19). -/
def arOfCode (c : BitVec 2) : Arity :=
  match c.toNat with
  | 0 => .trigger | 1 => .monadic | 2 => .dyadic | _ => .predicated

/-- Lane i of a payload for lanes of w bits, as an unsigned number (R34). -/
def laneU (w : Nat) (p : Payload) (i : Nat) : Nat := (p.toNat >>> (w * i)) % 2 ^ w

/-- A w-bit number read in two's complement. -/
def toSigned (w : Nat) (v : Nat) : Int := if v < 2 ^ (w - 1) then (v : Int) else (v : Int) - (2 : Int) ^ w

/-- The w-bit two's complement of an integer (R35). -/
def wrapTo (w : Nat) (x : Int) : Nat := (x % ((2 : Int) ^ w)).toNat

/-- Lane i as the integer its type reads it as (R33). -/
def laneInt (t : ET) (p : Payload) (i : Nat) : Int :=
  if etSigned t then toSigned (etWidth t) (laneU (etWidth t) p i) else laneU (etWidth t) p i

/-- The number with the given w-bit lanes, lane 0 lowest. -/
def packNat (w : Nat) : List Nat → Nat
  | [] => 0
  | v :: vs => v % 2 ^ w + 2 ^ w * packNat w vs

/-- The payload with the given w-bit lanes, lane 0 first (R34). -/
def packLanes (w : Nat) (ls : List Nat) : Payload := BitVec.ofNat 256 (packNat w ls)

/-- The lanes of a payload, lane 0 first (R34). -/
def lanesOf (w : Nat) (p : Payload) : List Nat := (List.range (256 / w)).map (laneU w p)

/-- A payload with one number in lane 0 and zero elsewhere. -/
def lane0 (v : Nat) : Payload := BitVec.ofNat 256 v

end Sys2Proof.Machine
end

