-- ==== Sys2Proof/Machine/Num.lean ====
section
/-! DEFINITION. Exact values, floating formats and the one rounder (R37 to R45): a lane is decoded to an exact rational,
the result is formed exactly and rounded once. -/

namespace Sys2Proof.Machine

/-- An exact value: NaN, an infinity, a signed zero, or the nonzero rational n / d with d > 0 (R37, R38). -/
inductive XVal where
  | nan
  | inf (neg : Bool)
  | zero (neg : Bool)
  | num (n : Int) (d : Nat)
  deriving DecidableEq, Repr

/-- A floating format: total width, mantissa bits, bias, whether it has infinities, the code of its largest finite
magnitude, and its canonical NaN (R37). -/
structure FFmt where
  w : Nat
  m : Nat
  bias : Nat
  hasInf : Bool
  maxCode : Nat
  nan : Nat
  deriving DecidableEq, Repr

/-- The floating formats (R37); the integer types are given F32's, which nothing uses. -/
def fmtOf : ET → FFmt
  | .bf16 => ⟨16, 7, 127, true, 0x7F7F, 0x7FC0⟩
  | .f16 => ⟨16, 10, 15, true, 0x7BFF, 0x7E00⟩
  | .f8e4 | .cf8 => ⟨8, 3, 7, false, 0x7E, 0x7F⟩
  | .f8e5 => ⟨8, 2, 15, true, 0x7B, 0x7E⟩
  | _ => ⟨32, 23, 127, true, 0x7F7FFFFF, 0x7FC00000⟩

/-- The exact value of m * 2^e. -/
def XVal.dyadic (neg : Bool) (m : Nat) (e : Int) : XVal :=
  if m = 0 then .zero neg
  else
    let s : Int := if neg then -1 else 1
    if 0 ≤ e then .num (s * (m * 2 ^ e.toNat : Nat)) 1 else .num (s * m) (2 ^ (-e).toNat)

/-- The exact value of an integer; zero is +0. -/
def XVal.ofInt (x : Int) : XVal := if x = 0 then .zero false else .num x 1

/-- Decode a lane (R37). -/
def fdecode (t : ET) (c : Nat) : XVal :=
  let F := fmtOf t
  let neg := c / 2 ^ (F.w - 1) % 2 = 1
  let mag := c % 2 ^ (F.w - 1)
  let e := mag / 2 ^ F.m
  let m := mag % 2 ^ F.m
  if F.hasInf then
    if mag > F.maxCode then (if mag = F.maxCode + 1 then .inf neg else .nan)
    else if e = 0 then .dyadic neg m (1 - (F.bias : Int) - F.m) else .dyadic neg (2 ^ F.m + m) ((e : Int) - F.bias - F.m)
  else if mag > F.maxCode then .nan
  else if e = 0 then .dyadic neg m (1 - (F.bias : Int) - F.m) else .dyadic neg (2 ^ F.m + m) ((e : Int) - F.bias - F.m)

/-- Is the value negative, zeros by their sign. -/
def XVal.isNeg : XVal → Bool
  | .nan => false
  | .inf b => b
  | .zero b => b
  | .num n _ => decide (n < 0)

/-- Is the value NaN. -/
def XVal.isNan : XVal → Bool
  | .nan => true
  | _ => false

/-- The value with the other sign. -/
def XVal.neg : XVal → XVal
  | .nan => .nan
  | .inf b => .inf (!b)
  | .zero b => .zero (!b)
  | .num n d => .num (-n) d

/-- The exact sum; `rdn` says whether the rounding mode is RDN, which decides the sign of a zero sum (R38). -/
def XVal.add (rdn : Bool) : XVal → XVal → XVal
  | .nan, _ | _, .nan => .nan
  | .inf a, .inf b => if a == b then .inf a else .nan
  | .inf a, _ => .inf a
  | _, .inf b => .inf b
  | .zero a, .zero b => if a == b then .zero a else .zero rdn
  | .zero _, y => y
  | x, .zero _ => x
  | .num n d, .num k e => let s := n * e + k * d
                          if s = 0 then .zero rdn else .num s (d * e)

/-- The exact product (R38). -/
def XVal.mul : XVal → XVal → XVal
  | .nan, _ | _, .nan => .nan
  | .inf _, .zero _ | .zero _, .inf _ => .nan
  | .num n d, .num k e => .num (n * k) (d * e)
  | .inf a, y => .inf (a != y.isNeg)
  | .zero a, y => .zero (a != y.isNeg)
  | x, .inf b => .inf (x.isNeg != b)
  | x, .zero b => .zero (x.isNeg != b)

/-- The exact quotient; a finite nonzero value over zero is infinite (R38). -/
def XVal.div : XVal → XVal → XVal
  | .nan, _ | _, .nan => .nan
  | .inf _, .inf _ | .zero _, .zero _ => .nan
  | .inf a, y => .inf (a != y.isNeg)
  | .zero a, y => .zero (a != y.isNeg)
  | x, .inf b => .zero (x.isNeg != b)
  | x, .zero b => .inf (x.isNeg != b)
  | .num n d, .num k e => .num (n * e * k.sign) (d * k.natAbs)

/-- x < y on numbers, zeros equal (R101). -/
def XVal.lt : XVal → XVal → Bool
  | .nan, _ | _, .nan => false
  | .inf a, .inf b => a && !b
  | .inf a, _ => a
  | _, .inf b => !b
  | .zero _, .zero _ => false
  | .zero _, .num k _ => decide (0 < k)
  | .num n _, .zero _ => decide (n < 0)
  | .num n d, .num k e => decide (n * e < k * d)

/-- x = y on numbers, zeros equal (R101). -/
def XVal.eqv (x y : XVal) : Bool := !x.isNan && !y.isNan && !x.lt y && !y.lt x

/-- The order of the minimum and maximum operations, −0 below +0 (R38). -/
def XVal.ltZ (x y : XVal) : Bool :=
  match x, y with
  | .zero a, .zero b => a && !b
  | _, _ => x.lt y

/-- ⌊log₂ (n / d)⌋ for n, d > 0. -/
def ilog2 (n d : Nat) : Int :=
  let k : Int := (Nat.log2 n : Int) - Nat.log2 d
  let below : Bool := if 0 ≤ k then decide (n < d * 2 ^ k.toNat) else decide (n * 2 ^ (-k).toNat < d)
  if below then k - 1 else k

/-- (n / d) / 2^q as a fraction. -/
def unscale (n d : Nat) (q : Int) : Nat × Nat :=
  if 0 ≤ q then (n, d * 2 ^ q.toNat) else (n * 2 ^ (-q).toNat, d)

/-- Does a magnitude `lo + rem / D` quanta round away from zero (R40, R44). `xs` is the stepped generator, read in mode 4. -/
def roundsAway (rnd : BitVec 3) (neg : Bool) (lo rem D : Nat) (xs : Word32) : Bool :=
  if rem = 0 then false
  else
    match rnd.toNat with
    | 0 => decide (2 * rem > D) || (decide (2 * rem = D) && decide (lo % 2 = 1))
    | 1 => false
    | 2 => neg
    | 3 => !neg
    | _ => decide (rem * 2 ^ 32 > xs.toNat * D)

/-- The magnitude code of n / d in a format with unbounded exponent, rounded (R42). -/
def magCode (F : FFmt) (rnd : BitVec 3) (neg : Bool) (n d : Nat) (xs : Word32) : Nat :=
  let emin : Int := 1 - (F.bias : Int)
  let e := ilog2 n d
  let q := (if e < emin then emin else e) - F.m
  let nd := unscale n d q
  let lo := nd.1 / nd.2
  let r := if roundsAway rnd neg lo (nd.1 % nd.2) nd.2 xs then lo + 1 else lo
  (q - (emin - F.m)).toNat * 2 ^ F.m + r

/-- A code with its sign. -/
def signed (F : FFmt) (neg : Bool) (mag : Nat) : Nat := if neg then 2 ^ (F.w - 1) + mag else mag

/-- The overflow rule (R42). -/
def overflowCode (F : FFmt) (rnd : BitVec 3) (sat neg : Bool) : Nat :=
  if sat then signed F neg F.maxCode
  else if !F.hasInf then F.nan
  else
    match rnd.toNat with
    | 1 => signed F neg F.maxCode
    | 2 => if neg then signed F neg (F.maxCode + 1) else F.maxCode
    | 3 => if neg then signed F neg F.maxCode else F.maxCode + 1
    | _ => signed F neg (F.maxCode + 1)

/-- An infinite exact result: kept where the format has infinities (R38); in F8E4 the overflow rule. `conv` says that
the instruction is a conversion, which SAT turns into the largest finite value (R42), also where R108 has the result equal the operand. (DESIGN CHOICE,
log 58.) -/
def infCode (F : FFmt) (sat conv neg : Bool) : Nat :=
  if F.hasInf && !(sat && conv) then signed F neg (F.maxCode + 1)
  else if sat then signed F neg F.maxCode else F.nan

/-- Round an exact value to a floating type: the one rounder (R40, R42). -/
def froundX (t : ET) (rnd : BitVec 3) (sat conv : Bool) (xs : Word32) (x : XVal) : Nat :=
  let F := fmtOf t
  match x with
  | .nan => F.nan
  | .inf b => infCode F sat conv b
  | .zero b => signed F b 0
  | .num n d =>
    let neg := decide (n < 0)
    let c := magCode F rnd neg n.natAbs d xs
    if c > F.maxCode then overflowCode F rnd sat neg else signed F neg c

/-- Round an arithmetic result (modes 0 to 3). -/
def fround (t : ET) (rnd : BitVec 3) (sat : Bool) (x : XVal) : Nat := froundX t rnd sat false 0 x

/-- The least and greatest value of an integer type (R33). -/
def etMin (t : ET) : Int := if etSigned t then -(2 : Int) ^ (etWidth t - 1) else 0
/-- The greatest value of an integer type (R33). -/
def etMax (t : ET) : Int := if etSigned t then (2 : Int) ^ (etWidth t - 1) - 1 else (2 : Int) ^ etWidth t - 1

/-- The nearer bound for a value outside the range (R35). -/
def clampTo (t : ET) (x : Int) : Int := if x < etMin t then etMin t else if etMax t < x then etMax t else x

/-- Fit an exact integer into a lane (R35). -/
def fitInt (t : ET) (sat : Bool) (x : Int) : Nat := wrapTo (etWidth t) (if sat then clampTo t x else x)

/-- Round an exact value to an integer type: NaN gives 0, outside values the nearer bound (R40, R42). -/
def iroundX (t : ET) (rnd : BitVec 3) (xs : Word32) (x : XVal) : Nat :=
  match x with
  | .nan => 0
  | .inf b => wrapTo (etWidth t) (if b then etMin t else etMax t)
  | .zero _ => 0
  | .num n d =>
    let neg := decide (n < 0)
    let lo := n.natAbs / d
    let r := if roundsAway rnd neg lo (n.natAbs % d) d xs then lo + 1 else lo
    wrapTo (etWidth t) (clampTo t (if neg then -(r : Int) else r))

/-- One step of the stochastic generator (R44). -/
def xsStep (x : Word32) : Word32 :=
  let a := x ^^^ (x <<< 13)
  let b := a ^^^ (a >>> 17)
  b ^^^ (b <<< 5)

/-- The value of an E8M0 scale (R45). -/
def e8m0 (c : Nat) : XVal := if c = 0xFF then .nan else .dyadic false 1 ((c : Int) - 127)

/-- Integer square root by bits, from bit `k - 1` down. -/
def isqrtGo (n : Nat) : Nat → Nat → Nat
  | 0, r => r
  | k + 1, r => let r' := r + 2 ^ k
                isqrtGo n k (if r' * r' ≤ n then r' else r)

/-- The integer square root of n < 4^k. -/
def isqrt (k n : Nat) : Nat := isqrtGo n k 0

/-- A rational with the same rounding as √(n / d) in every format of R37: the root itself where it is a multiple of
2^-j, else the midpoint of the interval of that width around it. -/
def sqrtVal (n d : Nat) : XVal :=
  let j := 300
  let v := n * 2 ^ (2 * j) / d
  let exact := decide (n * 2 ^ (2 * j) % d = 0)
  let r := isqrt 700 v
  if exact && decide (r * r = v) then .num (r : Nat) (2 ^ j) else .num ((2 * r + 1 : Nat) : Int) (2 ^ (j + 1))

/-- The exact square root where rounding allows it (R38, R102). -/
def XVal.sqrt : XVal → XVal
  | .nan => .nan
  | .inf false => .inf false
  | .inf true => .nan
  | .zero b => .zero b
  | .num n d => if n < 0 then .nan else sqrtVal n.natAbs d

end Sys2Proof.Machine
end

