-- ==== Sys2Proof/Machine/Approx.lean ====
section
/-! DEFINITION. The approximate functions FRCP, FRSQ, FEXP2, FLOG2 and FTANH (R103): a rational within 2^-200 of the
function value, rounded RNE for BF16 and faithfully for F32. Exact cases are exact rationals. -/

namespace Sys2Proof.Machine

/-- Fixed-point precision of the series, in bits. -/
def apxBits : Nat := 256

/-- ⌊ln 2 · 2^256⌋. -/
def ln2Fix : Nat := 80260960185991308862233904206310070533990667611589946606122867505419956976171

/-- Σ y^k / k! by fixed-point terms: `t` is the current term, `k` its index. -/
def expSeries (y : Nat) : Nat → Nat → Nat → Nat → Nat
  | 0, _, _, acc => acc
  | fuel + 1, k, t, acc => expSeries y fuel (k + 1) (t * y / 2 ^ apxBits / (k + 1)) (acc + t)

/-- 2^f · 2^256 for a fixed-point f in [0, 1). -/
def exp2Frac (f : Nat) : Nat := expSeries (f * ln2Fix / 2 ^ apxBits) 64 0 (2 ^ apxBits) 0

/-- Σ z^(2k+1) / (2k+1) by fixed-point terms: `t` is the current power of z. -/
def atanhSeries (z2 : Nat) : Nat → Nat → Nat → Nat → Nat
  | 0, _, _, acc => acc
  | fuel + 1, k, t, acc => atanhSeries z2 fuel (k + 1) (t * z2 / 2 ^ apxBits) (acc + t / (2 * k + 1))

/-- 2^(n / d), exact for an integer exponent; a value with the same rounding for exponents beyond every format. -/
def exp2Val (n : Int) (d : Nat) : XVal :=
  let k := Int.fdiv n d
  let r := (Int.fmod n d).toNat
  if k ≥ 400 then .dyadic false 1 400
  else if k < -400 then .dyadic false 1 (-400)
  else if r = 0 then .dyadic false 1 k
  else if n.natAbs * 2 ^ 100 < d then .num (2 * d + n) (2 * d)
  else .dyadic false (exp2Frac (r * 2 ^ apxBits / d)) (k - apxBits)

/-- log₂ (n / d) for n, d > 0, exact for a power of two. -/
def log2Val (n d : Nat) : XVal :=
  let e := ilog2 n d
  let nd := unscale n d e
  if nd.1 = nd.2 then .ofInt e
  else
    let z := (nd.1 - nd.2) * 2 ^ apxBits / (nd.1 + nd.2)
    let l := 2 * atanhSeries (z * z / 2 ^ apxBits) 90 0 z 0 * 2 ^ apxBits / ln2Fix
    .num (e * (2 ^ apxBits : Nat) + (l : Int)) (2 ^ apxBits)

/-- tanh (n / d) for n / d > 0. -/
def tanhPos (n d : Nat) : XVal :=
  if 32 * d ≤ n then .num ((2 ^ 60 - 1 : Nat) : Int) (2 ^ 60)
  else if n * 2 ^ 40 < d then .num (3 * n * d ^ 2 - n ^ 3 : Nat) (3 * d ^ 3)
  else
    let y := 2 * n * 2 ^ apxBits * 2 ^ apxBits / d / ln2Fix
    let k := y / 2 ^ apxBits
    let E := exp2Frac (y % 2 ^ apxBits) * 2 ^ k
    .num ((E - 2 ^ apxBits : Nat) : Int) (E + 2 ^ apxBits)

/-- The function value, with the special operands of R103. -/
def XVal.rcp : XVal → XVal
  | .nan => .nan
  | .inf b => .zero b
  | .zero b => .inf b
  | .num n d => .num (d * n.sign) n.natAbs

/-- The reciprocal square root (R103). -/
def XVal.rsq : XVal → XVal
  | .nan => .nan
  | .inf b => if b then .nan else .zero false
  | .zero b => .inf b
  | .num n d => if n < 0 then .nan else sqrtVal d n.natAbs

/-- The base-2 exponential (R103). -/
def XVal.exp2 : XVal → XVal
  | .nan => .nan
  | .inf b => if b then .zero false else .inf false
  | .zero _ => .num 1 1
  | .num n d => exp2Val n d

/-- The base-2 logarithm (R103). -/
def XVal.log2 : XVal → XVal
  | .nan => .nan
  | .inf b => if b then .nan else .inf false
  | .zero _ => .inf true
  | .num n d => if n < 0 then .nan else log2Val n.natAbs d

/-- The hyperbolic tangent (R103). -/
def XVal.tanh : XVal → XVal
  | .nan => .nan
  | .inf b => .num (if b then -1 else 1) 1
  | .zero b => .zero b
  | .num n d => if n < 0 then (tanhPos n.natAbs d).neg else tanhPos n.natAbs d

/-- Round faithfully to F32: exact where representable, else a neighbour that the free value picks; overflow as R42.
(DESIGN CHOICE, log 9.) -/
def faithful (fn : Nat) (sat : Bool) (x v : XVal) : Nat :=
  match x, v with
  | .num xn xd, .num n d =>
    let F := fmtOf .f32
    let neg := decide (n < 0)
    let lo := magCode F 1 neg n.natAbs d 0
    let hi := magCode F (if neg then 2 else 3) neg n.natAbs d 0
    let c := if lo = hi then lo else if Config.faithfulAway fn xn xd then hi else lo
    if c > F.maxCode then overflowCode F 0 sat neg else signed F neg c
  | _, _ => froundX .f32 0 sat false 0 v

/-- An approximate function of one lane (R103). -/
def approx (fn : Nat) (t : ET) (sat : Bool) (g : XVal → XVal) (c : Nat) : Nat :=
  let x := fdecode t c
  if t = .f32 then faithful fn sat x (g x) else froundX t 0 sat false 0 (g x)

end Sys2Proof.Machine
end

