-- ==== Sys2Proof/Machine/Flags.lean ====
section
/-! DEFINITION. The operands of a firing by lane, lane predication (R21, R81), and every flag an instruction computes: the
predicate results (R83), the overflow flags of ADDS and SUBS (R88) and the divide-by-zero predicate (R36). -/

namespace Sys2Proof.Machine

/-- The operands of one firing (R80): a, b and c, the predicate token, whether it predicates lanes (R81), the element's
generator (R44) and codebook (R46). -/
structure Opnds where
  a : Payload
  b : Payload
  c : Payload
  p : Payload
  pOn : Bool
  xs : Word32
  cbk : Payload
  deriving DecidableEq, Repr

/-- The truth value of lane i of a predicate payload, after PINV (R21). -/
def predLane (w : Nat) (pinv : Bool) (p : Payload) (i : Nat) : Bool := (laneU w p i % 2 == 1) != pinv

/-- Does lane i compute (R81). -/
def laneOn (f : Fields) (x : Opnds) (i : Nat) : Bool := !x.pOn || predLane (etWidth f.et) f.pinv x.p i

/-- A predicate result lane by lane; a lane predicated false is 0 (R81, R83). -/
def predResult (f : Fields) (x : Opnds) (g : Nat → Bool) : Payload :=
  packLanes (etWidth f.et) ((List.range (etLanes f.et)).map fun i => if laneOn f x i && g i then 1 else 0)

/-- Lane i of a, b or c as its type's integer (R86). -/
def ia (f : Fields) (x : Opnds) (i : Nat) : Int := laneInt f.et x.a i
/-- Lane i of b as its type's integer (R86). -/
def ib (f : Fields) (x : Opnds) (i : Nat) : Int := laneInt f.et x.b i
/-- Lane i of c as its type's integer (R87). -/
def ic (f : Fields) (x : Opnds) (i : Nat) : Int := laneInt f.et x.c i
/-- Lane i of a, unsigned. -/
def ua (f : Fields) (x : Opnds) (i : Nat) : Nat := laneU (etWidth f.et) x.a i
/-- Lane i of b, unsigned. -/
def ub (f : Fields) (x : Opnds) (i : Nat) : Nat := laneU (etWidth f.et) x.b i

/-- The overflow flags of ADDS and SUBS (R88). -/
def rangeFlags (f : Fields) (x : Opnds) (g : Nat → Int) : Payload :=
  predResult f x fun i => decide (g i < etMin f.et) || decide (etMax f.et < g i)

/-- The divide-by-zero predicate (R36). -/
def zeroDivFlags (f : Fields) (x : Opnds) : Payload := predResult f x fun i => ub f x i == 0

end Sys2Proof.Machine
end

