-- ==== Sys2Proof/Machine/Arith.lean ====
section
/-! DEFINITION. What the integer, floating-point and conversion instructions compute from their operands (R80 to R113),
as functions of payloads. Firing and sending stand in Machine/Fire.lean. -/

namespace Sys2Proof.Machine

/-- A data result lane by lane; a lane predicated false is a[i] (R81). -/
def laneResult (f : Fields) (x : Opnds) (g : Nat → Nat) : Payload :=
  let w := etWidth f.et
  packLanes w ((List.range (etLanes f.et)).map fun i => if laneOn f x i then g i else laneU w x.a i)

/-- A result fitted from an exact integer per lane (R35, R86). -/
def intResult (f : Fields) (x : Opnds) (g : Nat → Int) : Payload := laneResult f x fun i => fitInt f.et f.sat (g i)

/-- The quotient of one lane (R36). -/
def divLane (t : ET) (sat : Bool) (a b : Int) : Int :=
  if b = 0 then (if a < 0 then etMin t else etMax t)
  else if etSigned t && decide (a = etMin t) && decide (b = -1) then (if sat then etMax t else etMin t)
  else Int.tdiv a b

/-- The remainder of one lane (R36). -/
def remLane (t : ET) (a b : Int) : Int :=
  if b = 0 then a
  else if etSigned t && decide (a = etMin t) && decide (b = -1) then 0
  else Int.tmod a b

/-- A bitwise result (R90). -/
def bitResult (f : Fields) (x : Opnds) (v : Payload) : Payload := laneResult f x fun i => laneU (etWidth f.et) v i

/-- One lane of SHL (R91). -/
def shlLane (t : ET) (sat : Bool) (a : Int) (m : Nat) : Nat :=
  if m < etWidth t then fitInt t sat (a * (2 : Int) ^ m)
  else if sat && decide (a ≠ 0) then wrapTo (etWidth t) (if a < 0 then etMin t else etMax t)
  else 0

/-- One lane of SHR (R91). -/
def shrLane (w a m : Nat) : Nat := if m < w then a >>> m else 0

/-- One lane of SAR (R91). -/
def sarLane (w a m : Nat) : Nat :=
  wrapTo w (if m < w then Int.fdiv (toSigned w a) ((2 : Int) ^ m) else if 2 ^ (w - 1) ≤ a then -1 else 0)

/-- One lane of ROTL (R91). -/
def rotlLane (w a m : Nat) : Nat := let k := m % w
                                    a * 2 ^ k % 2 ^ w + a / 2 ^ (w - k)

/-- Number of zero bits above the highest one (R92). -/
def clzLane (w a : Nat) : Nat := if a = 0 then w else w - 1 - Nat.log2 a

/-- Number of one bits (R92). -/
def popcLane (w a : Nat) : Nat := ((List.range w).filter fun j => a.testBit j).length

/-- PACK's lanes (R95). -/
def packResult (f : Fields) (x : Opnds) : Payload :=
  let src := etOfCode (bitsAt f.mod 0 4)
  let h := etLanes f.et / 2
  intResult f x fun i => if i < h then laneInt src x.a i else laneInt src x.b (i - h)

/-- UNPK's lanes (R96). -/
def unpkResult (f : Fields) (x : Opnds) : Payload :=
  let src := etOfCode (bitsAt f.mod 0 4)
  let h := (bitsAt f.xmod 0 1).toNat
  laneResult f x fun i => wrapTo (etWidth f.et) (laneInt src x.a (h * etLanes f.et + i))

/-- The integer lanes of a. -/
def intLanes (f : Fields) (x : Opnds) : List Int := (List.range (etLanes f.et)).map (ia f x)

/-- The exact sum of a list. -/
def sumInt : List Int → Int
  | [] => 0
  | v :: vs => v + sumInt vs

/-- The largest element of a nonempty list, from a start value. -/
def maxInt (v : Int) : List Int → Int
  | [] => v
  | u :: us => maxInt (if v < u then u else v) us

/-- The smallest element. -/
def minInt (v : Int) : List Int → Int
  | [] => v
  | u :: us => minInt (if u < v then u else v) us

/-- The lowest position of a value in a list. -/
def firstIdx (v : Int) : List Int → Nat
  | [] => 0
  | u :: us => if u = v then 0 else firstIdx v us + 1

/-- A result in lane 0, zero elsewhere, of an exact integer (R97). -/
def lane0Int (f : Fields) (v : Int) : Payload := lane0 (fitInt f.et f.sat v)

/-- INDEX (R97). -/
def indexResult (f : Fields) (x : Opnds) : Payload :=
  let ls := intLanes f x
  let v := if bitAt f.mod 0 then minInt (ia f x 0) ls else maxInt (ia f x 0) ls
  lane0Int f (firstIdx v ls)

/-- Lane i of a floating operand. -/
def fa (f : Fields) (x : Opnds) (i : Nat) : XVal := fdecode f.et (ua f x i)
/-- Lane i of floating b. -/
def fb (f : Fields) (x : Opnds) (i : Nat) : XVal := fdecode f.et (ub f x i)
/-- Lane i of floating c. -/
def fc (f : Fields) (x : Opnds) (i : Nat) : XVal := fdecode f.et (laneU (etWidth f.et) x.c i)

/-- Is the rounding mode RDN. -/
def isRdn (f : Fields) : Bool := f.rnd == 2

/-- A floating result rounded once per lane (R99). -/
def floatResult (f : Fields) (x : Opnds) (g : Nat → XVal) : Payload :=
  laneResult f x fun i => fround f.et f.rnd f.sat (g i)

/-- FMIN and FMAX of two codes, `mx` for the larger (R38, R100). -/
def fminmax (t : ET) (mx : Bool) (a b : Nat) : Nat :=
  let x := fdecode t a
  let y := fdecode t b
  if x.isNan && y.isNan then (fmtOf t).nan
  else if x.isNan then b
  else if y.isNan then a
  else if x.ltZ y then (if mx then b else a) else (if mx then a else b)

/-- FABS and FNEG of one code (R100). -/
def fsign (t : ET) (flip : Bool) (a : Nat) : Nat :=
  let F := fmtOf t
  let top := 2 ^ (F.w - 1)
  if (fdecode t a).isNan then F.nan
  else if flip then (if a < top then a + top else a - top) else a % top

/-- A pairwise tree over a list whose length is a power of two (R50). -/
def treeFold {α : Type} (g : α → α → α) (d : α) : Nat → List α → α
  | 0, _ => d
  | _ + 1, [v] => v
  | n + 1, ls =>
    let rec pairs : List α → List α
      | u :: v :: rest => g u v :: pairs rest
      | [u] => [u]
      | [] => []
    treeFold g d n (pairs ls)

/-- Rounded addition of two codes (R50). -/
def faddCode (t : ET) (rnd : BitVec 3) (sat : Bool) (a b : Nat) : Nat :=
  fround t rnd sat ((fdecode t a).add (rnd == 2) (fdecode t b))

/-- FSUMR (R104). -/
def fsumrResult (f : Fields) (x : Opnds) : Payload :=
  lane0 (treeFold (faddCode f.et f.rnd f.sat) 0 8 ((List.range (etLanes f.et)).map (ua f x)))

/-- FMAXR (R104). -/
def fmaxrResult (f : Fields) (x : Opnds) : Payload :=
  lane0 (treeFold (fminmax f.et true) 0 8 ((List.range (etLanes f.et)).map (ua f x)))

/-- FSCALE of one lane (R105). -/
def fscaleVal (w : Nat) (v : XVal) (b : Nat) : XVal :=
  let m := toSigned w b
  let k : Int := if m > 2000 then 2000 else if m < -2000 then -2000 else m
  v.mul (.dyadic false 1 k)

/-- FRESC's second result, one lane (R106). -/
def frescLane (a b : Nat) : Nat :=
  let x := fdecode .f32 a
  let y := fdecode .f32 b
  let m := fdecode .f32 (fminmax .f32 true a b)
  if x.isNan || y.isNan then (fmtOf .f32).nan
  else if x.eqv m then 0x3F800000
  else let d := x.add false m.neg
       faithful 2 false d d.exp2

/-- The result lanes that a conversion writes, with the source lane of each, in ascending result order (R107). -/
def convLanes (ns nr q : Nat) : List (Nat × Nat) :=
  if nr > ns then (List.range ns).map fun i => (q * ns + i, i)
  else if nr < ns then (List.range nr).map fun i => (i, q * nr + i)
  else (List.range nr).map fun i => (i, i)

/-- Run a conversion over its lanes, stepping the generator once per written lane in mode 4 (R44, R107): the lanes
written, with their codes, and the generator after. -/
def convGo (rnd : BitVec 3) (g : Nat → Nat → Word32 → Nat) : List (Nat × Nat) → Word32 → List (Nat × Nat) × Word32
  | [], xs => ([], xs)
  | (j, i) :: rest, xs =>
    let xs' := if rnd == 4 then xsStep xs else xs
    let r := convGo rnd g rest xs'
    ((j, g j i xs') :: r.1, r.2)

/-- The value at key j of a list of pairs, 0 without one. -/
def valAt (j : Nat) : List (Nat × Nat) → Nat
  | [] => 0
  | (k, v) :: rest => if k = j then v else valAt j rest

/-- A conversion's result and the generator after it (R107). -/
def convResult (f : Fields) (src : ET) (q : Nat) (x : Opnds) (g : Nat → Nat → Word32 → Nat) : Payload × Word32 :=
  let r := convGo f.rnd g (convLanes (etLanes src) (etLanes f.et) q) x.xs
  (packLanes (etWidth f.et) ((List.range (etLanes f.et)).map fun j => valAt j r.1), r.2)

/-- The source type of a conversion (R108). -/
def convSrc (f : Fields) : ET := etOfCode (bitsAt f.mod 0 4)
/-- The quarter of a conversion (R107). -/
def convQ (f : Fields) : Nat := (bitsAt f.xmod 0 3).toNat

/-- FCVT (R108). -/
def fcvtResult (f : Fields) (x : Opnds) : Payload × Word32 :=
  let src := convSrc f
  convResult f src (convQ f) x fun _ i xs =>
    froundX f.et f.rnd f.sat true xs (fdecode src (laneU (etWidth src) x.a i))

/-- ICVT (R108). -/
def icvtResult (f : Fields) (x : Opnds) : Payload × Word32 :=
  let src := convSrc f
  convResult f src (convQ f) x fun _ i xs => froundX f.et f.rnd f.sat true xs (.ofInt (laneInt src x.a i))

/-- FCVTI (R108). -/
def fcvtiResult (f : Fields) (x : Opnds) : Payload × Word32 :=
  let src := convSrc f
  convResult f src (convQ f) x fun _ i xs => iroundX f.et f.rnd xs (fdecode src (laneU (etWidth src) x.a i))

/-- The scale of quantised lane j (R110). -/
def scaleAt (f : Fields) (b : Payload) (j : Nat) : XVal :=
  let g := match (bitsAt f.xmod 4 2).toNat with
    | 0 => 0
    | 1 => j / 16
    | _ => j / 32
  if bitAt f.xmod 3 then fdecode .bf16 (laneU 16 b g) else e8m0 (laneU 8 b g)

/-- Round a conversion's value to a floating or an integer type. -/
def roundTo (f : Fields) (xs : Word32) (v : XVal) : Nat :=
  if etIsFloat f.et then froundX f.et f.rnd f.sat true xs v else iroundX f.et f.rnd xs v

/-- QNT (R111). -/
def qntResult (f : Fields) (x : Opnds) : Payload × Word32 :=
  let src := convSrc f
  convResult f src (convQ f) x fun j i xs =>
    roundTo f xs ((fdecode src (laneU (etWidth src) x.a i)).div (scaleAt f x.b j))

/-- The value of lane j of a quantised token (R33, R46). -/
def quantVal (src : ET) (cbk a : Payload) (j : Nat) : XVal :=
  if src = .lut4 then fdecode .bf16 (laneU 16 cbk (laneU 4 a j))
  else if etIsFloat src then fdecode src (laneU (etWidth src) a j)
  else .ofInt (laneInt src a j)

/-- DQNT (R111). -/
def dqntResult (f : Fields) (x : Opnds) : Payload × Word32 :=
  let src := convSrc f
  convResult f src (convQ f) x fun _ j xs => roundTo f xs ((quantVal src x.cbk x.a j).mul (scaleAt f x.b j))

/-- Element i of a list of codes, 0 beyond its end. -/
def nthD (ls : List Nat) (i : Nat) : Nat := ls.getD i 0

/-- One butterfly stage of stride s (R112). -/
def hadStage (f : Fields) (s : Nat) (v : List Nat) : List Nat :=
  (List.range v.length).map fun i =>
    if i / s % 2 = 0 then faddCode f.et f.rnd f.sat (nthD v i) (nthD v (i + s))
    else fround f.et f.rnd f.sat ((fdecode f.et (nthD v (i - s))).add (isRdn f) (fdecode f.et (nthD v i)).neg)

/-- HADS (R112). -/
def hadsResult (f : Fields) (x : Opnds) : Payload :=
  let st (k : Nat) (v : List Nat) := if bitAt f.xmod k then hadStage f (2 ^ k) v else v
  packLanes (etWidth f.et) (st 3 (st 2 (st 1 (st 0 (lanesOf (etWidth f.et) x.a)))))

end Sys2Proof.Machine
end

