-- ==== Sys2Proof/Machine/Checks.lean ====
section
/-! DEFINITION. What the loader accepts in one instruction word, opcode by opcode (R54 to R58, R65 to R71, R80, R86 to
R113, R114, R197, R237, R251 to R254, R299 to R303, R316, R356, R395): the checks that need nothing but the word. The
checks that need the image stand in Machine/Loader.lean. -/

namespace Sys2Proof.Machine

/-- Which tag operations an opcode accepts (R56, R114). -/
inductive TopRule where
  | any | zero | fixed (t : BitVec 3)
  deriving DecidableEq, Repr

/-- Which rounding modes an opcode accepts (R41). -/
inductive RndRule where
  | none | r03 | r04
  deriving DecidableEq, Repr

/-- Where PINV has a meaning (R58, R87): nowhere, with a predicate under AR 3, always, under AR 2, or as MAD has it. -/
inductive PinvRule where
  | no | ar3 | yes | ar2 | mad
  deriving DecidableEq, Repr

/-- How an opcode uses its source selects: one or two sources of chapter 04 (R80), one or two of chapter 05 (R114),
region (R197), memory, KV, gallery and system (R237, R316, R356, R395), READS (R137). -/
inductive SrcRule where
  | a1 | a2 | f1 | f2 | rg | m | rd
  deriving DecidableEq, Repr

/-- How many destinations an opcode may name (R54, R114, R356). -/
inductive DstRule where
  | none | one | two
  deriving DecidableEq, Repr

/-- One row of the opcode map with the field uses its description gives. `ets` and `ars` have bit c set for each code
accepted; `mod`, `xmod` and `imm` have the bits assigned; `k` and `s` say whether the description itself reads a
constant register or reads or writes a state register. -/
structure OpInfo where
  opc : BitVec 9
  ets : BitVec 16
  ars : BitVec 4
  top : TopRule
  sat : Bool
  rnd : RndRule
  pinv : PinvRule
  ord : Bool
  mod : BitVec 8
  xmod : BitVec 10
  imm : BitVec 32
  k : Bool
  s : Bool
  src : SrcRule
  dst : DstRule
  priv : Bool
  deriving DecidableEq, Repr

/-- The opcode map (R67 to R71) with each opcode's fields. -/
def opInfo : Op → OpInfo
  | .nop => ⟨0x000, 0xFF7F, 2, .zero, false, .none, .no, false, 0x00, 0x000, 0x00000000, false, false, .f1, .none, false⟩
  | .const => ⟨0x001, 0xFF7F, 1, .any, false, .none, .no, false, 0x00, 0x000, 0x00000000, false, false, .f1, .two, false⟩
  | .mov => ⟨0x002, 0xFF7F, 2, .any, false, .none, .no, false, 0x00, 0x000, 0x00000000, false, false, .f1, .two, false⟩
  | .sink => ⟨0x003, 0xFF7F, 2, .zero, false, .none, .no, false, 0x00, 0x001, 0x00000000, false, true, .f1, .two, false⟩
  | .steer => ⟨0x004, 0xFF7F, 4, .any, false, .none, .yes, false, 0x00, 0x000, 0x00000000, false, false, .f1, .two, false⟩
  | .gate => ⟨0x005, 0xFF7F, 4, .any, false, .none, .yes, false, 0x00, 0x000, 0x00000000, false, false, .f1, .two, false⟩
  | .merge => ⟨0x006, 0xFF7F, 4, .any, false, .none, .no, false, 0x00, 0x000, 0x00000000, false, false, .f1, .two, false⟩
  | .pick => ⟨0x007, 0xFF7F, 8, .any, false, .none, .yes, false, 0x00, 0x000, 0x00000000, false, false, .f1, .two, false⟩
  | .lenter => ⟨0x008, 0xFF7F, 2, (.fixed 1), false, .none, .no, false, 0x0F, 0x000, 0x00000000, false, false, .f1, .two, false⟩
  | .lexit => ⟨0x009, 0xFF7F, 2, (.fixed 2), false, .none, .no, false, 0x0F, 0x000, 0x00000000, false, false, .f1, .two, false⟩
  | .wadv => ⟨0x00A, 0xFF7F, 2, (.fixed 3), false, .none, .no, false, 0x0F, 0x000, 0x00000000, false, false, .f1, .two, false⟩
  | .tagset => ⟨0x00B, 0x0070, 6, .zero, false, .none, .no, false, 0x00, 0x01F, 0x00000000, false, false, .f2, .two, false⟩
  | .tagget => ⟨0x00C, 0x0070, 3, .any, false, .none, .no, false, 0x00, 0x07F, 0x00000000, false, false, .f1, .two, false⟩
  | .alloc => ⟨0x00D, 0xFF7F, 2, .zero, false, .none, .no, false, 0x00, 0x00F, 0x0000007F, false, false, .f1, .two, false⟩
  | .release => ⟨0x00E, 0xFF7F, 2, .any, false, .none, .no, false, 0x00, 0x000, 0x00000000, false, false, .f1, .two, false⟩
  | .call => ⟨0x00F, 0xFF7F, 2, .zero, false, .none, .no, false, 0x00, 0x03F, 0x00000000, false, false, .f1, .two, false⟩
  | .ret => ⟨0x010, 0xFF7F, 2, .zero, false, .none, .no, false, 0x00, 0x03F, 0x00000000, false, false, .f1, .none, false⟩
  | .count => ⟨0x011, 0x0070, 6, .any, false, .none, .no, false, 0x00, 0x007, 0x00000000, false, true, .f2, .two, false⟩
  | .ired => ⟨0x012, 0x007F, 4, .any, true, .none, .no, false, 0x00, 0x00F, 0x00000000, true, true, .f1, .two, false⟩
  | .fred => ⟨0x013, 0x1C00, 4, .any, true, .r03, .no, true, 0x00, 0x00F, 0x00000000, true, true, .f1, .two, false⟩
  | .pset => ⟨0x014, 0xFF7F, 3, .any, false, .none, .no, false, 0x00, 0x000, 0x00000000, false, false, .f1, .two, false⟩
  | .pnot => ⟨0x015, 0xFF7F, 2, .any, false, .none, .no, false, 0x00, 0x000, 0x00000000, false, false, .f1, .two, false⟩
  | .pand => ⟨0x016, 0xFF7F, 6, .any, false, .none, .yes, false, 0x00, 0x000, 0x00000000, false, false, .f2, .two, false⟩
  | .por => ⟨0x017, 0xFF7F, 6, .any, false, .none, .yes, false, 0x00, 0x000, 0x00000000, false, false, .f2, .two, false⟩
  | .hold => ⟨0x018, 0xFF7F, 6, .any, false, .none, .ar2, false, 0x00, 0x000, 0x00000000, false, true, .f1, .two, false⟩
  | .reads => ⟨0x019, 0xFF7F, 1, .any, false, .none, .no, false, 0x00, 0x001, 0x00000000, false, true, .rd, .two, false⟩
  | .delay => ⟨0x01A, 0xFF7F, 2, .any, false, .none, .no, false, 0x00, 0x003, 0x00000000, false, true, .f1, .two, false⟩
  | .repeatTok => ⟨0x01B, 0xFF7F, 6, .zero, false, .none, .no, false, 0x00, 0x00F, 0x00000000, false, false, .f2, .two, false⟩
  | .add => ⟨0x040, 0x607F, 15, .any, true, .none, .ar3, false, 0x00, 0x000, 0x00000000, false, false, .a2, .two, false⟩
  | .sub => ⟨0x041, 0x607F, 15, .any, true, .none, .ar3, false, 0x00, 0x000, 0x00000000, false, false, .a2, .two, false⟩
  | .adds => ⟨0x042, 0x607F, 15, .any, true, .none, .ar3, false, 0x00, 0x000, 0x00000000, false, false, .a2, .two, false⟩
  | .subs => ⟨0x043, 0x607F, 15, .any, true, .none, .ar3, false, 0x00, 0x000, 0x00000000, false, false, .a2, .two, false⟩
  | .mul => ⟨0x044, 0x007F, 15, .any, true, .none, .ar3, false, 0x00, 0x000, 0x00000000, false, false, .a2, .two, false⟩
  | .mulhi => ⟨0x045, 0x007F, 15, .any, false, .none, .ar3, false, 0x00, 0x000, 0x00000000, false, false, .a2, .two, false⟩
  | .mad => ⟨0x046, 0x007F, 14, .any, true, .none, .mad, false, 0x00, 0x007, 0x00000000, false, false, .a2, .two, false⟩
  | .div => ⟨0x047, 0x007F, 15, .any, true, .none, .ar3, false, 0x00, 0x000, 0x00000000, false, false, .a2, .two, false⟩
  | .rem => ⟨0x048, 0x007F, 15, .any, false, .none, .ar3, false, 0x00, 0x000, 0x00000000, false, false, .a2, .two, false⟩
  | .min => ⟨0x049, 0x607F, 15, .any, false, .none, .ar3, false, 0x00, 0x000, 0x00000000, false, false, .a2, .two, false⟩
  | .max => ⟨0x04A, 0x607F, 15, .any, false, .none, .ar3, false, 0x00, 0x000, 0x00000000, false, false, .a2, .two, false⟩
  | .abs => ⟨0x04B, 0x2055, 2, .any, true, .none, .no, false, 0x00, 0x000, 0x00000000, false, false, .a1, .two, false⟩
  | .neg => ⟨0x04C, 0x2055, 2, .any, true, .none, .no, false, 0x00, 0x000, 0x00000000, false, false, .a1, .two, false⟩
  | .and => ⟨0x04D, 0xFF7F, 15, .any, false, .none, .ar3, false, 0x00, 0x000, 0x00000000, false, false, .a2, .two, false⟩
  | .or => ⟨0x04E, 0xFF7F, 15, .any, false, .none, .ar3, false, 0x00, 0x000, 0x00000000, false, false, .a2, .two, false⟩
  | .xor => ⟨0x04F, 0xFF7F, 15, .any, false, .none, .ar3, false, 0x00, 0x000, 0x00000000, false, false, .a2, .two, false⟩
  | .andn => ⟨0x050, 0xFF7F, 15, .any, false, .none, .ar3, false, 0x00, 0x000, 0x00000000, false, false, .a2, .two, false⟩
  | .not => ⟨0x051, 0xFF7F, 2, .any, false, .none, .no, false, 0x00, 0x000, 0x00000000, false, false, .a1, .two, false⟩
  | .shl => ⟨0x052, 0x007F, 15, .any, true, .none, .ar3, false, 0x00, 0x000, 0x00000000, false, false, .a2, .two, false⟩
  | .shr => ⟨0x053, 0x007F, 15, .any, false, .none, .ar3, false, 0x00, 0x000, 0x00000000, false, false, .a2, .two, false⟩
  | .sar => ⟨0x054, 0x007F, 15, .any, false, .none, .ar3, false, 0x00, 0x000, 0x00000000, false, false, .a2, .two, false⟩
  | .rotl => ⟨0x055, 0x007F, 15, .any, false, .none, .ar3, false, 0x00, 0x000, 0x00000000, false, false, .a2, .two, false⟩
  | .clz => ⟨0x056, 0x007F, 2, .any, false, .none, .no, false, 0x00, 0x000, 0x00000000, false, false, .a1, .two, false⟩
  | .popc => ⟨0x057, 0x007F, 2, .any, false, .none, .no, false, 0x00, 0x000, 0x00000000, false, false, .a1, .two, false⟩
  | .cmpeq => ⟨0x058, 0x607F, 15, .any, false, .none, .ar3, false, 0x00, 0x000, 0x00000000, false, false, .a2, .two, false⟩
  | .cmpne => ⟨0x059, 0x607F, 15, .any, false, .none, .ar3, false, 0x00, 0x000, 0x00000000, false, false, .a2, .two, false⟩
  | .cmplt => ⟨0x05A, 0x607F, 15, .zero, false, .none, .ar3, false, 0x01, 0x000, 0x00000000, false, false, .a2, .two, false⟩
  | .cmple => ⟨0x05B, 0x607F, 15, .zero, false, .none, .ar3, false, 0x01, 0x000, 0x00000000, false, false, .a2, .two, false⟩
  | .sel => ⟨0x05C, 0xFF7F, 8, .any, false, .none, .ar3, false, 0x00, 0x000, 0x00000000, false, false, .a2, .two, false⟩
  | .bcast => ⟨0x05D, 0xFF7F, 7, .any, false, .none, .no, false, 0x00, 0x000, 0x00000000, false, false, .a2, .two, false⟩
  | .lane => ⟨0x05E, 0xFF7F, 7, .any, false, .none, .no, false, 0x00, 0x03F, 0x00000000, false, false, .a2, .two, false⟩
  | .shuf => ⟨0x05F, 0xFF7F, 7, .any, false, .none, .no, false, 0x00, 0x000, 0x00000000, false, false, .a2, .two, false⟩
  | .pack => ⟨0x060, 0x607F, 12, .zero, true, .none, .ar3, false, 0x0F, 0x000, 0x00000000, false, false, .a2, .two, false⟩
  | .unpk => ⟨0x061, 0x607F, 2, .zero, false, .none, .no, false, 0x0F, 0x001, 0x00000000, false, false, .a1, .two, false⟩
  | .sumr => ⟨0x062, 0x007F, 2, .any, true, .none, .no, false, 0x00, 0x000, 0x00000000, false, false, .a1, .two, false⟩
  | .maxr => ⟨0x063, 0x007F, 2, .any, false, .none, .no, false, 0x00, 0x000, 0x00000000, false, false, .a1, .two, false⟩
  | .minr => ⟨0x064, 0x007F, 2, .any, false, .none, .no, false, 0x00, 0x000, 0x00000000, false, false, .a1, .two, false⟩
  | .index => ⟨0x065, 0x007F, 2, .zero, false, .none, .no, false, 0x01, 0x000, 0x00000000, false, false, .a1, .two, false⟩
  | .bittst => ⟨0x066, 0x007F, 15, .any, false, .none, .ar3, false, 0x00, 0x000, 0x00000000, false, false, .a2, .two, false⟩
  | .fadd => ⟨0x0C0, 0x1C00, 15, .any, true, .r03, .ar3, false, 0x00, 0x000, 0x00000000, false, false, .a2, .two, false⟩
  | .fsub => ⟨0x0C1, 0x1C00, 15, .any, true, .r03, .ar3, false, 0x00, 0x000, 0x00000000, false, false, .a2, .two, false⟩
  | .fmul => ⟨0x0C2, 0x1C00, 15, .any, true, .r03, .ar3, false, 0x00, 0x000, 0x00000000, false, false, .a2, .two, false⟩
  | .ffma => ⟨0x0C3, 0x1C00, 14, .any, true, .r03, .mad, false, 0x00, 0x007, 0x00000000, false, false, .a2, .two, false⟩
  | .fmin => ⟨0x0C4, 0x1F00, 15, .any, false, .none, .ar3, false, 0x00, 0x000, 0x00000000, false, false, .a2, .two, false⟩
  | .fmax => ⟨0x0C5, 0x1F00, 15, .any, false, .none, .ar3, false, 0x00, 0x000, 0x00000000, false, false, .a2, .two, false⟩
  | .fabs => ⟨0x0C6, 0x1F00, 2, .any, false, .none, .no, false, 0x00, 0x000, 0x00000000, false, false, .a1, .two, false⟩
  | .fneg => ⟨0x0C7, 0x1F00, 2, .any, false, .none, .no, false, 0x00, 0x000, 0x00000000, false, false, .a1, .two, false⟩
  | .fcmpeq => ⟨0x0C8, 0x1F00, 15, .any, false, .none, .ar3, false, 0x00, 0x000, 0x00000000, false, false, .a2, .two, false⟩
  | .fcmplt => ⟨0x0C9, 0x1F00, 15, .any, false, .none, .ar3, false, 0x00, 0x000, 0x00000000, false, false, .a2, .two, false⟩
  | .fcmple => ⟨0x0CA, 0x1F00, 15, .any, false, .none, .ar3, false, 0x00, 0x000, 0x00000000, false, false, .a2, .two, false⟩
  | .fcmpun => ⟨0x0CB, 0x1F00, 15, .any, false, .none, .ar3, false, 0x00, 0x000, 0x00000000, false, false, .a2, .two, false⟩
  | .frcp => ⟨0x0CC, 0x1800, 2, .any, true, .none, .no, false, 0x00, 0x000, 0x00000000, false, false, .a1, .two, false⟩
  | .frsq => ⟨0x0CD, 0x1800, 2, .any, false, .none, .no, false, 0x00, 0x000, 0x00000000, false, false, .a1, .two, false⟩
  | .fexp2 => ⟨0x0CE, 0x1800, 2, .any, true, .none, .no, false, 0x00, 0x000, 0x00000000, false, false, .a1, .two, false⟩
  | .flog2 => ⟨0x0CF, 0x1800, 2, .any, false, .none, .no, false, 0x00, 0x000, 0x00000000, false, false, .a1, .two, false⟩
  | .ftanh => ⟨0x0D0, 0x1800, 2, .any, false, .none, .no, false, 0x00, 0x000, 0x00000000, false, false, .a1, .two, false⟩
  | .fsqrt => ⟨0x0D1, 0x1C00, 2, .any, true, .r03, .no, false, 0x00, 0x000, 0x00000000, false, false, .a1, .two, false⟩
  | .fdiv => ⟨0x0D2, 0x1C00, 15, .any, true, .r03, .ar3, false, 0x00, 0x000, 0x00000000, false, false, .a2, .two, false⟩
  | .fsumr => ⟨0x0D3, 0x1C00, 2, .any, true, .r03, .no, false, 0x00, 0x000, 0x00000000, false, false, .a1, .two, false⟩
  | .fmaxr => ⟨0x0D4, 0x1F00, 2, .any, false, .none, .no, false, 0x00, 0x000, 0x00000000, false, false, .a1, .two, false⟩
  | .fcvt => ⟨0x0D5, 0x1F00, 2, .zero, true, .r04, .no, false, 0x0F, 0x007, 0x00000000, false, false, .a1, .two, false⟩
  | .icvt => ⟨0x0D6, 0x1F00, 2, .zero, true, .r04, .no, false, 0x0F, 0x007, 0x00000000, false, false, .a1, .two, false⟩
  | .fcvti => ⟨0x0D7, 0x607F, 2, .zero, true, .r04, .no, false, 0x0F, 0x007, 0x00000000, false, false, .a1, .two, false⟩
  | .qnt => ⟨0x0D8, 0x6303, 6, .zero, true, .r04, .no, false, 0x0F, 0x03F, 0x00000000, false, false, .a2, .two, false⟩
  | .dqnt => ⟨0x0D9, 0x1C00, 6, .zero, false, .r04, .no, false, 0x0F, 0x03F, 0x00000000, false, false, .a2, .two, false⟩
  | .hads => ⟨0x0DA, 0x1C00, 2, .any, true, .r03, .no, false, 0x00, 0x00F, 0x00000000, false, false, .a1, .two, false⟩
  | .hadx => ⟨0x0DB, 0x1C00, 4, .any, true, .r03, .no, false, 0x00, 0x000, 0x00000000, false, false, .a2, .two, false⟩
  | .fscale => ⟨0x0DC, 0x1C00, 15, .any, true, .r03, .ar3, false, 0x00, 0x000, 0x00000000, false, false, .a2, .two, false⟩
  | .fresc => ⟨0x0DD, 0x1000, 4, .any, false, .none, .no, false, 0x00, 0x000, 0x00000000, false, false, .a2, .two, false⟩
  | .launch => ⟨0x140, 0x0001, 4, .any, false, .none, .no, false, 0x00, 0x000, 0x00000000, false, false, .rg, .two, false⟩
  | .ctok => ⟨0x141, 0x0001, 3, .zero, false, .none, .no, false, 0x01, 0x000, 0x0000001F, false, false, .rg, .two, false⟩
  | .census => ⟨0x142, 0x0001, 3, .any, false, .none, .no, false, 0x00, 0x000, 0x000003FF, false, false, .rg, .two, false⟩
  | .purge => ⟨0x143, 0x0001, 3, .any, false, .none, .no, false, 0x00, 0x000, 0x0000003F, false, false, .rg, .two, true⟩
  | .quota => ⟨0x144, 0x0001, 2, .any, false, .none, .no, false, 0x00, 0x000, 0x0000003F, false, false, .rg, .two, true⟩
  | .colget => ⟨0x145, 0x0001, 3, .any, false, .none, .no, false, 0x00, 0x000, 0x0000003F, false, false, .rg, .two, false⟩
  | .colset => ⟨0x146, 0x0001, 2, .any, false, .none, .no, false, 0x00, 0x01F, 0x0000003F, false, false, .rg, .two, true⟩
  | .spanend => ⟨0x147, 0x0001, 2, .any, false, .none, .no, false, 0x00, 0x000, 0x00000000, false, false, .rg, .two, false⟩
  | .ctxnext => ⟨0x148, 0x0001, 2, .zero, false, .none, .no, false, 0x0F, 0x000, 0x00000000, false, false, .rg, .two, false⟩
  | .yield => ⟨0x149, 0x0001, 2, .any, false, .none, .no, false, 0x00, 0x000, 0x00000000, false, false, .rg, .two, false⟩
  | .horizon => ⟨0x14A, 0x0001, 3, .any, false, .none, .no, false, 0x00, 0x000, 0x00000FFF, false, false, .rg, .two, true⟩
  | .ld => ⟨0x180, 0x0001, 3, .zero, false, .none, .no, false, 0x03, 0x007, 0xFFFFFFFF, true, false, .m, .two, false⟩
  | .st => ⟨0x181, 0x0001, 6, .zero, false, .none, .no, false, 0x03, 0x007, 0xFFFFFFFF, true, false, .m, .two, false⟩
  | .ldv => ⟨0x182, 0x0001, 3, .zero, false, .none, .no, false, 0x03, 0x007, 0xFFFFFFFF, true, false, .m, .two, false⟩
  | .cmst => ⟨0x183, 0x0001, 12, .zero, false, .none, .no, false, 0x03, 0x007, 0xFFFFFFFF, true, false, .m, .two, false⟩
  | .atadd => ⟨0x184, 0x1070, 6, .zero, true, .none, .no, false, 0x03, 0x000, 0xFFFFFFFF, true, false, .m, .two, false⟩
  | .atmin => ⟨0x185, 0x0070, 6, .zero, false, .none, .no, false, 0x03, 0x000, 0xFFFFFFFF, true, false, .m, .two, false⟩
  | .atmax => ⟨0x186, 0x0070, 6, .zero, false, .none, .no, false, 0x03, 0x000, 0xFFFFFFFF, true, false, .m, .two, false⟩
  | .atand => ⟨0x187, 0x0060, 6, .zero, false, .none, .no, false, 0x03, 0x000, 0xFFFFFFFF, true, false, .m, .two, false⟩
  | .ator => ⟨0x188, 0x0060, 6, .zero, false, .none, .no, false, 0x03, 0x000, 0xFFFFFFFF, true, false, .m, .two, false⟩
  | .atxor => ⟨0x189, 0x0060, 6, .zero, false, .none, .no, false, 0x03, 0x000, 0xFFFFFFFF, true, false, .m, .two, false⟩
  | .atswp => ⟨0x18A, 0x0060, 6, .zero, false, .none, .no, false, 0x03, 0x000, 0xFFFFFFFF, true, false, .m, .two, false⟩
  | .atcas => ⟨0x18B, 0x0060, 12, .zero, false, .none, .no, false, 0x03, 0x000, 0xFFFFFFFF, true, false, .m, .two, false⟩
  | .attsb => ⟨0x18C, 0x0020, 6, .zero, false, .none, .no, false, 0x03, 0x000, 0xFFFFFFFF, true, false, .m, .two, false⟩
  | .mtld => ⟨0x18D, 0x0001, 3, .zero, false, .none, .no, false, 0x00, 0x1F7, 0x00000000, true, false, .m, .two, false⟩
  | .mtst => ⟨0x18E, 0x0001, 6, .zero, false, .none, .no, false, 0x00, 0x1F7, 0x00000000, true, false, .m, .two, false⟩
  | .mttsb => ⟨0x18F, 0x0020, 3, .zero, false, .none, .no, false, 0x00, 0x1F0, 0x00000000, true, false, .m, .two, false⟩
  | .agset => ⟨0x190, 0x0001, 2, .zero, false, .none, .no, false, 0x00, 0x1FF, 0x0000FBF7, true, false, .m, .two, false⟩
  | .aggo => ⟨0x191, 0x0001, 3, .zero, false, .none, .no, false, 0x00, 0x1FF, 0x00000000, false, false, .m, .two, false⟩
  | .copy => ⟨0x192, 0x0001, 2, .zero, false, .none, .no, false, 0x00, 0x3FF, 0xFFFFFFFF, true, false, .m, .two, false⟩
  | .cpwait => ⟨0x193, 0x0001, 2, .zero, false, .none, .no, false, 0x00, 0x007, 0x00000000, false, false, .m, .two, false⟩
  | .cpptr => ⟨0x194, 0x0001, 3, .zero, false, .none, .no, false, 0x00, 0x007, 0x00000000, false, false, .m, .two, false⟩
  | .order => ⟨0x195, 0x0001, 4, .zero, false, .none, .no, false, 0x00, 0x000, 0x00000000, false, false, .m, .two, false⟩
  | .ownpass => ⟨0x196, 0x0001, 3, .zero, false, .none, .no, false, 0x00, 0x00F, 0x000000FF, false, false, .m, .two, false⟩
  | .pin => ⟨0x197, 0x0001, 3, .zero, false, .none, .no, false, 0x00, 0x01F, 0xFFFFFFFF, true, false, .m, .two, true⟩
  | .unpin => ⟨0x198, 0x0001, 3, .zero, false, .none, .no, false, 0x00, 0x01F, 0xFFFFFFFF, true, false, .m, .two, true⟩
  | .pref => ⟨0x199, 0x0001, 3, .zero, false, .none, .no, false, 0x00, 0x03F, 0xFFFFFFFF, true, false, .m, .two, false⟩
  | .mfence => ⟨0x19A, 0x0001, 2, .zero, false, .none, .no, false, 0x00, 0x000, 0x00000000, false, false, .m, .two, false⟩
  | .mma => ⟨0x1C0, 0x1010, 4, .zero, true, .none, .no, false, 0xFF, 0x3FF, 0x07FFFFFF, false, false, .f1, .two, false⟩
  | .mzero => ⟨0x1C1, 0x0001, 3, .any, false, .none, .no, false, 0x00, 0x001, 0x00000000, false, false, .f1, .two, false⟩
  | .mdrain => ⟨0x1C2, 0x1F11, 3, .any, true, .r03, .no, false, 0x00, 0x03F, 0x00000000, false, false, .f1, .two, false⟩
  | .mscale => ⟨0x1C3, 0x0001, 3, .any, false, .none, .no, false, 0x00, 0x001, 0x00000000, false, false, .f1, .two, false⟩
  | .mcode => ⟨0x1C4, 0x0001, 3, .any, false, .none, .no, false, 0x00, 0x000, 0x00000000, false, false, .f1, .two, false⟩
  | .mepi => ⟨0x1C5, 0x0001, 3, .any, false, .none, .no, false, 0x00, 0x001, 0x00000000, false, false, .f1, .two, false⟩
  | .mswap => ⟨0x1C6, 0x0001, 3, .any, false, .none, .no, false, 0x00, 0x000, 0x00000000, false, false, .f1, .two, false⟩
  | .kvpack => ⟨0x1E0, 0x0800, 2, .zero, false, .none, .no, false, 0x00, 0x00F, 0x00000000, false, false, .m, .two, false⟩
  | .kvxlat => ⟨0x1E1, 0x0001, 2, .any, false, .none, .no, false, 0x00, 0x1F7, 0x00000000, false, false, .m, .two, false⟩
  | .massacc => ⟨0x1E2, 0x1000, 12, .zero, false, .none, .no, false, 0x00, 0x000, 0xFFFFFFFF, true, false, .m, .two, false⟩
  | .kvevict => ⟨0x1E3, 0x0001, 2, .zero, false, .none, .no, false, 0x00, 0x000, 0xFFFFFFFF, true, false, .m, .two, false⟩
  | .kvseqCreate => ⟨0x1E4, 0x0001, 2, .zero, false, .none, .no, false, 0x00, 0x033, 0xFFFFFFFF, true, false, .m, .two, false⟩
  | .kvseqAttach => ⟨0x1E4, 0x0001, 2, .zero, false, .none, .no, false, 0x00, 0x1F3, 0xFFFFFFFF, true, false, .m, .two, false⟩
  | .kvseqDetach => ⟨0x1E4, 0x0001, 2, .zero, false, .none, .no, false, 0x00, 0x1F3, 0xFFFFFFFF, true, false, .m, .two, false⟩
  | .kvapp => ⟨0x1E5, 0x0001, 2, .zero, false, .none, .no, false, 0x00, 0x000, 0xFFFFFFFF, true, false, .m, .two, false⟩
  | .kvstat => ⟨0x1E6, 0x0001, 2, .zero, false, .none, .no, false, 0x00, 0x000, 0xFFFFFFFF, true, false, .m, .two, false⟩
  | .kvdrop => ⟨0x1E7, 0x0001, 2, .zero, false, .none, .no, false, 0x00, 0x000, 0xFFFFFFFF, true, false, .m, .two, false⟩
  | .ndecl => ⟨0x1F0, 0x0001, 2, .zero, false, .none, .no, false, 0x00, 0x001, 0xFFFFFFFF, false, false, .m, .one, false⟩
  | .nask => ⟨0x1F1, 0x0001, 2, .zero, false, .none, .no, false, 0x00, 0x1F7, 0xFFFFFFFF, false, false, .m, .two, false⟩
  | .nann => ⟨0x1F2, 0x0001, 2, .zero, false, .none, .no, false, 0x00, 0x000, 0xFFFFFFFF, true, false, .m, .one, false⟩
  | .ndropDecl => ⟨0x1F3, 0x0001, 2, .zero, false, .none, .no, false, 0x00, 0x001, 0xFFFFFFFF, false, false, .m, .one, false⟩
  | .ndropOwn => ⟨0x1F3, 0x0001, 2, .zero, false, .none, .no, false, 0x00, 0x001, 0xFFFFFFFF, false, false, .m, .one, false⟩
  | .nstat => ⟨0x1F4, 0x0001, 2, .zero, false, .none, .no, false, 0x00, 0x000, 0xFFFFFFFF, false, false, .m, .one, false⟩
  | .trap => ⟨0x1F8, 0x0001, 2, .any, false, .none, .no, false, 0x00, 0x000, 0x0000FFFF, false, false, .m, .two, false⟩
  | .brk => ⟨0x1F9, 0x0001, 2, .any, false, .none, .no, false, 0x00, 0x000, 0x0000FFFF, false, false, .m, .two, false⟩
  | .fault => ⟨0x1FA, 0x0001, 2, .any, false, .none, .no, false, 0x00, 0x001, 0x0000003F, false, false, .m, .two, false⟩
  | .mark => ⟨0x1FB, 0x0001, 2, .any, false, .none, .no, false, 0x00, 0x000, 0x0000FFFF, false, false, .m, .two, false⟩

/-- The instructions that carry wave fields in IMM (R65). -/
def carriesWave (o : Op) : Bool := (opInfo o).imm == 0xFFFFFFFF

/-- A cause if a condition fails. -/
def want (ok : Bool) (c : Cause) : List Cause := if ok then [] else [c]

/-- True when a number of bits is zero outside the bits of a mask (R54). -/
def within {n : Nat} (v mask : BitVec n) : Bool := v &&& ~~~mask == 0

/-- Does the word select a source code on either side, or as the CSRC of MAD and FFMA (R55, R87). -/
def usesSrc (o : Op) (f : Fields) (code : BitVec 3) : Bool :=
  f.lsrc == code || f.rsrc == code || ((o == .mad || o == .ffma) && bitsAt f.xmod 0 3 == code)

/-- The source-select checks of R19, R55, R80, R114, R137, R197, R237. (DEDUCED, log 53.) -/
def srcChecks (o : Op) (f : Fields) : List Cause :=
  let i := opInfo o
  want (f.lsrc.toNat ≤ 4 && f.rsrc.toNat ≤ 4) (mkCause 1 4) ++
  (if i.src == .m then want (f.lsrc == 0 && f.rsrc == 0) (mkCause 1 4)
   else
    match f.ar with
    | .dyadic | .predicated => want (f.lsrc == 0 && f.rsrc == 0) (mkCause 1 0xC)
    | .monadic =>
      want (f.lsrc == 0) (mkCause 1 0xC) ++
      (match i.src with
       | .a1 => want (f.rsrc == 0) (mkCause 1 0xC)
       | .a2 | .f2 => want (f.rsrc != 0) (mkCause 1 0xC)
       | _ => want (f.rsrc == 0) (mkCause 1 2))
    | .trigger =>
      (match i.src with
       | .rg => want (f.lsrc == 0) (mkCause 1 0xC) ++ want (f.rsrc == 0) (mkCause 1 2)
       | .rd => want (f.lsrc == 3) (mkCause 1 4) ++ want (f.rsrc == 0) (mkCause 1 2)
       | .a2 => want (f.lsrc != 0 && f.rsrc != 0) (mkCause 1 0xC)
       | .a1 => want (f.lsrc != 0 && f.rsrc == 0) (mkCause 1 0xC)
       | _ => want (f.lsrc != 0) (mkCause 1 0xC) ++ want (f.rsrc == 0) (mkCause 1 2)))

/-- Is PINV given a meaning here (R58, R87). -/
def pinvOk (o : Op) (f : Fields) : Bool :=
  match (opInfo o).pinv with
  | .no => false
  | .ar3 => f.ar == .predicated
  | .yes => true
  | .ar2 => f.ar == .dyadic
  | .mad => f.ar == .predicated && bitsAt f.xmod 0 3 != 0

/-- The tag-operation checks of R56 and R114 that need no image; MOD bits of the parameter are R56's. -/
def topChecks (o : Op) (f : Fields) : List Cause :=
  let i := opInfo o
  want (f.top.toNat ≤ 5) (mkCause 1 5) ++
  (match i.top with
   | .any => []
   | .zero => want (f.top == 0) (mkCause 1 5)
   | .fixed t => want (f.top == t) (mkCause 1 5)) ++
  (let param : BitVec 8 := match f.top.toNat with
     | 1 | 2 | 3 => 0x0F
     | 4 => 0x07
     | 5 => 0x3F
     | _ => 0
   want (within f.mod (i.mod ||| param)) (mkCause 1 2))

/-- A destination is zero when V is clear and has no offset on side 3 (R60, R61). -/
def dstChecks (d : Dst) : List Cause :=
  if d.v then want (d.side != 3 || (d.dx == 0 && d.dy == 0)) (mkCause 1 6)
  else want (d.dx == 0 && d.dy == 0 && d.slot == 0 && d.side == 0) (mkCause 1 6)

/-- The zero destination. -/
def noDst : Dst := ⟨false, 0, 0, 0, 0⟩

/-- The source and result types of PACK and UNPK pair a type with one of twice its width (R95, R96). -/
def packPair (wide narrow : ET) : Bool :=
  match wide, narrow with
  | .i16, .i8 | .i16, .n8 | .n16, .i8 | .n16, .n8 => true
  | .i32, .i16 | .i32, .n16 | .n32, .i16 | .n32, .n16 => true
  | .i64, .i32 | .i64, .n32 => true
  | .i8, .i4 | .i8, .n4 | .n8, .i4 | .n8, .n4 => true
  | _, _ => false

/-- Bit c of a mask of ET codes. -/
def etIn (mask : BitVec 16) (t : ET) : Bool := bitAt mask (etCode t).toNat

/-- The source types of the conversions (R70). -/
def convSrcOk (o : Op) (t : ET) : Bool :=
  match o with
  | .fcvt | .fcvti => etIn 0x1F00 t
  | .icvt => etIn 0x607F t
  | .qnt => etIn 0x1C00 t
  | .dqnt => etIn 0xE303 t
  | _ => true

/-- The quarter limits of R107. -/
def quarterOk (src dst : ET) (q : Nat) : Bool :=
  let ns := etLanes src
  let nr := etLanes dst
  if nr > ns then q < nr / ns else if nr < ns then q < ns / nr else q == 0

/-- The operand pairs of the matrix sheet with the accumulator type (R287). -/
def mmaPairOk (a b acc : ET) : Bool :=
  match a, b with
  | .bf16, .bf16 | .bf16, .i4 | .bf16, .n4 | .bf16, .lut4 => acc == .f32
  | .f8e4, .f8e4 | .f8e4, .f8e5 | .f8e5, .f8e4 | .f8e5, .f8e5 => acc == .f32
  | .cf8, .f8e4 | .cf8, .f8e5 => acc == .f32
  | .f8e4, .i4 | .f8e4, .n4 | .f8e5, .i4 | .f8e5, .n4 | .cf8, .i4 | .cf8, .n4 => acc == .f32
  | .i8, .i8 | .i8, .n8 | .n8, .i8 | .n8, .n8 => acc == .i32
  | .i4, .i4 | .i4, .n4 | .n4, .i4 | .n4, .n4 => acc == .i32
  | _, _ => false

/-- k-steps per data token of a sheet operand beside its partner (R287): kA or kB. -/
def mmaK (self : ET) : Nat :=
  match self with
  | .bf16 => 1
  | .i4 | .n4 | .lut4 => 4
  | _ => 2

/-- The k-group g of a pair (R287). -/
def mmaG (a b : ET) : Nat := Nat.min (mmaK a) (mmaK b)

/-- The checks of single opcodes beyond the shared ones. (DEDUCED, log 53.) -/
def opExtra (o : Op) (f : Fields) : List Cause :=
  let x := f.xmod
  let c8 := mkCause 1 8
  match o with
  | .sink =>
    if bitAt x 0 then want (f.dst1 == noDst) (mkCause 1 2)
    else want (f.dst0 == noDst && f.dst1 == noDst) (mkCause 1 6) ++ want (f.ssel == 0) (mkCause 1 2)
  | .mad | .ffma =>
    want (bitsAt x 0 3 != 0 || f.ar == .predicated) (mkCause 1 0xC) ++ want ((bitsAt x 0 3).toNat ≤ 4) (mkCause 1 4)
  | .cmplt | .cmple => want (!bitAt f.mod 0 || f.et == .i64) c8
  | .lane => want ((bitsAt x 0 6).toNat < etLanes f.et) c8
  | .pack => want (packPair (etOfCode (bitsAt f.mod 0 4)) f.et) c8
  | .unpk => want (packPair f.et (etOfCode (bitsAt f.mod 0 4))) c8
  | .fcvt | .icvt | .fcvti | .qnt | .dqnt =>
    let src := etOfCode (bitsAt f.mod 0 4)
    want (convSrcOk o src) c8 ++ want (quarterOk src f.et (bitsAt x 0 3).toNat) c8 ++
    (if o == .qnt || o == .dqnt then want (bitsAt x 4 2 != 3) c8 else [])
  | .hads => want (bitsAt x 0 4 != 0 && (etLanes f.et > 8 || !bitAt x 3)) c8
  | .count => want ((bitsAt x 0 3).toNat < etLanes f.et) c8
  | .delay => want (f.ssel.toNat + (bitsAt x 0 2).toNat ≤ 3) c8
  | .tagset => if bitAt x 4 then want (f.et == .i64) c8 ++ want (bitsAt x 0 4 == 0) c8 else []
  | .tagget =>
    let sel := (bitsAt x 4 3).toNat
    want (sel ≤ 4) c8 ++ want ((sel != 1 && sel != 4) || f.et == .i64) c8 ++
    want (sel == 0 || bitsAt x 0 4 == 0) (mkCause 1 2)
  | .alloc => want (1 ≤ (bitsAt f.imm 0 7).toNat && (bitsAt f.imm 0 7).toNat ≤ 64) c8
  | .release => want (f.dst1.v && f.dst1.side == 1) (mkCause 2 0xA)
  | .call => want (f.dst1.v && f.dst1.side != 3) (mkCause 1 6)
  | .census => want (!bitAt f.imm 9 || bitsAt f.imm 6 3 == 0) c8
  | .colset => want (bitsAt x 0 5 != 0) c8
  | .horizon => let h := (bitsAt f.imm 6 5).toNat
                want (h == 0 || (10 ≤ h && h ≤ 30)) c8
  | .ld | .ldv => want ((bitsAt x 0 3).toNat ≤ 5) c8 ++ want (!bitAt f.mod 1) c8
  | .st => want ((bitsAt x 0 3).toNat ≤ 5) c8 ++ want (!bitAt f.mod 0) c8
  | .cmst | .mtld | .mtst => want ((bitsAt x 0 3).toNat ≤ 5) c8
  | .agset => want (bitsAt x 4 2 != 3) c8 ++ want (bitsAt f.imm 8 2 != 3) c8
  | .aggo => if bitAt x 8 then want (f.dst0 == noDst) (mkCause 1 6) else []
  | .mma =>
    let a := etOfCode (bitsAt f.mod 0 4)
    let b := etOfCode (bitsAt f.mod 4 4)
    let k := (bitsAt f.imm 0 16).toNat
    let sca := bitsAt x 0 2
    let scb := bitsAt x 2 2
    want (mmaPairOk a b f.et) c8 ++ want (!f.bub) (mkCause 1 0x13) ++ want (f.dst1 == noDst) (mkCause 1 6) ++
    want ((bitsAt f.imm 16 5).toNat ≤ 26 && (bitsAt f.imm 21 6).toNat ≤ 39) (mkCause 7 1) ++
    want (k != 0 && k % mmaK a == 0 && k % mmaK b == 0 && ((sca == 0 && scb == 0) || k % 32 == 0) &&
      sca != 3 && scb != 3 && ((sca == 0 && scb == 0) || f.et == .f32) && (sca == 0 || a != .cf8)) (mkCause 7 2)
  | .kvxlat => want ((bitsAt x 0 3).toNat ≤ 4) c8
  | .kvseqCreate => want (bitsAt x 0 2 == 0) c8
  | .kvseqAttach => want (bitsAt x 0 2 == 1) c8
  | .kvseqDetach => want (bitsAt x 0 2 == 2) c8
  | .ndropDecl => want (!bitAt x 0) c8
  | .ndropOwn => want (bitAt x 0) c8
  | .fault => want (0x20 ≤ (bitsAt f.imm 0 6).toNat) c8
  | _ => []

/-- Every cause for which a word is rejected whatever image it stands in (R54 to R58, R78); none means accepted. -/
def wordChecks (o : Op) (f : Fields) : List Cause :=
  let i := opInfo o
  want (etIn i.ets f.et) (mkCause 1 3) ++
  want (bitAt i.ars (arCode f.ar).toNat) (mkCause 1 0xC) ++
  topChecks o f ++ srcChecks o f ++
  want (f.ksel == 0 || i.k || usesSrc o f 2) (mkCause 1 2) ++
  want (f.ssel == 0 || i.s || usesSrc o f 3) (mkCause 1 2) ++
  want (within f.imm i.imm || usesSrc o f 1) (mkCause 1 2) ++
  want (within f.xmod i.xmod) (mkCause 1 2) ++
  want (f.rnd.toNat ≤ 4) (mkCause 1 0xD) ++
  (match i.rnd with
   | .none => want (f.rnd == 0) (mkCause 1 0xE)
   | .r03 => want (f.rnd != 4) (mkCause 1 0xE)
   | .r04 => []) ++
  want (!f.sat || i.sat) (mkCause 1 0xF) ++
  want (!f.pinv || pinvOk o f) (mkCause 1 0x13) ++
  want (!f.ord || i.ord) (mkCause 1 0x13) ++
  dstChecks f.dst0 ++ dstChecks f.dst1 ++
  (match i.dst with
   | .none => want (f.dst0 == noDst && f.dst1 == noDst) (mkCause 1 2)
   | .one => want (f.dst1 == noDst) (mkCause 1 2)
   | .two => []) ++
  (if carriesWave o then want (bitsAt f.imm 16 8 != 0xFF) (mkCause 1 8) else []) ++
  opExtra o f

end Sys2Proof.Machine
end

