-- ==== Sys2Proof/WellFormed.lean ====
section
/-! DEFINITION. When an instruction is well formed: a fabric word passes every check of the loader that needs only the
word (R54 to R58, R78), and an event names an object the machine can have. -/

namespace Sys2Proof

/-- Access sizes of harts and of the host attach (R262, R445). -/
def BusOp.ok : BusOp → Bool
  | .load n => n == 1 || n == 2 || n == 4 || n == 8
  | .store n _ => n == 1 || n == 2 || n == 4 || n == 8
  | .amo n _ _ => n == 4 || n == 8

/-- The range checks of an event's parameters: numbers of ports (R429), routers (R341), banks (R209), channels (R218),
generators (R216), windows (R219), harts (R1), slices (R231), border and chip-port stations (R425). -/
def Instr.eventOk : Instr → Bool
  | .windowFill _ t w | .windowWriteback _ t w => decide (t < 64 ∧ w < 8)
  | .generatorAccess _ g | .aggoNestEnd _ g => decide (g < 4)
  | .bankAccess _ b => decide (b < 32)
  | .copyTransferStart _ c | .copyPiece _ c | .copyDone _ c | .cpwaitRelease _ c | .answerDelivery _ c => decide (c < 2)
  | .mmaKgroup _ r c => decide (r < 27 ∧ c < 40)
  | .kvevictCompaction s _ => decide (s < 256)
  | .interestRetry r | .faceExpiry r _ _ => decide (r < 280)
  | .stationInput d s i => decide (d < 4 ∧ s < 16 ∧ s ≠ 6 ∧ s ≠ 7 ∧ i < 8)
  | .flitStationToken p _ | .flitGalleryInterest p _ | .flitTileData p _ | .flitGalleryAnswer p _
  | .flitManagement p _ | .flitAcknowledge p _ | .linkRetryTimeout p | .droppedFlit p _ => decide (p < 24)
  | .hartMemoryAccess h _ op => decide (h < 32) && op.ok
  | .hostAccess _ (.load n) => decide (0 < n)
  | .hostAccess _ (.store bs) => !bs.isEmpty
  | .regionPageForeignAccess _ _ op => op.ok
  | .registerWrite _ _ n _ => n == 1 || n == 2 || n == 4 || n == 8
  | .wxvworldWrite h _ | .wxworldWrite h _ => decide (h < 32)
  | _ => true

/-- A well-formed instruction. -/
def Instr.wf (i : Instr) : Bool :=
  match i.split with
  | some (o, f) => (Machine.wordChecks o f).isEmpty
  | none => i.eventOk

end Sys2Proof
end

