-- ==== Sys2Proof/Decode.lean ====
section
/-! DEFINITION. Decoding of slot words (R52) and Xwenxus words (R72 to R74), total on any bytes, and the encoder after it. -/

namespace Sys2Proof

/-- Why bytes are not an instruction. -/
inductive Reject where
  /-- The loader rejects the slot word with this cause, the lowest that applies (R77, R78). -/
  | slot (c : Cause)
  /-- A 32-bit word outside the custom-0 major opcode: a RISC-V base instruction, which this spec names but does not describe. -/
  | riscv (w : Word32)
  /-- Neither 4 nor 16 bytes. -/
  | length (n : Nat)
  deriving DecidableEq, Repr

/-- Opcodes of the flow, tag and reduction instructions with one row each (R67 to R71). -/
def flowTable : List (Nat × Op) :=
  [(0x000, .nop), (0x001, .const), (0x002, .mov), (0x003, .sink), (0x004, .steer), (0x005, .gate), (0x006, .merge),
   (0x007, .pick), (0x008, .lenter), (0x009, .lexit), (0x00A, .wadv), (0x00B, .tagset), (0x00C, .tagget),
   (0x00D, .alloc), (0x00E, .release), (0x00F, .call), (0x010, .ret), (0x011, .count), (0x012, .ired), (0x013, .fred),
   (0x014, .pset), (0x015, .pnot), (0x016, .pand), (0x017, .por), (0x018, .hold), (0x019, .reads), (0x01A, .delay),
   (0x01B, .repeatTok)]

/-- Opcodes of the integer instructions with one row each (R67 to R71). -/
def intTable : List (Nat × Op) :=
  [(0x040, .add), (0x041, .sub), (0x042, .adds), (0x043, .subs), (0x044, .mul), (0x045, .mulhi), (0x046, .mad),
   (0x047, .div), (0x048, .rem), (0x049, .min), (0x04A, .max), (0x04B, .abs), (0x04C, .neg), (0x04D, .and), (0x04E, .or),
   (0x04F, .xor), (0x050, .andn), (0x051, .not), (0x052, .shl), (0x053, .shr), (0x054, .sar), (0x055, .rotl),
   (0x056, .clz), (0x057, .popc), (0x058, .cmpeq), (0x059, .cmpne), (0x05A, .cmplt), (0x05B, .cmple), (0x05C, .sel),
   (0x05D, .bcast), (0x05E, .lane), (0x05F, .shuf), (0x060, .pack), (0x061, .unpk), (0x062, .sumr), (0x063, .maxr),
   (0x064, .minr), (0x065, .index), (0x066, .bittst)]

/-- Opcodes of the floating and conversion instructions with one row each (R67 to R71). -/
def floatTable : List (Nat × Op) :=
  [(0x0C0, .fadd), (0x0C1, .fsub), (0x0C2, .fmul), (0x0C3, .ffma), (0x0C4, .fmin), (0x0C5, .fmax), (0x0C6, .fabs),
   (0x0C7, .fneg), (0x0C8, .fcmpeq), (0x0C9, .fcmplt), (0x0CA, .fcmple), (0x0CB, .fcmpun), (0x0CC, .frcp),
   (0x0CD, .frsq), (0x0CE, .fexp2), (0x0CF, .flog2), (0x0D0, .ftanh), (0x0D1, .fsqrt), (0x0D2, .fdiv), (0x0D3, .fsumr),
   (0x0D4, .fmaxr), (0x0D5, .fcvt), (0x0D6, .icvt), (0x0D7, .fcvti), (0x0D8, .qnt), (0x0D9, .dqnt), (0x0DA, .hads),
   (0x0DB, .hadx), (0x0DC, .fscale), (0x0DD, .fresc)]

/-- Opcodes of the region instructions with one row each (R67 to R71). -/
def regionTable : List (Nat × Op) :=
  [(0x140, .launch), (0x141, .ctok), (0x142, .census), (0x143, .purge), (0x144, .quota), (0x145, .colget),
   (0x146, .colset), (0x147, .spanend), (0x148, .ctxnext), (0x149, .yield), (0x14A, .horizon)]

/-- Opcodes of the memory instructions with one row each (R67 to R71). -/
def memoryTable : List (Nat × Op) :=
  [(0x180, .ld), (0x181, .st), (0x182, .ldv), (0x183, .cmst), (0x184, .atadd), (0x185, .atmin), (0x186, .atmax),
   (0x187, .atand), (0x188, .ator), (0x189, .atxor), (0x18A, .atswp), (0x18B, .atcas), (0x18C, .attsb), (0x18D, .mtld),
   (0x18E, .mtst), (0x18F, .mttsb), (0x190, .agset), (0x191, .aggo), (0x192, .copy), (0x193, .cpwait), (0x194, .cpptr),
   (0x195, .order), (0x196, .ownpass), (0x197, .pin), (0x198, .unpin), (0x199, .pref), (0x19A, .mfence)]

/-- Opcodes of the matrix, attention-page, named-tile and system instructions with one row each (R67 to R71). -/
def engineTable : List (Nat × Op) :=
  [(0x1C0, .mma), (0x1C1, .mzero), (0x1C2, .mdrain), (0x1C3, .mscale), (0x1C4, .mcode), (0x1C5, .mepi), (0x1C6, .mswap),
   (0x1E0, .kvpack), (0x1E1, .kvxlat), (0x1E2, .massacc), (0x1E3, .kvevict), (0x1E5, .kvapp), (0x1E6, .kvstat),
   (0x1E7, .kvdrop), (0x1F0, .ndecl), (0x1F1, .nask), (0x1F2, .nann), (0x1F4, .nstat), (0x1F8, .trap), (0x1F9, .brk),
   (0x1FA, .fault), (0x1FB, .mark)]

/-- Opcodes with one row each; 0x1E4 and 0x1F3 have a row per OP and WHAT. -/
def opTable : List (Nat × Op) := flowTable ++ intTable ++ floatTable ++ regionTable ++ memoryTable ++ engineTable

/-- Find an opcode in a table. -/
def lookupOp (n : Nat) : List (Nat × Op) → Option Op
  | [] => none
  | (k, o) :: rest => if k == n then some o else lookupOp n rest

/-- The row of an opcode and its XMOD field (R67, R316, R356); none for an unassigned opcode. -/
def opOf (opc : BitVec 9) (xmod : BitVec 10) : Option Op :=
  if opc == 0x1E4 then
    (match (Machine.bitsAt xmod 0 2).toNat with
     | 0 => some .kvseqCreate
     | 1 => some .kvseqAttach
     | _ => some .kvseqDetach)
  else if opc == 0x1F3 then (if Machine.bitAt xmod 0 then some .ndropOwn else some .ndropDecl)
  else lookupOp opc.toNat opTable

/-- A destination field from its 21 bits (R59). -/
def decodeDst (w : BitVec 21) : Dst :=
  { v := Machine.bitAt w 20
    dx := Machine.bitsAt w 13 7
    dy := Machine.bitsAt w 7 6
    slot := Machine.bitsAt w 2 5
    side := Machine.bitsAt w 0 2 }

/-- The fields of a slot word below its opcode (R52). -/
def decodeFields (w : SlotWord) : Fields :=
  { et := Machine.etOfCode (Machine.bitsAt w 115 4)
    ar := Machine.arOfCode (Machine.bitsAt w 113 2)
    top := Machine.bitsAt w 110 3
    lsrc := Machine.bitsAt w 107 3
    rsrc := Machine.bitsAt w 104 3
    ksel := Machine.bitsAt w 101 3
    ssel := Machine.bitsAt w 99 2
    rnd := Machine.bitsAt w 96 3
    sat := Machine.bitAt w 95
    pinv := Machine.bitAt w 94
    bub := Machine.bitAt w 93
    ord := Machine.bitAt w 92
    mod := Machine.bitsAt w 84 8
    imm := Machine.bitsAt w 52 32
    dst0 := decodeDst (Machine.bitsAt w 31 21)
    dst1 := decodeDst (Machine.bitsAt w 10 21)
    xmod := Machine.bitsAt w 0 10 }

/-- The lowest cause of a list, or none (R77). -/
def lowestCause : List Cause → Option Cause
  | [] => none
  | c :: cs =>
    match lowestCause cs with
    | none => some c
    | some d => some (if c.toNat ≤ d.toNat then c else d)

/-- Decode a slot word, applying every check that needs only the word (R54, R67, R77). -/
def decodeSlot (w : SlotWord) : Except Reject Instr :=
  let f := decodeFields w
  match opOf (Machine.bitsAt w 119 9) f.xmod with
  | none => .error (.slot (Machine.mkCause 1 1))
  | some o =>
    match lowestCause (Machine.wordChecks o f) with
    | some c => .error (.slot c)
    | none => .ok (Instr.ofOp o f)

/-- Decode a 32-bit word of a control core: an Xwenxus instruction, the illegal-instruction exception of a custom-0
word that breaks the Xwenxus table (R74), or a base instruction. -/
def decodeWx (w : Word32) : Except Reject Instr :=
  let rd := Machine.bitsAt w 7 5
  let rs1 := Machine.bitsAt w 15 5
  let rs2 := Machine.bitsAt w 20 5
  let f7 := (Machine.bitsAt w 25 7).toNat
  if Machine.bitsAt w 0 7 != 0x0B then .error (.riscv w)
  else
    let bad := Instr.illegalInstructionException w
    let one (i : Instr) := if f7 == 0 && rs2 == 0 then i else bad
    .ok (match (Machine.bitsAt w 12 3).toNat with
      | 0 => one (.wxLaunch rd rs1)
      | 1 => if f7 == 0 then .wxPushtok rd rs1 rs2 else bad
      | 2 => if f7 == 0 then .wxPulltok rd rs1 rs2 else bad
      | 3 => one (.wxCensus rd rs1)
      | 4 => one (.wxPurge rd rs1)
      | 5 => one (.wxSpanwait rd rs1)
      | 6 => one (.wxSummary rd rs1)
      | _ => if f7 == 0 && rs2 == 0 then .wxFreeze rd rs1
             else if f7 == 1 && rs2 == 0 then .wxResume rd rs1 else bad)

/-- Decode bytes: four make a control-core word, sixteen a slot word (R53, R72), anything else is refused. -/
def decode (bs : List Byte) : Except Reject Instr :=
  if bs.length == 4 then decodeWx (Machine.ofBytes 32 bs)
  else if bs.length == 16 then decodeSlot (Machine.ofBytes 128 bs)
  else .error (.length bs.length)

/-- The 21 bits of a destination (R59). -/
def encodeDst (d : Dst) : BitVec 21 := Machine.b2b d.v ++ d.dx ++ d.dy ++ d.slot ++ d.side

/-- The slot word of an opcode and its fields, most significant field first (R52). -/
def encodeFields (opc : BitVec 9) (f : Fields) : SlotWord :=
  opc ++ Machine.etCode f.et ++ Machine.arCode f.ar ++ f.top ++ f.lsrc ++ f.rsrc ++ f.ksel ++ f.ssel ++ f.rnd ++
    Machine.b2b f.sat ++ Machine.b2b f.pinv ++ Machine.b2b f.bub ++ Machine.b2b f.ord ++ f.mod ++ f.imm ++
    encodeDst f.dst0 ++ encodeDst f.dst1 ++ f.xmod

/-- The Xwenxus word of funct7, rs2, rs1, funct3 and rd (R72). -/
def encodeR (f7 : BitVec 7) (rs2 rs1 : BitVec 5) (f3 : BitVec 3) (rd : BitVec 5) : Word32 :=
  f7 ++ rs2 ++ rs1 ++ f3 ++ rd ++ (0x0B : BitVec 7)

/-- The Xwenxus word of a hart instruction (R73); none for the other rows. -/
def encodeWx : Instr → Option Word32
  | .wxLaunch rd rs1 => some (encodeR 0 0 rs1 0 rd)
  | .wxPushtok rd rs1 rs2 => some (encodeR 0 rs2 rs1 1 rd)
  | .wxPulltok rd rs1 rs2 => some (encodeR 0 rs2 rs1 2 rd)
  | .wxCensus rd rs1 => some (encodeR 0 0 rs1 3 rd)
  | .wxPurge rd rs1 => some (encodeR 0 0 rs1 4 rd)
  | .wxSpanwait rd rs1 => some (encodeR 0 0 rs1 5 rd)
  | .wxSummary rd rs1 => some (encodeR 0 0 rs1 6 rd)
  | .wxFreeze rd rs1 => some (encodeR 0 0 rs1 7 rd)
  | .wxResume rd rs1 => some (encodeR 1 0 rs1 7 rd)
  | .illegalInstructionException w => some w
  | _ => none

/-- The slot word of a fabric instruction (R52); none for the other rows. -/
def encodeSlot (i : Instr) : Option SlotWord :=
  match i.split with
  | some (o, f) => some (encodeFields (Machine.opInfo o).opc f)
  | none => none

/-- The bytes of an instruction, least significant first (R53); none for an event, which has no encoding. -/
def encode (i : Instr) : List Byte :=
  match encodeSlot i with
  | some w => Machine.toBytes w 16
  | none =>
    match encodeWx i with
    | some w => Machine.toBytes w 4
    | none => []

/-- The instruction that the decoder reads from a word of `nbits` bits, laid out as the hardware stores it. -/
def decodeTableWord (nbits w : Nat) : Option Instr :=
  let n := if nbits ≤ 32 then 4 else 16
  match decode (Machine.toBytes (BitVec.ofNat (8 * n) w) n) with
  | .ok i => some i
  | .error _ => none

end Sys2Proof
end

