-- ==== Sys2Proof/Machine/State.lean ====
section
/-! DEFINITION. The machine's state as plain data, its faults and refusals, and the state after reset (R438). -/

namespace Sys2Proof.Machine

/-- Why a step faults. -/
inductive Fault where
  /-- A fabric instruction is given to `exec` while no element issues it; `step` never does this. Safe. -/
  | notIssuing
  /-- A hart instruction is given to `exec` while no hart executes it; `step` never does this. Safe. -/
  | notExecuting
  /-- An access of the host attach, or the read of a COPY's EXT tag table, at a physical address that R229 leaves unmapped.
  A hart's access there traps instead. Safe. -/
  | unmapped (pa : Nat)
  deriving DecidableEq, Repr

/-- Why a step is refused. -/
inductive Refusal where
  /-- An instruction without a meaning in this model; raised only by the dispatcher. Safe. -/
  | notModelled (mnemonic : String)
  /-- A hart fetched a word outside custom-0: a RISC-V base instruction, which the spec names but does not describe
  (R1, R72). Raised by `step`. Safe. -/
  | riscvBase (w : Word32)
  deriving DecidableEq, Repr

/-- What a sealed token carries outside its 352 bits: epoch, sequence number, producer identity (R405); and the SLOT and SIDE of
its header as sent, which its pad is made with and a flight replaces (R404, R423). -/
structure Seal where
  epoch : Bool
  seq : Word32
  prod : BitVec 19
  slot : BitVec 5
  side : BitVec 2
  deriving DecidableEq, Repr

/-- A token: header, tag and payload (R13), with the seal when its payload is sealed. -/
structure Token where
  hdr : Word32
  tag : Word64
  pay : Payload
  sl : Option Seal
  deriving DecidableEq, Repr

/-- Where a region controller or an engine sends a result: the issuing element's word and its matched tag (R198). -/
structure Reply where
  m : Nat
  x : Nat
  y : Nat
  slot : Nat
  f : Fields
  tag : Word64
  last : Bool
  deriving DecidableEq, Repr

/-- Who waits for a purge or a freeze: a reply on the fabric, or a hart and its rd (R198, R204). -/
inductive Waiter where
  | reply (r : Reply)
  | hart (h : Nat) (rd : BitVec 5)
  deriving DecidableEq, Repr

/-- A matched set in the ready queue (R23): the operands by side, the cycle in which it completed, the frame that CALL
took (R128), the result that a reduction captured (R133), and the cause that replaces its result (R16, R20, R22). -/
structure ReadySet where
  ctx : Nat
  slot : Nat
  l : Option Token
  r : Option Token
  p : Option Token
  members : List Token
  done : Nat
  frame : Option Nat
  red : Option Payload
  raise : Option (Cause × Nat)
  deriving DecidableEq, Repr

/-- What a matching-store or landing entry is for: an operand (R22), a waiter of ALLOC (R125) or CALL, an operand or
exit token of a reduction whose key is not active (R133), an operand in the ordered window of the active one (R134), a member
of a KVPACK instance (R319). -/
inductive EntryUse where
  | operand | allocWait | reduce | ordered | member
  deriving DecidableEq, Repr

/-- A waiting token in the matching store or, when `landed`, in the landing (R22, R214). -/
structure Entry where
  slot : Nat
  side : Nat
  tok : Token
  landed : Bool
  use : EntryUse
  deriving DecidableEq, Repr

/-- ALLOC's live count of one key (R125), with the cycle of its last admission of an arriving token and how many it admitted so in
that cycle: a release of the cycle comes before them (R126). -/
structure AllocCount where
  slot : Nat
  key : Word64
  n : Nat
  landed : Bool
  cyc : Nat
  fresh : Nat
  deriving DecidableEq, Repr

/-- The active instance of one IRED or FRED (R133, R134): its key, operands added, exit token, exact lane sums under SAT,
the expected wave value, the field values waiting, and the record or cause that its result has become. -/
structure Reduction where
  ctx : Nat
  slot : Nat
  key : Word64
  added : Nat
  exit : Option Token
  exact : List Int
  expect : Nat
  record : Option Token
  cause : Option Cause
  deriving DecidableEq, Repr

/-- A request on its way from an element to a memory-port tile or a memory tile: the instruction, its site and slot and its operands by
side, with the seals of those that are sealed until the tile opens them (R240, R249, R403). -/
structure Request where
  op : Op
  f : Fields
  x : Nat
  y : Nat
  slot : Nat
  tag : Word64
  last : Bool
  bubble : Bool
  a : Payload
  b : Payload
  c : Payload
  k : Payload
  seals : List (Nat × Seal)
  deriving DecidableEq, Repr

/-- An entry of an output queue (R11, R24). -/
inductive OutItem where
  | tok (t : Token)
  | global (q : Request)
  | tile (q : Request)
  deriving DecidableEq, Repr

/-- The latches that side-band tokens load (R289); the Bool is the E8M0 format bit. -/
structure Latches where
  scla : Payload
  sclaFmt : Bool
  sclb : Payload
  sclbFmt : Bool
  cbk : Payload
  epis : Payload
  epiz : Payload
  deriving DecidableEq, Repr

/-- A compute element (R11). `slots` is keyed by 32·ctx + slot, `k` by 8·ctx + register, `st` by 4·ctx + register; `badWords` holds
the keys of slot words with an uncorrectable error (R79). -/
structure Elem where
  x : Nat
  y : Nat
  slots : List (Nat × SlotWord)
  badWords : List Nat
  k : List (Nat × Payload)
  st : List (Nat × Payload)
  store : List Entry
  allocs : List AllocCount
  reds : List Reduction
  pend : List ReadySet
  ready : List ReadySet
  out : List OutItem
  repPos : Nat
  held : List ReadySet
  xs : Word32
  lat : Latches
  blockedTo : Nat
  lastIssue : Nat
  deriving DecidableEq, Repr

/-- A global access at or on its way to a memory-port tile (R221, R242). -/
inductive Stage where
  | net | waiting | window | translate | walk (since : Nat) | slice | held (since : Nat) | settled | frozen
  deriving DecidableEq, Repr

/-- One access: its request, tile, place in its path, cycle of acceptance, span at acceptance, virtual address, the physical
addresses of what it reaches, the accesses that must be performed before it (R241), transfer number for COPY and NASK, and
whether a purge has taken its reply (R187). -/
structure Access where
  id : Nat
  req : Request
  tile : Nat
  stage : Stage
  at' : Nat
  span : Nat
  va : Nat
  pas : List Nat
  before : List Nat
  tnum : Word32
  mute : Bool
  deriving DecidableEq, Repr

/-- The state of one chain (R242): the open wave's tag, the last access's OSEQ and SSEQ and its id while it is being
performed, and the OSEQ values done. -/
structure Chain where
  chain : Nat
  key : Nat
  wave : Option Word64
  last : Option (Nat × Nat)
  busy : Option Nat
  done : List Nat
  deriving DecidableEq, Repr

/-- Thirty-two bytes in a stream window: number in the stream, virtual address, the bytes or the cause that replaces them,
the span of a store. -/
structure WUnit where
  id : Nat
  n : Nat
  va : Nat
  pay : Payload
  cause : Option Cause
  span : Nat
  deriving DecidableEq, Repr

/-- An entry of a translation tile (R224). -/
structure XEntry where
  die : Nat
  tile : Nat
  world : BitVec 8
  vpn : Nat
  psz : Nat
  pa : Nat
  r : Bool
  w : Bool
  deriving DecidableEq, Repr

/-- Why a stream window waits: at a held line, itself or with its page walk (R269), or held by a fault that freezes its region
(R235). -/
inductive WaitKind where
  | line | walk | frozen
  deriving DecidableEq, Repr

/-- A wait of a stream window: since when, at which address, and why. -/
structure WinWait where
  since : Nat
  pa : Nat
  why : WaitKind
  deriving DecidableEq, Repr

/-- A stream window (R219): the generator stream bound to it, whether it writes, its HEAD and TAIL positions in the stream in
bytes, the bytes between them, its wait, and the translations that the memory-port tile keeps for it (R217, R224). -/
structure Window where
  id : Nat
  num : Nat
  x : Nat
  y : Nat
  gen : Nat
  write : Bool
  head : Nat
  tail : Nat
  units : List WUnit
  wait : Option WinWait
  pages : List XEntry
  deriving DecidableEq, Repr

/-- An entry of the owning-generator registry (R253): a range of a world's addresses, and its owner. -/
structure RegEntry where
  ent : Nat
  world : BitVec 8
  lo : Nat
  hi : Nat
  x : Nat
  y : Nat
  gen : Nat
  deriving DecidableEq, Repr

/-- What a memory-port tile holds for one region (R219, R220): its chains, and those of the tile's 8 windows and 16 registry entries
that the region's generators have. -/
structure MPort where
  tile : Nat
  chains : List Chain
  windows : List Window
  registry : List RegEntry
  deriving DecidableEq, Repr

/-- A generator's nest in progress: the AGGO that started it, the number of its next access, and the first cause of a store
that failed. -/
structure Nest where
  req : Request
  next : Nat
  fail : Option Cause
  deriving DecidableEq, Repr

/-- An address generator (R216, R251). -/
structure Gen where
  desc : Payload
  base : Word64
  bind : Option Request
  nest : Option Nest
  queue : List Request
  control : Nat
  deriving DecidableEq, Repr

/-- What a NASK has been answered (R352). -/
inductive Answer where
  | bytes (b : List Byte)
  | cause (c : Cause)
  deriving DecidableEq, Repr

/-- A transfer queued on or running on a copy channel (R218, R254, R352). -/
structure Xfer where
  acc : Access
  num : Word32
  answer : Option Answer
  deriving DecidableEq, Repr

/-- A copy channel (R218): current number, WPTR, running transfer, queued transfers, CPWAITs that wait. -/
structure Chan where
  num : Word32
  wptr : Nat
  cur : Option Xfer
  queue : List Xfer
  waits : List Request
  deriving DecidableEq, Repr

/-- A FIFO partition's entries, oldest first, and the place of the oldest among the partition's (R211). -/
structure Fifo where
  part : Nat
  items : List Payload
  first : Nat
  deriving DecidableEq, Repr

/-- What a bank of a memory tile did last: the client that the round-robin order goes on from, and the cycle of its last access
(R209). -/
structure BankTurn where
  bank : Nat
  client : Nat
  cycle : Nat
  deriving DecidableEq, Repr

/-- A memory tile (R209 to R218): its bytes in canonical form, mode words, FIFO entries, for each line buffer the place of its newest
line, generators, channels, CALLs that wait for a frame (R128), and the turns of its banks. -/
structure Tile where
  x : Nat
  y : Nat
  bytes : List Host.Cell
  modes : List Word64
  fifos : List Fifo
  lines : List (Nat × Nat)
  gens : List Gen
  chans : List Chan
  frameWaits : List (Nat × Nat × ReadySet)
  rr : List BankTurn
  lane : List Token
  deriving DecidableEq, Repr

/-- A port-table entry in place (R62, R177, R178): the image's word, the placed word, the entry or exit queue. -/
structure Port where
  image : Word64
  word : Word64
  queue : List Token
  closed : Bool
  deriving DecidableEq, Repr

/-- A token in a link, a flight or a lane: where it came from and where it goes (R155). -/
structure Link where
  src : Src
  x : Nat
  y : Nat
  port : Option Nat
  tok : Token
  deriving DecidableEq, Repr

/-- One change of a delta counter or sticky bit since the last sweep read it (R180): participant, key 64·ctx + col. -/
structure Delta where
  src : Src
  key : Nat
  d : Int
  act : Bool
  fire : Bool
  deriving DecidableEq, Repr

/-- The states of a context (R172). -/
inductive CtxState where
  | free | running | draining
  deriving DecidableEq, Repr

/-- A CTXNEXT that has issued (R173, R200). -/
structure CtxReq where
  addr : Word64
  drain : Option Nat
  ctx : Nat
  elems : List Elem
  cause : Option Cause
  reply : Reply
  deriving DecidableEq, Repr

/-- A staged token of a sheet input (R286). -/
structure Staged where
  row : Bool
  idx : Nat
  buf : Nat
  tok : Token
  deriving DecidableEq, Repr

/-- One bank of one sheet element (R296): 256 accumulators as codes, 16 row sums as F32 codes. -/
structure Bank where
  acc : List Nat
  rs : List Nat
  deriving DecidableEq, Repr

/-- A decoded item of a pass's stream (R289, R290): a side-band token with its SUB, or the k-steps of one data token or one
decoded CF8 block; `pred` is false where it adds nothing. -/
structure StreamItem where
  side : Option Nat
  pred : Bool
  pay : Payload
  deriving DecidableEq, Repr

/-- How far a stream has come (R291): its head waits for its partners, a ready set names it, its pass has begun. -/
inductive StreamStage where
  | pending | claimed | running
  deriving DecidableEq, Repr

/-- A stream of a sheet input (R285, R286): its buffer, its tag, whether its last token is still to come, how far it has
come, and the cause that its pass will fail with. -/
structure Stream where
  row : Bool
  idx : Nat
  buf : Nat
  tag : Word64
  unfinished : Bool
  stage : StreamStage
  cause : Option Cause
  deriving DecidableEq, Repr

/-- An input of a running pass (R290, R293): data tokens consumed, whether LAST has been, whether a decoding failure has
stopped the decoder, whether a scale token stands before the next data token, bits of a CF8 stream that wait for the rest of
their block with whether they count, and the items decoded so far. -/
structure PassInput where
  row : Bool
  idx : Nat
  buf : Nat
  toks : Nat
  ended : Bool
  stopped : Bool
  scaled : Bool
  bits : List (Bool × Bool)
  items : List StreamItem
  deriving DecidableEq, Repr

/-- How far a sheet element is in a pass (R292): its next k-group, its next A and B items, and the codebook under which its
current B item was decoded (R46). -/
structure ElemProg where
  n : Nat
  ia : Nat
  ib : Nat
  cbk : Payload
  deriving DecidableEq, Repr

/-- A pass that has issued (R291 to R297). -/
structure Pass where
  reply : Reply
  bank : Nat
  foreign : Bool
  fail : Option Cause
  prog : List ElemProg
  inputs : List PassInput
  deriving DecidableEq, Repr

/-- A bank operation that has issued and waits (R297): MZERO or MDRAIN with its matched tag; for an MDRAIN in progress, the
entries that each column has still to push (R302). -/
structure BankOp where
  op : Op
  reply : Reply
  bank : Nat
  drain : Option (List (List Payload))
  deriving DecidableEq, Repr

/-- An operation of the sheet in issue order. -/
inductive SheetOp where
  | pass (p : Pass)
  | bank (b : BankOp)
  deriving DecidableEq, Repr

/-- Owner and poison of a bank (R296). -/
structure BankState where
  owner : Option (Nat × Nat)
  poison : Option Cause
  deriving DecidableEq, Repr

/-- A matrix sheet, named by its corner (R283, R296). -/
structure Sheet where
  x : Nat
  y : Nat
  slot : Nat
  rs : Nat
  cs : Nat
  spa : Nat
  spb : Nat
  act : Nat
  banks : List BankState
  elems : List (List Bank)
  staged : List Staged
  streams : List Stream
  ops : List SheetOp
  deriving DecidableEq, Repr

/-- A station word in place with the tokens waiting at its inputs (R426 to R428). -/
structure StnWord where
  die : Nat
  word : Word64
  bind : Word64
  queues : List (List Token)
  deriving DecidableEq, Repr

/-- A region: one image in place (R154, R189). -/
structure Region where
  die : Nat
  num : Nat
  x0 : Nat
  y0 : Nat
  w : Nat
  h : Nat
  rel : Nat
  image : Word64
  tagw : List Nat
  ctxmask : BitVec 8
  multiw : Bool
  memn : Bool
  mems : Bool
  ports : List Port
  stns : List StnWord
  elems : List Elem
  tiles : List Tile
  mports : List MPort
  links : List Link
  accs : List Access
  ctx : List CtxState
  ctxCfg : List Word64
  ctxReqs : List CtxReq
  coltab : List (BitVec 256)
  census : List (Nat × Word32)
  deltas : List Delta
  admits : List (Nat × Nat)
  zeroLast : List Nat
  quiet : List Nat
  stall : List (Nat × Nat)
  stalled : List Nat
  sweeps : Word64
  sweepStart : Nat
  due : List Nat
  sheets : List Sheet
  hwerr : Nat
  yielded : Bool
  quietFor : Nat
  turns : List (Nat × Nat × Nat)
  deriving DecidableEq, Repr

/-- The states of a launch (R168), coded 0 to 7 in this order (R189). -/
inductive LState where
  | queued | placing | loading | running | frozen | saved | retired | committed
  deriving DecidableEq, Repr

/-- A purge in progress (R187): its colour and who waits for its end. -/
structure Purge where
  col : Nat
  waiters : List Waiter
  deriving DecidableEq, Repr

/-- A held write range of an image (R265) with the span it is active in (R268). -/
structure HeldRange where
  col : Nat
  base : Nat
  size : Nat
  member : Nat
  active : Option Nat
  deriving DecidableEq, Repr

/-- A span that the arrival of a SPANEND's operand closed, before that SPANEND issues (R198, R271): where the operand waits, its tag, and
the span. -/
structure SpanDue where
  m : Nat
  x : Nat
  y : Nat
  slot : Nat
  tag : Word64
  span : Nat
  deriving DecidableEq, Repr

/-- A held freeze cause with what its fault record says (R379). -/
structure FreezeCause where
  cause : Cause
  m : Nat
  x : Nat
  y : Nat
  slot : Nat
  side : Nat
  tag : Word64
  extra : Word64
  cycle : Nat
  deriving DecidableEq, Repr

/-- The sealing state of a launch (R405): GEN, PREV, E, the producers' counters, the element (member, x, y) whose tag wrap waits for an
advance, the one an advance was made for, whether a producer whose counter is at its end waits, whether one tried in this step, whether
the last sweep found no token sealed under PREV, and whether the advance that is needed has been recorded as impossible. -/
structure SealState where
  gen : Word32
  prev : Word32
  epoch : Bool
  seqs : List (BitVec 19 × Word32)
  waiting : Option (Nat × Nat × Nat)
  granted : Option (Nat × Nat × Nat)
  atMax : Bool
  hit : Bool
  prevClear : Bool
  spent : Bool
  deriving DecidableEq, Repr

/-- A launch (R168, R193, R195). -/
structure Launch where
  handle : Word32
  queue : Nat
  prio : Nat
  world : BitVec 8
  autoc : Bool
  priv : Bool
  capt : Bool
  strict : Bool
  adie : Nat
  image : Word64
  state : LState
  members : List Region
  openSpan : Nat
  closedSpans : Nat
  committed : Nat
  spanReplies : List (Nat × Reply)
  spanDue : List SpanDue
  held : List HeldRange
  sl : SealState
  purges : List Purge
  causes : List FreezeCause
  freezeWaiters : List (Nat × BitVec 5)
  freezeReq : Bool
  toSaved : Bool
  scanned : Bool
  scanTried : Bool
  areas : List (Nat × Nat)
  frozenBy : Option (Cause × Word32)
  drainFrom : Option Nat
  results : List (Nat × List Token)
  admitted : Bool
  fails : Nat
  order : Nat
  placedNo : Nat
  replay : Bool
  hwDead : Bool
  deriving DecidableEq, Repr

/-- A resident line of a cache slice, most recently used first in its list (R232, R247). -/
structure CLine where
  line : Nat
  stamp : Word64
  pinned : Bool
  deriving DecidableEq, Repr

/-- A cache slice: write clock, floor and resident lines (R232, R247). -/
structure Slice where
  clock : Word64
  floor : Word64
  lines : List CLine
  deriving DecidableEq, Repr

/-- A line held for a span of a region (R268). -/
structure HeldLine where
  line : Nat
  r : Rid
  span : Nat
  deriving DecidableEq, Repr

/-- A hart or host access that waits at a held line (R269). -/
structure BusWait where
  id : Nat
  hart : Option Nat
  va : Nat
  pa : Nat
  op : BusOp
  since : Nat
  deriving DecidableEq, Repr

/-- A write of an agent without a timeout that waits at a held line (R261): a fault record of a world, or a captured token with its
port, source, mark and cycle. -/
inductive SysWait where
  | fault (w : BitVec 8) (bits : BitVec 512)
  | capture (h : Word32) (t : Token) (port src : Nat) (mark : BitVec 16) (cycle : Nat)
  deriving DecidableEq, Repr

/-- A view of a sequence (R315). -/
structure View where
  r : Rid
  x : Nat
  y : Nat
  part : Nat
  deriving DecidableEq, Repr

/-- A directory entry of a slice's compaction engine with the attached views (R313): the table's physical address, and the
64 KiB pages that it lies in, from which a restore rewrites its views (R315, R383). -/
structure KvSeq where
  seq : Nat
  world : BitVec 8
  pa : Nat
  pages : List Nat
  views : List View
  deriving DecidableEq, Repr

/-- A KVEVICT whose hold is in place (R326): the access that waits for its result, as it was issued, and the lines held. -/
structure KvHold where
  slice : Nat
  seq : Nat
  world : BitVec 8
  r : Rid
  acc : Access
  lines : List Nat
  deriving DecidableEq, Repr

/-- A party that waits for a name (R345): an asker here, or a downstream router, or a device over a chip port (R435). -/
inductive FaceTo where
  | asker (r : Rid) (ax ay ch : Nat) (tnum : Word32)
  | router (r : Nat)
  | device (dev : Nat)
  deriving DecidableEq, Repr

/-- A face and its expiry (R345). -/
structure Face where
  who : FaceTo
  exp : Word32
  deriving DecidableEq, Repr

/-- The pending interests of one name at one router: the faces of its chain of table entries, at most 8 each (R345). -/
structure Pit where
  router : Nat
  world : BitVec 8
  name : Word64
  prod : Nat
  upexp : Word32
  chain : List (List Face)
  deriving DecidableEq, Repr

/-- A routing-table entry (R344), with the member, element, slot and tag of the NDECL that wrote it, which the record of its close
shows (R354, R369). -/
structure Route where
  closed : Bool
  glob : Bool
  world : BitVec 8
  prod : Nat
  size : Nat
  count : Nat
  base : Word64
  handle : Word32
  span : Nat
  m : Nat
  x : Nat
  y : Nat
  slot : Nat
  tag : Word64
  deriving DecidableEq, Repr

/-- A tile in a router's store, most recently used first (R343). -/
structure GTile where
  router : Nat
  world : BitVec 8
  name : Word64
  pinned : Bool
  bytes : List Byte
  deriving DecidableEq, Repr

/-- What a gallery message carries (R347, R349, R351). -/
inductive GBody where
  | interest (exp : Word32) (room : Nat) (probe : Bool) (trail : List Face)
  | refresh (exp : Word32)
  | tile (bytes : List Byte) (trail : List Face)
  | negative (cause : Cause) (trail : List Face)
  deriving DecidableEq, Repr

/-- A gallery message in flight to a router, with the face that sent it. -/
structure GMsg where
  id : Nat
  router : Nat
  world : BitVec 8
  name : Word64
  sender : FaceTo
  prod : Nat
  dev : Option (BitVec 20)
  body : GBody
  deriving DecidableEq, Repr

/-- A Brimen port (R431). -/
structure Brimen where
  next : BitVec 12
  expect : BitVec 12
  unacked : List (BitVec 512)
  waiting : List (BitVec 512)
  lastAck : Nat
  tries : Nat
  down : Bool
  deriving DecidableEq, Repr

/-- A tile being reassembled at a chip port (R430). -/
structure Reasm where
  port : Nat
  world : BitVec 8
  name : Word64
  size : Nat
  parts : List (Nat × List Byte)
  deriving DecidableEq, Repr

/-- What the trust block holds for a world (R405, R406, R409). -/
structure WorldKeys where
  world : BitVec 8
  fabric : BitVec 256
  page : BitVec 256
  capture : BitVec 256
  meas : BitVec 512
  counter : Nat
  evidence : Option (BitVec 256 × BitVec 256)
  deriving DecidableEq, Repr

/-- A privilege mode of a hart (R202, R399). -/
inductive Mode where
  | m | hs | u | vs | vu
  deriving DecidableEq, Repr

/-- The trap registers of one level: vector base, saved pc, cause, value, saved mode and interrupt enables. PRESUMED from
RISC-V, which the spec names (R1, R74). -/
structure TrapRegs where
  tvec : Word64
  epc : Word64
  cause : Word64
  tval : Word64
  pp : Mode
  pie : Bool
  ie : Bool
  deriving DecidableEq, Repr

/-- A hart's transfer of more than one 32-byte piece, or across pieces, that is on its way (R262): its address and length, whether it
stores, and the bytes that are done. -/
structure HartPart where
  va : Nat
  len : Nat
  store : Bool
  done : List Byte
  deriving DecidableEq, Repr

/-- A WX.SUMMARY on its way (R388, R389): the layout generation and the cycle count at its start, the launch blocks taken at the ends of
sweeps, the record once it is complete, and whether all of it but its first 32 bytes is written. -/
structure SumScan where
  gen : Word64
  cycle : Nat
  blocks : List (Word32 × List Byte)
  body : Option (List Byte)
  tail : Bool
  deriving DecidableEq, Repr

/-- A control-core hart (R1). `x` holds x1 to x31, `f` f0 to f31, `v` v0 to v31; `csr` holds the control and status registers that
have no field of their own; `resv` the reservation of a load-reserved: its line and the version stamp that the line then had. `mdr` holds what the last load
of HART_MEMORY_ACCESS returned, `mem` the access of that row that is on its way, `part` the pieces of a transfer and `scan` a
WX.SUMMARY that is on its way. -/
structure Hart where
  x : List Word64
  pc : Word64
  mode : Mode
  waiting : Bool
  blocked : Bool
  wxvworld : Word64
  mtrap : TrapRegs
  strap : TrapRegs
  vstrap : TrapRegs
  medeleg : Word64
  hedeleg : Word64
  mdr : Word64
  f : List Word64
  v : List (BitVec 128)
  csr : List (Nat × Word64)
  resv : Option (Nat × Word64)
  mem : Option (Nat × BusOp)
  part : Option HartPart
  scan : Option SumScan
  deriving DecidableEq, Repr

/-- A token on its way to an input of a collective station (R425, R427). -/
structure StnTok where
  die : Nat
  station : Nat
  input : Nat
  h : Word32
  m : Nat
  tok : Token
  deriving DecidableEq, Repr

/-- What the next step does: an element issues, a hart executes, another agent's step, a store at a register page, the
monitor releases a hart (R438). -/
inductive Act where
  | hart (h : Nat)
  | issue (p : Site)
  | event (i : Instr)
  | store (a : Accessor) (pa size : Nat) (value : Word64)
  | releaseHart (h : Nat)
  deriving DecidableEq, Repr, Inhabited

/-- A move: the package cycles that pass before it, and what happens. -/
structure Move where
  adv : Nat
  act : Act
  deriving DecidableEq, Repr, Inhabited

/-- The move made when the schedule is empty, by move number: nothing constrains which agent moves next (R155, R156, R263).
DESIGN CHOICE: a free value. -/
opaque freeMove : Nat → Move

/-- Which agent's instruction `exec` runs. -/
inductive Focus where
  | none
  | elem (p : Site)
  | hart (h : Nat)
  deriving DecidableEq, Repr

/-- A store at a register page (R445). -/
structure BusStore where
  a : Accessor
  pa : Nat
  size : Nat
  value : Word64
  deriving DecidableEq, Repr

/-- A replay in progress (R394): the target and the captured launch, the next entry and the one at which it ends. -/
structure Replay where
  target : Word32
  captured : Word32
  pos : Nat
  stop : Nat
  deriving DecidableEq, Repr

/-- Is the package running, stopped by a freeze, or halted by a machine check (R390, R391)? -/
inductive Pkg where
  | running | frozen | machineCheck | offline
  deriving DecidableEq, Repr

/-- The whole package. `hostParts` holds the host accesses that are on their way, with the bytes done (R445). `mezz` holds, for each mezzanine slice, its lines, most recently used first (R208, R233). -/
structure State where
  mem : List Host.Cell
  cycle : Nat
  regs : List (Nat × Word64)
  laygen : Word64
  seqNo : Word32
  lostRec : Word64
  mcRec : BitVec 512
  msis : List (Nat × Nat)
  pkg : Pkg
  booted : Bool
  flash : FlashSlot × FlashSlot
  throttled : Bool
  harts : List Hart
  launches : List Launch
  nextHandle : Word32
  pointers : List Nat
  reserved : List Word32
  orderNo : Nat
  placeDue : Nat
  slices : List Slice
  mezz : List (List Nat)
  xlat : List XEntry
  poisoned : List (Nat × Cause)
  heldLines : List HeldLine
  busWaits : List BusWait
  hostParts : List (Nat × HostOp × Nat)
  sysWaits : List SysWait
  kvSeqs : List KvSeq
  kvHolds : List KvHold
  routes : List Route
  pits : List Pit
  gtiles : List GTile
  gmsgs : List GMsg
  gheld : List GMsg
  brimen : List Brimen
  reasm : List Reasm
  mgmt : List (List Byte)
  stnToks : List StnTok
  keys : List WorldKeys
  tbQueue : List (BitVec 8 × Accessor × Word64)
  dice : List (BitVec 512)
  captDropped : List (BitVec 8)
  replays : List Replay
  freshId : Nat
  bus : Option BusStore
  sched : List Move
  moves : Nat
  focus : Focus
  deriving DecidableEq, Repr

/-- The trap registers at reset. -/
def TrapRegs.zero : TrapRegs := ⟨0, 0, 0, 0, .m, false, false⟩

/-- A hart at reset: only hart 0 runs, in M-mode (R438). (DESIGN CHOICE, log 4.) -/
def Hart.reset (first : Bool) : Hart :=
  { x := List.replicate 31 0, pc := 0, mode := .m, waiting := !first, blocked := false, wxvworld := 0,
    mtrap := .zero, strap := .zero, vstrap := .zero, medeleg := 0, hedeleg := 0, mdr := 0,
    f := List.replicate 32 0, v := List.replicate 32 0, csr := [], resv := none, mem := none, part := none, scan := none }

/-- A Brimen port at reset. -/
def Brimen.reset : Brimen := ⟨0, 0, [], [], 0, 0, false⟩

/-- A cache slice at reset. -/
def Slice.reset : Slice := ⟨0, 0, []⟩

/-- A flash slot whose contents the spec does not give. (DESIGN CHOICE, log 47.) -/
def emptySlot : FlashSlot := ⟨⟨[], [], [], 0, []⟩, ⟨[], [], [], 0, []⟩, ⟨[], [], [], 0, []⟩⟩

/-- The package right after reset (R438): no launch, every LQCFG disabled, only world 0, hart 0 of die 0 in M-mode. -/
def State.reset : State :=
  { mem := [], cycle := 0, regs := [], laygen := 0, seqNo := 0, lostRec := 0, mcRec := 0, msis := [], pkg := .running,
    booted := true, flash := (emptySlot, emptySlot), throttled := false,
    harts := Hart.reset true :: List.replicate 31 (Hart.reset false),
    launches := [], nextHandle := 0, pointers := [0, 0, 0, 0], reserved := [], orderNo := 0, placeDue := 0,
    slices := List.replicate 256 .reset, mezz := List.replicate 512 [], xlat := [], poisoned := [], heldLines := [], busWaits := [], hostParts := [], sysWaits := [], kvSeqs := [],
    kvHolds := [], routes := [], pits := [], gtiles := [], gmsgs := [], gheld := [],
    brimen := List.replicate 24 .reset, reasm := [], mgmt := [], stnToks := [], keys := [], tbQueue := [],
    dice := List.replicate 4 0, captDropped := [], replays := [], freshId := 0, bus := none, sched := [], moves := 0,
    focus := .none }

end Sys2Proof.Machine
end

