-- ==== Sys2Proof/Machine/Mem.lean ====
section
/-! DEFINITION. Byte memories in canonical form (HBM, R229; the memory tiles' bytes, R209): a list of (address, byte) pairs,
addresses strictly rising, no entry zero, since an unlisted byte reads 0 (the log names that choice for HBM; R209 states it for tiles). -/

namespace Sys2Proof.Machine

/-- What an unlisted address reads as. (DESIGN CHOICE, log 2.) -/
def unlisted : Byte := 0

/-- Read one byte. -/
def cellRead : List Host.Cell → Nat → Byte
  | [], _ => unlisted
  | c :: cs, a => if c.1 = a then c.2 else if a < c.1 then unlisted else cellRead cs a

/-- Write one byte, keeping the canonical form. -/
def cellWrite : List Host.Cell → Nat → Byte → List Host.Cell
  | [], a, v => if v = unlisted then [] else [(a, v)]
  | c :: cs, a, v =>
    if a < c.1 then (if v = unlisted then c :: cs else (a, v) :: c :: cs)
    else if c.1 = a then (if v = unlisted then cs else (a, v) :: cs)
    else c :: cellWrite cs a v

/-- The canonical form, above a bound. -/
def cellsFrom : Nat → List Host.Cell → Bool
  | _, [] => true
  | lo, c :: cs => decide (lo ≤ c.1) && decide (c.2 ≠ unlisted) && cellsFrom (c.1 + 1) cs

/-- The canonical form of a byte memory. -/
def Memory.wf (m : List Host.Cell) : Bool := cellsFrom 0 m

/-- Read n bytes from an address, lowest first. -/
def readBytes (m : List Host.Cell) (a : Nat) : Nat → List Byte
  | 0 => []
  | n + 1 => cellRead m a :: readBytes m (a + 1) n

/-- Write bytes from an address, lowest first. -/
def writeBytes (m : List Host.Cell) (a : Nat) : List Byte → List Host.Cell
  | [] => m
  | b :: bs => writeBytes (cellWrite m a b) (a + 1) bs

/-- Read n bytes as a number, least significant first (R34). -/
def readNat (m : List Host.Cell) (a n : Nat) : Nat := bytesToNat (readBytes m a n)

/-- Write a word's low n bytes, least significant first (R34). -/
def writeNat (m : List Host.Cell) (a n v : Nat) : List Host.Cell := writeBytes m a (toBytes (BitVec.ofNat (8 * n) v) n)

/-- An association list's value at a key, or a default. -/
def lookupD {α : Type} (d : α) (k : Nat) : List (Nat × α) → α
  | [] => d
  | p :: ps => if p.1 = k then p.2 else lookupD d k ps

/-- Set an association list's value at a key. -/
def setKey {α : Type} (k : Nat) (v : α) : List (Nat × α) → List (Nat × α)
  | [] => [(k, v)]
  | p :: ps => if p.1 = k then (k, v) :: ps else p :: setKey k v ps

/-- Replace the element at a position. -/
def setAt {α : Type} (n : Nat) (v : α) (l : List α) : List α := l.set n v

/-- Remove the first element that satisfies a test, with the element. -/
def takeFirst {α : Type} (q : α → Bool) : List α → Option (α × List α)
  | [] => none
  | v :: vs => if q v then some (v, vs) else (takeFirst q vs).map fun r => (r.1, v :: r.2)

/-- The number of elements that satisfy a test. -/
def countIf {α : Type} (q : α → Bool) (l : List α) : Nat := (l.filter q).length

end Sys2Proof.Machine
end

