-- ==== Sys2Proof/Machine/Slice.lean ====
section
/-! DEFINITION. The stored registers of the package page (R445), the map of physical memory (R229, R231), and the cache
slices: residence, pins, bypass, write clocks and stamps (R232, R247), poisoned lines (R371). -/

namespace Sys2Proof.Machine

/-! ## Package registers (R445) -/

/-- The value of a package register that nothing has stored to: GAL_CFG reads 4 (R342), PWRCAP 3,600 (R439), WRLD_CFG of
world 0 has V set (R438); the log names 0 for the others. (DESIGN CHOICE, log 3.) -/
def regDefault (off : Nat) : Word64 :=
  if 0x4000 ≤ off ∧ off < 0x4800 then 4
  else if off = 0x8120 then 3600
  else if off = 0xA000 then 0x8000000000000000
  else 0
/-- Read a stored package register. -/
def State.reg (s : State) (off : Nat) : Word64 := lookupD (regDefault off) off s.regs
/-- Write a stored package register. -/
def State.setReg (s : State) (off : Nat) (v : Word64) : State := { s with regs := setKey off v s.regs }
/-- Is a physical address in the map (R229)? -/
def mapped (pa : Nat) : Bool := pa / 2 ^ 40 == 0 || pa / 2 ^ 40 == 0x800 || pa / 2 ^ 40 == 0x900

/-- Does a physical address lie in HBM (R229)? -/
def inHbm (pa : Nat) : Bool := decide (pa < 2 ^ 40)

/-- The 128-byte line of an address (R231). -/
def lineOf (pa : Nat) : Nat := pa / 128

/-- The die and the index of a line's home slice as package slice number (R231). -/
def homeSlice (pa : Nat) : Nat :=
  let w : Word64 := BitVec.ofNat 64 pa
  let i := bitsAt w 7 6 ^^^ bitsAt w 13 6 ^^^ bitsAt w 19 6 ^^^ bitsAt w 25 6 ^^^ bitsAt w 31 6
  64 * (bitsAt w 38 2).toNat + i.toNat

/-- The set of a line within its slice (R231). -/
def sliceSet (pa : Nat) : Nat := pa / 2 ^ 13 % 1024

/-! ## Cache slices (R231, R232, R247) -/

/-- Ways of a slice's sets that cache lines: 16 less the ways of the gallery's tile store (R232, R342). -/
def State.cachingWays (s : State) (n : Nat) : Nat := 16 - (bitsAt (s.reg (0x4000 + 8 * n)) 0 3).toNat

/-- Is a line in a set of a slice? -/
def CLine.inSet (k : CLine) (set : Nat) : Bool := k.line % 65536 / 64 == set

/-- Replace a slice. -/
def State.putSlice (s : State) (n : Nat) (c : Slice) : State := { s with slices := s.slices.set n c }

/-- The stamp of a line: its own when resident, else the slice's floor (R247). -/
def State.stampOf (s : State) (pa : Nat) : Word64 :=
  let c := s.slices.getD (homeSlice pa) .reset
  ((c.lines.find? fun k => k.line == lineOf pa).map CLine.stamp).getD c.floor

/-- The largest of two stamps. -/
def maxStamp (a b : Word64) : Word64 := if a.ult b then b else a

/-- Is a line resident in a slice? -/
def Slice.holds (c : Slice) (line : Nat) : Bool := c.lines.any fun k => k.line == line

/-- An access to a line at its home slice: it moves to the front of its set, or is allocated in place of the least recently
used unpinned line, or bypasses the slice when every caching way is pinned (R232). A write takes the clock's next value as
the line's stamp (R247). -/
def Slice.touch (c : Slice) (ways line : Nat) (write : Bool) : Slice × Bool :=
  let clock := if write then c.clock + 1 else c.clock
  let set := line % 65536 / 64
  match c.lines.find? fun k => k.line == line with
  | some k => ({ c with clock := clock, lines := (if write then { k with stamp := clock } else k) :: c.lines.filter (fun q => q.line != line) }, false)
  | none =>
    let stamp := if write then clock else c.floor
    let here := c.lines.filter fun k => k.inSet set
    if here.length < ways then ({ c with clock := clock, lines := ⟨line, stamp, false⟩ :: c.lines }, false)
    else
      match (here.filter fun k => !k.pinned).getLast? with
      | some v => ({ clock := clock, floor := maxStamp c.floor v.stamp,
                     lines := ⟨line, if write then clock else maxStamp c.floor v.stamp, false⟩ :: c.lines.filter (fun q => q.line != v.line) }, false)
      | none => ({ c with clock := clock, floor := if write then maxStamp c.floor clock else c.floor }, true)

/-! ## The mezzanine (R231, R233) -/

/-- The pseudo-channel of an address within its stack (R231). -/
def hbmChannel (pa : Nat) : Nat :=
  let w : Word64 := BitVec.ofNat 64 pa
  (bitsAt w 7 6 ^^^ bitsAt w 13 6).toNat

/-- The HBM stack of an address (R229, R231). -/
def hbmStack (pa : Nat) : Nat := pa / 2 ^ 37 % 8

/-- The mezzanine slice of an address (R231). -/
def mezzSlice (pa : Nat) : Nat := 64 * hbmStack pa + hbmChannel pa

/-- The set of a line in its mezzanine slice: 2,048 sets of 12 ways make 3 MiB (R208). (DESIGN CHOICE, log 59.) -/
def mezzSet (line : Nat) : Nat := line / 64 % 2048

/-- A line reaches a mezzanine slice: it becomes the most recently used, and of a full set the least recently used line leaves
(R233). -/
def mezzTouch (ls : List Nat) (line : Nat) : List Nat :=
  let rest := ls.filter (· != line)
  match (rest.filter fun k => mezzSet k == mezzSet line)[11]? with
  | some v => line :: rest.filter (· != v)
  | none => line :: rest

/-- An address is served at its mezzanine slice (R221). -/
def State.reachMezz (s : State) (pa : Nat) : State :=
  { s with mezz := s.mezz.set (mezzSlice pa) (mezzTouch (s.mezz.getD (mezzSlice pa) []) (lineOf pa)) }

/-! ## Accesses to lines -/

/-- An access to the line of an address at its home slice, which a miss takes on to the mezzanine (R221, R232): the state after, and
whether it bypassed the slice. -/
def State.reach (s : State) (pa : Nat) (write : Bool) : State × Bool :=
  let n := homeSlice pa
  let c := s.slices.getD n .reset
  let r := c.touch (s.cachingWays n) (lineOf pa) write
  let s1 := s.putSlice n r.1
  (if c.holds (lineOf pa) then s1 else s1.reachMezz pa, r.2)

/-- A demand access to the line of an address at its home slice; a bypass counts in SLC_BYPASS (R232). -/
def State.touch (s : State) (pa : Nat) (write : Bool) : State :=
  let n := homeSlice pa
  let r := s.reach pa write
  if r.2 then r.1.setReg (0x2000 + 8 * n) (r.1.reg (0x2000 + 8 * n) + 1) else r.1

/-- A prefetch of the line of an address; it is no demand miss, so a bypass does not count (R232, R259). -/
def State.prefetch (s : State) (pa : Nat) : State := (s.reach pa false).1

/-- The lines that n bytes from an address reach, as addresses. -/
def lineAddrs (pa n : Nat) : List Nat := if n = 0 then [] else (List.range ((pa + n - 1) / 128 - pa / 128 + 1)).map fun k => 128 * (pa / 128 + k)

/-- Write bytes of HBM, line by line at their home slices; a line written whole is no longer poisoned (R263, R371). -/
def State.poke (s : State) (pa : Nat) (bs : List Byte) : State :=
  let ls := lineAddrs pa bs.length
  let whole (a : Nat) : Bool := decide (pa ≤ a ∧ a + 128 ≤ pa + bs.length)
  let s1 := ls.foldl (fun s a => s.touch a true) s
  { s1 with
    mem := writeBytes s1.mem pa bs
    poisoned := s1.poisoned.filter fun p => !ls.any fun a => lineOf a == p.1 && whole a }

/-- The cause of a poisoned line that n bytes from an address reach (0xC.04, 0xC.05). -/
def State.poison? (s : State) (pa n : Nat) : Option Cause :=
  (s.poisoned.find? fun p => decide (pa / 128 ≤ p.1 ∧ p.1 ≤ (pa + n - 1) / 128)).map Prod.snd

/-- Note a read of n bytes at their home slices. -/
def State.peek (s : State) (pa n : Nat) : State := (lineAddrs pa n).foldl (fun s a => s.touch a false) s

end Sys2Proof.Machine
end

