-- ==== Sys2Proof/Machine/Ops.lean ====
section
/-! DEFINITION. The named operations every meaning uses: tokens and tags, launches, regions and elements, package registers,
the census, sealing, error records, fault records, and a hart's exception and the return from it. -/

namespace Sys2Proof.Machine

/-! ## Tokens (R13, R14) -/

/-- A header from its fields, reserved bits zero (R13, R15). -/
def mkHdr (dx : BitVec 7) (dy : BitVec 6) (slot : BitVec 5) (side : BitVec 2) (pred : Bool) (kind : BitVec 2)
    (sealed last : Bool) (sub : BitVec 3) : Word32 :=
  dx ++ dy ++ slot ++ side ++ b2b pred ++ kind ++ b2b sealed ++ b2b last ++ sub ++ (0 : BitVec 4)

/-- DX of a header. -/
def Token.dx (t : Token) : Int := (bitsAt t.hdr 25 7).toInt
/-- DY of a header. -/
def Token.dy (t : Token) : Int := (bitsAt t.hdr 19 6).toInt
/-- SLOT of a header. -/
def Token.slot (t : Token) : Nat := (bitsAt t.hdr 14 5).toNat
/-- SIDE of a header. -/
def Token.side (t : Token) : Nat := (bitsAt t.hdr 12 2).toNat
/-- PRED of a header: false for a bubble (R26). -/
def Token.pred (t : Token) : Bool := bitAt t.hdr 11
/-- KIND of a header: 0 data, 1 side-band, 2 control, 3 error record. -/
def Token.kind (t : Token) : Nat := (bitsAt t.hdr 9 2).toNat
/-- LAST of a header. -/
def Token.last (t : Token) : Bool := bitAt t.hdr 7
/-- SUB of a header. -/
def Token.sub (t : Token) : Nat := (bitsAt t.hdr 4 3).toNat

/-- COL of a tag (R14). -/
def tagCol (t : Word64) : Nat := (bitsAt t 58 6).toNat
/-- CTX of a tag (R14). -/
def tagCtx (t : Word64) : Nat := (bitsAt t 55 3).toNat
/-- The census key of a tag: 64·ctx + col (R180). -/
def tagKey (t : Word64) : Nat := 64 * tagCtx t + tagCol t
/-- A tag from colour, context and path (R14). -/
def mkTag (col ctx path : Nat) : Word64 := BitVec.ofNat 6 col ++ BitVec.ofNat 3 ctx ++ BitVec.ofNat 55 path

/-- Bit position of tag field f (R17). -/
def fieldLo (tagw : List Nat) (f : Nat) : Nat := (tagw.take f).foldl (· + ·) 0
/-- Width of tag field f (R17). -/
def fieldW (tagw : List Nat) (f : Nat) : Nat := tagw.getD f 0
/-- The value of tag field f. -/
def getField (tagw : List Nat) (f : Nat) (t : Word64) : Nat := t.toNat / 2 ^ fieldLo tagw f % 2 ^ fieldW tagw f
/-- The tag with field f set. -/
def setField (tagw : List Nat) (f : Nat) (v : Nat) (t : Word64) : Word64 :=
  let lo := fieldLo tagw f
  let w := fieldW tagw f
  (t &&& ~~~(BitVec.ofNat 64 ((2 ^ w - 1) * 2 ^ lo))) ||| BitVec.ofNat 64 (v % 2 ^ w * 2 ^ lo)

/-! ## Finding and replacing parts of the state -/

/-- The launch a handle names (R193). -/
def State.launch? (s : State) (h : Word32) : Option Launch := s.launches.find? fun l => l.handle == h
/-- Replace a launch. -/
def State.putLaunch (s : State) (l : Launch) : State :=
  { s with launches := s.launches.map fun k => if k.handle == l.handle then l else k }
/-- A region of the package. -/
def State.region? (s : State) (r : Rid) : Option Region := (s.launch? r.h).bind fun l => l.members[r.m]?
/-- Replace a member of a launch. -/
def Launch.put (l : Launch) (m : Nat) (r : Region) : Launch := { l with members := l.members.set m r }
/-- Replace a region. -/
def State.putRegion (s : State) (r : Rid) (g : Region) : State :=
  match s.launch? r.h with
  | none => s
  | some l => s.putLaunch (l.put r.m g)
/-- The element at a site of a region. -/
def Region.elem? (g : Region) (x y : Nat) : Option Elem := g.elems.find? fun e => e.x == x && e.y == y
/-- Replace an element. -/
def Region.putElem (g : Region) (e : Elem) : Region :=
  { g with elems := g.elems.map fun k => if k.x == e.x && k.y == e.y then e else k }
/-- The memory tile at a site of a region. -/
def Region.tile? (g : Region) (x y : Nat) : Option Tile := g.tiles.find? fun t => t.x == x && t.y == y
/-- Replace a memory tile. -/
def Region.putTile (g : Region) (t : Tile) : Region :=
  { g with tiles := g.tiles.map fun k => if k.x == t.x && k.y == t.y then t else k }
/-- A memory-port tile as it serves a region; empty before its first access. -/
def Region.mport (g : Region) (n : Nat) : MPort := (g.mports.find? fun p => p.tile == n).getD ⟨n, [], [], []⟩
/-- Replace a memory-port tile's state. -/
def Region.putMport (g : Region) (p : MPort) : Region :=
  { g with mports := if g.mports.any (fun q => q.tile == p.tile) then
      g.mports.map (fun q => if q.tile == p.tile then p else q) else g.mports ++ [p] }
/-- An access of a region. -/
def Region.acc? (g : Region) (id : Nat) : Option Access := g.accs.find? fun a => a.id == id
/-- Replace an access. -/
def Region.putAcc (g : Region) (a : Access) : Region := { g with accs := g.accs.map fun k => if k.id == a.id then a else k }
/-- Remove an access. -/
def Region.dropAcc (g : Region) (id : Nat) : Region := { g with accs := g.accs.filter fun k => k.id != id }
/-- The site in direction DIR of an element: 0 north, 1 east, 2 south, 3 west (R128). -/
def neighbour (x y d : Nat) : Nat × Nat :=
  match d with
  | 0 => (x, y - 1)
  | 1 => (x + 1, y)
  | 2 => (x, y + 1)
  | _ => (x - 1, y)
/-- A hart. -/
def State.hart? (s : State) (h : Nat) : Option Hart := s.harts[h]?
/-- Replace a hart. -/
def State.putHart (s : State) (h : Nat) (k : Hart) : State := { s with harts := s.harts.set h k }
/-- Register x_r of a hart; x0 reads zero. -/
def Hart.reg (k : Hart) (r : BitVec 5) : Word64 := if r.toNat = 0 then 0 else k.x.getD (r.toNat - 1) 0
/-- Write register x_r; a write to x0 is discarded. -/
def Hart.setReg (k : Hart) (r : BitVec 5) (v : Word64) : Hart :=
  if r.toNat = 0 then k else { k with x := k.x.set (r.toNat - 1) v }

/-! ## Worlds and the layout generation -/

/-- WRLD_CFG of a world (R398). -/
def State.wcfg (s : State) (w : BitVec 8) : Word64 := s.reg (0xA000 + 16 * w.toNat)
/-- Does a world seal its tokens (R403)? -/
def State.sealedWorld (s : State) (w : BitVec 8) : Bool := bitAt (s.wcfg w) 63 && bitAt (s.wcfg w) 62
/-- Does the package clock run (R378, R390)? (DEDUCED, log 17.) -/
def State.clocked (s : State) : Bool := s.pkg == .running || s.pkg == .machineCheck
/-- The layout generation advances (R412). -/
def State.bumpLayout (s : State) : State := { s with laygen := s.laygen + 1 }

/-! ## Colours (R175) -/

/-- A colour-table entry. -/
def Region.col (g : Region) (c : Nat) : BitVec 256 := g.coltab.getD c 0
/-- V of a colour-table entry. -/
def colV (e : BitVec 256) : Bool := bitAt e 255
/-- AUTOP. -/
def colAutop (e : BitVec 256) : Bool := bitAt e 254
/-- HZN. -/
def colHzn (e : BitVec 256) : Nat := (bitsAt e 249 5).toNat
/-- WORLD. -/
def colWorld (e : BitVec 256) : BitVec 8 := bitsAt e 241 8
/-- SHARE. -/
def colShare (e : BitVec 256) : Nat := (bitsAt e 234 7).toNat
/-- EXIT. -/
def colExit (e : BitVec 256) : Nat := (bitsAt e 229 5).toNat
/-- QUOTA. -/
def colQuota (e : BitVec 256) : Nat := (bitsAt e 192 32).toNat
/-- ENTRYM. -/
def colEntrym (e : BitVec 256) : BitVec 31 := bitsAt e 161 31
/-- WSIZE. -/
def colWsize (e : BitVec 256) : Nat := (bitsAt e 64 64).toNat
/-- WBASE. -/
def colWbase (e : BitVec 256) : Nat := (bitsAt e 0 64).toNat
/-- The world of a token's colour. -/
def Region.tagWorld (g : Region) (t : Word64) : BitVec 8 := colWorld (g.col (tagCol t))

/-! ## Ports (R62) -/

/-- TYPE of a port-table entry. -/
def portType (w : Word64) : Nat := (bitsAt w 60 4).toNat
/-- DIE of a port-table entry. -/
def portDie (w : Word64) : Nat := (bitsAt w 58 2).toNat
/-- INDEX of a port-table entry. -/
def portIndex (w : Word64) : Nat := (bitsAt w 50 8).toNat
/-- COL of a port-table entry. -/
def portCol (w : Word64) : Nat := (bitsAt w 44 6).toNat
/-- AX of a port-table entry. -/
def portAx (w : Word64) : Nat := (bitsAt w 37 7).toNat
/-- AY of a port-table entry. -/
def portAy (w : Word64) : Nat := (bitsAt w 31 6).toNat
/-- The placed word of port i of a region, 0 (empty) beyond the table. -/
def Region.portWord (g : Region) (i : Nat) : Word64 := ((g.ports[i]?).map Port.word).getD 0
/-- The memory-port tile that a PORT field names. -/
def Region.portTile (g : Region) (i : Nat) : Nat := portIndex (g.portWord i)
/-- Replace a port. -/
def Region.putPort (g : Region) (i : Nat) (p : Port) : Region := { g with ports := g.ports.set i p }

/-! ## Census (R180) -/

/-- A delta of one participant. Side-band tokens never reach this. -/
def Region.count (g : Region) (src : Src) (tag : Word64) (d : Int) (fire : Bool) : Region :=
  { g with deltas := g.deltas ++ [⟨src, tagKey tag, d, true, fire⟩] }
/-- C(ctx, col) (R181). -/
def Region.cens (g : Region) (ctx col : Nat) : Word32 := lookupD 0 (64 * ctx + col) g.census
/-- Σ over contexts of C(ctx, col), modulo 2^32 (R198). -/
def Region.censSum (g : Region) (col : Nat) : Word32 :=
  (List.range 8).foldl (fun a c => a + g.cens c col) 0
/-- A(col) (R183). -/
def Region.adm (g : Region) (col : Nat) : Nat := lookupD 0 col g.admits

/-! ## Sealing (R403 to R405) -/

/-- A producer identity: MEMB, PX, PY, UNIT (R404). -/
def prodId (m px py unit : Nat) : BitVec 19 :=
  BitVec.ofNat 2 m ++ BitVec.ofNat 7 px ++ BitVec.ofNat 6 py ++ BitVec.ofNat 4 unit
/-- The counter block of pad block h (R404). -/
def padBlock (gen seq : Word32) (prod : BitVec 19) (slot : BitVec 5) (side : BitVec 2) (h : Bool) : BitVec 128 :=
  gen ++ seq ++ prod ++ slot ++ side ++ (0 : BitVec 37) ++ b2b h
/-- The 256-bit pad of a token (R404). -/
def pad (key : BitVec 256) (gen seq : Word32) (prod : BitVec 19) (slot : BitVec 5) (side : BitVec 2) : Payload :=
  Config.aes256 key (padBlock gen seq prod slot side true) ++ Config.aes256 key (padBlock gen seq prod slot side false)
/-- What the trust block holds for a world (R405, R406, R409). -/
def State.keysOf (s : State) (w : BitVec 8) : WorldKeys :=
  (s.keys.find? fun k => k.world == w).getD ⟨w, Config.bootKey 0 w, Config.bootKey 1 w, Config.bootKey 2 w, 0, 0, none⟩
/-- Replace what the trust block holds for a world. -/
def State.putKeys (s : State) (k : WorldKeys) : State := { s with keys := k :: s.keys.filter fun q => q.world != k.world }
/-- The fabric key of a world (R406). -/
def State.fabricKey (s : State) (w : BitVec 8) : BitVec 256 := (s.keysOf w).fabric
/-- The sequence counter of a producer (R405). -/
def SealState.seqOf (z : SealState) (p : BitVec 19) : Word32 :=
  ((z.seqs.find? fun k => k.1 == p).map Prod.snd).getD 0
/-- Advance a producer's counter. -/
def SealState.bump (z : SealState) (p : BitVec 19) : SealState :=
  let n := z.seqOf p + 1
  { z with seqs := if z.seqs.any (fun k => k.1 == p) then z.seqs.map (fun k => if k.1 == p then (p, n) else k)
                   else z.seqs ++ [(p, n)] }
/-- Has a producer's counter reached its end: it may not seal before the generation has advanced (R405)? -/
def SealState.atEnd (z : SealState) (p : BitVec 19) : Bool := z.seqOf p == 0xFFFFFFFF
/-- Seal a token of world w as producer p, when the world seals (R403). A producer whose counter is at its end may not: `hit` says so, and
the step that tried does not happen (`State.stalled`). -/
def sealTok (s : State) (z : SealState) (w : BitVec 8) (p : BitVec 19) (t : Token) : Token × SealState :=
  if s.sealedWorld w then
    let n := z.seqOf p
    let x := pad (s.fabricKey w) z.gen n p (bitsAt t.hdr 14 5) (bitsAt t.hdr 12 2)
    ({ t with hdr := setBits t.hdr 8 (1 : BitVec 1), pay := t.pay ^^^ x, sl := some ⟨z.epoch, n, p, bitsAt t.hdr 14 5, bitsAt t.hdr 12 2⟩ },
      { z.bump p with hit := z.hit || z.atEnd p })
  else (t, z)
/-- Open a token: its payload in clear (R403 to R405). -/
def openTok (s : State) (z : SealState) (w : BitVec 8) (t : Token) : Token :=
  match t.sl with
  | none => t
  | some k =>
    let gen := if k.epoch == z.epoch then z.gen else z.prev
    let x := pad (s.fabricKey w) gen k.seq k.prod k.slot k.side
    { t with hdr := setBits t.hdr 8 (0 : BitVec 1), pay := t.pay ^^^ x, sl := none }

/-- The payload of a request that stands on a side. -/
def Request.opnd (q : Request) (n : Nat) : Payload :=
  match n with
  | 0 => q.a
  | 1 => q.b
  | _ => q.c
/-- Replace the payload of a request that stands on a side. -/
def Request.setOpnd (q : Request) (n : Nat) (v : Payload) : Request :=
  match n with
  | 0 => { q with a := v }
  | 1 => { q with b := v }
  | _ => { q with c := v }
/-- A payload of a request as a token for the slot, or the port, that it goes to. -/
def Request.token (q : Request) (slot n : Nat) (sl : Option Seal) : Token :=
  ⟨mkHdr 0 0 (BitVec.ofNat 5 slot) (BitVec.ofNat 2 n) true 0 false q.last 0, q.tag, q.opnd n, sl⟩
/-- Seal the payloads of a request on some sides, each with a number of its producer's (R403, R405). (DEDUCED, log 42.) -/
def sealReq (s : State) (w : BitVec 8) (p : BitVec 19) (slot : Nat) : List Nat → Request → SealState → Request × SealState
  | [], q, z => (q, z)
  | n :: ns, q, z =>
    let r := sealTok s z w p (q.token slot n none)
    let q1 := q.setOpnd n r.1.pay
    sealReq s w p slot ns (match r.1.sl with
      | some k => { q1 with seals := q1.seals ++ [(n, k)] }
      | none => q1) r.2
/-- Open the payloads of a request (R403). -/
def openReq (s : State) (z : SealState) (w : BitVec 8) (q : Request) : Request :=
  { q.seals.foldl (fun q k => q.setOpnd k.1 (openTok s z w (q.token 0 k.1 (some k.2))).pay) q with seals := [] }
/-- The sealed payloads of a request as tokens. -/
def Request.tokens (q : Request) : List Token := q.seals.map fun k => q.token 0 k.1 (some k.2)

/-! ## Error records (R373) and fault records (R374 to R377) -/

/-- The payload of an error record (R373). -/
def recPayload (extra otag : Word64) (h : Word32) (ax ay side slot : Nat) (c : Cause) : Payload :=
  (0 : BitVec 64) ++ extra ++ otag ++ h ++ (0 : BitVec 2) ++ BitVec.ofNat 6 ay ++ BitVec.ofNat 7 ax ++
    BitVec.ofNat 2 side ++ BitVec.ofNat 5 slot ++ c

/-- What a fault record says (R376). -/
structure FaultRec where
  cause : Cause
  resp : Nat
  world : BitVec 8
  handle : Word32
  die : Nat
  x : Nat
  y : Nat
  ax : Nat
  ay : Nat
  slot : Nat
  side : Nat
  ctx : Nat
  col : Nat
  tag : Word64
  extra : Word64
  cycle : Nat
  deriving DecidableEq, Repr

/-- The 512 bits of a fault record (R376). -/
def faultBits (r : FaultRec) (seq : Word32) : BitVec 512 :=
  (0 : BitVec 128) ++ BitVec.ofNat 64 r.cycle ++ r.extra ++ r.tag ++ (0 : BitVec 26) ++ BitVec.ofNat 6 r.col ++
    BitVec.ofNat 3 r.ctx ++ BitVec.ofNat 2 r.side ++ BitVec.ofNat 5 r.slot ++ BitVec.ofNat 7 r.ax ++
    BitVec.ofNat 6 r.ay ++ (0 : BitVec 9) ++ r.world ++ r.handle ++ BitVec.ofNat 2 r.die ++ BitVec.ofNat 7 r.x ++
    BitVec.ofNat 6 r.y ++ (0 : BitVec 9) ++ (1 : BitVec 1) ++ BitVec.ofNat 2 r.resp ++ (0 : BitVec 19) ++ seq ++ r.cause

/-- The modulus of HEAD and TAIL in a fault page (R375). -/
def pageModulus : Nat := 4227858432

/-- Send an interrupt word as WRLD_MSI and PKG_MCMSI give it (R375, R391): a 4-byte store of the EIID at PA[51:2], which changes
the byte memory where that address lies in HBM. (DESIGN CHOICE, log 19.) -/
def State.sendMsi (s : State) (v : Word64) : State :=
  if bitAt v 0 then
    let pa := (bitsAt v 2 50).toNat * 4
    let s1 := { s with msis := s.msis ++ [(pa, (bitsAt v 52 11).toNat)] }
    if inHbm pa then s1.poke pa (toBytes ((bitsAt v 52 11).setWidth 32) 4) else s1
  else s

/-- Write a record in a fault page at its home slice (R375). (DESIGN CHOICE, log 16.) -/
def State.writeRecord (s : State) (page : Nat) (bits : BitVec 512) : State :=
  let head := readNat s.mem page 4
  let tail := readNat s.mem (page + 4) 4
  let word (v : Nat) : List Byte := toBytes (BitVec.ofNat 32 v) 4
  if (head + pageModulus - tail % pageModulus) % pageModulus < 63 then
    (s.poke (page + 64 + 64 * (head % 63)) (toBytes bits 64)).poke page (word ((head + 1) % pageModulus))
  else s.poke (page + 8) (word (readNat s.mem (page + 8) 4 + 1))

/-- Does the compaction engine hold a line (R326)? -/
def State.engineHolds (s : State) (line : Nat) : Bool := s.kvHolds.any fun k => k.lines.contains line

/-- Is a line held? -/
def State.lineHeld (s : State) (pa : Nat) : Bool := s.heldLines.any fun k => k.line == lineOf pa

/-- The fault page of a world, where WRLD_FPG is valid (R374). -/
def State.faultPage (s : State) (w : BitVec 8) : Option Nat :=
  let fpg := s.reg (0x5000 + 16 * w.toNat)
  if bitAt fpg 0 then some ((bitsAt fpg 12 40).toNat * 4096) else none

/-- Is a line that n bytes reach held, for a span or by the compaction engine (R261, R326)? -/
def State.areaHeld (s : State) (pa n : Nat) : Bool := (lineAddrs pa n).any fun a => s.lineHeld a || s.engineHolds (lineOf a)

/-- Must a record of a world wait: a line that its delivery reaches is held, or an earlier one waits (R261)? -/
def State.faultWaits (s : State) (w : BitVec 8) (page : Nat) : Bool :=
  s.areaHeld page 64 || s.areaHeld (page + 64 + 64 * (readNat s.mem page 4 % 63)) 64 ||
    s.sysWaits.any fun k => match k with
      | .fault v _ => v == w
      | _ => false

/-- Write a record in a world's fault page, then send its interrupt (R375). -/
def State.recordFault (s : State) (w : BitVec 8) (page : Nat) (bits : BitVec 512) : State :=
  (s.writeRecord page bits).sendMsi (s.reg (0x5008 + 16 * w.toNat))

/-- Deliver a fault record to a world: SEQ, the fault page or PKG_LOSTREC, then the interrupt (R374, R375, R377). At a held line the
delivery waits until the line is released (R261, `State.serveSys`). -/
def State.deliver (s : State) (r : FaultRec) : State :=
  let bits := faultBits r s.seqNo
  let s1 := { s with seqNo := s.seqNo + 1 }
  match s.faultPage r.world with
  | none => { s1 with lostRec := s1.lostRec + 1 }
  | some page => if s.faultWaits r.world page then { s1 with sysWaits := s1.sysWaits ++ [.fault r.world bits] } else s1.recordFault r.world page bits

/-- The fault record of a site of a region (R376). -/
def siteFault (s : State) (l : Launch) (g : Region) (w : BitVec 8) (c : Cause) (resp ax ay slot side : Nat)
    (tag extra : Word64) : FaultRec :=
  { cause := c, resp := resp, world := w, handle := l.handle, die := g.die, x := g.x0 + ax, y := g.y0 + ay, ax := ax,
    ay := ay, slot := slot, side := side, ctx := tagCtx tag, col := tagCol tag, tag := tag, extra := extra,
    cycle := s.cycle }

/-- The fault record of the region controller: AX 0x7F, AY 0x3F, SLOT 31 (R373, R376). -/
def regionFault (s : State) (l : Launch) (g : Region) (w : BitVec 8) (c : Cause) (resp : Nat) (tag extra : Word64) :
    FaultRec :=
  { siteFault s l g w c resp 0 0 31 0 tag extra with ax := 0x7F, ay := 0x3F, x := 0, y := 0 }

/-- A fault record of no region: a rejected launch (R77), a hart (R377), a register page (R401). -/
def bareFault (s : State) (w : BitVec 8) (c : Cause) (x : Nat) (extra : Word64) : FaultRec :=
  { cause := c, resp := 0, world := w, handle := 0xFFFFFFFF, die := 0, x := x, y := 0, ax := 0, ay := 0, slot := 31,
    side := 0, ctx := 0, col := 0, tag := 0, extra := extra, cycle := s.cycle }

/-! ## Harts: taking an exception and returning from it (R74, R202; RISC-V, PRESUMED, log 5) -/

/-- The world and trusted bit of a hart's accesses (R399). -/
def Hart.accessor (k : Hart) : Accessor :=
  match k.mode with
  | .m | .hs => ⟨0, true, true⟩
  | .u => ⟨0, false, true⟩
  | .vs | .vu => ⟨bitsAt k.wxvworld 0 8, false, true⟩

/-- Enter a trap level: the pc, the cause, the value and the mode are saved, interrupts go off, the pc goes to the vector
base with its low two bits clear. -/
def TrapRegs.enter (t : TrapRegs) (pc : Word64) (code : Nat) (tval : Word64) (mode : Mode) : TrapRegs :=
  { t with epc := pc, cause := BitVec.ofNat 64 code, tval := tval, pp := mode, pie := t.ie, ie := false }

/-- Where a trap handler starts. -/
def TrapRegs.handler (t : TrapRegs) : Word64 := t.tvec &&& ~~~3

/-- A hart gives up what its instruction had on its way: pieces of a transfer, a summary, a wait. -/
def Hart.drop (k : Hart) : Hart := { k with mem := none, part := none, scan := none, blocked := false }

/-- A hart takes the exception of this code: to M-mode, or to HS or VS where the delegation registers send it; what its instruction had
on its way is given up. (PRESUMED, log 5.) -/
def Hart.trap (k0 : Hart) (code : Nat) (tval : Word64) : Hart :=
  let k := k0.drop
  let lower := k.mode != .m
  let virt := k.mode == .vs || k.mode == .vu
  if lower && virt && bitAt k.medeleg code && bitAt k.hedeleg code then
    { k with vstrap := k.vstrap.enter k.pc code tval k.mode, mode := .vs, pc := k.vstrap.handler }
  else if lower && bitAt k.medeleg code then
    { k with strap := k.strap.enter k.pc code tval k.mode, mode := .hs, pc := k.strap.handler }
  else { k with mtrap := k.mtrap.enter k.pc code tval k.mode, mode := .m, pc := k.mtrap.handler }

/-- A hart returns from the trap level of its mode: the pc, the mode and the interrupt enable come back.
(PRESUMED, log 5.) -/
def Hart.trapReturn (k : Hart) : Hart :=
  match k.mode with
  | .m => { k with pc := k.mtrap.epc, mode := k.mtrap.pp, mtrap := { k.mtrap with ie := k.mtrap.pie, pie := true, pp := .u } }
  | .hs => { k with pc := k.strap.epc, mode := k.strap.pp, strap := { k.strap with ie := k.strap.pie, pie := true, pp := .u } }
  | _ => { k with pc := k.vstrap.epc, mode := k.vstrap.pp, vstrap := { k.vstrap with ie := k.vstrap.pie, pie := true, pp := .vu } }

/-- A hart takes an exception (the shared entry of every hart instruction). -/
def State.hartTrap (s : State) (h : Nat) (code : Nat) (tval : Word64) : State :=
  match s.hart? h with
  | none => s
  | some k => s.putHart h (k.trap code tval)

/-- A hart writes rd and goes to the next word. -/
def State.hartDone (s : State) (h : Nat) (rd : BitVec 5) (v : Word64) : State :=
  match s.hart? h with
  | none => s
  | some k => s.putHart h { k.setReg rd v with pc := k.pc + 4, blocked := false, part := none, scan := none }

end Sys2Proof.Machine
end

