-- ==== Sys2Proof/Machine/Operands.lean ====
section
/-! DEFINITION. Every operand form (R55, R80, R87) and the tag operations (R18, R56). -/

namespace Sys2Proof.Machine

/-- The sides an arity needs (R19). -/
def sidesOf (a : Arity) : List Nat :=
  match a with
  | .trigger | .monadic => [0]
  | .dyadic => [0, 1]
  | .predicated => [0, 1, 2]

/-- Lane i of an IMM broadcast (R55). -/
def immLane (t : ET) (imm : BitVec 32) : Nat :=
  if etWidth t = 64 then (imm.signExtend 64).toNat else imm.toNat % 2 ^ etWidth t

/-- The integer i in a type's encoding (R55). -/
def laneIndex (t : ET) (i : Nat) : Nat :=
  if etIsFloat t then fround t 0 false (.ofInt i) else i % 2 ^ etWidth t

/-- Constant register KSEL of a context (R11). -/
def Elem.kreg (e : Elem) (ctx : Nat) (n : Nat) : Payload := lookupD 0 (8 * ctx + n) e.k
/-- State register n of a context (R11). -/
def Elem.sreg (e : Elem) (ctx : Nat) (n : Nat) : Payload := lookupD 0 (4 * ctx + n) e.st
/-- Write state register n of a context. -/
def Elem.setSreg (e : Elem) (ctx : Nat) (n : Nat) (v : Payload) : Elem := { e with st := setKey (4 * ctx + n) v e.st }

/-- The operand that a source code selects (R55); a token's payload for code 0. -/
def source (e : Elem) (ctx : Nat) (f : Fields) (code : BitVec 3) (tok : Option Token) : Payload :=
  let w := etWidth f.et
  match code.toNat with
  | 0 => (tok.map Token.pay).getD 0
  | 1 => packLanes w (List.replicate (etLanes f.et) (immLane f.et f.imm))
  | 2 => e.kreg ctx f.ksel.toNat
  | 3 => e.sreg ctx f.ssel.toNat
  | _ => packLanes w ((List.range (etLanes f.et)).map (laneIndex f.et))

/-- The operands of a set whose tokens are open (R80, R87): under AR 0 the left source is LSRC, under AR 1 the right one
is RSRC, under AR 2 and 3 both are tokens; `csrc` is XMOD[2:0] on MAD and FFMA, whose addend under CSRC 0 is the
predicate-side token. -/
def operands (e : Elem) (f : Fields) (set : ReadySet) (csrc : Option (BitVec 3)) : Opnds :=
  let c := match csrc with
    | some 0 => (set.p.map Token.pay).getD 0
    | some k => source e set.ctx f k none
    | none => 0
  { a := match f.ar with
      | .trigger => source e set.ctx f f.lsrc set.l
      | _ => (set.l.map Token.pay).getD 0
    b := match f.ar with
      | .trigger | .monadic => source e set.ctx f f.rsrc none
      | _ => (set.r.map Token.pay).getD 0
    c := c
    p := (set.p.map Token.pay).getD 0
    pOn := f.ar == .predicated && csrc != some 0
    xs := e.xs
    cbk := e.lat.cbk }

/-- The tag operation of TOP on a tag (R18, R56). -/
def tagOp (tagw : List Nat) (f : Fields) (t : Word64) : Word64 :=
  let k := (bitsAt f.mod 0 4).toNat
  match f.top.toNat with
  | 1 | 2 => setField tagw k 0 t
  | 3 => setField tagw k ((getField tagw k t + 1) % 2 ^ fieldW tagw k) t
  | 4 => setBits t 55 (bitsAt f.mod 0 3)
  | 5 => setBits t 58 (bitsAt f.mod 0 6)
  | _ => t

/-- Does the tag operation wrap a field (R122)? -/
def tagWraps (tagw : List Nat) (f : Fields) (t : Word64) : Bool :=
  let k := (bitsAt f.mod 0 4).toNat
  f.top == 3 && getField tagw k t + 1 == 2 ^ fieldW tagw k

/-- The key of a tag for field f: that field set to 0 (R125, R133). -/
def keyOf (tagw : List Nat) (k : Nat) (t : Word64) : Word64 := setField tagw k 0 t

end Sys2Proof.Machine
end

