-- ==== Sys2Proof/Machine/Fire.lean ====
section
/-! DEFINITION. Firing: what every fabric instruction shares from issue to its output queue (R16, R19 to R27, R179, R180,
R403). A meaning gives `fire` a function from the operands to what it sends and changes. -/

namespace Sys2Proof.Machine

/-- A token to be sent (R25): destination, tag, PRED, KIND, LAST, SUB and payload. -/
structure Emit where
  dst : Dst
  tag : Word64
  pred : Bool
  kind : BitVec 2
  last : Bool
  sub : BitVec 3
  pay : Payload
  deriving DecidableEq, Repr

/-- Everything an issuing instruction can see: the state, its site, launch, region, element, fields and set, the set's
tokens opened (R403), the matched tag and the tag after the tag operation. -/
structure Ctx where
  s : State
  p : Site
  l : Launch
  g : Region
  e : Elem
  f : Fields
  set : ReadySet
  tag : Word64
  tagOut : Word64
  deriving DecidableEq, Repr

/-- What an instruction does: the state and element after its effects, the tokens and requests it sends, and whether its
set stays at the head of the ready queue (a REPEAT part-way). -/
structure Effect where
  s : State
  e : Elem
  emits : List Emit
  reqs : List OutItem
  keep : Bool
  deriving DecidableEq, Repr

/-- The operand tokens of a set, left, right, predicate, then members. -/
def ReadySet.toks (r : ReadySet) : List Token := r.l.toList ++ r.r.toList ++ r.p.toList ++ r.members

/-- The set with its operand tokens opened. -/
def ReadySet.opened (r : ReadySet) (s : State) (l : Launch) (g : Region) : ReadySet :=
  let o (t : Token) := openTok s l.sl (g.tagWorld t.tag) t
  { r with l := r.l.map o, r := r.r.map o, p := r.p.map o, members := r.members.map o }

/-- The matched tag of a set: that of its first operand. -/
def ReadySet.tag (r : ReadySet) : Word64 := ((r.toks.head?).map Token.tag).getD 0

/-- LAST of a set's left operand (R25). The record of a set that has no left operand takes the LAST of its right token, or 0 where
a predicate token is all there is: no rule gives one. (DESIGN CHOICE, log 58.) -/
def ReadySet.leftLast (r : ReadySet) : Bool :=
  match r.l with
  | some t => t.last
  | none => match r.r with
    | some t => t.last
    | none => false

/-- The issuing instruction's surroundings; none when no element issues. -/
def State.ctx? (s : State) (f : Fields) : Option Ctx :=
  match s.focus with
  | .elem p =>
    match s.launch? p.r.h with
    | none => none
    | some l =>
      match l.members[p.r.m]? with
      | none => none
      | some g =>
        match g.elem? p.x p.y with
        | none => none
        | some e =>
          match e.ready with
          | [] => none
          | set :: _ =>
            let o := set.opened s l g
            some ⟨s, p, l, g, e, f, o, o.tag, tagOp g.tagw f o.tag⟩
  | _ => none

/-- The valid destinations, DST0 first (R25). -/
def dests (f : Fields) : List Dst := [f.dst0, f.dst1].filter Dst.v

/-- An effect that only sends tokens. -/
def Ctx.sends (c : Ctx) (es : List Emit) : Effect := ⟨c.s, c.e, es, [], false⟩

/-- A data token for a destination with the tag after the tag operation and the left operand's LAST (R25). -/
def Ctx.data (c : Ctx) (d : Dst) (v : Payload) : Emit := ⟨d, c.tagOut, true, 0, c.set.leftLast, 0, v⟩

/-- One result to every valid destination (R82). -/
def Ctx.all (c : Ctx) (v : Payload) : Effect := c.sends ((dests c.f).map fun d => c.data d v)

/-- Two results, the first to DST0 and the second to DST1, each if valid (R82). -/
def Ctx.pair (c : Ctx) (u v : Payload) : Effect :=
  c.sends ((if c.f.dst0.v then [c.data c.f.dst0 u] else []) ++ (if c.f.dst1.v then [c.data c.f.dst1 v] else []))

/-- An error record that an element raises, to one destination (R373). -/
def Ctx.recordTo (c : Ctx) (cause : Cause) (sub : BitVec 3) (side : Nat) (extra tag : Word64) (d : Dst) : Emit :=
  ⟨d, tag, true, 3, c.set.leftLast, sub, recPayload extra c.tag c.l.handle c.p.x c.p.y side c.set.slot cause⟩

/-- The error record of a cause, in place of a result, to every valid destination (R16, R373). -/
def Ctx.raise (c : Ctx) (cause : Cause) : Effect := c.sends ((dests c.f).map (c.recordTo cause 0 0 0 c.tagOut))

/-- The record 0x1.11 of a set with a control token, which names the side of the first one (R16, R373).
(DEDUCED, log 12.) -/
def Ctx.raiseControl (c : Ctx) : Effect :=
  let side := ((c.set.toks.find? fun t => t.kind == 2).map Token.side).getD 0
  c.sends ((dests c.f).map (c.recordTo (mkCause 1 0x11) 0 side 0 c.tagOut))

/-- An error-record operand forwarded (R27). -/
def Ctx.forward (c : Ctx) (t : Token) (d : Dst) : Emit :=
  ⟨d, c.tagOut, true, 3, c.set.leftLast, BitVec.ofNat 3 t.sub, t.pay⟩

/-- A bubble (R26). -/
def Ctx.bubble (c : Ctx) (d : Dst) : Emit := ⟨d, c.tagOut, false, 0, c.set.leftLast, 0, 0⟩

/-- Bubbles to every valid destination under BUB, nothing without (R26). -/
def Ctx.bubbles (c : Ctx) : Effect := c.sends (if c.f.bub then (dests c.f).map c.bubble else [])

/-- The error-record operand on the lowest side, if any (R27). -/
def ReadySet.record? (r : ReadySet) : Option Token := r.toks.find? fun t => t.kind == 3
/-- Is some operand a control token (R16)? -/
def ReadySet.control (r : ReadySet) : Bool := r.toks.any fun t => t.kind == 2
/-- Is some operand a bubble (R26)? -/
def ReadySet.bubbly (r : ReadySet) : Bool := r.toks.any fun t => !t.pred

/-- The effect of a set before the instruction is asked: raised causes (R20, R22), error records (R27), control tokens
(R16), bubbles (R26), else the instruction's own. -/
def Ctx.standard (c : Ctx) (own : Ctx → Effect) : Effect :=
  match c.set.raise with
  | some (cause, side) => c.sends ((dests c.f).map (c.recordTo cause 0 side 0 c.tagOut))
  | none =>
    match c.set.record? with
    | some t => c.sends ((dests c.f).map (c.forward t))
    | none =>
      if c.set.control then c.raiseControl
      else if c.set.bubbly then c.bubbles
      else own c

/-- Must a recolouring be refused (R179)? -/
def Ctx.recolourRefused (c : Ctx) : Bool :=
  c.f.top == 5 &&
    (let e := c.g.col (tagCol c.tagOut)
     !colV e || (colWorld e != c.g.tagWorld c.tag && !c.g.multiw))

/-- The refusal of a recolouring: a record with the matched tag in place of every result (R179). -/
def Ctx.refuse (c : Ctx) (es : List Emit) : List Emit :=
  es.map fun m => c.recordTo (mkCause 4 6) 0 0 0 c.tag m.dst

/-- The token of an emit (R25), before sealing. -/
def Emit.token (m : Emit) : Token :=
  ⟨mkHdr m.dst.dx m.dst.dy m.dst.slot m.dst.side m.pred m.kind false m.last m.sub, m.tag, m.pay, none⟩

/-- The sink destination (R61). -/
def isSinkDst (d : Dst) : Bool := d.side == 3 && d.slot == 31

/-- Is a token one that the census counts (R180)? (DEDUCED, log 56.) -/
def Token.counted (t : Token) : Bool := t.kind != 1

/-- Put tokens in the output queue in order, sealing each as the element's (R403). -/
def pushEmits (s : State) (g : Region) (prod : BitVec 19) : List Emit → SealState → List OutItem × SealState
  | [], z => ([], z)
  | m :: ms, z =>
    let r := sealTok s z (g.tagWorld m.tag) prod m.token
    let rest := pushEmits s g prod ms r.2
    (.tok r.1 :: rest.1, rest.2)

/-- Put requests in the output queue in order, sealing their operands as the element's: those for a memory-port tile are addressed to its
port index, those for a memory tile to slot 0 (R403, R404). (DEDUCED, log 42.) -/
def pushReqs (s : State) (g : Region) (prod : BitVec 19) : List OutItem → SealState → List OutItem × SealState
  | [], z => ([], z)
  | o :: os, z =>
    let r : OutItem × SealState := match o with
      | .tok _ => (o, z)
      | .global q => let x := sealReq s (g.tagWorld q.tag) prod (bitsAt q.f.imm 4 4).toNat (sidesOf q.f.ar) q z
                     (.global x.1, x.2)
      | .tile q => let x := sealReq s (g.tagWorld q.tag) prod 0 (sidesOf q.f.ar) q z
                   (.tile x.1, x.2)
    let rest := pushReqs s g prod os r.2
    (r.1 :: rest.1, rest.2)

/-- Census of an issue (R180): −1 for each operand consumed, +1 for each token and request sent; a token for the sink is
discarded as it is sent. -/
def censusOfIssue (g : Region) (src : Src) (ops : List Token) (es : List Emit) (nreq : Nat) (tag : Word64) : Region :=
  let g1 := (ops.filter Token.counted).foldl (fun g t => g.count src t.tag (-1) true) g
  let g2 := (es.filter fun m => m.kind != 1).foldl (fun g m => g.count src m.tag (if isSinkDst m.dst then 0 else 1) true) g1
  (List.range nreq).foldl (fun g _ => g.count src tag 1 true) g2

/-- Does a tag wrap of a sealed colour have to wait for an advance of the seal generation (R405)? (DESIGN CHOICE, log 42.) -/
def Ctx.needsAdvance (c : Ctx) : Bool :=
  c.s.sealedWorld (c.g.tagWorld c.tag) && tagWraps c.g.tagw c.f c.tag && c.l.sl.granted != some (c.p.r.m, c.p.x, c.p.y)

/-- Finish an issue: stall while the output queue lacks room (R24) or an advance is due (R405), else count, seal, send and
leave the ready queue. -/
def Ctx.finish (c : Ctx) (x : Effect) : State :=
  let es := if c.recolourRefused then c.refuse x.emits else x.emits
  if x.e.out.length + es.length + x.reqs.length > 4 then c.s
  else if c.needsAdvance then
    c.s.putLaunch { c.l with sl := { c.l.sl with waiting := some ((c.l.sl.waiting).getD (c.p.r.m, c.p.x, c.p.y)) } }
  else
    match x.s.launch? c.p.r.h with
    | none => x.s
    | some l =>
      match l.members[c.p.r.m]? with
      | none => x.s
      | some g =>
        let here := some (c.p.r.m, c.p.x, c.p.y)
        let z := if l.sl.granted == here then { l.sl with granted := none } else l.sl
        let k := pushEmits x.s g (prodId c.p.r.m c.p.x c.p.y 0) es z
        let q := pushReqs x.s g (prodId c.p.r.m c.p.x c.p.y 0) x.reqs k.2
        let e := { x.e with
          out := x.e.out ++ k.1 ++ q.1
          ready := if x.keep then x.e.ready else x.e.ready.tail
          lastIssue := x.s.cycle }
        let g' := censusOfIssue (g.putElem e) (.site c.p.x c.p.y) (if x.keep then [] else c.set.toks) es x.reqs.length c.tag
        x.s.putLaunch { (l.put c.p.r.m g') with sl := q.2 }

/-- Fire an instruction whose operands get the standard treatment of errors, control tokens and bubbles. -/
def fire (f : Fields) (s : State) (own : Ctx → Effect) : Host.Outcome State Fault Refusal :=
  match s.ctx? f with
  | none => .fault .notIssuing
  | some c => .next (c.finish (c.standard own))

/-- Fire an instruction that treats every operand itself, raised causes apart. -/
def fireRaw (f : Fields) (s : State) (own : Ctx → Effect) : Host.Outcome State Fault Refusal :=
  match s.ctx? f with
  | none => .fault .notIssuing
  | some c => .next (c.finish (match c.set.raise with
      | some _ => c.standard own
      | none => own c))

/-- Fire an instruction that computes one payload from its operands (R82). -/
def fireData (f : Fields) (s : State) (g : Opnds → Payload) : Host.Outcome State Fault Refusal :=
  fire f s fun c => c.all (g (operands c.e f c.set none))

/-- Fire MAD or FFMA, whose addend CSRC selects (R87). -/
def fireMad (f : Fields) (s : State) (g : Opnds → Payload) : Host.Outcome State Fault Refusal :=
  fire f s fun c => c.all (g (operands c.e f c.set (some (bitsAt f.xmod 0 3))))

/-- Fire an instruction that computes two payloads (R82). -/
def firePair (f : Fields) (s : State) (g : Opnds → Payload × Payload) : Host.Outcome State Fault Refusal :=
  fire f s fun c => let v := g (operands c.e f c.set none)
                    c.pair v.1 v.2

/-- Fire a conversion, which may step the stochastic generator (R44). -/
def fireConv (f : Fields) (s : State) (g : Opnds → Payload × Word32) : Host.Outcome State Fault Refusal :=
  fire f s fun c => let v := g (operands c.e f c.set none)
                    { c.all v.1 with e := { c.e with xs := v.2 } }

end Sys2Proof.Machine
end

