-- ==== Sys2Proof/Machine/Tiles.lean ====
section
/-! DEFINITION. Memory tiles as their clients see them: partitions (R210, R211), frame pools (R128, R129), the completion of
a set (R23), and error records that go to an exit port (R444). -/

namespace Sys2Proof.Machine

/-- MODE of a mode word (R210). -/
def modeOf (w : Word64) : Nat := (bitsAt w 60 4).toNat
/-- PAR of a mode word. -/
def modePar (w : Word64) : Nat := (bitsAt w 56 4).toNat
/-- First byte of the partition. -/
def modeBase (w : Word64) : Nat := (bitsAt w 48 8).toNat * 1024
/-- Bytes of the partition. -/
def modeSize (w : Word64) : Nat := (bitsAt w 39 9).toNat * 1024
/-- NBR of a mode word. -/
def modeNbr (w : Word64) : Bool := bitAt w 38
/-- Mode word of a partition; 0 (no mode) beyond the tile's words. -/
def Tile.part (t : Tile) (n : Nat) : Word64 := t.modes.getD n 0
/-- The bytes at an offset of a partition. -/
def Tile.read (t : Tile) (a n : Nat) : List Byte := readBytes t.bytes a n
/-- The tile with bytes written. -/
def Tile.write (t : Tile) (a : Nat) (bs : List Byte) : Tile := { t with bytes := writeBytes t.bytes a bs }
/-- The entries of a FIFO partition, oldest first. -/
def Tile.fifo (t : Tile) (n : Nat) : List Payload := ((t.fifos.find? fun q => q.part == n).map Fifo.items).getD []
/-- Replace the entries of a FIFO partition. -/
def Tile.setFifo (t : Tile) (n : Nat) (ps : List Payload) : Tile :=
  { t with fifos := if t.fifos.any (fun q => q.part == n) then
      t.fifos.map (fun q => if q.part == n then { q with items := ps } else q) else t.fifos ++ [⟨n, ps, 0⟩] }
/-- The place of the oldest entry of a FIFO partition among the places of the partition. -/
def Tile.fifoFirst (t : Tile) (n : Nat) : Nat := ((t.fifos.find? fun q => q.part == n).map Fifo.first).getD 0
/-- Take the oldest entry from a FIFO partition. -/
def Tile.popFifo (t : Tile) (n : Nat) : Tile :=
  let cap := modeSize (t.part n) / 32
  { t with fifos := t.fifos.map fun q => if q.part == n then { q with items := q.items.tail, first := (q.first + 1) % cap } else q }
/-- The frame-pool mode word of a tile (R128). -/
def Tile.pool? (t : Tile) : Option Word64 := t.modes.find? fun w => modeOf w == 5
/-- Frames of a pool (R211). -/
def poolFrames (w : Word64) : Nat := modeSize w / 16

/-- The 128 bits of frame record m (R129). -/
def Tile.frame (t : Tile) (pool : Word64) (m : Nat) : BitVec 128 := ofBytes 128 (t.read (modeBase pool + 16 * m) 16)
/-- V of a frame record. -/
def frameV (r : BitVec 128) : Bool := bitAt r 95
/-- The lowest-numbered free frame, searching `fuel` frames from `m`. -/
def Tile.freeFrame (t : Tile) (pool : Word64) : Nat → Nat → Option Nat
  | 0, _ => none
  | fuel + 1, m => if frameV (t.frame pool m) then Tile.freeFrame t pool fuel (m + 1) else some m
/-- A frame record (R129). -/
def frameRec (ax ay : Nat) (slot : BitVec 5) (side : BitVec 2) (saved : Word64) : BitVec 128 :=
  (0 : BitVec 32) ++ (1 : BitVec 1) ++ BitVec.ofNat 7 ax ++ BitVec.ofNat 6 ay ++ slot ++ side ++ (0 : BitVec 11) ++ saved
/-- The tile with a frame record written. -/
def Tile.setFrame (t : Tile) (pool : Word64) (m : Nat) (r : BitVec 128) : Tile :=
  t.write (modeBase pool + 16 * m) (toBytes r 16)

/-- The order in which sets enter the ready queue: cycle of completion, then slot, then PATH (R23). -/
def setBefore (a b : ReadySet) : Bool :=
  decide (a.done < b.done) || (a.done == b.done && (decide (a.slot < b.slot) || (a.slot == b.slot &&
    decide ((bitsAt a.tag 0 55).toNat < (bitsAt b.tag 0 55).toNat))))

/-- Insert a set behind every set it does not precede; `skip` sets at the head keep their places. -/
def insertSet (set : ReadySet) : Nat → List ReadySet → List ReadySet
  | _, [] => [set]
  | 0, a :: rest => if setBefore set a then set :: a :: rest else a :: insertSet set 0 rest
  | n + 1, a :: rest => a :: insertSet set n rest

/-- The place that the head of the ready queue keeps: that of a REPEAT part-way (R132). -/
def Elem.kept (e : Elem) : Nat := if e.repPos = 0 then 0 else 1

/-- Enter a completed set (R23): the sets complete by now take the places of the ready queue in their order, and what finds
no place, or completes later (R214), waits in that order. -/
def Elem.complete (e : Elem) (now : Nat) (set : ReadySet) : Elem :=
  let pend := insertSet set 0 e.pend
  let due := pend.takeWhile fun q => decide (q.done ≤ now)
  let all := due.foldl (fun q r => insertSet r e.kept q) e.ready
  { e with ready := all.take 8, pend := all.drop 8 ++ pend.drop due.length }

/-- The instruction word of a slot in a context; none when the slot is empty (R53). -/
def Elem.slotWord? (e : Elem) (ctx slot : Nat) : Option SlotWord :=
  (e.slots.find? fun p => p.1 == 32 * ctx + slot).map Prod.snd

/-- CALL takes a frame for a token (R128): the record of its caller's tag and continuation, and the tile after. -/
def takeFrame (t : Tile) (pool : Word64) (m x y : Nat) (f : Fields) (tag : Word64) : Tile :=
  t.setFrame pool m (frameRec ((x : Int) + f.dst1.dx.toInt).toNat ((y : Int) + f.dst1.dy.toInt).toNat f.dst1.slot f.dst1.side tag)

/-- A frame has been freed: the first waiting CALL token takes the lowest free frame and its set completes (R128). -/
def Region.serveFrame (g : Region) (t : Tile) (pool : Word64) (now : Nat) : Region :=
  match t.frameWaits with
  | [] => g.putTile t
  | (x, y, set) :: rest =>
    match t.freeFrame pool (poolFrames pool) 0, g.elem? x y with
    | some m, some e =>
      match e.slotWord? set.ctx set.slot with
      | some w =>
        let f := decodeFields w
        let t' := takeFrame { t with frameWaits := rest } pool m x y f set.tag
        (g.putTile t').putElem (e.complete now { set with frame := some m, done := now })
      | none => g.putTile t
    | _, _ => g.putTile t

/-- Load a latch from a side-band token on a side or stream (R289); none when it loads none. -/
def Latches.load (l : Latches) (sub side : Nat) (v : Payload) : Option Latches :=
  match sub, side with
  | 0, 0 => some { l with scla := v, sclaFmt := false }
  | 1, 0 => some { l with scla := v, sclaFmt := true }
  | 0, 1 => some { l with sclb := v, sclbFmt := false }
  | 1, 1 => some { l with sclb := v, sclbFmt := true }
  | 2, _ => some { l with cbk := v }
  | 3, _ => some { l with epis := v }
  | 4, _ => some { l with epiz := v }
  | _, _ => none

/-- A pair is no longer quiescent in a region: a token of it has come (R182, R424). -/
def Region.stir (g : Region) (key : Nat) : Region :=
  { g with quiet := g.quiet.filter (· != key), zeroLast := g.zeroLast.filter (· != key) }

/-- Put a token on the operand network from a source toward the exit port of its colour, or to the fault page when the
colour has none (R444): sealed as producer `prod`, and counted when it is a token. The exit ports of a group are member 0's (R420):
from another member the token comes to member 0 and counts there. (DEDUCED, log 35.) -/
def raiseToExit (s : State) (r : Rid) (src : Src) (prod : BitVec 19) (ax ay slot side : Nat) (sub : BitVec 3) (c : Cause)
    (extra tag : Word64) : State :=
  match s.launch? r.h with
  | none => s
  | some l =>
    match l.members[r.m]?, l.members[0]? with
    | some g, some g0 =>
      let e := g.col (tagCol tag)
      if colExit e = 31 then s.deliver (siteFault s l g (colWorld e) c 0 ax ay slot side tag extra)
      else
        let t : Token := ⟨mkHdr 0 0 (BitVec.ofNat 5 (colExit e)) 3 true 3 false false sub, tag,
          recPayload extra tag l.handle ax ay side slot c, none⟩
        let z := sealTok s l.sl (colWorld e) prod t
        let from' := if r.m = 0 then src else .ctrl
        let g1 := g0.count from' tag 1 false
        let g2 := if r.m = 0 then g1 else g1.stir (tagKey tag)
        s.putLaunch { (l.put 0 { g2 with links := g2.links ++ [⟨from', 0, 0, some (colExit e), z.1⟩] }) with sl := z.2 }
    | _, _ => s

end Sys2Proof.Machine
end

