-- ==== Sys2Proof/Machine/Flow.lean ====
section
/-! DEFINITION. The flow, tag and reduction instructions, 0x000 to 0x01B (R114 to R138), from issue on. What ALLOC, CALL,
IRED, FRED and RELEASE's partner do when a token arrives stands in Machine/Arrive.lean. -/

namespace Sys2Proof.Machine

/-- Is lane 0 of a predicate payload true after PINV (R21)? -/
def decide0 (f : Fields) (p : Payload) : Bool := predLane (etWidth f.et) f.pinv p 0

/-- The payloads of the operands of an issuing set. -/
def Ctx.opnds (c : Ctx) : Opnds := operands c.e c.f c.set none

/-- An emit to a destination if it is valid. -/
def toDst (d : Dst) (m : Emit) : List Emit := if d.v then [m] else []

/-- NOP: consume and emit nothing (R115). -/
def execNop (f : Fields) (s : State) : Host.Outcome State Fault Refusal := fire f s fun c => c.sends []

/-- CONST: the value LSRC selects (R116). -/
def execConst (f : Fields) (s : State) : Host.Outcome State Fault Refusal := fireData f s fun x => x.a

/-- MOV: a unchanged (R116). -/
def execMov (f : Fields) (s : State) : Host.Outcome State Fault Refusal := fireData f s fun x => x.a

/-- The count of a SINK after one more token: in the state register, or sent and cleared on LAST (R115). -/
def sinkEffect (c : Ctx) : Effect :=
  let st := c.e.sreg c.set.ctx c.f.ssel.toNat
  let n := bitsAt st 0 32 + 1
  if c.set.leftLast then
    { c.sends (toDst c.f.dst0 ⟨c.f.dst0, c.tagOut, true, 0, true, 0, lane0 n.toNat⟩) with
      e := c.e.setSreg c.set.ctx c.f.ssel.toNat (setBits st 0 (0 : BitVec 32)) }
  else { c.sends [] with e := c.e.setSreg c.set.ctx c.f.ssel.toNat (setBits st 0 n) }

/-- SINK: consume, and count under CNT (R115). -/
def execSink (f : Fields) (s : State) : Host.Outcome State Fault Refusal :=
  fire f s fun c => if bitAt f.xmod 0 then sinkEffect c else c.sends []

/-- STEER: a to DST0 when lane 0 of the predicate is true, to DST1 when it is false (R117). -/
def execSteer (f : Fields) (s : State) : Host.Outcome State Fault Refusal :=
  fire f s fun c =>
    let d := if decide0 f c.opnds.b then f.dst0 else f.dst1
    c.sends (toDst d (c.data d c.opnds.a))

/-- GATE: a when lane 0 of the predicate is true, a bubble when it is false (R118). -/
def execGate (f : Fields) (s : State) : Host.Outcome State Fault Refusal :=
  fire f s fun c =>
    if decide0 f c.opnds.b then c.all c.opnds.a else c.sends ((dests f).map c.bubble)

/-- The choice of MERGE (R119). -/
def mergeEffect (c : Ctx) : Effect :=
  match c.set.record? with
  | some t => c.sends ((dests c.f).map (c.forward t))
  | none =>
    if c.set.control then c.raiseControl
    else
      match c.set.l, c.set.r with
      | some a, some b =>
        if a.pred && b.pred then c.raise (mkCause 2 0xC)
        else if a.pred then c.sends ((dests c.f).map fun d => { c.data d a.pay with last := a.last })
        else if b.pred then c.sends ((dests c.f).map fun d => { c.data d b.pay with last := b.last })
        else c.sends ((dests c.f).map fun d => { c.bubble d with last := a.last || b.last })
      | _, _ => c.sends []

/-- MERGE: the true one of two tokens (R119). -/
def execMerge (f : Fields) (s : State) : Host.Outcome State Fault Refusal := fireRaw f s mergeEffect

/-- PICK: a when lane 0 of p is true, else b, whole (R120). -/
def execPick (f : Fields) (s : State) : Host.Outcome State Fault Refusal :=
  fire f s fun c =>
    let t := if decide0 f c.opnds.p then c.set.l else c.set.r
    match t with
    | some u => c.sends ((dests f).map fun d => { c.data d u.pay with last := u.last })
    | none => c.sends []

/-- LENTER: push field f (R121). -/
def execLenter (f : Fields) (s : State) : Host.Outcome State Fault Refusal := fireData f s fun x => x.a

/-- LEXIT: pop field f (R121). -/
def execLexit (f : Fields) (s : State) : Host.Outcome State Fault Refusal := fireData f s fun x => x.a

/-- WADV: advance field f (R121). -/
def execWadv (f : Fields) (s : State) : Host.Outcome State Fault Refusal := fireData f s fun x => x.a

/-- TAGSET: replace a field or PATH of the tag by b[0] (R123). -/
def execTagset (f : Fields) (s : State) : Host.Outcome State Fault Refusal :=
  fire f s fun c =>
    let v := laneU (etWidth f.et) c.opnds.b 0
    let k := (bitsAt f.xmod 0 4).toNat
    let whole := bitAt f.xmod 4
    if (if whole then 55 else fieldW c.g.tagw k) ≤ Nat.log2 v ∧ v ≠ 0 then c.raise (mkCause 2 1)
    else
      let t := if whole then setBits c.tag 0 (BitVec.ofNat 55 v) else setField c.g.tagw k v c.tag
      c.sends ((dests f).map fun d => { c.data d c.opnds.a with tag := t })

/-- The part of the tag that SEL names (R124). -/
def tagPart (tagw : List Nat) (f : Fields) (t : Word64) : Nat :=
  match (bitsAt f.xmod 4 3).toNat with
  | 0 => getField tagw (bitsAt f.xmod 0 4).toNat t
  | 1 => (bitsAt t 0 55).toNat
  | 2 => tagCol t
  | 3 => tagCtx t
  | _ => t.toNat

/-- TAGGET: a part of the matched tag in lane 0 (R124). -/
def execTagget (f : Fields) (s : State) : Host.Outcome State Fault Refusal :=
  fire f s fun c => c.all (lane0 (tagPart c.g.tagw f c.tag))

/-- ALLOC: an admitted token goes on unchanged (R125). -/
def execAlloc (f : Fields) (s : State) : Host.Outcome State Fault Refusal := fireData f s fun x => x.a

/-- What RELEASE sends to DST0: a, a forwarded record, a bubble, or 0x1.11 for a control token (R127). -/
def releaseFirst (c : Ctx) : Effect := c.standard fun c => c.sends ((dests c.f).map fun d => c.data d c.opnds.a)

/-- The release token to DST1 (R127). -/
def releaseToken (c : Ctx) : Emit := ⟨c.f.dst1, c.tagOut, true, 2, c.set.leftLast, 1, 0⟩

/-- RELEASE: DST0 as usual, and a release token to DST1 whatever the operand is (R127). -/
def execRelease (f : Fields) (s : State) : Host.Outcome State Fault Refusal :=
  fireRaw f s fun c =>
    let x := releaseFirst { c with f := { c.f with dst1 := noDst } }
    { x with emits := x.emits ++ [releaseToken c] }

/-- CALL: the token to DST0 with field f set to the frame that its arrival took (R128). A forwarded error record and the records
0x1.11 and 0x1.12 go to both destinations, as R27, R16 and R20 have it. (DESIGN CHOICE, log 58.) -/
def execCall (f : Fields) (s : State) : Host.Outcome State Fault Refusal :=
  fireRaw f s fun c =>
    let t := setField c.g.tagw (bitsAt f.xmod 0 4).toNat (c.set.frame.getD 0) c.tag
    if c.set.record?.isSome || c.set.control then c.standard fun c => c.sends []
    else if c.set.bubbly then
      c.sends (if f.bub then toDst f.dst0 { c.bubble f.dst0 with tag := t } else [])
    else c.sends (toDst f.dst0 { c.data f.dst0 c.opnds.a with tag := t })

/-- The destination of a frame record as offsets from RET's site (R130). -/
def retDst (r : BitVec 128) (x y : Nat) : Dst :=
  ⟨true, BitVec.ofInt 7 (((bitsAt r 88 7).toNat : Int) - x), BitVec.ofInt 6 (((bitsAt r 82 6).toNat : Int) - y),
    bitsAt r 77 5, bitsAt r 75 2⟩

/-- What RET does with a token or bubble (R130). -/
def retEffect (c : Ctx) : Effect :=
  let d := neighbour c.p.x c.p.y (bitsAt c.f.xmod 4 2).toNat
  let m := getField c.g.tagw (bitsAt c.f.xmod 0 4).toNat c.tag
  let toExit (cause : Cause) : Effect :=
    { c.sends [] with
      s := raiseToExit c.s c.p.r (.site c.p.x c.p.y) (prodId c.p.r.m c.p.x c.p.y 0) c.p.x c.p.y c.set.slot 0 0 cause 0 c.tag }
  match c.g.tile? d.1 d.2 with
  | none => toExit (mkCause 2 7)
  | some t =>
    match t.pool? with
    | none => toExit (mkCause 2 7)
    | some pool =>
      if poolFrames pool ≤ m then toExit (mkCause 2 7)
      else
        let r := t.frame pool m
        if !frameV r then toExit (mkCause 2 4)
        else
          let t' := t.setFrame pool m (setBits r 95 (0 : BitVec 1))
          let g := c.g.serveFrame t' pool c.s.cycle
          let dst := retDst r c.p.x c.p.y
          { c.sends [⟨dst, bitsAt r 0 64, !c.set.bubbly, 0, c.set.leftLast, 0, if c.set.bubbly then 0 else c.opnds.a⟩] with
            s := c.s.putRegion c.p.r g, e := (g.elem? c.p.x c.p.y).getD c.e }

/-- RET: the result to the continuation in the frame record, which is freed (R130). A control token or an error record at RET,
which has no destinations, is consumed, nothing is sent, and the frame stays in use. (DESIGN CHOICE, log 58.) -/
def execRet (f : Fields) (s : State) : Host.Outcome State Fault Refusal :=
  fireRaw f s fun c =>
    if c.set.record?.isSome || c.set.control || (c.set.bubbly && !f.bub) then c.standard fun c => c.sends []
    else retEffect c

/-- COUNT: successive values of a counter in a lane of a state register (R131). -/
def execCount (f : Fields) (s : State) : Host.Outcome State Fault Refusal :=
  fire f s fun c =>
    let w := etWidth f.et
    let j := (bitsAt f.xmod 0 3).toNat
    let st := c.e.sreg c.set.ctx f.ssel.toNat
    let v := laneU w st j
    let n := if c.set.leftLast then 0 else (v + laneU w c.opnds.b 0) % 2 ^ w
    { c.all (lane0 v) with
      e := c.e.setSreg c.set.ctx f.ssel.toNat (packLanes w ((lanesOf w st).set j n)) }

/-- A reduction's surroundings as its exit token gives them: its tag is the matched one (R133), for the tag operation and the
wrap of R122 too. -/
def Ctx.atExit (c : Ctx) : Ctx :=
  match c.set.r with
  | none => c
  | some e => { c with tag := e.tag, tagOut := tagOp c.g.tagw c.f e.tag }

/-- A reduction's result on issue: the captured value, the record or cause it became, or what its exit token says, with
the exit token's tag and LAST (R133, R135). -/
def reduceEffect (c0 : Ctx) : Effect :=
  match c0.set.r with
  | none => c0.standard fun c => c.sends []
  | some _ =>
    let c := { c0 with set := { c0.set with l := none, raise := none } }
    match c0.set.raise with
    | some (cause, side) => c.sends ((dests c.f).map (c.recordTo cause 0 side 0 c.tagOut))
    | none =>
      match c0.set.l with
      | some t => c.sends ((dests c.f).map (c.forward t))
      | none => c.standard fun c => c.all (c.set.red.getD 0)

/-- Fire a reduction, whose operands were absorbed as they arrived (R133). -/
def fireReduce (f : Fields) (s : State) : Host.Outcome State Fault Refusal :=
  match s.ctx? f with
  | none => .fault .notIssuing
  | some c => .next (c.atExit.finish (reduceEffect c.atExit))

/-- IRED: the exact lane sums of an instance (R133). -/
def execIred (f : Fields) (s : State) : Host.Outcome State Fault Refusal := fireReduce f s

/-- FRED: the rounded lane sums of an instance (R133, R134). -/
def execFred (f : Fields) (s : State) : Host.Outcome State Fault Refusal := fireReduce f s

/-- Is lane i nonzero as PSET reads it: any bit for integers, other than ±0 for floating types (R136)? On LUT4, which R33 makes
neither, any bit of the 4-bit index. (DESIGN CHOICE, log 58.) -/
def psetLane (t : ET) (v : Nat) : Bool := if etIsFloat t then v % 2 ^ (etWidth t - 1) != 0 else v != 0

/-- PSET (R136). -/
def execPset (f : Fields) (s : State) : Host.Outcome State Fault Refusal :=
  fireData f s fun x => predResult f x fun i => psetLane f.et (ua f x i)

/-- PNOT (R136). -/
def execPnot (f : Fields) (s : State) : Host.Outcome State Fault Refusal :=
  fireData f s fun x => predResult f x fun i => ua f x i % 2 == 0

/-- PAND; PINV inverts b (R136). -/
def execPand (f : Fields) (s : State) : Host.Outcome State Fault Refusal :=
  fireData f s fun x => predResult f x fun i => ua f x i % 2 == 1 && ((ub f x i % 2 == 1) != f.pinv)

/-- POR; PINV inverts b (R136). -/
def execPor (f : Fields) (s : State) : Host.Outcome State Fault Refusal :=
  fireData f s fun x => predResult f x fun i => ua f x i % 2 == 1 || ((ub f x i % 2 == 1) != f.pinv)

/-- HOLD: write a to a state register, under AR 2 only the lanes whose predicate is true, and send a (R137). -/
def execHold (f : Fields) (s : State) : Host.Outcome State Fault Refusal :=
  fire f s fun c =>
    let w := etWidth f.et
    let x := c.opnds
    let st := c.e.sreg c.set.ctx f.ssel.toNat
    let v := if f.ar == .dyadic then
        packLanes w ((List.range (256 / w)).map fun i => if predLane w f.pinv x.b i then laneU w x.a i else laneU w st i)
      else x.a
    { c.all x.a with e := c.e.setSreg c.set.ctx f.ssel.toNat v }

/-- READS: send a state register, and clear it under CLR (R137). -/
def execReads (f : Fields) (s : State) : Host.Outcome State Fault Refusal :=
  fire f s fun c =>
    let st := c.e.sreg c.set.ctx f.ssel.toNat
    { c.all st with e := if bitAt f.xmod 0 then c.e.setSreg c.set.ctx f.ssel.toNat 0 else c.e }

/-- Shift a into a delay line of d + 1 state registers from register n (R138). -/
def delayShift (e : Elem) (ctx n : Nat) : Nat → Payload → Elem
  | 0, a => e.setSreg ctx n a
  | d + 1, a => delayShift (e.setSreg ctx (n + d + 1) (e.sreg ctx (n + d))) ctx n d a

/-- DELAY: the value of D firings ago (R138). -/
def execDelay (f : Fields) (s : State) : Host.Outcome State Fault Refusal :=
  fire f s fun c =>
    let d := (bitsAt f.xmod 0 2).toNat
    let n := f.ssel.toNat
    { c.all (c.e.sreg c.set.ctx (n + d)) with e := delayShift c.e c.set.ctx n d c.opnds.a }

/-- One issue cycle of REPEAT: the copy at its position and, with the last copy, the token for DST1 (R132).
(DEDUCED, log 54.) -/
def repeatEffect (c : Ctx) : Effect :=
  let k := (bitsAt c.f.xmod 0 4).toNat
  let N := laneU (etWidth c.f.et) c.opnds.b 0
  if N > 65536 ∨ N > 2 ^ fieldW c.g.tagw k then c.raise (mkCause 2 2)
  else
    let i := c.e.repPos
    let pred := !c.set.bubbly
    let copy := if i < N then toDst c.f.dst0 ⟨c.f.dst0, setField c.g.tagw k i c.tag, pred, 0, decide (i + 1 = N), 0,
      if pred then c.opnds.a else 0⟩ else []
    let fin := decide (N ≤ i + 1)
    let tail := if fin then toDst c.f.dst1 ⟨c.f.dst1, c.tag, pred, 0, true, 0, if pred then lane0 (N % 2 ^ 32) else 0⟩ else []
    ⟨c.s, { c.e with repPos := if fin then 0 else i + 1 }, copy ++ tail, [], !fin⟩

/-- REPEAT: N copies of a with tag.f = 0 to N − 1, one per issue (R132). -/
def execRepeatTok (f : Fields) (s : State) : Host.Outcome State Fault Refusal :=
  fireRaw f s fun c =>
    if c.set.record?.isSome || c.set.control || (c.set.bubbly && !f.bub) then c.standard fun c => c.sends []
    else repeatEffect c

end Sys2Proof.Machine
end

