-- ==== Sys2Proof/Machine/Arrive.lean ====
section
/-! DEFINITION. What a token does when it arrives at an element: matching, the landing, admission, frames, reductions and
latches (R16, R20 to R23, R125, R128, R133 to R135, R185, R213 to R215, R289, R319). -/

namespace Sys2Proof.Machine

/-- XOR of the 6-bit groups of a number, `n` of them. -/
def fold6 : Nat → Nat → Nat
  | 0, _ => 0
  | n + 1, v => (v % 64) ^^^ fold6 n (v / 64)

/-- The landing bucket of a key (R214). -/
def bucket (slot side : Nat) (tag : Word64) : Nat := fold6 11 (tag.toNat ^^^ (slot * 4 + side))

/-- Entries of an element's landing (R213). -/
def landingCap (g : Region) (x y : Nat) : Nat :=
  let cap (t : Option Tile) (nbr : Bool) : Nat :=
    match t.bind fun t => t.modes.find? fun w => modeOf w == 6 && modeNbr w == nbr with
    | some w => 128 * (modePar w + 1)
    | none => 0
  if x + 1 < g.w then cap (g.tile? (x + 1) y) false else if x = 0 then 0 else cap (g.tile? (x - 1) y) true

/-- Matching-store entries in use, of one colour or of all (R185). -/
def Elem.stored (e : Elem) (col : Option Nat) : Nat :=
  let ok (t : Word64) := match col with
    | none => true
    | some c => tagCol t == c
  countIf (fun n => !n.landed && ok n.tok.tag) e.store + countIf (fun a => !a.landed && ok a.key) e.allocs

/-- Landing entries in use. -/
def Elem.landed (e : Elem) : Nat := countIf Entry.landed e.store + countIf AllocCount.landed e.allocs

/-- Where a new entry of a colour goes: false the matching store, true the landing, none when the landing is full
(R22, R185, R215). -/
def placeFor (g : Region) (e : Elem) (tag : Word64) : Option Bool :=
  if e.stored (some (tagCol tag)) < colShare (g.col (tagCol tag)) && e.stored none < 64 then some false
  else if e.landed < landingCap g e.x e.y then some true
  else none

/-- Insert a waiting token; none when the landing is exhausted. -/
def Elem.wait (e : Elem) (g : Region) (slot side : Nat) (t : Token) (use : EntryUse) : Option Elem :=
  (placeFor g e t.tag).map fun b => { e with store := e.store ++ [⟨slot, side, t, b, use⟩] }

/-- Does an entry wait as this operand? -/
def Entry.isOp (n : Entry) (slot side : Nat) (tag : Word64) (landed : Bool) : Bool :=
  n.use == .operand && n.slot == slot && n.side == side && n.tok.tag == tag && n.landed == landed

/-- Find the partners of an arrival on the given sides, in the store and, when probing, in the landing: the tokens found in
side order and the element without them. -/
def Elem.partners (e : Elem) (slot : Nat) (tag : Word64) (probe : Bool) : List Nat → Option (List (Nat × Token) × Elem)
  | [] => some ([], e)
  | side :: rest =>
    match takeFirst (fun n => n.isOp slot side tag false || (probe && n.isOp slot side tag true)) e.store with
    | none => none
    | some (n, st) => (Elem.partners { e with store := st } slot tag probe rest).map fun r => ((side, n.tok) :: r.1, r.2)

/-- Does the landing summary name a bucket (R214)? -/
def Elem.summary (e : Elem) (b : Nat) : Bool :=
  e.store.any fun n => n.landed && bucket n.slot n.side n.tok.tag == b

/-- A set from tokens by side. -/
def setOf (ctx slot : Nat) (ts : List (Nat × Token)) (done : Nat) (raise : Option (Cause × Nat)) : ReadySet :=
  let at' (n : Nat) := (ts.find? fun p => p.1 == n).map Prod.snd
  ⟨ctx, slot, at' 0, at' 1, at' 2, [], done, none, none, raise⟩

/-- The outcome of an arrival at an element: the element and its region after, tokens consumed within the step, error
records for the exit port (cause), or the landing exhausted. -/
structure Arrived where
  g : Region
  e : Elem
  consumed : List Token
  exits : List Cause
  exhausted : Bool
  deriving DecidableEq, Repr

/-- An arrival that only changes the element. -/
def arrivedAt (g : Region) (e : Elem) : Arrived := ⟨g, e, [], [], false⟩

/-- An arrival whose token must wait. -/
def arrivedWait (g : Region) (e : Elem) (slot side : Nat) (t : Token) (use : EntryUse) : Arrived :=
  match e.wait g slot side t use with
  | some e' => arrivedAt g e'
  | none => ⟨g, e, [], [], true⟩

/-- An operand of a matched instruction (R22, R214). -/
def arriveOperand (now : Nat) (g : Region) (e : Elem) (ctx slot side : Nat) (sides : List Nat) (t : Token) : Arrived :=
  let others := sides.filter (· != side)
  match e.partners slot t.tag false others with
  | some (ps, e') => arrivedAt g (e'.complete now (setOf ctx slot ((side, t) :: ps) now none))
  | none =>
    let probe := (side :: others).any fun k => e.summary (bucket slot k t.tag)
    let now' := if probe then now + 4 else now
    let e1 := if probe then { e with blockedTo := now + 4 } else e
    let dup (landed : Bool) := e1.store.any fun n => n.isOp slot side t.tag landed
    if probe && dup true then arrivedAt g (e1.complete now (setOf ctx slot [(side, t)] now' (some (mkCause 3 1, side))))
    else
      match (if probe then e1.partners slot t.tag true others else none) with
      | some (ps, e') => arrivedAt g (e'.complete now (setOf ctx slot ((side, t) :: ps) now' none))
      | none =>
        if dup false then arrivedAt g (e1.complete now (setOf ctx slot [(side, t)] now' (some (mkCause 3 1, side))))
        else arrivedWait g e1 slot side t .operand

/-- ALLOC's count of a key (R125). -/
def Elem.alloc? (e : Elem) (slot : Nat) (key : Word64) : Option AllocCount := e.allocs.find? fun a => a.slot == slot && a.key == key

/-- ALLOC's live count of a key (R125). -/
def Elem.live (e : Elem) (slot : Nat) (key : Word64) : Nat := ((e.alloc? slot key).map AllocCount.n).getD 0

/-- The live count that a release of this cycle meets: what arrived in the cycle comes after it (R126). -/
def Elem.liveBefore (e : Elem) (now slot : Nat) (key : Word64) : Nat :=
  ((e.alloc? slot key).map fun a => if a.cyc = now then a.n - a.fresh else a.n).getD 0

/-- Admit an arriving token of a key: its count goes up, its entry appears with its first iteration; none when the landing is
exhausted. -/
def Elem.takeKey (e : Elem) (now : Nat) (g : Region) (slot : Nat) (key : Word64) : Option Elem :=
  let up (a : AllocCount) : AllocCount := { a with n := a.n + 1, cyc := now, fresh := if a.cyc = now then a.fresh + 1 else 1 }
  if (e.alloc? slot key).isSome then
    some { e with allocs := e.allocs.map fun a => if a.slot == slot && a.key == key then up a else a }
  else (placeFor g e key).map fun b => { e with allocs := e.allocs ++ [⟨slot, key, 1, b, now, 1⟩] }

/-- An iteration of a key ends with no token waiting: its count goes down, its entry goes with its last iteration. -/
def Elem.retire (e : Elem) (slot : Nat) (key : Word64) : Elem :=
  let here (a : AllocCount) := a.slot == slot && a.key == key
  { e with allocs := (e.allocs.map fun a => if here a then { a with n := a.n - 1 } else a).filter fun a => !(here a && a.n == 0) }

/-- A token at ALLOC (R125, R126). A step that reaches an entry in the landing is lengthened as a probe is (R214).
(DEDUCED, log 16.) -/
def arriveAlloc (now : Nat) (g : Region) (e : Elem) (f : Fields) (ctx slot side : Nat) (t : Token) : Arrived :=
  let k := (bitsAt f.xmod 0 4).toNat
  let key := keyOf g.tagw k t.tag
  let waits (n : Entry) := n.use == .allocWait && n.slot == slot && keyOf g.tagw k n.tok.tag == key
  let B := (bitsAt f.imm 0 7).toNat
  let probe := (e.store.find? waits).any Entry.landed || (e.alloc? slot key).any AllocCount.landed
  let now' := if probe then now + 4 else now
  let e1 := if probe then { e with blockedTo := now + 4 } else e
  if side = 0 then
    if t.kind = 2 ∨ t.kind = 3 then arrivedAt g (e.complete now (setOf ctx slot [(0, t)] now none))
    else if e.live slot key < B && !e.store.any waits then
      match e1.takeKey now g slot key with
      | some e' => arrivedAt g (e'.complete now (setOf ctx slot [(0, t)] now' none))
      | none => ⟨g, e, [], [], true⟩
    else arrivedWait g e1 slot 0 t .allocWait
  else if side = 1 ∧ t.kind = 2 ∧ t.sub = 1 then
    if e.liveBefore now slot key = 0 then arrivedAt g (e1.complete now (setOf ctx slot [(1, t)] now' (some (mkCause 2 3, 1))))
    else
      match takeFirst waits e1.store with
      | some (n, st) => { arrivedAt g ({ e1 with store := st }.complete now (setOf ctx slot [(0, n.tok)] now' none)) with consumed := [t] }
      | none => { arrivedAt g (e1.retire slot key) with consumed := [t] }
  else arrivedAt g (e.complete now (setOf ctx slot [(side, t)] now (some (mkCause 1 0x12, side))))

/-- A token at CALL: a data token, or a bubble under BUB, takes a frame or waits for one (R128). -/
def arriveCall (now : Nat) (g : Region) (e : Elem) (f : Fields) (ctx slot : Nat) (t : Token) : Arrived :=
  let set := setOf ctx slot [(0, t)] now none
  if t.kind ≠ 0 ∨ (!t.pred && !f.bub) then arrivedAt g (e.complete now set)
  else
    let d := neighbour e.x e.y (bitsAt f.xmod 4 2).toNat
    match g.tile? d.1 d.2 with
    | none => arrivedAt g (e.complete now set)
    | some tile =>
      match tile.pool? with
      | none => arrivedAt g (e.complete now set)
      | some pool =>
        match tile.freeFrame pool (poolFrames pool) 0 with
        | some m =>
          arrivedAt (g.putTile (takeFrame tile pool m e.x e.y f t.tag)) (e.complete now { set with frame := some m })
        | none => arrivedAt (g.putTile { tile with frameWaits := tile.frameWaits ++ [(e.x, e.y, set)] }) e

/-- The active reduction of a slot and context (R133). -/
def Elem.red? (e : Elem) (ctx slot : Nat) : Option Reduction := e.reds.find? fun r => r.ctx == ctx && r.slot == slot
/-- Replace the active reduction of its slot and context. -/
def Elem.putRed (e : Elem) (r : Reduction) : Elem :=
  { e with reds := if e.reds.any (fun k => k.ctx == r.ctx && k.slot == r.slot) then
      e.reds.map (fun k => if k.ctx == r.ctx && k.slot == r.slot then r else k) else e.reds ++ [r] }
/-- Activate an instance: the accumulator starts at k[KSEL] (R133). -/
def Elem.activate (e : Elem) (f : Fields) (ctx slot : Nat) (key : Word64) : Elem :=
  let k0 := e.kreg ctx f.ksel.toNat
  (e.setSreg ctx f.ssel.toNat k0).putRed
    ⟨ctx, slot, key, 0, none, (List.range (etLanes f.et)).map (laneInt f.et k0), 0, none, none⟩

/-- Add one operand's payload to the accumulator (R133). -/
def addOperand (o : Op) (f : Fields) (e : Elem) (r : Reduction) (v : Payload) : Elem × Reduction :=
  let w := etWidth f.et
  let acc := e.sreg r.ctx f.ssel.toNat
  let n := List.range (etLanes f.et)
  if o = .ired then
    (e.setSreg r.ctx f.ssel.toNat (packLanes w (n.map fun i => wrapTo w (laneInt f.et acc i + laneInt f.et v i))),
      { r with exact := n.map fun i => r.exact.getD i 0 + laneInt f.et v i })
  else (e.setSreg r.ctx f.ssel.toNat (packLanes w (n.map fun i => faddCode f.et f.rnd f.sat (laneU w acc i) (laneU w v i))), r)

/-- Is an entry in the ordered window of the active instance (R134)? -/
def inWindow (tagw : List Nat) (k : Nat) (r : Reduction) (n : Entry) : Bool :=
  n.use == .ordered && n.slot == r.slot && tagCtx n.tok.tag == r.ctx && keyOf tagw k n.tok.tag == r.key

/-- Add an operand of the ordered window; a bubble adds nothing (R134, R135). -/
def addOrdered (f : Fields) (op : Token → Payload) (e : Elem) (r : Reduction) (t : Token) : Elem × Reduction :=
  if t.pred then addOperand .fred f e r (op t) else (e, r)

/-- Add the waiting operands whose wave value is the expected one, advancing it (R134). -/
def drainWindow (tagw : List Nat) (k : Nat) (f : Fields) (op : Token → Payload) :
    Nat → Elem → Reduction → List Token → Elem × Reduction × List Token
  | 0, e, r, used => (e, r, used)
  | fuel + 1, e, r, used =>
    match takeFirst (fun n => inWindow tagw k r n && getField tagw k n.tok.tag == r.expect) e.store with
    | none => (e, r, used)
    | some (n, st) =>
      let x := addOrdered f op { e with store := st } r n.tok
      drainWindow tagw k f op fuel x.1 { x.2 with expect := r.expect + 1 } (used ++ [n.tok])

/-- The waiting entry with the least wave value. -/
def leastWave (tagw : List Nat) (k : Nat) : List Entry → Option Entry
  | [] => none
  | n :: ns =>
    match leastWave tagw k ns with
    | none => some n
    | some m => if getField tagw k m.tok.tag < getField tagw k n.tok.tag then some m else some n

/-- Add every operand of the window in ascending wave order (R134). -/
def drainAll (tagw : List Nat) (k : Nat) (f : Fields) (op : Token → Payload) :
    Nat → Elem → Reduction → List Token → Elem × Reduction × List Token
  | 0, e, r, used => (e, r, used)
  | fuel + 1, e, r, used =>
    match leastWave tagw k (e.store.filter (inWindow tagw k r)) with
    | none => (e, r, used)
    | some n =>
      let x := addOrdered f op { e with store := e.store.filter fun m => m != n } r n.tok
      drainAll tagw k f op fuel x.1 x.2 (used ++ [n.tok])

/-- The ordered window takes an operand (R134): one at the expected value is added, and those that wait behind it; one above
waits; a repeated value and a 65th waiting operand make the result an error record. None when the landing is exhausted. -/
def takeOrdered (g : Region) (f : Fields) (op : Token → Payload) (e : Elem) (r : Reduction) (t : Token) :
    Option (Elem × Reduction × List Token) :=
  let k := (bitsAt f.xmod 0 4).toNat
  let wave := getField g.tagw k t.tag
  let spoiled (c : Cause) : Reduction := { r with cause := some (r.cause.getD c) }
  if wave = r.expect then
    let x := addOrdered f op e r t
    some (drainWindow g.tagw k f op 64 x.1 { x.2 with expect := r.expect + 1 } [t])
  else if wave < r.expect || e.store.any (fun n => inWindow g.tagw k r n && n.tok.tag == t.tag) then some (e, spoiled (mkCause 3 1), [t])
  else if countIf (inWindow g.tagw k r) e.store ≥ 64 then some (e, spoiled (mkCause 3 4), [t])
  else (e.wait g r.slot 0 t .ordered).map fun e' => (e', r, [])

/-- Take one token into the active instance (R133 to R135): the element, the instance, the tokens consumed; none when the
landing is exhausted. Under ORD an error record or a control token lets the expected value pass it. (DEDUCED, log 54.) -/
def takeReduce (o : Op) (g : Region) (f : Fields) (op : Token → Payload) (e : Elem) (r : Reduction) (side : Nat) (t : Token) :
    Option (Elem × Reduction × List Token) :=
  let k := (bitsAt f.xmod 0 4).toNat
  let r1 := { r with added := r.added + 1 }
  let ordered := f.ord && o == .fred
  let pass (r2 : Reduction) (used : List Token) : Elem × Reduction × List Token :=
    if ordered && getField g.tagw k t.tag == r.expect then drainWindow g.tagw k f op 64 e { r2 with expect := r.expect + 1 } used
    else (e, r2, used)
  if side = 1 then some (e, { r with exit := some t }, [])
  else if t.kind = 3 then some (if r.record.isSome then pass r1 [t] else pass { r1 with record := some t } [])
  else if t.kind = 2 then some (pass { r1 with cause := some (r.cause.getD (mkCause 1 0x11)) } [t])
  else if ordered then takeOrdered g f op e r1 t
  else if !t.pred then some (e, r1, [t])
  else let x := addOperand o f e r1 (op t)
       some (x.1, x.2, [t])

/-- The instance's outcome when its exit token decides it, or its count is met: the completed set (R133 to R135). -/
def finishReduce (o : Op) (now : Nat) (g : Region) (f : Fields) (op : Token → Payload) (e : Elem) (r : Reduction) :
    Option (Elem × List Token) :=
  let k := (bitsAt f.xmod 0 4).toNat
  match r.exit with
  | none => none
  | some x =>
    let N := (bitsAt (op x) 0 32).toNat
    let plain := x.kind = 0 && x.pred
    let tooMany := plain && f.ord && decide (N > 2 ^ fieldW g.tagw k)
    if plain && !tooMany && decide (r.added ≠ N) then none
    else
      let d := if plain && !tooMany then drainAll g.tagw k f op 64 e r []
        else ({ e with store := e.store.filter fun n => !inWindow g.tagw k r n }, r,
          (e.store.filter (inWindow g.tagw k r)).map Entry.tok)
      let w := etWidth f.et
      let out := if o = .ired && f.sat then
          packLanes w (d.2.1.exact.map fun v => wrapTo w (clampTo f.et v))
        else d.1.sreg r.ctx f.ssel.toNat
      let set : ReadySet := ⟨r.ctx, r.slot, if plain then r.record else none, some x, none, [], now, none, some out,
        if tooMany then some (mkCause 2 2, 1)
        else if plain && r.record.isNone then r.cause.map fun c => (c, 0) else none⟩
      let lost := if plain then [] else r.record.toList
      let e1 := d.1.setSreg r.ctx f.ssel.toNat (d.1.kreg r.ctx f.ksel.toNat)
      some ({ e1 with reds := e1.reds.filter fun q => !(q.ctx == r.ctx && q.slot == r.slot) }.complete now set, d.2.2 ++ lost)

/-- Take one token at a reduction: it activates an instance where none is active, waits when its key is not the active one,
or is taken and may complete the instance (R133). (DEDUCED, log 54.) -/
def reduceOne (o : Op) (now : Nat) (g : Region) (f : Fields) (op : Token → Payload) (ctx slot : Nat) (e : Elem) (side : Nat)
    (t : Token) : Option (Elem × List Token) :=
  let key := keyOf g.tagw (bitsAt f.xmod 0 4).toNat t.tag
  let e0 := if (e.red? ctx slot).isNone then e.activate f ctx slot key else e
  match e0.red? ctx slot with
  | none => some (e0, [])
  | some r =>
    if r.key ≠ key then (e0.wait g slot side t .reduce).map fun e' => (e', [])
    else if side = 1 && r.exit.isSome then some (e0.complete now (setOf ctx slot [(1, t)] now (some (mkCause 3 1, 1))), [])
    else
      match takeReduce o g f op e0 r side t with
      | none => none
      | some (e1, r1, u1) =>
        match finishReduce o now g f op (e1.putRed r1) r1 with
        | none => some (e1.putRed r1, u1)
        | some (e2, u2) => some (e2, u1 ++ u2)

/-- Take the tokens that wait at a reduction (R133): while an instance is active its own waiting tokens, in arrival order; when
none is, the earliest waiting token's key becomes active. (DEDUCED, log 54.) -/
def runReduce (o : Op) (now : Nat) (g : Region) (f : Fields) (op : Token → Payload) (ctx slot : Nat) :
    Nat → Elem → List Token → Option (Elem × List Token)
  | 0, e, used => some (e, used)
  | fuel + 1, e, used =>
    let k := (bitsAt f.xmod 0 4).toNat
    let next (n : Entry) := n.use == .reduce && n.slot == slot && tagCtx n.tok.tag == ctx &&
      (match e.red? ctx slot with
      | some r => keyOf g.tagw k n.tok.tag == r.key
      | none => true)
    match takeFirst next e.store with
    | none => some (e, used)
    | some (n, st) =>
      match reduceOne o now g f op ctx slot { e with store := st } n.side n.tok with
      | none => none
      | some (e', u) => runReduce o now g f op ctx slot fuel e' (used ++ u)

/-- A token at IRED or FRED. -/
def arriveReduce (o : Op) (now : Nat) (g : Region) (e : Elem) (f : Fields) (op : Token → Payload) (ctx slot side : Nat)
    (t : Token) : Arrived :=
  if side = 2 then arrivedAt g (e.complete now (setOf ctx slot [(2, t)] now (some (mkCause 1 0x12, 2))))
  else
    match (reduceOne o now g f op ctx slot e side t).bind fun x => runReduce o now g f op ctx slot (e.store.length + 1) x.1 x.2 with
    | some (e', used) => { arrivedAt g e' with consumed := used }
    | none => ⟨g, e, [], [], true⟩

/-- A member of a KVPACK instance (R319). -/
def arriveMember (now : Nat) (g : Region) (e : Elem) (f : Fields) (ctx slot side : Nat) (t : Token) : Arrived :=
  let k := (bitsAt f.xmod 0 4).toNat
  let key := keyOf g.tagw k t.tag
  let mine (n : Entry) := n.use == .member && n.slot == slot && keyOf g.tagw k n.tok.tag == key
  let probe := (List.range 8).any fun i => e.summary (bucket slot 0 (setField g.tagw k i t.tag))
  let now' := if probe then now + 4 else now
  let e1 := if probe then { e with blockedTo := now + 4 } else e
  if side ≠ 0 then arrivedAt g (e.complete now (setOf ctx slot [(side, t)] now (some (mkCause 1 0x12, side))))
  else if getField g.tagw k t.tag > 7 then arrivedAt g (e.complete now (setOf ctx slot [(0, t)] now (some (mkCause 8 1, 0))))
  else if e.store.any (fun n => mine n && n.tok.tag == t.tag) then
    arrivedAt g (e1.complete now (setOf ctx slot [(0, t)] now' (some (mkCause 3 1, 0))))
  else if countIf mine e.store = 7 then
    let all := (e.store.filter mine).map Entry.tok ++ [t]
    let sorted := (List.range 8).filterMap fun i => all.find? fun u => getField g.tagw k u.tag == i
    arrivedAt g ({ e1 with store := e1.store.filter fun n => !mine n }.complete now
      ⟨ctx, slot, none, none, none, sorted, now', none, none, none⟩)
  else arrivedWait g e1 slot 0 t .member

/-- An operand, control or error-record token at a slot (R16, R19, R20, R22). -/
def arriveSlot (now : Nat) (g : Region) (e : Elem) (op : Token → Payload) (t : Token) : Arrived :=
  let ctx := tagCtx t.tag
  match e.slotWord? ctx t.slot with
  | none => ⟨g, e, [t], [mkCause 1 0x10], false⟩
  | some w =>
    let f := decodeFields w
    match opOf (bitsAt w 119 9) f.xmod with
    | none => ⟨g, e, [t], [mkCause 1 0x10], false⟩
    | some o =>
      let bad := arrivedAt g (e.complete now (setOf ctx t.slot [(t.side, t)] now (some (mkCause 1 0x12, t.side))))
      match o with
      | .alloc => arriveAlloc now g e f ctx t.slot t.side t
      | .ired | .fred => arriveReduce o now g e f op ctx t.slot t.side t
      | .kvpack => arriveMember now g e f ctx t.slot t.side t
      | .call => if t.side = 0 then arriveCall now g e f ctx t.slot t else bad
      | _ =>
        let sides := sidesOf f.ar
        if !sides.contains t.side then bad
        else if sides.length = 1 then arrivedAt g (e.complete now (setOf ctx t.slot [(t.side, t)] now none))
        else arriveOperand now g e ctx t.slot t.side sides t

/-- A token that enters an element: a side-band token loads a latch, any other goes to its slot (R16, R289). -/
def arrive (now : Nat) (g : Region) (e : Elem) (op : Token → Payload) (t : Token) : Arrived :=
  if t.kind = 1 then
    match e.lat.load t.sub t.side (op t) with
    | some l => arrivedAt g { e with lat := l }
    | none => ⟨g, e, [], [mkCause 7 7], false⟩
  else arriveSlot now g e op t

/-- The sheet input that a token at an element addresses (R285): the sheet and, for a stream token, its row or column. -/
def Region.sheetAt (g : Region) (x y slot : Nat) : Option (Sheet × Nat × Nat) :=
  (g.sheets.find? fun h => h.slot == slot && decide (h.x ≤ x ∧ h.y ≤ y ∧ (x - h.x) % 2 = 0 ∧ (y - h.y) % 2 = 0 ∧
    (x - h.x) / 2 < h.cs ∧ (y - h.y) / 2 < h.rs)).map fun h => (h, (y - h.y) / 2, (x - h.x) / 2)

/-- Is a token a stream token of a sheet (R285)? -/
def Region.streamTok (g : Region) (x y : Nat) (t : Token) : Option (Sheet × Bool × Nat) :=
  match g.sheetAt x y t.slot with
  | none => none
  | some (h, r, c) => if t.side = 0 ∧ c = 0 then some (h, true, r) else if t.side = 1 ∧ r = 0 then some (h, false, c) else none

/-- A token, of any KIND, addressed to the slot of a sheet element that is no input of it (R285). (DEDUCED, log 40.) -/
def Region.sheetStray (g : Region) (x y : Nat) (t : Token) : Bool :=
  (g.sheetAt x y t.slot).isSome && (g.streamTok x y t).isNone

/-- Such a token is consumed with 0x1.12 (R285): sent by the word in the slot, or for an empty slot by no instruction (R20, R444). -/
def arriveStray (now : Nat) (g : Region) (e : Elem) (t : Token) : Arrived :=
  let ctx := tagCtx t.tag
  if (e.slotWord? ctx t.slot).isSome then
    arrivedAt g (e.complete now (setOf ctx t.slot [(t.side, t)] now (some (mkCause 1 0x12, t.side))))
  else ⟨g, e, [t], [mkCause 1 0x12], false⟩

/-- Does a launch's fabric move: RUNNING, and its package too (R168, R390, R391)? -/
def State.live (s : State) (l : Launch) : Bool := l.state == .running && s.pkg == .running

/-- Is a launch being drained: have its sources stopped (R385)? -/
def Launch.draining (l : Launch) : Bool := l.drainFrom.isSome

/-- The oldest token from a source to a site (R155), with the other links. -/
def Region.nextLink (g : Region) (src : Src) (x y : Nat) : Option (Link × List Link) :=
  takeFirst (fun k => k.src == src && k.port.isNone && k.x == x && k.y == y) g.links

/-- Hold a freeze cause of an operation that cannot go on (R379): one for each such operation. -/
def Launch.hold (l : Launch) (c : FreezeCause) : Launch := { l with causes := l.causes ++ [c] }

/-- Does an element hold a token already that its landing has no entry for (R215)? -/
def Launch.landingHeld (l : Launch) (m x y : Nat) : Bool := l.causes.any fun k => k.cause == mkCause 3 2 && k.m == m && k.x == x && k.y == y

/-- The sets of a SPANEND word with a tag that wait in an element to issue as data (R198). -/
def Elem.spanSets (e : Elem) (slot : Nat) (tag : Word64) : Nat :=
  countIf (fun q => q.slot == slot && q.raise.isNone && q.l.any fun t => t.tag == tag && t.kind == 0 && t.pred &&
    (e.slotWord? (tagCtx tag) slot).any fun w => opOf (bitsAt w 119 9) (decodeFields w).xmod == some .spanend) (e.pend ++ e.ready)

/-- The open span of a launch closes, and the next one opens (R193, R271). -/
def Launch.closeSpan (l : Launch) : Launch := { l with openSpan := l.openSpan + 1, closedSpans := l.openSpan + 1 }

/-- A SPANEND's operand has arrived: the open span closes, and that SPANEND will report its commit (R198, R271). -/
def State.spanArrives (s : State) (p : Site) (before after : Elem) (t : Token) : State :=
  match s.launch? p.r.h with
  | none => s
  | some l =>
    if before.spanSets t.slot t.tag < after.spanSets t.slot t.tag then
      s.putLaunch { l.closeSpan with spanDue := l.spanDue ++ [⟨p.r.m, p.x, p.y, t.slot, t.tag, l.openSpan⟩] }
    else s

/-- TOKEN_ARRIVAL: the oldest token that a source sent to an element enters it (R22). Not enabled while the launch does
not run, the input is held by a probe (R214) or by a token without a landing entry (R215), or the token belongs to a sheet stream
(R285). -/
def execTokenArrival (p : Site) (src : Src) (s : State) : Host.Outcome State Fault Refusal :=
  match s.launch? p.r.h with
  | none => .next s
  | some l =>
    match l.members[p.r.m]? with
    | none => .next s
    | some g =>
      match g.elem? p.x p.y, g.nextLink src p.x p.y with
      | some e, some (k, links) =>
        if !s.live l || decide (s.cycle < e.blockedTo) || (g.streamTok p.x p.y k.tok).isSome || l.landingHeld p.r.m p.x p.y then .next s
        else
          let t := k.tok
          let open' (u : Token) : Payload := (openTok s l.sl (g.tagWorld u.tag) u).pay
          let here := Src.site p.x p.y
          let g0 := { g with links := links, deltas := g.deltas ++ [⟨here, tagKey t.tag, 0, true, false⟩] }
          let a := if g.sheetStray p.x p.y t then arriveStray s.cycle g0 e t else arrive s.cycle g0 e open' t
          if a.exhausted then
            .next (s.putLaunch (l.hold ⟨mkCause 3 2, p.r.m, p.x, p.y, t.slot, t.side, t.tag, 0, s.cycle⟩))
          else
            let g1 := (a.consumed.filter Token.counted).foldl (fun g u => g.count here u.tag (-1) false) (a.g.putElem a.e)
            let s1 := (s.putRegion p.r g1).spanArrives p e a.e t
            .next (a.exits.foldl (fun s c =>
              raiseToExit s p.r here (prodId p.r.m p.x p.y 0) p.x p.y t.slot t.side 0 c 0 t.tag) s1)
      | _, _ => .next s

/-- READY_QUEUE_ENTRY: a waiting completed set enters a place of the ready queue, in completion order (R23). -/
def execReadyQueueEntry (p : Site) (s : State) : Host.Outcome State Fault Refusal :=
  match s.launch? p.r.h, s.region? p.r with
  | some l, some g =>
    match g.elem? p.x p.y with
    | none => .next s
    | some e =>
      match e.pend with
      | [] => .next s
      | set :: rest =>
        if s.live l && decide (e.ready.length < 8) && decide (set.done ≤ s.cycle) then
          .next (s.putRegion p.r (g.putElem { e with pend := rest, ready := insertSet set e.kept e.ready }))
        else .next s
  | _, _ => .next s

end Sys2Proof.Machine
end

