-- ==== Sys2Proof/Machine/Sheet.lean ====
section
/-! DEFINITION. The matrix sheet as a structure (R283, R296), the decoding of its streams (R289, R290, R293), and the k-groups of its
elements (R292, R294, R298). -/

namespace Sys2Proof.Machine

/-! ## Parts of a sheet -/

/-- The sheet with a corner. -/
def Region.sheet? (g : Region) (x y : Nat) : Option Sheet := g.sheets.find? fun h => h.x == x && h.y == y
/-- Replace a sheet. -/
def Region.putSheet (g : Region) (h : Sheet) : Region :=
  { g with sheets := g.sheets.map fun k => if k.x == h.x && k.y == h.y then h else k }
/-- The MMA word of a context at a sheet's corner. -/
def Region.mmaWord (g : Region) (h : Sheet) (ctx : Nat) : Option Fields :=
  (g.elem? h.x h.y).bind fun e => (e.slotWord? ctx h.slot).bind fun w =>
    let f := decodeFields w
    if opOf (bitsAt w 119 9) f.xmod == some .mma then some f else none
/-- The inputs of a sheet (R285): its rows' A inputs, then its columns' B inputs. -/
def Sheet.inputs (h : Sheet) : List (Bool × Nat) :=
  (List.range h.rs).map (fun r => (true, r)) ++ (List.range h.cs).map fun c => (false, c)
/-- The mode word of the partition that stages an input (R283). -/
def Region.feeder (g : Region) (h : Sheet) (row : Bool) (idx : Nat) : Word64 :=
  if row then ((g.tile? (h.x - 1) (h.y + 2 * idx)).map fun t => t.part h.spa).getD 0
  else ((g.tile? (h.x + 2 * idx) (h.y - 1)).map fun t => t.part h.spb).getD 0
/-- The tokens that a buffer of a staging partition holds (R286). -/
def bufferCap (w : Word64) : Nat := modeSize w / (modePar w + 1) / 32
/-- Does a staged token stand in a buffer of an input? -/
def Staged.at' (k : Staged) (row : Bool) (idx buf : Nat) : Bool := k.row == row && k.idx == idx && k.buf == buf
/-- Is a stream that of a buffer of an input? -/
def Stream.at' (k : Stream) (row : Bool) (idx buf : Nat) : Bool := k.row == row && k.idx == idx && k.buf == buf
/-- The latches of the sheet element (r, c) are those of the element at its site. -/
def Region.sheetElem (g : Region) (h : Sheet) (r c : Nat) : Option Elem := g.elem? (h.x + 2 * c) (h.y + 2 * r)
/-- A bank of a sheet element. -/
def Sheet.bank (h : Sheet) (r c b : Nat) : Bank := (h.elems.getD (r * h.cs + c) []).getD b ⟨[], []⟩
/-- Replace a bank of a sheet element. -/
def Sheet.setBank (h : Sheet) (r c b : Nat) (k : Bank) : Sheet :=
  { h with elems := h.elems.set (r * h.cs + c) ((h.elems.getD (r * h.cs + c) []).set b k) }
/-- A bank whose accumulators and row sums are zero. -/
def Bank.zero : Bank := ⟨List.replicate 256 0, List.replicate 16 0⟩
/-- Owner and poison of a bank. -/
def Sheet.bankState (h : Sheet) (b : Nat) : BankState := h.banks.getD b ⟨none, none⟩
/-- Replace owner and poison of a bank. -/
def Sheet.setState (h : Sheet) (b : Nat) (k : BankState) : Sheet := { h with banks := h.banks.set b k }
/-- Zero a bank in every element, without owner or poison (R300). -/
def Sheet.zeroBank (h : Sheet) (b : Nat) : Sheet :=
  { h with elems := h.elems.map fun e => e.set b .zero, banks := h.banks.set b ⟨none, none⟩ }
/-- The bank of an operation. -/
def SheetOp.bank' : SheetOp → Nat
  | .pass p => p.bank
  | .bank b => b.bank
/-- Must operation i wait for an earlier one on its bank (R297)? -/
def Sheet.opWaits (h : Sheet) (i : Nat) (b : Nat) : Bool := (h.ops.take i).any fun o => o.bank' == b

/-! ## CF8 blocks (R47 to R49) -/

/-- What the decoder makes of the bits it has: a block's 32 bytes with the bits after it, too few bits, or a failure. -/
inductive CfBlock where
  | block (bytes : List Nat) (rest : List Bool)
  | more
  | bad (c : Cause)
  deriving DecidableEq, Repr

/-- The number whose bits are given most significant first. -/
def bitsNum (bs : List Bool) : Nat := bs.foldl (fun a b => 2 * a + (if b then 1 else 0)) 0

/-- The ones before the first zero, and what follows that zero; none when no zero stands there. -/
def unary : List Bool → Option (Nat × List Bool)
  | [] => none
  | false :: r => some (0, r)
  | true :: r => (unary r).map fun q => (q.1 + 1, q.2)

/-- Decode n coded elements (R49). -/
def cfElems (eb k : Nat) : Nat → List Bool → List Nat → CfBlock
  | 0, bs, out => .block out bs
  | n + 1, bs, out =>
    let s := bitsNum (bs.take 1)
    let m := bitsNum ((bs.drop 1).take 3)
    let tail := bs.drop 4
    let ones := (tail.takeWhile fun b => b).length
    if bs.length < 4 then .more
    else if 30 < ones * 2 ^ k then .bad (mkCause 7 9)
    else
      match unary tail with
      | none => .more
      | some (q, r) =>
        if r.length < k then .more
        else
          let z := q * 2 ^ k + bitsNum (r.take k)
          let d : Int := if z % 2 = 0 then (z / 2 : Nat) else -(((z + 1) / 2 : Nat) : Int)
          let e := (eb : Int) + d
          if 30 < z ∨ e < 0 ∨ 15 < e then .bad (mkCause 7 9)
          else cfElems eb k n (r.drop k) (out ++ [s * 128 + e.toNat * 8 + m])

/-- Decode the next block (R47, R49). -/
def cfBlock (bs : List Bool) : CfBlock :=
  if bs.length < 8 then .more
  else
    let body := bs.drop 8
    match bitsNum ((bs.drop 6).take 2) with
    | 0 => cfElems (bitsNum (bs.take 4)) (bitsNum ((bs.drop 4).take 2)) 32 body []
    | 1 => if body.length < 256 then .more
           else .block ((List.range 32).map fun i => bitsNum ((body.drop (8 * i)).take 8)) (body.drop 256)
    | 2 => .block (List.replicate 32 0) body
    | _ => .bad (mkCause 7 8)

/-! ## An input takes its stream (R289, R290, R293) -/

/-- What an input knows of its operand: its type, k-steps a token, SCA or SCB, and k-steps in all. -/
structure Operand where
  t : ET
  k : Nat
  sc : Nat
  total : Nat
  deriving DecidableEq, Repr

/-- The A or B operand of a pass's word (R287, R299). -/
def mmaOperand (f : Fields) (row : Bool) : Operand :=
  let t := etOfCode (if row then bitsAt f.mod 0 4 else bitsAt f.mod 4 4)
  ⟨t, mmaK t, (if row then bitsAt f.xmod 0 2 else bitsAt f.xmod 2 2).toNat, (bitsAt f.imm 0 16).toNat⟩
/-- The k-group of a pass's word (R287). -/
def passG (f : Fields) : Nat := mmaG (etOfCode (bitsAt f.mod 0 4)) (etOfCode (bitsAt f.mod 4 4))
/-- The k-groups of a pass. -/
def passGroups (f : Fields) : Nat := (bitsAt f.imm 0 16).toNat / passG f

/-- The data items of an input. -/
def PassInput.data (i : PassInput) : List StreamItem := i.items.filter fun k => k.side.isNone

/-- Decode as many CF8 blocks as the pass still needs and the bits allow. (DEDUCED, log 39.) -/
def PassInput.decode (need : Nat) : Nat → PassInput → Option Cause → PassInput × Option Cause
  | 0, i, fail => (i, fail)
  | fuel + 1, i, fail =>
    if i.stopped ∨ need ≤ i.data.length then (i, fail)
    else
      match cfBlock (i.bits.map Prod.fst) with
      | .more => (i, fail)
      | .bad c => ({ i with stopped := true, bits := [] }, some (fail.getD c))
      | .block bytes rest =>
        let used := i.bits.take (i.bits.length - rest.length)
        let item : StreamItem := ⟨none, used.all Prod.snd, packLanes 8 bytes⟩
        PassInput.decode need fuel { i with bits := i.bits.drop used.length, items := i.items ++ [item] } fail

/-- An input consumes one token of its stream, its payload open: the input and the pass's failure after. -/
def PassInput.take (o : Operand) (i : PassInput) (fail : Option Cause) (t : Token) (pay : Payload) : PassInput × Option Cause :=
  let set (bad : Bool) (c : Cause) (fail : Option Cause) : Option Cause := if bad then some (fail.getD c) else fail
  if t.kind = 1 then
    if 4 < t.sub then (i, set true (mkCause 7 7) fail)
    else
      let scale := t.sub < 2
      let mine := t.sub + 1 = o.sc
      ({ i with scaled := i.scaled || decide (scale ∧ mine), items := i.items ++ [⟨some t.sub, true, pay⟩] },
        set ((decide (scale ∧ o.sc ≠ 0) && decide (¬ mine)) || (o.t == .cf8 && decide (i.toks ≠ 0))) (mkCause 7 3) fail)
  else
    let live := t.kind = 0 ∧ t.pred = true
    let f1 := set (t.kind == 3) (bitsAt pay 0 10) (set (t.kind == 2) (mkCause 1 0x11) fail)
    let f2 := set (o.sc != 0 && o.t != .cf8 && i.toks * o.k % 32 == 0 && !i.scaled) (mkCause 7 3) f1
    let i1 := { i with toks := i.toks + 1, scaled := false, ended := t.last }
    if o.t = .cf8 then
      let bits := (List.range 256).map fun n => (bitAt pay (255 - n) && decide live, decide live)
      let need := o.total / 2
      let r := PassInput.decode need (need + 1) { i1 with bits := i1.bits ++ bits } f2
      let short := t.last && !r.1.stopped && decide (r.1.data.length < need)
      (r.1, set short (if r.1.bits.isEmpty then mkCause 7 4 else mkCause 7 0xA) r.2)
    else
      ({ i1 with items := i1.items ++ [⟨none, decide live, pay⟩] },
        set (t.last != decide (i1.toks = o.total / o.k)) (mkCause 7 4) f2)

/-- A sheet and one of its running passes, with what an input has consumed. -/
structure Taking where
  h : Sheet
  i : PassInput
  fail : Option Cause
  used : List Token
  deriving DecidableEq, Repr

/-- Take the next staged token of an input; LAST frees its buffer (R286). (DEDUCED, log 40.) -/
def Taking.next (x : Taking) : Option (Token × Taking) :=
  if x.i.ended then none
  else
    (takeFirst (fun k : Staged => k.at' x.i.row x.i.idx x.i.buf) x.h.staged).map fun q =>
      let t := q.1.tok
      let streams := if t.kind != 1 && t.last then x.h.streams.filter fun k => !k.at' x.i.row x.i.idx x.i.buf else x.h.streams
      (t, { x with h := { x.h with staged := q.2, streams := streams }, used := x.used ++ [t] })

/-- Take staged tokens until data item D is there, the stream has ended, or no token is staged. -/
def Taking.feed (o : Operand) (op : Token → Payload) (D : Nat) : Nat → Taking → Taking
  | 0, x => x
  | fuel + 1, x =>
    if D < x.i.data.length ∨ x.i.stopped then x
    else
      match x.next with
      | none => x
      | some (t, y) =>
        let r := y.i.take o y.fail t (op t)
        Taking.feed o op D fuel { y with i := r.1, fail := r.2 }

/-- Take what is staged of a stream up to its LAST (R290, R293): a CF8 stream whose blocks are all there is still checked, and any other
is discarded. -/
def Taking.finish (o : Operand) (op : Token → Payload) : Nat → Taking → Taking
  | 0, x => x
  | fuel + 1, x =>
    match x.next with
    | none => x
    | some (t, y) =>
      Taking.finish o op fuel (if o.t == .cf8 && !y.i.stopped then
          let r := y.i.take o y.fail t (op t)
          { y with i := r.1, fail := r.2 }
        else { y with i := { y.i with ended := t.kind != 1 && t.last } })

/-! ## One k-group at one element (R292, R294) -/

/-- How many items of a stream stand up to data item D, D included; all of them when it never comes. -/
def itemsUpTo (D : Nat) : List StreamItem → Nat
  | [] => 0
  | k :: ks => if k.side.isSome then itemsUpTo D ks + 1 else if D = 0 then 1 else itemsUpTo (D - 1) ks + 1

/-- Side-band items load the latches of an element as they pass it (R289). -/
def loadItems (side : Nat) (l : Latches) (ks : List StreamItem) : Latches :=
  ks.foldl (fun l k => match k.side with
    | some n => (l.load n side k.pay).getD l
    | none => l) l

/-- The exact value of lane i of an operand payload. -/
def sheetVal (t : ET) (cbk pay : Payload) (lane : Nat) : XVal := quantVal (if t = .cf8 then .f8e4 else t) cbk pay lane

/-- A row or column scale (R289, R294). -/
def scaleVal (sc : Nat) (v : Payload) (e8 : Bool) (i : Nat) : XVal :=
  if sc = 0 then .ofInt 1 else if e8 then e8m0 (laneU 8 v i) else fdecode .bf16 (laneU 16 v i)

/-- The exact sum of a list of values. -/
def sumX (xs : List XVal) : XVal := xs.foldl (XVal.add false) (.zero false)

/-- The integer sum of products of a group. -/
def dotInt (a b : ET) (pa pb : Payload) (ks : List (Nat × Nat)) (i j : Nat) : Int :=
  ks.foldl (fun s q => s + laneInt a pa (16 * q.1 + i) * laneInt b pb (16 * q.2 + j)) 0

/-- A bank after a k-group (R294): `ks` pairs the places of its k-steps in the A and in the B payload. -/
def Bank.group (k : Bank) (f : Fields) (l : Latches) (cbk pa pb : Payload) (ks : List (Nat × Nat)) : Bank :=
  let A := mmaOperand f true
  let B := mmaOperand f false
  let sa := scaleVal A.sc l.scla l.sclaFmt
  let sb := scaleVal B.sc l.sclb l.sclbFmt
  let av (i : Nat) (q : Nat × Nat) : XVal := sheetVal A.t 0 pa (16 * q.1 + i)
  let cell (n : Nat) : Nat :=
    let i := n / 16
    let j := n % 16
    let old := k.acc.getD n 0
    if f.et = .f32 then
      let p := ((sa i).mul (sb j)).mul (sumX (ks.map fun q => (av i q).mul (sheetVal B.t cbk pb (16 * q.2 + j))))
      fround .f32 0 f.sat ((fdecode .f32 old).add false p)
    else fitInt .i32 f.sat (toSigned 32 old + dotInt A.t B.t pa pb ks i j)
  let row (i : Nat) : Nat := fround .f32 0 false ((fdecode .f32 (k.rs.getD i 0)).add false ((sa i).mul (sumX (ks.map (av i)))))
  ⟨(List.range 256).map cell, (List.range 16).map row⟩

/-- The pass that an element works on next (R291): its place among the operations. -/
def Sheet.passAt (h : Sheet) (r c : Nat) : Option (Nat × Pass) :=
  (List.range h.ops.length).findSome? fun i =>
    match (h.ops[i]? : Option SheetOp) with
    | some (.pass p) =>
      if (p.prog.getD (r * h.cs + c) ⟨0, 0, 0, 0⟩).n < passGroups p.reply.f then some (i, p) else none
    | _ => none

/-- Replace the input of a row or column in a pass. -/
def Pass.putInput (p : Pass) (i : PassInput) : Pass :=
  { p with inputs := p.inputs.map fun k => if k.row == i.row && k.idx == i.idx then i else k }
/-- The input of a row or column of a pass. -/
def Pass.input (p : Pass) (row : Bool) (idx : Nat) : PassInput :=
  (p.inputs.find? fun k => k.row == row && k.idx == idx).getD ⟨row, idx, 0, 0, true, false, false, [], []⟩

/-- Bring the A or B part of a group to a pass: an edge element's input takes it from staging unless the launch drains
(R298). The sheet, the pass, the tokens consumed, and whether the part is there or never comes. -/
def Sheet.supply (h : Sheet) (p : Pass) (row : Bool) (idx D : Nat) (edge : Bool) (op : Token → Payload) :
    Sheet × Pass × List Token × Bool :=
  let i := p.input row idx
  let x : Taking := ⟨h, i, p.fail, []⟩
  let y := if edge then x.feed (mmaOperand p.reply.f row) op D (h.staged.length + 1) else x
  let there := decide (D < y.i.data.length) || y.i.ended || y.i.stopped
  (y.h, { p.putInput y.i with fail := y.fail }, y.used, there)

/-- The pass claims its bank as its first group reaches it (R297). -/
def Sheet.claim (h : Sheet) (p : Pass) : Sheet × Pass :=
  let k := h.bankState p.bank
  let me := (tagCol p.reply.tag, tagCtx p.reply.tag)
  match k.owner with
  | none => (h.setState p.bank { k with owner := some me }, p)
  | some o => (h, { p with foreign := o != me })

/-- The next k-group of the sheet element (row, col), from an edge only where `takes` lets staged tokens on to the lanes (R298).
Tokens that an edge takes stay taken while the rest of the group has not come; none when nothing changes. -/
def Region.kgroup (g : Region) (h : Sheet) (row col : Nat) (takes : Bool) (op : Token → Payload) : Option Region :=
  match h.passAt row col, g.sheetElem h row col with
  | some (n, ps), some e =>
    let f := ps.reply.f
    let at' (r c : Nat) : ElemProg := ps.prog.getD (r * h.cs + c) ⟨0, 0, 0, 0⟩
    let me := at' row col
    let A := mmaOperand f true
    let B := mmaOperand f false
    let G := passG f
    let Da := me.n * G / A.k
    let Db := me.n * G / B.k
    let ahead := (col = 0 || decide (me.n < (at' row (col - 1)).n)) && (row = 0 || decide (me.n < (at' (row - 1) col).n))
    let xa := h.supply ps true row Da (takes && col == 0) op
    let xb := xa.1.supply xa.2.1 false col Db (takes && row == 0) op
    let used := xa.2.2.1 ++ xb.2.2.1
    let minus (g : Region) : Region := (used.filter Token.counted).foldl
      (fun g t => g.count (.site (h.x + 2 * col) (h.y + 2 * row)) t.tag (-1) false) g
    if h.rs ≤ row ∨ h.cs ≤ col ∨ h.opWaits n ps.bank = true ∨ ahead = false then none
    else if !xa.2.2.2 || !xb.2.2.2 then
      if used.isEmpty then none else some (minus (g.putSheet { xb.1 with ops := xb.1.ops.set n (.pass xb.2.1) }))
    else
      let y := if row = 0 ∧ col = 0 ∧ me.n = 0 then xb.1.claim xb.2.1 else (xb.1, xb.2.1)
      let h1 := y.1
      let q := y.2
      let ia := q.input true row
      let ib := q.input false col
      let na := Nat.max me.ia (itemsUpTo Da ia.items)
      let nb := Nat.max me.ib (itemsUpTo Db ib.items)
      let la := loadItems 0 e.lat ((ia.items.take na).drop me.ia)
      let lat := loadItems 1 la ((ib.items.take nb).drop me.ib)
      let cbk := if me.n * G % B.k = 0 then lat.cbk else me.cbk
      let ks := (List.range G).map fun t => (me.n * G % A.k + t, me.n * G % B.k + t)
      let h2 := match ia.data[Da]?, ib.data[Db]? with
        | some a, some b =>
          if a.pred && b.pred && !q.foreign then
            h1.setBank row col q.bank ((h1.bank row col q.bank).group f lat cbk a.pay b.pay ks)
          else h1
        | _, _ => h1
      let q1 := { q with prog := q.prog.set (row * h.cs + col) ⟨me.n + 1, na, nb, cbk⟩ }
      let h3 := { h2 with ops := h2.ops.set n (.pass q1) }
      some (minus ((g.putSheet h3).putElem { e with lat := lat }))
  | _, _ => none

/-- The k-groups of one element that need nothing from staging. -/
def Region.laneGroups (x y row col : Nat) : Nat → Region → Region
  | 0, g => g
  | fuel + 1, g =>
    match (g.sheet? x y).bind fun h => g.kgroup h row col false fun _ => 0 with
    | some g1 => Region.laneGroups x y row col fuel g1
    | none => g

/-- A sheet finishes the k-groups whose tokens are on its lanes (R298): no element runs ahead of its west and north neighbours, so one
pass over them in row order ends all. -/
def Region.finishLanes (g : Region) : Region :=
  g.sheets.foldl (fun g h => ((List.range h.rs).flatMap fun r => (List.range h.cs).map fun c => (r, c)).foldl
    (fun g q => Region.laneGroups h.x h.y q.1 q.2 65536 g) g) g

end Sys2Proof.Machine
end

