-- ==== Sys2Proof/Machine/Network.lean ====
section
/-! DEFINITION. The operand network and the ports (R61, R155, R177, R178, R423, R427): tokens leave an output queue, an edge
tile or an engine, cross flights, reach stations, enter at entry ports and leave at exit ports. -/

namespace Sys2Proof.Machine

/-- The member and port entry at the far end of a flight pair (R422, R423): the entry of another member with the same pair
number in its image word. -/
def Launch.partner (l : Launch) (m : Nat) (w : Word64) : Option (Nat × Nat) :=
  ((List.range l.members.length).filterMap fun k =>
    if k = m then none
    else (l.members[k]?).bind fun g => ((List.range g.ports.length).find? fun i =>
      match g.ports[i]? with
      | some p => portType p.image == 5 && portIndex p.image == portIndex w
      | none => false).map fun i => (k, i)).head?

/-- Put a token on its way from a site of a region (R61, R155): to an element, an exit port, across a flight, to a
station; the sink takes it away. -/
def route (s : State) (r : Rid) (src : Src) (x y : Nat) (t : Token) : State :=
  match s.launch? r.h with
  | none => s
  | some l =>
    match l.members[r.m]? with
    | none => s
    | some g =>
      if t.side ≠ 3 then
        let tx := ((x : Int) + t.dx).toNat
        let ty := ((y : Int) + t.dy).toNat
        s.putLaunch (l.put r.m { g with links := g.links ++ [⟨src, tx, ty, none, t⟩] })
      else if t.slot = 31 then s
      else
        match g.ports[t.slot]? with
        | none => s
        | some p =>
          match portType p.word with
          | 5 =>
            match l.partner r.m p.image with
            | none => s
            | some (k, i) =>
              match l.members[k]? with
              | none => s
              | some g2 =>
                let w := g2.portWord i
                let t2 := { t with hdr := setBits (setBits t.hdr 14 (BitVec.ofNat 5 i)) 12 (0 : BitVec 2) }
                let g1 := if t.counted then g.count (.port t.slot) t.tag (-1) false else g
                let g2' := if t.counted then (g2.count (.port i) t.tag 1 false).stir (tagKey t.tag) else g2
                s.putLaunch ((l.put r.m g1).put k { g2' with links := g2'.links ++ [⟨.port i, portAx w, portAy w, none, t2⟩] })
          | 6 => { s with stnToks := s.stnToks ++ [⟨portDie p.word, portIndex p.word, 0, r.h, r.m, t⟩] }
          | _ => s.putLaunch (l.put r.m { g with links := g.links ++ [⟨src, 0, 0, some t.slot, t⟩] })

/-- Seal a token as a producer of a region and put it on its way, counting it (R180, R403). -/
def sendFrom (s : State) (r : Rid) (src : Src) (prod : BitVec 19) (x y : Nat) (m : Emit) : State :=
  match s.launch? r.h with
  | none => s
  | some l =>
    match l.members[r.m]? with
    | none => s
    | some g =>
      let z := sealTok s l.sl (g.tagWorld m.tag) prod m.token
      let g' := if m.kind == 1 || isSinkDst m.dst then g else g.count src m.tag 1 false
      route (s.putLaunch { (l.put r.m g') with sl := z.2 }) r src x y z.1

/-- Send several tokens in order. -/
def sendAll (s : State) (r : Rid) (src : Src) (prod : BitVec 19) (x y : Nat) (ms : List Emit) : State :=
  ms.foldl (fun s m => sendFrom s r src prod x y m) s

/-- The token of a reply to a destination: KIND 0, the matched tag after the tag operation, the left operand's LAST
(R198, R240). -/
def replyEmit (g : Region) (q : Reply) (d : Dst) (v : Payload) : Emit := ⟨d, tagOp g.tagw q.f q.tag, true, 0, q.last, 0, v⟩

/-- The reply that a request's result goes to. -/
def Request.reply (q : Request) (m : Nat) : Reply := ⟨m, q.x, q.y, q.slot, q.f, q.tag, q.last⟩

/-- Take a pending request or reply out of the census (R180). -/
def uncount (s : State) (r : Rid) (src : Src) (tag : Word64) : State :=
  match s.region? r with
  | none => s
  | some g => s.putRegion r (g.count src tag (-1) false)

/-- Who sends a result: its network source, its producer identity and the place its error records name (R373, R404). -/
structure Sender where
  src : Src
  prod : BitVec 19
  ax : Nat
  ay : Nat
  slot : Nat
  deriving DecidableEq, Repr

/-- A memory-port tile as sender, named by a port-table index (R373, R404). -/
def portSender (g : Region) (m i unit : Nat) : Sender :=
  ⟨.port i, prodId m i 0x3F unit, portAx (g.portWord i), portAy (g.portWord i), 31⟩

/-- The region controller as sender (R404). -/
def ctrlSender (m : Nat) : Sender := ⟨.ctrl, prodId m 0 0 5, 0x7F, 0x3F, 31⟩

/-- An element or memory tile as sender. -/
def siteSender (m x y unit slot : Nat) : Sender := ⟨.site x y, prodId m x y unit, x, y, slot⟩

/-- Must the recolouring of a reply be refused (R179)? -/
def replyRefused (g : Region) (q : Reply) : Bool :=
  q.f.top == 5 &&
    (let e := g.col (tagCol (tagOp g.tagw q.f q.tag))
     !colV e || (colWorld e != g.tagWorld q.tag && !g.multiw))

/-- Send the tokens of a reply, or the records of a refused recolouring in their place (R179), and take the request out of
the census. -/
def settle (s : State) (r : Rid) (z : Sender) (q : Reply) (g : Region) (es : List Emit) : State :=
  let v := recPayload 0 q.tag r.h z.ax z.ay 0 z.slot (mkCause 4 6)
  let es := if replyRefused g q then es.map fun m => { m with tag := q.tag, pred := true, kind := 3, sub := 0, pay := v } else es
  sendAll (uncount s r z.src q.tag) r z.src z.prod q.x q.y es

/-- Send data to chosen destinations of a reply and take the request out of the census. -/
def answer (s : State) (r : Rid) (z : Sender) (q : Reply) (out : List (Dst × Payload)) : State :=
  match s.region? r with
  | none => s
  | some g =>
    settle s r z q g ((out.filter fun p => p.1.v).map fun p => replyEmit g q p.1 p.2)

/-- Send one payload to every valid destination of a reply. -/
def answerAll (s : State) (r : Rid) (z : Sender) (q : Reply) (v : Payload) : State :=
  answer s r z q ((dests q.f).map fun d => (d, v))

/-- Send an error record to every valid destination of a reply (R373). -/
def answerRecord (s : State) (r : Rid) (z : Sender) (q : Reply) (c : Cause) (extra : Word64) : State :=
  match s.region? r with
  | none => s
  | some g =>
    let t := tagOp g.tagw q.f q.tag
    let v := recPayload extra q.tag r.h z.ax z.ay 0 z.slot c
    settle s r z q g ((dests q.f).map fun d => ⟨d, t, true, 3, q.last, 0, v⟩)

/-- Send a bubble to every valid destination of a reply (R26, R240). -/
def answerBubble (s : State) (r : Rid) (z : Sender) (q : Reply) : State :=
  match s.region? r with
  | none => s
  | some g =>
    settle s r z q g
      ((dests q.f).map fun d => ⟨d, tagOp g.tagw q.f q.tag, false, 0, q.last, 0, 0⟩)

/-- OUTPUT_TOKEN_SEND: the oldest entry of an output queue leaves: a token for the network, or a request for a memory-port
tile. A memory-tile request stands there until its bank serves it (R24, R249). -/
def execOutputTokenSend (p : Site) (s : State) : Host.Outcome State Fault Refusal :=
  match s.launch? p.r.h, s.region? p.r with
  | some l, some g =>
    match g.elem? p.x p.y with
    | none => .next s
    | some e =>
      if !s.live l then .next s
      else
        match e.out with
        | .tok t :: rest => .next (route (s.putRegion p.r (g.putElem { e with out := rest })) p.r (.site p.x p.y) p.x p.y t)
        | .global q :: rest =>
          let a : Access := ⟨s.freshId, q, g.portTile (bitsAt q.f.imm 4 4).toNat, .net, 0, 0, 0, [], [], 0, false⟩
          let g1 := g.putElem { e with out := rest }
          let s1 := { s with freshId := s.freshId + 1 }
          .next (s1.putRegion p.r { g1 with accs := g1.accs ++ [a] })
        | _ => .next s
  | _, _ => .next s

/-- Does a launch have a purge of a colour running (R187)? -/
def Launch.purging (l : Launch) (c : Nat) : Bool := l.purges.any fun p => p.col == c

/-- The admission condition of a group's colour (R183, R424): max(0, ΣC) + ΣA < QUOTA. -/
def Launch.underQuota (l : Launch) (c : Nat) : Bool :=
  let tot : Word32 := l.members.foldl (fun a g => a + g.censSum c) 0
  let pos := if tot.toInt < 0 then 0 else tot.toNat
  let adm := l.members.foldl (fun a g => a + g.adm c) 0
  match l.members[0]? with
  | some g => decide (pos + adm < colQuota (g.col c))
  | none => false

/-- Take the oldest token of the ports of an attachment site, round-robin from the port after the one served last (R177). -/
def nextEntry (g : Region) (ax ay : Nat) : Option (Nat × Token × Region) :=
  let last := ((g.turns.find? fun q => q.1 == ax && q.2.1 == ay).map fun q => q.2.2).getD 30
  let order := (List.range 31).map fun i => (last + 1 + i) % 31
  match order.find? (fun i => match g.ports[i]? with
      | some p => portType p.word == 3 && portAx p.word == ax && portAy p.word == ay && !p.queue.isEmpty
      | none => false) with
  | none => none
  | some i =>
    match g.ports[i]? with
    | none => none
    | some p =>
      match p.queue with
      | [] => none
      | t :: rest =>
        let others := g.turns.filter fun q => !(q.1 == ax && q.2.1 == ay)
        some (i, t, { g.putPort i { p with queue := rest } with turns := (ax, ay, i) :: others })

/-- ENTRY_PORT_INJECT: the next entry-port token at an attachment site enters the fabric (R177). -/
def execEntryPortInject (r : Rid) (ax ay : Nat) (s : State) : Host.Outcome State Fault Refusal :=
  match s.launch? r.h, s.region? r with
  | some l, some g =>
    if !s.live l then .next s
    else
      match nextEntry g ax ay with
      | none => .next s
      | some (i, t, g') => .next (route (s.putRegion r g') r (.port i) ax ay t)
  | _, _ => .next s

/-- EXIT_PORT_ACCEPT: an exit port takes the oldest token a source sent to it; a token of another colour goes to its own
colour's exit or is discarded with a fault record 0x4.07 (R178). -/
def execExitPortAccept (r : Rid) (src : Src) (port : Nat) (s : State) : Host.Outcome State Fault Refusal :=
  match s.launch? r.h, s.region? r with
  | some l, some g =>
    match g.ports[port]?, takeFirst (fun (k : Link) => k.src == src && k.port == some port) g.links with
    | some p, some (k, links) =>
      if !s.live l then .next s
      else
        let col := tagCol k.tok.tag
        let e := g.col col
        if col ≠ portCol p.word ∧ colExit e ≠ port then
          if colExit e = 31 then
            let g0 := { g with links := links }
            let g' := g0.count (.port port) k.tok.tag (if k.tok.counted then -1 else 0) false
            .next ((s.putRegion r g').deliver (siteFault s l g (colWorld e) (mkCause 4 7) 0 (portAx p.word) (portAy p.word) 31 0 k.tok.tag 0))
          else .next (s.putRegion r { g with links := links ++ [{ k with port := some (colExit e) }] })
        else if p.queue.length ≥ 16 then .next s
        else
          let t := openTok s l.sl (g.tagWorld k.tok.tag) k.tok
          let g0 := { g with links := links }
          let g1 := g0.putPort port { p with queue := p.queue ++ [t] }
          .next (s.putRegion r (g1.count (.port port) k.tok.tag (if k.tok.counted then -1 else 0) false))
    | _, _ => .next s
  | _, _ => .next s

end Sys2Proof.Machine
end

