-- ==== Sys2Proof/Machine/Gallery.lean ====
section
/-! DEFINITION. The gallery's routers (R339 to R355, R434, R435) and what leaves at a Brimen port (R429 to R432): tile stores,
routing and pending-interest tables, the handling of interests, tiles and answers. -/

namespace Sys2Proof.Machine

/-! ## Flits (R429 to R432) -/

/-- A flit's 480 bits above its CRC, with the CRC (R429). -/
def sealFlit (b : BitVec 480) : BitVec 512 := b ++ flitCrc b

/-- The 480 bits of a flit from its fields (R429). -/
def flitBits (type : BitVec 4) (seq ack : BitVec 12) (dev : BitVec 20) (body : BitVec 352) (ext : BitVec 64) : BitVec 480 :=
  type ++ seq ++ ack ++ (0 : BitVec 4) ++ dev ++ (0 : BitVec 12) ++ body ++ ext

/-- A Brimen port. -/
def State.port (s : State) (p : Nat) : Brimen := s.brimen.getD p .reset
/-- Replace a Brimen port. -/
def State.putPort (s : State) (p : Nat) (b : Brimen) : State := { s with brimen := s.brimen.set p b }

/-- Send a flit on a port: it stays until it is acknowledged; behind 256 others it waits (R431). A port that is down loses it. -/
def State.transmit (s : State) (p : Nat) (type : BitVec 4) (dev : BitVec 20) (body : BitVec 352) (ext : BitVec 64) : State :=
  let b := s.port p
  if b.down then s
  else
    let f := sealFlit (flitBits type b.next (b.expect - 1) dev body ext)
    let b' := if b.unacked.length < 256 then { b with unacked := b.unacked ++ [f] } else { b with waiting := b.waiting ++ [f] }
    s.putPort p { b' with next := b.next + 1, lastAck := if b.unacked.isEmpty then s.cycle else b.lastAck }

/-- Count a dropped flit (R429, R432). -/
def State.dropFlit (s : State) : State := s.setReg 0x8108 (s.reg 0x8108 + 1)

/-- This device's identifier, when PKG_DEVID is valid (R432). -/
def State.devid (s : State) : Option (BitVec 20) :=
  let r := s.reg 0x8100
  if bitAt r 63 then some (bitsAt r 0 20) else none

/-- Is a destination this device (R432)? -/
def State.isMe (s : State) (dev : BitVec 20) : Bool := dev == 0xFFFFF || s.devid == some dev

/-- The port toward another device; none where no route is valid (R432). -/
def State.routeTo (s : State) (dev : BitVec 20) : Option Nat :=
  let mine := (s.devid).any fun d => bitsAt d 10 10 == bitsAt dev 10 10
  let r := if mine then s.reg (0xE000 + 8 * (bitsAt dev 0 10).toNat) else s.reg (0xC000 + 8 * (bitsAt dev 10 10).toNat)
  let p := (bitsAt r 0 5).toNat
  if bitAt r 63 && decide (p < 24) then some p else none

/-- Send a flit toward a device along R432's routes; with no route it is dropped, counted and recorded (0xB.06). -/
def State.sendToward (s : State) (type : BitVec 4) (dev : BitVec 20) (body : BitVec 352) (ext : BitVec 64) : State :=
  match s.routeTo dev with
  | some p => s.transmit p type dev body ext
  | none => s.dropFlit.deliver (bareFault s 0 (mkCause 0xB 6) 0 0)

/-! ## Names, routes and paths (R339 to R346) -/

/-- TENSOR of a name. -/
def nameTensor (n : Word64) : Nat := (bitsAt n 40 24).toNat
/-- TILE of a name. -/
def nameTile (n : Word64) : Nat := (bitsAt n 16 24).toNat
/-- ITER of a name. -/
def nameIter (n : Word64) : Nat := (bitsAt n 0 16).toNat

/-- Does a routing entry's range hold a name (R344)? -/
def Route.holds (r : Route) (n : Word64) : Bool :=
  nameTensor n == nameTensor r.base && nameIter n == nameIter r.base &&
    decide (nameTile r.base ≤ nameTile n ∧ nameTile n < nameTile r.base + r.count)

/-- The routing entry that holds a name, of any world (R347). -/
def State.routeOf (s : State) (n : Word64) : Option Route := s.routes.find? fun r => r.holds n

/-- The die of a router (R341). -/
def routerDie (r : Nat) : Nat := if r < 256 then r / 64 else (r - 256) / 6
/-- i(r) of R346. -/
def routerIndex (r : Nat) : Nat := if r < 256 then r % 64 else 8 * ((r - 256) % 6)

/-- The next router of the path toward a producer router (R346). -/
def nextRouter (r p : Nat) : Nat := if routerDie r = routerDie p then p else 64 * routerDie p + routerIndex r

/-- Has an expiry passed (R345)? -/
def State.expired (s : State) (e : Word32) : Bool := decide (((BitVec.ofNat 32 s.cycle) - e).toNat < 2 ^ 31)

/-- Is one expiry later than another (R349)? -/
def later (a b : Word32) : Bool := a != b && decide ((a - b).toNat < 2 ^ 31)

/-! ## Tile stores (R342, R343) -/

/-- Bytes of a router's tile store. -/
def State.storeSize (s : State) (r : Nat) : Nat :=
  if r < 256 then (bitsAt (s.reg (0x4000 + 8 * r)) 0 3).toNat * 131072 else 0

/-- The tile that a router holds under a world and name. -/
def State.tileAt (s : State) (r : Nat) (w : BitVec 8) (n : Word64) : Option GTile :=
  s.gtiles.find? fun t => t.router == r && t.world == w && t.name == n

/-- Bytes in a router's store. -/
def storeUsed (ts : List GTile) (r : Nat) : Nat := (ts.filter fun t => t.router == r).foldl (fun a t => a + t.bytes.length) 0

/-- Evict unpinned tiles of a router, least recently used first, until there is room; none when pinned tiles fill it. -/
def evict (r cap size : Nat) : Nat → List GTile → Option (List GTile)
  | 0, ts => if storeUsed ts r + size ≤ cap then some ts else none
  | fuel + 1, ts =>
    if storeUsed ts r + size ≤ cap then some ts
    else
      match (ts.filter fun t => t.router == r && !t.pinned).getLast? with
      | none => none
      | some v => evict r cap size fuel (ts.filter (· != v))

/-- Put a tile in a router's store, most recently used first; none when it has no room for it (R343). -/
def State.storeTile (s : State) (t : GTile) : Option State :=
  let others := s.gtiles.filter fun k => !(k.router == t.router && k.world == t.world && k.name == t.name)
  (evict t.router (s.storeSize t.router) t.bytes.length others.length others).map fun ts => { s with gtiles := t :: ts }

/-- Keep a copy of a tile that passes (R343, R351). -/
def State.keepCopy (s : State) (r : Nat) (w : BitVec 8) (n : Word64) (bs : List Byte) : State :=
  if (s.tileAt r w n).isSome then s else (s.storeTile ⟨r, w, n, false, bs⟩).getD s

/-- A use of a tile moves it to the front of its store. -/
def State.touchTile (s : State) (t : GTile) : State := { s with gtiles := t :: s.gtiles.filter (· != t) }

/-! ## Pending interests (R345, R348) -/

/-- The pending entry of a router for a world and name. -/
def State.pit? (s : State) (r : Nat) (w : BitVec 8) (n : Word64) : Option Pit :=
  s.pits.find? fun p => p.router == r && p.world == w && p.name == n
/-- The faces of a pending entry, in the order in which they were added (R351). -/
def Pit.faces (p : Pit) : List Face := p.chain.flatten
/-- Is an entry out of faces: it is freed with those chained to it (R350)? -/
def Pit.spent (p : Pit) : Bool := p.faces.isEmpty
/-- Are all 8 faces of the last entry of a chain in use (R345)? -/
def Pit.full (p : Pit) : Bool := (p.chain.getLast?).all fun e => decide (8 ≤ e.length)
/-- Keep some faces; the table entries of the chain stay in use (R350). -/
def Pit.keep (p : Pit) (f : Face → Bool) : Pit := { p with chain := p.chain.map fun e => e.filter f }
/-- Add a face: to the last entry of the chain, or in a new one (R345). -/
def Pit.add (p : Pit) (f : Face) : Pit :=
  { p with chain := if p.full then p.chain ++ [[f]] else p.chain.dropLast ++ [(p.chain.getLast?.getD []) ++ [f]] }
/-- Replace a pending entry. -/
def State.putPit (s : State) (p : Pit) : State :=
  { s with pits := s.pits.map fun q => if q.router == p.router && q.world == p.world && q.name == p.name then p else q }
/-- Free a pending entry. -/
def State.dropPit (s : State) (p : Pit) : State :=
  { s with pits := s.pits.filter fun q => !(q.router == p.router && q.world == p.world && q.name == p.name) }
/-- Table entries in use at a router (R345). -/
def State.pitUse (s : State) (r : Nat) : Nat := (s.pits.filter fun p => p.router == r).foldl (fun a p => a + p.chain.length) 0

/-- Remove faces of an entry; an entry without faces is freed. -/
def State.dropFaces (s : State) (p : Pit) (gone : Face → Bool) : State :=
  let q := p.keep fun f => !gone f
  if q.spent then s.dropPit p else s.putPit q

/-! ## Messages -/

/-- Put a message on its way to a router. -/
def State.gsend (s : State) (m : GMsg) : State := { s with freshId := s.freshId + 1, gmsgs := s.gmsgs ++ [{ m with id := s.freshId }] }

/-- Change the channel of a memory tile of a region. -/
def State.mapChan (s : State) (r : Rid) (x y ch : Nat) (f : Chan → Chan) : State :=
  match s.region? r with
  | none => s
  | some g =>
    match g.tile? x y with
    | none => s
    | some t => s.putRegion r (g.putTile { t with chans := t.chans.set ch (f (t.chans.getD ch ⟨0, 0, none, [], []⟩)) })

/-- Give a transfer its answer, once (R352). -/
def Xfer.take (x : Xfer) (n : Word32) (a : Answer) : Xfer := if x.num == n && x.answer.isNone then { x with answer := some a } else x

/-- An answer reaches the asker: it waits at the channel for its transfer (R352). -/
def State.answerAsker (s : State) (r : Rid) (x y ch : Nat) (n : Word32) (a : Answer) : State :=
  s.mapChan r x y ch fun c => { c with cur := c.cur.map fun k => k.take n a, queue := c.queue.map fun k => k.take n a }

/-- Tile-data flits of a tile from a position on (R430, R435). -/
def State.sendTileFlits (s : State) (dev : BitVec 20) (w : BitVec 8) (n : Word64) (bs : List Byte) : State :=
  let units := bs.length / 32
  (List.range units).foldl (fun s k =>
    let data : BitVec 256 := ofBytes 256 ((bs.drop (32 * k)).take 32)
    s.sendToward 4 dev (data ++ n ++ w ++ BitVec.ofNat 11 (units - 1) ++ (0 : BitVec 13)) (BitVec.ofNat 64 (32 * k))) s

/-- Send a tile to a face (R347, R351, R435). -/
def State.sendTile (s : State) (r p : Nat) (w : BitVec 8) (n : Word64) (bs : List Byte) (dst : FaceTo) (trail : List Face) : State :=
  match dst with
  | .asker q x y ch t => s.answerAsker q x y ch t (.bytes bs)
  | .router d => s.gsend (GMsg.mk 0 d w n (.router r) p none (.tile bs trail))
  | .device d => s.sendTileFlits (BitVec.ofNat 20 d) w n bs

/-- Send a negative answer to a face (R347, R351, R435). -/
def State.sendNegative (s : State) (r p : Nat) (w : BitVec 8) (n : Word64) (c : Cause) (dst : FaceTo) (trail : List Face) : State :=
  match dst with
  | .asker q x y ch t => s.answerAsker q x y ch t (.cause c)
  | .router d => s.gsend (GMsg.mk 0 d w n (.router r) p none (.negative c trail))
  | .device d => s.sendToward 5 (BitVec.ofNat 20 d) (n ++ w ++ c ++ (0 : BitVec 270)) 0

/-- The cause EXPIRED (R365). -/
def expiredCause : Cause := mkCause 9 1
/-- The cause NEVER (R365). -/
def neverCause : Cause := mkCause 9 3

/-- An expired face goes: a LOCAL one sends EXPIRED to its asker (R350). -/
def State.expireFace (s : State) (f : Face) : State :=
  match f.who with
  | .asker q x y ch n => s.answerAsker q x y ch n (.cause expiredCause)
  | _ => s

/-- Serve and free a router's entry for a name with a tile: the faces in order, but those that have expired, which go (R350, R351). -/
def State.serve (s : State) (r : Nat) (w : BitVec 8) (n : Word64) (bs : List Byte) : State :=
  match s.pit? r w n with
  | none => s
  | some p => p.faces.foldl (fun s f => if s.expired f.exp then s.expireFace f else s.sendTile r p.prod w n bs f.who []) (s.dropPit p)

/-- Answer every face of an entry negatively and free it; those that have expired go (R350, R351, R354, R355). -/
def State.refusePit (s : State) (p : Pit) (c : Cause) : State :=
  p.faces.foldl (fun s f => if s.expired f.exp then s.expireFace f else s.sendNegative p.router p.prod p.world p.name c f.who [])
    (s.dropPit p)

/-- Answer NEVER to every entry at the producer router for a name of a declaration: the state and the number of faces answered. -/
def State.refuseRange (s : State) (r : Route) : State × Nat :=
  let ps := s.pits.filter fun p => p.router == r.prod && p.world == r.world && r.holds p.name
  (ps.foldl (fun s p => s.refusePit p neverCause) s, ps.foldl (fun a p => a + countIf (fun f : Face => !s.expired f.exp) p.faces) 0)

/-- No tile of an earlier declaration of a range is delivered any more: every stored copy goes, parts of tiles under reassembly too, and
a tile on its way becomes NEVER (R353, R355). (DEDUCED, log 26.) -/
def State.discardTiles (s : State) (r : Route) : State :=
  { s with
    gtiles := s.gtiles.filter fun t => !r.holds t.name
    reasm := s.reasm.filter fun t => !r.holds t.name
    gmsgs := s.gmsgs.map fun m => match m.body with
      | .tile _ trail => if r.holds m.name then { m with body := .negative neverCause trail } else m
      | _ => m }

/-- Drop a declaration (R355): the state and the faces answered NEVER. -/
def State.dropRoute (s : State) (r : Route) : State × Nat := ({ s with routes := s.routes.filter (· != r) }.discardTiles r).refuseRange r

/-- Drop every declaration of a launch handle (R193, R355). -/
def State.dropDeclarations (s : State) (h : Word32) : State :=
  (s.routes.filter fun r => r.handle == h).foldl (fun s r => (s.dropRoute r).1) s

/-- The step of R354 for the declarations of a span of a launch; its record names the element of the NDECL (R369). -/
def State.closeDeclarations (s : State) (l : Launch) (span : Nat) : State :=
  (s.routes.filter fun r => r.handle == l.handle && r.span == span).foldl (fun s r =>
    let s1 := { s with routes := s.routes.map fun q => if q == r then { q with closed := true } else q }
    let a := s1.refuseRange r
    if a.2 = 0 then a.1
    else
      match l.members[r.m]? with
      | none => a.1
      | some g => a.1.deliver (siteFault s l g r.world neverCause 0 r.x r.y r.slot 0 r.tag (BitVec.ofNat 64 a.2))) s

/-! ## The life of an interest (R347 to R350, R435) -/

/-- A valid external route of a world and tensor (R434). -/
def State.extRoute (s : State) (w : BitVec 8) (n : Word64) : Option (Nat × BitVec 20) :=
  (List.range 64).findSome? fun i =>
    let hi := s.reg (0x4800 + 16 * i + 8)
    let lo := s.reg (0x4800 + 16 * i)
    let q : BitVec 128 := hi ++ lo
    if bitAt q 127 && bitsAt q 119 8 == w && (bitsAt q 70 24).toNat == nameTensor n && decide ((bitsAt q 94 5).toNat < 24)
    then some ((bitsAt q 94 5).toNat, bitsAt q 99 20) else none

/-- What the entry router finds for an interest: its producer router and device, or a cause (R347, R435). -/
def State.entryCheck (s : State) (m : GMsg) (room : Nat) : Except Cause (Nat × Option (BitVec 20)) :=
  let far := match m.sender with
    | .device _ => true
    | _ => false
  match s.routeOf m.name with
  | some e =>
    if far && !e.glob then .error (mkCause 9 2)
    else if e.world != m.world then .error (mkCause 9 4)
    else if e.size > room then .error (mkCause 9 6)
    else .ok (e.prod, none)
  | none =>
    if far then .error (mkCause 9 2)
    else
      match s.extRoute m.world m.name with
      | none => .error (mkCause 9 2)
      | some (p, d) => if s.sealedWorld m.world then .error (mkCause 9 2) else .ok (256 + p, some d)

/-- Send an interest on from a router: to the next router of its path, or over its chip port (R346, R435). -/
def State.forward (s : State) (m : GMsg) (exp : Word32) (room : Nat) (probe : Bool) (trail : List Face) : State :=
  if m.router = m.prod then
    match m.dev with
    | none => s
    | some d =>
      let rem : Word32 := exp - BitVec.ofNat 32 s.cycle
      s.transmit (m.prod - 256) 3 d (m.name ++ m.world ++ rem ++ BitVec.ofNat 32 room ++ (s.devid).getD 0 ++ (0 : BitVec 196)) 0
  else s.gsend { m with router := nextRouter m.router m.prod, sender := .router m.router, body := .interest exp room probe trail }

/-- Send a refresh to the next router of the path (R349). -/
def State.refreshOn (s : State) (m : GMsg) (exp : Word32) : State :=
  if m.router = m.prod then s
  else s.gsend { m with router := nextRouter m.router m.prod, sender := .router m.router, body := .refresh exp }

/-- Record an interest at a router: merge it, or make an entry and send it on; none when the table is full (R347, R348). -/
def State.record (s : State) (m : GMsg) (exp : Word32) (room : Nat) : Option State :=
  match s.pit? m.router m.world m.name with
  | some p =>
    if p.full && s.pitUse m.router ≥ 1024 then none
    else
      let up := later exp p.upexp
      let s1 := s.putPit { p.add (Face.mk m.sender exp) with upexp := if up then exp else p.upexp }
      some (if up then s1.refreshOn { m with prod := p.prod } exp else s1)
  | none =>
    if s.pitUse m.router ≥ 1024 then none
    else
      let s1 := { s with pits := s.pits ++ [Pit.mk m.router m.world m.name m.prod exp [[Face.mk m.sender exp]]] }
      some (s1.forward m exp room false [])

/-- One step of a router with an interest (R347): the state after; none when the interest must be held (R348). -/
def State.handle (s : State) (m : GMsg) (exp : Word32) (room : Nat) (probe : Bool) (trail : List Face) : Option State :=
  let entry := match m.sender with
    | .router _ => Except.ok (m.prod, m.dev)
    | _ => s.entryCheck m room
  match entry with
  | .error c => some (s.sendNegative m.router m.router m.world m.name c m.sender trail)
  | .ok (p, d) =>
    let m := { m with prod := p, dev := d }
    match s.tileAt m.router m.world m.name with
    | some t => some ((s.touchTile t).sendTile m.router p m.world m.name t.bytes m.sender trail)
    | none =>
      if probe then
        if m.router = p then some (s.sendNegative m.router p m.world m.name (mkCause 9 1) m.sender trail)
        else some (s.forward m exp room true (Face.mk m.sender exp :: trail))
      else if s.expired exp then some (s.sendNegative m.router p m.world m.name (mkCause 9 1) m.sender trail)
      else if m.router = p && d.isNone && (match s.routeOf m.name with
          | some e => e.closed || e.world != m.world
          | none => true) then
        some (s.sendNegative m.router p m.world m.name (mkCause 9 3) m.sender trail)
      else s.record m exp room

/-- Take a message by its number. -/
def State.takeMsg (s : State) (id : Nat) : Option (GMsg × State) :=
  (takeFirst (fun m => m.id == id) s.gmsgs).map fun r => (r.1, { s with gmsgs := r.2 })

/-- INTEREST_ARRIVAL: an interest reaches a router of its path (R347, R348). -/
def execInterestArrival (id : Nat) (s : State) : Host.Outcome State Fault Refusal :=
  match s.takeMsg id with
  | some (m, s1) =>
    match m.body with
    | .interest exp room probe trail =>
      if s.pkg != .running then .next s
      else
        .next (match s1.handle m exp room probe trail with
          | some s2 => s2
          | none => { s1 with gheld := s1.gheld ++ [m] })
    | _ => .next s
  | none => .next s

/-- INTEREST_RETRY: the oldest interest held at a router is handled again (R348). -/
def execInterestRetry (r : Nat) (s : State) : Host.Outcome State Fault Refusal :=
  match takeFirst (fun m => m.router == r) s.gheld with
  | none => .next s
  | some (m, rest) =>
    match m.body with
    | .interest exp room probe trail =>
      if s.pkg != .running then .next s
      else .next (({ s with gheld := rest }.handle m exp room probe trail).getD s)
    | _ => .next s

/-- Is a message an interest, but no probe, that a refresh of the same sender is for? -/
def GMsg.refreshedBy (k m : GMsg) : Bool :=
  k.router == m.router && k.world == m.world && k.name == m.name && k.sender == m.sender &&
    (match k.body with
     | .interest _ _ probe _ => !probe
     | _ => false)

/-- An interest takes the expiry of a refresh. -/
def GMsg.extend (k : GMsg) (exp : Word32) : GMsg :=
  match k.body with
  | .interest _ room probe trail => { k with body := .interest exp room probe trail }
  | _ => k

/-- INTEREST_REFRESH: the face of the sending router takes the later expiry, and the refresh goes on; an interest of that router that is
held for want of an entry takes it too, and one that is still on its way comes first (R348, R349). -/
def execInterestRefresh (id : Nat) (s : State) : Host.Outcome State Fault Refusal :=
  match s.takeMsg id with
  | some (m, s1) =>
    match m.body with
    | .refresh exp =>
      if s.pkg != .running || (s.gmsgs.takeWhile fun k => k.id != id).any fun k => k.refreshedBy m then .next s
      else
        let s2 := { s1 with gheld := s1.gheld.map fun (k : GMsg) => if k.refreshedBy m then k.extend exp else k }
        .next (match s2.pit? m.router m.world m.name with
          | none => s2
          | some p =>
            let up := later exp p.upexp
            let mine (f : Face) : Face := if f.who == m.sender then { f with exp := exp } else f
            let s3 := s2.putPit { p with chain := p.chain.map (List.map mine), upexp := if up then exp else p.upexp }
            if up then s3.refreshOn { m with prod := p.prod } exp else s3)
    | _ => .next s
  | none => .next s

/-- FACE_EXPIRY: an expired face of a pending entry goes; a LOCAL one sends EXPIRED to its asker (R350). -/
def execFaceExpiry (r entry face : Nat) (s : State) : Host.Outcome State Fault Refusal :=
  match (s.pits.filter fun p => p.router == r)[entry]? with
  | none => .next s
  | some p =>
    match p.faces[face]? with
    | none => .next s
    | some f => .next (if s.pkg != .running || !s.expired f.exp then s else (s.dropFaces p fun k => k == f).expireFace f)

/-- TILE_ARRIVAL: a tile reaches a router: a copy is kept, the waiting faces are served, and the answer to a probe goes on
toward its asker (R347, R351). -/
def execTileArrival (id : Nat) (s : State) : Host.Outcome State Fault Refusal :=
  match s.takeMsg id with
  | some (m, s1) =>
    match m.body with
    | .tile bs trail =>
      if s.pkg != .running then .next s
      else
        let s2 := if m.router = m.prod then s1 else s1.keepCopy m.router m.world m.name bs
        let s3 := s2.serve m.router m.world m.name bs
        .next (match trail with
          | [] => s3
          | f :: rest => s3.sendTile m.router m.prod m.world m.name bs f.who rest)
    | _ => .next s
  | none => .next s

/-- NEGATIVE_ANSWER_ARRIVAL: a negative answer reaches a router and goes to every face of its entry, or back along a probe's
path (R347, R351). -/
def execNegativeAnswerArrival (id : Nat) (s : State) : Host.Outcome State Fault Refusal :=
  match s.takeMsg id with
  | some (m, s1) =>
    match m.body with
    | .negative c trail =>
      if s.pkg != .running then .next s
      else
        .next (match trail with
          | f :: rest => s1.sendNegative m.router m.prod m.world m.name c f.who rest
          | [] => match s1.pit? m.router m.world m.name with
            | none => s1
            | some p => s1.refusePit p c)
    | _ => .next s
  | none => .next s

end Sys2Proof.Machine
end

