-- ==== Sys2Proof/Machine/Walk.lean ====
section
/-! DEFINITION. Addresses: the map of physical memory (R229), page tables and their walk (R225 to R228), the translation
tiles (R223, R224, R230), and bytes read through a world's tables (R196). -/

namespace Sys2Proof.Machine

/-- The translation tile of an address (R223). -/
def xlatTile (va : Nat) : Nat :=
  let g : BitVec 35 := BitVec.ofNat 35 (va / 2 ^ 22)
  (bitsAt g 0 6 ^^^ bitsAt g 6 6 ^^^ bitsAt g 12 6 ^^^ bitsAt g 18 6 ^^^ bitsAt g 24 6 ^^^ (bitsAt g 30 5).setWidth 6).toNat

/-- A leaf found by a walk: the base of what it maps, the size of that as a power of two, CONTIG and the permissions. -/
structure Leaf where
  pa : Nat
  bits : Nat
  contig : Bool
  r : Bool
  w : Bool
  deriving DecidableEq, Repr

/-- The outcome of a walk: the entries read, then the leaf or the cause. -/
structure Walk where
  reads : List Nat
  out : Except Cause Leaf

/-- Is a valid entry malformed at a level, for an address (R226)? -/
def badEntry (level : Nat) (e : Word64) (va : Nat) : Bool :=
  let leaf := bitAt e 1
  let contig := bitAt e 4
  let pa := (bitsAt e 16 36).toNat * 2 ^ 16
  bitsAt e 52 4 != 0 || bitsAt e 5 11 != 0 || (leaf && level == 1) || (!leaf && level == 3) ||
    (contig && !(leaf && level == 3)) || (!leaf && level == 1 && pa % 2 ^ 17 != 0) ||
    (leaf && level == 2 && pa % 2 ^ 29 != 0) || (contig && pa / 2 ^ 16 % 64 != va / 2 ^ 16 % 64) ||
    !mapped pa || (!leaf && !inHbm pa)

/-- Walk from the entry at an address on a level, 3 minus `fuel` plus 1 (R225, R226). An entry in a poisoned line cannot be read
(R371). -/
def State.walkFrom (s : State) (va : Nat) : Nat → Nat → List Nat → Walk
  | 0, _, reads => ⟨reads, .error (mkCause 5 6)⟩
  | fuel + 1, table, reads =>
    let level := 3 - fuel
    let index := match level with
      | 1 => va / 2 ^ 43 % 2 ^ 14
      | 2 => va / 2 ^ 29 % 2 ^ 14
      | _ => va / 2 ^ 16 % 2 ^ 13
    let at' := table + 8 * index
    let e : Word64 := BitVec.ofNat 64 (readNat s.mem at' 8)
    let reads' := reads ++ [at']
    match s.poison? at' 8 with
    | some c => ⟨reads', .error c⟩
    | none =>
      if !bitAt e 0 then ⟨reads', .error (mkCause 5 1)⟩
      else if badEntry level e va then ⟨reads', .error (mkCause 5 6)⟩
      else if bitAt e 1 then
        ⟨reads', .ok ⟨(bitsAt e 16 36).toNat * 2 ^ 16, if level = 2 then 29 else 16, bitAt e 4, bitAt e 2, bitAt e 3⟩⟩
      else s.walkFrom va fuel ((bitsAt e 16 36).toNat * 2 ^ 16) reads'

/-- Walk a world's tables (R225, R226). (DESIGN CHOICE, log 30.) -/
def State.walk (s : State) (w : BitVec 8) (va : Nat) : Walk :=
  let root := s.reg (0x800 + 8 * w.toNat)
  if !bitAt root 0 then ⟨[], .error (mkCause 5 1)⟩
  else
    let pa := (bitsAt root 17 35).toNat * 2 ^ 17
    if bitsAt root 1 16 != 0 || bitsAt root 52 12 != 0 || !inHbm pa then ⟨[], .error (mkCause 5 6)⟩
    else s.walkFrom va 3 pa []

/-- Page-size codes as powers of two (R217). -/
def pszBits (psz : Nat) : Nat :=
  match psz with
  | 0 => 16
  | 1 => 22
  | _ => 29

/-- What a leaf gives a stream bound at a page size: the base of that page, or 0x5.05 (R227, R228). -/
def Leaf.bound (l : Leaf) (psz va : Nat) : Except Cause Nat :=
  let b := pszBits psz
  if l.bits < b && !(psz = 1 && l.contig) then .error (mkCause 5 5)
  else if l.bits < b then .ok (l.pa / 2 ^ b * 2 ^ b)
  else .ok (l.pa + va % 2 ^ l.bits / 2 ^ b * 2 ^ b)

/-- The first page of an entry at a page size: VPN' of R224. -/
def vpnAt (psz va : Nat) : Nat := va / 2 ^ pszBits psz * 2 ^ (pszBits psz - 16) % 2 ^ 41

/-- The set of an entry (R224). -/
def XEntry.set (e : XEntry) : Nat := (e.vpn % 256) ^^^ e.world.toNat

/-- Does an entry answer a lookup (R224)? -/
def XEntry.hit (e : XEntry) (die tile : Nat) (w : BitVec 8) (psz va : Nat) : Bool :=
  e.die == die && e.tile == tile && e.world == w && e.psz == psz && e.vpn == vpnAt psz va

/-- Put an entry in front and drop the least recently used of a set that had 8 (R224). -/
def installEntry (es : List XEntry) (n : XEntry) : List XEntry :=
  let same (e : XEntry) := e.die == n.die && e.tile == n.tile && e.set == n.set
  let keep := es.filter (· != n)
  match (keep.filter same)[7]? with
  | some v => n :: keep.filter (· != v)
  | none => n :: keep

/-- The outcome of a translation: the state with the entry in front, the entries of page tables that were read, the entry of the
translation tile, and the physical address or the cause. -/
structure Translated where
  s : State
  reads : List Nat
  entry : Option XEntry
  out : Except Cause Nat

/-- The walker reads entries of page tables as plain loads at their home slices (R226). -/
def State.walked (s : State) (reads : List Nat) : State := reads.foldl (fun s pa => s.touch pa false) s

/-- A failure of the address path that is answered by an error record: a stream's page size (R228), or a poisoned line (R371); any
other freezes the region (R235). -/
def tokenLevel (c : Cause) : Bool := c == mkCause 5 5 || c == mkCause 12 4 || c == mkCause 12 5

/-- Is an access permitted by an entry (R235)? -/
def permitted (r w needR needW : Bool) : Bool := (!needR || r) && (!needW || w)

/-- The physical address that an entry gives an address, or 0x5.02. -/
def XEntry.give (e : XEntry) (va : Nat) (needR needW : Bool) : Except Cause Nat :=
  if permitted e.r e.w needR needW then .ok (e.pa + va % 2 ^ pszBits e.psz) else .error (mkCause 5 2)

/-- Translate an address at the translation tile of a die: a hit, or a walk whose success is installed (R224 to R228). -/
def State.translate (s : State) (die : Nat) (w : BitVec 8) (psz va : Nat) (needR needW : Bool) : Translated :=
  let tile := xlatTile va
  match s.xlat.find? fun e => e.hit die tile w psz va with
  | some e => ⟨{ s with xlat := installEntry s.xlat e }, [], some e, e.give va needR needW⟩
  | none =>
    let k := s.walk w va
    let s1 := s.walked k.reads
    match k.out with
    | .error c => ⟨s1, k.reads, none, .error c⟩
    | .ok l =>
      match l.bound psz va with
      | .error c => ⟨s1, k.reads, none, .error c⟩
      | .ok base =>
        let e : XEntry := ⟨die, tile, w, vpnAt psz va, psz, base, l.r, l.w⟩
        if permitted l.r l.w needR needW then ⟨{ s1 with xlat := installEntry s1.xlat e }, k.reads, some e, e.give va needR needW⟩
        else ⟨s1, k.reads, none, .error (mkCause 5 2)⟩

/-- The physical address of a virtual one by a walk alone, without installing an entry. -/
def State.physOf (s : State) (w : BitVec 8) (va : Nat) (needR needW : Bool) : Except Cause Nat :=
  match (s.walk w va).out with
  | .error c => .error c
  | .ok l => if permitted l.r l.w needR needW then .ok (l.pa + va % 2 ^ l.bits) else .error (mkCause 5 2)

/-- The physical bases of the 64 KiB pages of a virtual range, lowest first, or the first failing cause and address. -/
def State.pagesOf (s : State) (w : BitVec 8) (needW : Bool) : Nat → Nat → Except (Cause × Nat) (List Nat)
  | 0, _ => .ok []
  | n + 1, va =>
    match s.physOf w va true needW with
    | .error c => .error (c, va)
    | .ok pa =>
      match State.pagesOf s w needW n (va / 65536 * 65536 + 65536) with
      | .error e => .error e
      | .ok ps => .ok (pa / 65536 * 65536 :: ps)

/-- A virtual range as its 64 KiB pages: where the loader and the engines read and write bytes. -/
structure VRange where
  va : Nat
  pages : List Nat
  deriving DecidableEq, Repr

/-- A virtual range of `n` bytes, with each of its pages translated. -/
def State.vrange (s : State) (w : BitVec 8) (va n : Nat) (needW : Bool) : Except (Cause × Nat) VRange :=
  match s.pagesOf w needW ((va % 65536 + n + 65535) / 65536) va with
  | .error e => .error e
  | .ok ps => .ok ⟨va, ps⟩

/-- The physical address of an offset in a range. -/
def VRange.pa (v : VRange) (off : Nat) : Nat :=
  v.pages.getD ((v.va % 65536 + off) / 65536) 0 + (v.va + off) % 65536

/-- Read a number of n bytes at an offset of a range, least significant byte first. -/
def VRange.readNat (v : VRange) (m : List Host.Cell) (off n : Nat) : Nat :=
  bytesToNat ((List.range n).map fun i => cellRead m (v.pa (off + i)))

/-- A world's bytes by virtual address, when they translate. -/
def State.readVirt (s : State) (w : BitVec 8) (va n : Nat) : Except (Cause × Nat) (List Byte) :=
  match s.vrange w va n false with
  | .error e => .error e
  | .ok v => .ok ((List.range n).map fun i => cellRead s.mem (v.pa i))

end Sys2Proof.Machine
end

