-- ==== Sys2Proof/Machine/Loader.lean ====
section
/-! DEFINITION. The loader (R17, R53 to R66, R76, R77, R157 to R159, R173, R176, R200, R210 to R212, R266, R284, R400,
R420, R422, R426, R433): reading an image through a world's page tables, every check of it, and the region it describes. -/

namespace Sys2Proof.Machine

/-- Why an image is rejected, as its fault record says it (R77). -/
structure LoadFail where
  cause : Cause
  ax : Nat
  ay : Nat
  ctx : Nat
  slot : Nat
  extra : Nat
  deriving DecidableEq, Repr

/-- A failure of a structure at an offset of the image. -/
abbrev Bad := Cause × Nat

/-- The failure of a condition at an offset. -/
def need (ok : Bool) (c : Cause) (off : Nat) : List Bad := if ok then [] else [(c, off)]

/-- The lowest cause, with its lowest offset (R77). (DEDUCED, log 29.) -/
def lowestBad : List Bad → Option Bad
  | [] => none
  | b :: bs =>
    match lowestBad bs with
    | none => some b
    | some d => some (if b.1.toNat < d.1.toNat || (b.1 == d.1 && decide (b.2 ≤ d.2)) then b else d)

/-! ## The header (R157) -/

/-- An image being read: its pages, the memory and its header. -/
structure Img where
  v : VRange
  m : List Host.Cell
  hdr : BitVec 512

/-- A number of n bytes at an offset of an image. -/
def Img.num (i : Img) (off n : Nat) : Nat := i.v.readNat i.m off n
/-- A header field. -/
def Img.fld (i : Img) (lo len : Nat) : Nat := (bitsAt i.hdr lo len).toNat
/-- SIZE. -/
def Img.size (i : Img) : Nat := i.fld 416 32
/-- W. -/
def Img.w (i : Img) : Nat := i.fld 48 8
/-- H. -/
def Img.h (i : Img) : Nat := i.fld 56 8
/-- NFIELD. -/
def Img.nfield (i : Img) : Nat := i.fld 80 8
/-- The widths of the declared tag fields (R17, R157). -/
def Img.tagw (i : Img) : List Nat := (List.range (min i.nfield 12)).map fun k => i.fld (128 + 5 * k) 5 + 1
/-- CTXMASK. -/
def Img.ctxmask (i : Img) : BitVec 8 := bitsAt i.hdr 64 8

/-- The MAGIC and VERSION of an image (R157). -/
def imageMagic : Nat := 0x57584931

/-- Does a section of n entries lie inside the image (R157, R159)? -/
def Img.sectOk (i : Img) (off n len : Nat) : Bool := n == 0 || (off != 0 && decide (off + n * len ≤ i.size))

/-- The header checks (R17, R157, R159, R173, R200). -/
def Img.headerBad (i : Img) (ctxnext : Bool) : List Bad :=
  let c8 := mkCause 1 8
  let sect (off n len : Nat) := need (i.sectOk off n len) c8 off
  need (i.fld 0 32 == imageMagic && i.fld 32 16 == 1) c8 0 ++
  need (decide (1 ≤ i.w ∧ i.w ≤ 80 ∧ 1 ≤ i.h ∧ i.h ≤ 56)) c8 0 ++
  need (i.fld 75 5 == 0 && i.fld 112 16 == 0 && i.fld 188 4 == 0 && i.fld 224 32 == 0 && i.fld 448 64 == 0) c8 0 ++
  need (decide (i.fld 88 8 ≤ 31 ∧ i.fld 96 8 ≤ 16 ∧ 64 ≤ i.size)) c8 0 ++
  need (decide (i.nfield ≤ 12) && decide (i.tagw.foldl (· + ·) 0 ≤ 55)) (mkCause 1 0xA) 0 ++
  need (i.fld 128 60 / 2 ^ (5 * min i.nfield 12) == 0) c8 0 ++
  sect (i.fld 256 32) (i.fld 88 8) 8 ++
  sect (i.fld 320 32) (i.fld 96 8) 16 ++
  sect (i.fld 352 32) (i.fld 104 8) 16 ++
  sect (i.fld 384 32) (i.fld 192 32) 16 ++
  (if i.fld 288 32 = 0 then [] else sect (i.fld 288 32) 64 32) ++
  (if ctxnext then
    need (i.fld 288 32 == 0) (mkCause 4 1) 0 ++
    need (i.fld 88 8 == 0 && i.fld 96 8 == 0 && i.fld 104 8 == 0) c8 0 ++
    need (decide (((List.range 8).filter fun c => bitAt i.ctxmask c).length = 1)) c8 0
   else [])

/-! ## Pattern records (R158) -/

/-- A rectangle of a pattern record. -/
structure Rect where
  x : Nat
  y : Nat
  w : Nat
  h : Nat
  deriving DecidableEq, Repr

/-- Does a rectangle cover a site? -/
def Rect.has (r : Rect) (x y : Nat) : Bool := decide (r.x ≤ x ∧ x < r.x + r.w ∧ r.y ≤ y ∧ y < r.y + r.h)

/-- A context block. -/
structure Block where
  ctx : Nat
  slots : List (Nat × SlotWord)
  k : List (Nat × Payload)
  st : List (Nat × Payload)
  deriving DecidableEq, Repr

/-- A pattern record: offset, kind, rectangles, context blocks and seed, or mode words. -/
structure Pat where
  off : Nat
  kind : Nat
  rects : List Rect
  blocks : List Block
  seed : Word32
  modes : List Word64
  deriving DecidableEq, Repr

/-- Does a record cover a site? -/
def Pat.has (p : Pat) (x y : Nat) : Bool := p.rects.any fun r => r.has x y

/-- The numbers of the bits set in a byte or word. -/
def bitsSet (n v : Nat) : List Nat := (List.range n).filter fun b => v.testBit b

/-- The fields of `ns` in a row of n-byte values from an offset. -/
def Img.row (i : Img) (len : Nat) : Nat → List Nat → List (Nat × Nat)
  | _, [] => []
  | off, n :: ns => (n, i.num off len) :: Img.row i len (off + len) ns

/-- Context blocks from an offset to an end; none when they do not fill it exactly or hold a reserved value. A bit of SMASK above
the element's four state registers names none of them and is taken as such a value. (DESIGN CHOICE, log 58.) -/
def Img.blocks (i : Img) (ending : Nat) : Nat → Nat → Option (List Block)
  | 0, _ => none
  | fuel + 1, off =>
    if off = ending then some []
    else
      let ss := bitsSet 32 (i.num off 4)
      let ks := bitsSet 8 (i.num (off + 4) 1)
      let ts := bitsSet 8 (i.num (off + 5) 1)
      let ctx := i.num (off + 6) 1
      let a := off + 8
      let b := a + 16 * ss.length
      let c := b + 32 * ks.length
      let d := c + 32 * ts.length
      if d > ending || ctx > 7 || i.num (off + 7) 1 != 0 || ts.any (· > 3) then none
      else
        (Img.blocks i ending fuel d).map fun bs =>
          ⟨ctx, (i.row 16 a ss).map fun p => (p.1, BitVec.ofNat 128 p.2), (i.row 32 b ks).map fun p => (p.1, BitVec.ofNat 256 p.2),
            (i.row 32 c ts).map fun p => (p.1, BitVec.ofNat 256 p.2)⟩ :: bs

/-- One pattern record at an offset, with its failures and its end. -/
def Img.pat (i : Img) (off : Nat) : Pat × List Bad × Nat :=
  let c8 := mkCause 1 8
  let kind := i.num off 1
  let nrect := i.num (off + 1) 1
  let len := i.num (off + 4) 4
  let rw (k : Nat) : BitVec 64 := BitVec.ofNat 64 (i.num (off + 16 + 8 * k) 8)
  let rect (k : Nat) : Rect := ⟨(bitsAt (rw k) 0 7).toNat, (bitsAt (rw k) 7 6).toNat, (bitsAt (rw k) 13 7).toNat, (bitsAt (rw k) 20 6).toNat⟩
  let rects := (List.range nrect).map rect
  let body := off + 16 + 8 * nrect
  let fits := decide (body + len ≤ i.size)
  let rectOk (k : Nat) : Bool :=
    let r := rect k
    bitsAt (rw k) 26 38 == 0 && decide (1 ≤ r.w ∧ r.w ≤ 80 ∧ 1 ≤ r.h ∧ r.h ≤ 56 ∧ r.x + r.w ≤ i.w ∧ r.y + r.h ≤ i.h)
  let hd := need (kind ≤ 1 && nrect != 0 && i.num (off + 2) 2 == 0 && i.num (off + 8) 8 == 0 && fits &&
    (List.range nrect).all rectOk) c8 off
  if !fits then (⟨off, kind, rects, [], 0, []⟩, hd, i.size + 1)
  else if kind = 0 then
    match (if len < 8 then none else i.blocks (body + len - 8) (len / 8 + 1) body) with
    | none => (⟨off, 0, rects, [], 0, []⟩, hd ++ [(c8, off)], body + len)
    | some bs =>
      let seed := i.num (body + len - 8) 8
      let known := bs.all fun b => bitAt i.ctxmask b.ctx
      let once := decide ((bs.map Block.ctx).Nodup)
      (⟨off, 0, rects, bs, BitVec.ofNat 32 seed, []⟩, hd ++ need (seed < 2 ^ 32 && known && once) c8 off, body + len)
  else
    let modes := (List.range (len / 8)).map fun k => BitVec.ofNat 64 (i.num (body + 8 * k) 8)
    (⟨off, kind, rects, [], 0, modes⟩, hd ++ need (len % 8 == 0 && decide (len ≤ 64)) c8 off, body + len)

/-- The pattern records from an offset. -/
def Img.pats (i : Img) : Nat → Nat → List Pat × List Bad
  | 0, _ => ([], [])
  | n + 1, off =>
    if off + 16 > i.size then ([], [(mkCause 1 8, off)])
    else
      let p := i.pat off
      let rest := Img.pats i n p.2.2
      (p.1 :: rest.1, p.2.1 ++ rest.2)

/-- The sites of an image of one parity, row-major (R148, R158). -/
def sitesOf (w h par : Nat) : List (Nat × Nat) :=
  ((List.range h).map fun y => ((List.range w).filter fun x => (x + y) % 2 == par).map fun x => (x, y)).flatten

/-- The latches at image load (R289). -/
def Latches.load0 : Latches :=
  let one : Payload := packLanes 16 (List.replicate 16 0x3F80)
  ⟨one, false, one, false, 0, one, 0⟩

/-- The generator that a seed loads (R44). -/
def seedXs (seed : Word32) : Word32 := if seed = 0 then 1 else seed

/-- An element with nothing in it. No seed is given for one that no record covers: its generator stands as a seed of zero loads
it. (DESIGN CHOICE, log 58.) -/
def Elem.empty (x y : Nat) : Elem :=
  { x := x, y := y, slots := [], badWords := [], k := [], st := [], store := [], allocs := [], reds := [], pend := [], ready := [],
    out := [], repPos := 0, held := [], xs := seedXs 0, lat := .load0, blockedTo := 0, lastIssue := 0 }

/-- An element with the blocks of the records that cover it. Where several do, with different contexts, the first record's seed is
the element's. (DESIGN CHOICE, log 58.) -/
def loadElem (ps : List Pat) (x y : Nat) : Elem :=
  let mine := ps.filter fun p => p.kind == 0 && p.has x y
  let bs := (mine.map Pat.blocks).flatten
  { Elem.empty x y with
    slots := (bs.map fun b => b.slots.map fun q => (32 * b.ctx + q.1, q.2)).flatten
    k := (bs.map fun b => b.k.map fun q => (8 * b.ctx + q.1, q.2)).flatten
    st := (bs.map fun b => b.st.map fun q => (4 * b.ctx + q.1, q.2)).flatten
    xs := seedXs (((mine.head?).map Pat.seed).getD 0) }

/-- A generator at image load (R252): unconfigured. -/
def Gen.empty : Gen := ⟨0, 0, none, none, [], 0⟩
/-- A copy channel at image load (R254). -/
def Chan.empty : Chan := ⟨0xFFFFFFFF, 0, none, [], []⟩

/-- A memory tile at image load (R209). -/
def loadTile (ps : List Pat) (x y : Nat) : Tile :=
  let mine := ps.filter fun p => p.kind == 1 && p.has x y
  { x := x, y := y, bytes := [], modes := ((mine.head?).map Pat.modes).getD [], fifos := [],
    gens := List.replicate 4 .empty, chans := List.replicate 2 .empty, frameWaits := [], rr := [], lane := [], lines := [] }

/-- Two records of one kind that define the same context, or the same tile, at one site (R159): where the second stands. -/
def overlapBad (ps : List Pat) (w h : Nat) : List Bad :=
  let c8 := mkCause 1 8
  let elems := (sitesOf w h 0).map fun q =>
    let mine := ps.filter fun p => p.kind == 0 && p.has q.1 q.2
    if decide ((mine.map fun p => p.blocks.map Block.ctx).flatten.Nodup) then [] else [(c8, ((mine[1]?).map Pat.off).getD 0)]
  let tiles := (sitesOf w h 1).map fun q =>
    let mine := ps.filter fun p => p.kind == 1 && p.has q.1 q.2
    if mine.length ≤ 1 then [] else [(c8, ((mine[1]?).map Pat.off).getD 0)]
  elems.flatten ++ tiles.flatten

/-! ## Memory-tile modes (R210 to R212) -/

/-- A mode word within the limits of R210 and R211. -/
def modeOk (w : Word64) : Bool :=
  let n := modePar w
  let kib := (bitsAt w 39 9).toNat
  bitsAt w 0 38 == 0 && (!modeNbr w || modeOf w == 6) &&
  (match modeOf w with
   | 0 => w == 0
   | 1 => n ≤ 3 && 1 ≤ kib && kib % (n + 1) == 0
   | 2 => n == 0 && decide (1 ≤ kib)
   | 3 => decide (1 ≤ kib) && kib % (n + 1) == 0
   | 4 => n ≤ 3 && decide (1 ≤ kib)
   | 5 => n == 0 && decide (1 ≤ kib ∧ kib ≤ 64)
   | 6 => n ≤ 7 && kib == 6 * (n + 1)
   | _ => false) &&
  decide (modeBase w + modeSize w ≤ 262144)

/-- Two partitions that overlap. -/
def modesOverlap (a b : Word64) : Bool :=
  modeOf a != 0 && modeOf b != 0 && decide (modeBase a < modeBase b + modeSize b ∧ modeBase b < modeBase a + modeSize a)

/-- Does some pair of a list, in order, satisfy a test? -/
def anyPair {α : Type} (q : α → α → Bool) : List α → Bool
  | [] => false
  | a :: as => as.any (q a) || anyPair q as

/-- A memory-tile body within the limits of R212, wherever it stands. -/
def modesOk (ms : List Word64) : Bool :=
  ms.all modeOk && !anyPair modesOverlap ms && decide (countIf (fun w => modeOf w == 5) ms ≤ 1) &&
  !anyPair (fun a b => modeOf a == 6 && modeOf b == 6 && modeNbr a == modeNbr b) ms

/-- A landing names an element of the region (R212). -/
def landingOk (w : Nat) (t : Tile) : Bool :=
  t.modes.all fun m => modeOf m != 6 || (if modeNbr m then decide (t.x + 1 < w) else decide (1 ≤ t.x))

/-! ## The colour table (R176, R400) -/

/-- One entry of the colour table against the port table. -/
def colourOk (ports : List Word64) (c : Nat) (e : BitVec 256) : Bool :=
  if !colV e then e == 0
  else
    let h := colHzn e
    bitsAt e 224 5 == 0 && bitsAt e 128 33 == 0 && (h == 0 || decide (10 ≤ h ∧ h ≤ 30)) && decide (colShare e ≤ 64) &&
    decide (colWbase e % 65536 = 0 ∧ colWbase e < 2 ^ 57 ∧ colWsize e % 65536 = 0) &&
    ((List.range 31).all fun j => bitAt (colEntrym e) j ==
      (match ports[j]? with
       | some p => portType p == 3 && portCol p == c
       | none => false)) &&
    (colExit e == 31 || (match ports[colExit e]? with
       | some p => portType p == 4 && portCol p == c
       | none => false))

/-- The failures of a colour table (R176, R400). -/
def coltabBad (tab : List (BitVec 256)) (ports : List Word64) (multiw : Bool) (off : Nat) : List Bad :=
  let each := (List.range 64).map fun c =>
    let e := tab.getD c 0
    let bound := ports.any fun p => portType p == 3 && portCol p == c
    need (colourOk ports c e && (colV e || !bound) && (!multiw || !colV e || colWsize e != 0)) (mkCause 4 1) (off + 32 * c)
  let worlds := (tab.filter colV).map colWorld
  each.flatten ++ need (multiw || (match worlds with
    | [] => true
    | w :: ws => ws.all (· == w))) (mkCause 4 2) off

/-! ## Ports, stations and held ranges (R62, R76, R266, R426, R433) -/

/-- A port-table entry within the limits of R62 and R163, R422, R426. -/
def portOk (w h : Nat) (p : Word64) : Bool :=
  let t := portType p
  t ≤ 6 && bitsAt p 0 31 == 0 && decide (portAx p < w ∧ portAy p < h) && (t == 3 || t == 4 || portCol p == 0) &&
  (match t with
   | 1 | 2 => portDie p == 0 && decide (portIndex p < 64)
   | 6 => portDie p == 0 && decide (portIndex p < 16 ∧ portIndex p ≠ 6 ∧ portIndex p ≠ 7)
   | _ => true)

/-- SOP of a station word. -/
def stnSop (w : Word64) : Nat := (bitsAt w 60 4).toNat
/-- SET of a station word. -/
def stnSet (w : Word64) : ET := etOfCode (bitsAt w 56 4)
/-- INM of a station word. -/
def stnInm (w : Word64) : BitVec 8 := bitsAt w 48 8
/-- OUTM of a station word. -/
def stnOutm (w : Word64) : BitVec 8 := bitsAt w 40 8
/-- COL of a station word. -/
def stnCol (w : Word64) : Nat := (bitsAt w 34 6).toNat
/-- CTX of a station word. -/
def stnCtx (w : Word64) : Nat := (bitsAt w 31 3).toNat
/-- ENTRY of a station binding. -/
def bindEntry (b : Word64) : Nat := (bitsAt b 0 5).toNat
/-- PEERj of a station binding, 31 for none; j from 2 to 7. -/
def bindPeer (b : Word64) (j : Nat) : Nat := (bitsAt b (5 * (j - 1)) 5).toNat
/-- LSLOT of a station binding. -/
def bindSlot (b : Word64) : BitVec 5 := bitsAt b 35 5
/-- LSIDE of a station binding. -/
def bindSide (b : Word64) : BitVec 2 := bitsAt b 40 2
/-- RDEV of a station binding. -/
def bindDev (b : Word64) : BitVec 20 := bitsAt b 42 20

/-- A station word within the constraints of R76. -/
def stnWordOk (w : Word64) : Bool :=
  let n := ((List.range 8).filter fun b => bitAt (stnInm w) b).length
  let o := ((List.range 8).filter fun b => bitAt (stnOutm w) b).length
  match stnSop w with
  | 0 => w == 0
  | 1 => bitsAt w 0 31 == 0 && (stnSet w == .i32 || stnSet w == .bf16 || stnSet w == .f32) && decide (2 ≤ n ∧ 1 ≤ o)
  | 2 => bitsAt w 0 31 == 0 && decide (n = 1 ∧ 1 ≤ o)
  | 3 => bitsAt w 0 31 == 0 && decide (n = 1 ∧ o = 1)
  | _ => false

/-- Is a port-table entry a station's? -/
def isStation (ports : List Word64) (i : Nat) : Bool :=
  match ports[i]? with
  | some p => portType p == 6
  | none => false

/-- Does one of a list of records, of the COL and CTX of a word, stand at a station and name another station at an input from 2 up
(R426)? Stations are named by their numbers, which two entries may share. -/
def namesBack (ports : List Word64) (recs : List (Word64 × Word64)) (w : Word64) (peer station : Nat) : Bool :=
  let at' (p : Nat) : Option Nat := if isStation ports p then (ports[p]?).map portIndex else none
  recs.any fun r => at' (bindEntry r.2) == some peer && stnCol r.1 == stnCol w && stnCtx r.1 == stnCtx w &&
    (List.range 6).any fun k => at' (bindPeer r.2 (k + 2)) == some station

/-- A station record's binding (R426), of an idle word too. -/
def stnBindOk (ports : List Word64) (recs : List (Word64 × Word64)) (w b : Word64) : Bool :=
  let index (p : Nat) : Nat := (ports[p]?.map portIndex).getD 0
  isStation ports (bindEntry b) && bitsAt b 62 2 == 0 && bindSide b != 3 && (index (bindEntry b) < 8 || bindDev b == 0) &&
    (List.range 6).all fun k =>
      let j := k + 2
      let p := bindPeer b j
      if p = 31 then !bitAt (stnInm w) j && !bitAt (stnOutm w) j
      else isStation ports p && namesBack ports recs w (index p) (index (bindEntry b))

/-- The failures of the station words (R76, R426, R433). -/
def stnBad (s : State) (ports : List Word64) (tab : List (BitVec 256)) (recs : List (Word64 × Word64)) (off : Nat) : List Bad :=
  ((List.range recs.length).map fun k =>
    match recs[k]? with
    | none => []
    | some (w, b) =>
      let chip := isStation ports (bindEntry b) && decide ((ports[bindEntry b]?.map portIndex).getD 8 < 8)
      need (stnWordOk w) (mkCause 1 8) (off + 16 * k) ++
      need (stnBindOk ports recs w b) (mkCause 0xB 2) (off + 16 * k) ++
      need (stnSop w == 0 || !chip || !s.sealedWorld (colWorld (tab.getD (stnCol w) 0))) (mkCause 0xA 4) (off + 16 * k)).flatten

/-- Held-range declarations of an image (R265): colour, base, size. -/
def heldDecl (d : BitVec 128) : HeldRange := ⟨(bitsAt d 120 6).toNat, (bitsAt d 0 64).toNat, (bitsAt d 64 40).toNat, 0, none⟩

/-- Two held ranges that overlap. -/
def heldOverlap (a b : HeldRange) : Bool := decide (a.base < b.base + b.size ∧ b.base < a.base + a.size)

/-- A held-range declaration (R266). -/
def heldOk (tab : List (BitVec 256)) (d : BitVec 128) : Bool :=
  let h := heldDecl d
  bitsAt d 126 2 == 0 && bitsAt d 104 16 == 0 && decide (h.base % 128 = 0 ∧ h.size % 128 = 0 ∧ h.size ≠ 0 ∧ h.base + h.size ≤ 2 ^ 57) &&
  colV (tab.getD h.col 0)

/-- The failures of the held ranges (R266). -/
def heldBad (tab : List (BitVec 256)) (ds : List (BitVec 128)) (off : Nat) : List Bad :=
  ((List.range ds.length).map fun k =>
    match ds[k]? with
    | none => []
    | some d => need (heldOk tab d && !((ds.take k).any fun e => heldOverlap (heldDecl e) (heldDecl d))) (mkCause 6 1) (off + 16 * k)).flatten

/-! ## Slot words against the image (R54 to R66, R114, R125 to R130, R197, R237, R284, R316, R356) -/

/-- A slot word in place. -/
structure Placed where
  ctx : Nat
  slot : Nat
  x : Nat
  y : Nat
  w : SlotWord
  o : Option Op
  f : Fields
  deriving DecidableEq, Repr

/-- The slot words of a region, by context and slot. -/
def placedWords (g : Region) : List Placed :=
  (List.range 256).map (fun n =>
    g.elems.filterMap fun e => (e.slotWord? (n / 32) (n % 32)).map fun w =>
      ⟨n / 32, n % 32, e.x, e.y, w, opOf (bitsAt w 119 9) (decodeFields w).xmod, decodeFields w⟩) |>.flatten

/-- The site that a destination names from a site; none outside the region (R60). -/
def dstSite (g : Region) (x y : Nat) (d : Dst) : Option (Nat × Nat) :=
  let tx := (x : Int) + d.dx.toInt
  let ty := (y : Int) + d.dy.toInt
  if 0 ≤ tx ∧ tx < g.w ∧ 0 ≤ ty ∧ ty < g.h then some (tx.toNat, ty.toNat) else none

/-- A destination against the image (R60, R61, R63). -/
def dstBad (g : Region) (x y : Nat) (d : Dst) : List Cause :=
  if !d.v then []
  else if d.side = 3 then
    let t := portType (g.portWord d.slot.toNat)
    want (d.slot == 31 || t == 4 || t == 5 || t == 6) (mkCause 1 7)
  else want (match dstSite g x y d with
    | some q => (q.1 + q.2) % 2 == 0
    | none => false) (mkCause 1 9)

/-- Does DIR name a site of the region (R237)? -/
def dirOk (g : Region) (x y d : Nat) : Bool :=
  match d with
  | 0 => decide (1 ≤ y)
  | 1 => decide (x + 1 < g.w)
  | 2 => decide (y + 1 < g.h)
  | _ => decide (1 ≤ x)

/-- Where an opcode keeps DIR: the lowest bit in XMOD. -/
def dirBits (o : Op) : Option Nat :=
  match o with
  | .mtld | .mtst | .mttsb | .kvxlat | .kvseqCreate | .kvseqAttach | .kvseqDetach => some 4
  | .agset | .aggo | .copy | .cpwait | .cpptr | .ownpass | .nask => some 0
  | _ => none

/-- The tag field that an opcode names in XMOD[3:0] (R114). -/
def namesField (o : Op) (f : Fields) : Bool :=
  match o with
  | .alloc | .call | .ret | .ired | .fred | .repeatTok => true
  | .tagset => !bitAt f.xmod 4
  | .tagget => bitsAt f.xmod 4 3 == 0
  | _ => false

/-- Does an opcode use PORT of its IMM (R63, R251, R253)? -/
def usesPort (o : Op) (f : Fields) : Bool :=
  carriesWave o || o == .ownpass || (o == .agset && bitsAt f.xmod 4 2 != 0)

/-- The pool tile that a CALL or RET names. -/
def poolTile (g : Region) (x y : Nat) (f : Fields) : Option (Nat × Nat × Nat) :=
  let d := (bitsAt f.xmod 4 2).toNat
  if !dirOk g x y d then none
  else
    let q := neighbour x y d
    ((g.tile? q.1 q.2).bind Tile.pool?).map fun w => (q.1, q.2, poolFrames w)

/-- Does a CALL's continuation lie in reach of a RET, where both use one pool (R130)? -/
def callReach (g : Region) (c r : Placed) : Bool :=
  match poolTile g c.x c.y c.f, poolTile g r.x r.y r.f with
  | some (ux, uy, _), some (tx, ty, _) =>
    if ux != tx || uy != ty then true
    else
      let dx := (c.x : Int) + c.f.dst1.dx.toInt - r.x
      let dy := (c.y : Int) + c.f.dst1.dy.toInt - r.y
      decide (-64 ≤ dx ∧ dx ≤ 63 ∧ -32 ≤ dy ∧ dy ≤ 31)
  | _, _ => true

/-- The pairs of a CALL or RET with its counterparts (R130). A pair is charged to its RET, and to its CALL where a configuration of
CTXNEXT brings only that (R173). (DEDUCED, log 29.) -/
def pairsReach (g : Region) (ctxs : BitVec 8) (ws : List Placed) (p : Placed) : Bool :=
  if p.o == some .ret then (ws.filter fun c => c.o == some .call).all fun c => callReach g c p
  else (ws.filter fun r => r.o == some .ret && !bitAt ctxs r.ctx).all fun r => callReach g p r

/-- What defines a sheet (R283): corner, slot, rows, columns and staging partitions. -/
structure SheetDef where
  x : Nat
  y : Nat
  slot : Nat
  rs : Nat
  cs : Nat
  spa : Nat
  spb : Nat
  deriving DecidableEq, Repr

/-- The sheet that an MMA word defines. -/
def sheetDef (p : Placed) : SheetDef :=
  ⟨p.x, p.y, p.slot, (bitsAt p.f.imm 16 5).toNat + 1, (bitsAt p.f.imm 21 6).toNat + 1, (bitsAt p.f.xmod 4 3).toNat, (bitsAt p.f.xmod 7 3).toNat⟩

/-- The sheet elements (R283). -/
def SheetDef.elems (d : SheetDef) : List (Nat × Nat) :=
  ((List.range d.rs).map fun r => (List.range d.cs).map fun c => (d.x + 2 * c, d.y + 2 * r)).flatten
/-- Staging partitions: tile and partition (R283). -/
def SheetDef.feeders (d : SheetDef) : List (Nat × Nat × Nat) :=
  ((List.range d.rs).map fun r => (d.x - 1, d.y + 2 * r, d.spa)) ++ ((List.range d.cs).map fun c => (d.x + 2 * c, d.y - 1, d.spb))
/-- Lane circuits: tile and whether it is the east lane (R283). -/
def SheetDef.lanes (d : SheetDef) : List (Nat × Nat × Bool) :=
  ((List.range d.rs).map fun r => (List.range (d.cs - 1)).map fun c => (d.x + 2 * c + 1, d.y + 2 * r, true)).flatten ++
  ((List.range (d.rs - 1)).map fun r => (List.range d.cs).map fun c => (d.x + 2 * c, d.y + 2 * r + 1, false)).flatten

/-- Every site of a sheet lies in the image (R284). -/
def SheetDef.inside (d : SheetDef) (g : Region) : Bool :=
  decide (1 ≤ d.x ∧ 1 ≤ d.y ∧ d.x + 2 * (d.cs - 1) < g.w ∧ d.y + 2 * d.rs - 1 < g.h)

/-- The mode of a partition of a tile. -/
def partMode (g : Region) (x y n : Nat) : Nat := ((g.tile? x y).map fun t => modeOf (t.part n)).getD 0

/-- The checks of an MMA word against the image (R284). A slot s that a running context fills inside a sheet that a configuration of
CTXNEXT brings is charged to the MMA word (R173). (DEDUCED, log 29.) -/
def mmaBad (g : Region) (ctxs : BitVec 8) (ws : List Placed) (p : Placed) : List Cause :=
  let d := sheetDef p
  let others := (ws.filter fun q => q.o == some .mma).map sheetDef
  let clash (e : SheetDef) : Bool :=
    if e.x = d.x ∧ e.y = d.y then e != d
    else d.elems.any e.elems.contains || d.feeders.any e.feeders.contains || d.lanes.any e.lanes.contains
  let filled := ws.any fun q => !bitAt ctxs q.ctx && q.slot == d.slot && !(q.x == d.x && q.y == d.y) && d.elems.contains (q.x, q.y)
  want (d.inside g && !others.any clash && !filled) (mkCause 7 1) ++
  want (d.feeders.all fun q => partMode g q.1 q.2.1 q.2.2 == 1) (mkCause 7 2)

/-- The checks of a word that its sheet surroundings make (R284): slot s of a sheet element other than the corner is
empty; MZERO, MDRAIN and MSWAP stand at a corner; a drain partition is a FIFO. -/
def sheetBad (g : Region) (ds : List SheetDef) (p : Placed) : List Cause :=
  let here := ds.filter fun d => d.x == p.x && d.y == p.y
  want (!ds.any fun d => d.slot == p.slot && !(d.x == p.x && d.y == p.y) && d.elems.contains (p.x, p.y)) (mkCause 7 1) ++
  (match p.o with
   | some .mzero | some .mswap => want (!here.isEmpty) (mkCause 7 1)
   | some .mdrain => want (!here.isEmpty) (mkCause 7 1) ++
     want (here.all fun d => (List.range d.cs).all fun c =>
       partMode g (d.x + 2 * c) (d.y + 2 * d.rs - 1) (bitsAt p.f.xmod 3 3).toNat == 2) (mkCause 7 2)
   | _ => [])

/-- Is a word's OSEQ repeated in its chain (R65)? -/
def oseqRepeats (ws : List Placed) (p : Placed) : Bool :=
  countIf (fun q => (match q.o with
    | some o => carriesWave o
    | none => false) && q.ctx == p.ctx && bitsAt q.f.imm 0 8 == bitsAt p.f.imm 0 8 && bitsAt q.f.imm 16 8 == bitsAt p.f.imm 16 8) ws > 1

/-- The checks of one instruction against its image. (DEDUCED, log 29.) -/
def imageChecks (g : Region) (priv : Bool) (ctxs : BitVec 8) (ws : List Placed) (p : Placed) (o : Op) : List Cause :=
  let f := p.f
  let k := (bitsAt f.xmod 0 4).toNat
  let c8 := mkCause 1 8
  dstBad g p.x p.y f.dst0 ++ dstBad g p.x p.y f.dst1 ++
  want (priv || f.top != 5) (mkCause 1 5) ++ want (priv || !(opInfo o).priv) (mkCause 1 0x14) ++
  want (!(1 ≤ f.top.toNat && f.top.toNat ≤ 3) || decide ((bitsAt f.mod 0 4).toNat < g.tagw.length)) (mkCause 1 0xB) ++
  want (!namesField o f || decide (k < g.tagw.length)) (mkCause 1 0xB) ++
  want (!usesPort o f || portType (g.portWord (bitsAt f.imm 4 4).toNat) == 1) (mkCause 1 7) ++
  want (!carriesWave o || !oseqRepeats ws p) c8 ++
  (match dirBits o with
   | some b => want (dirOk g p.x p.y (bitsAt f.xmod b 2).toNat) c8
   | none => []) ++
  (match o with
   | .alloc => want (decide ((bitsAt f.imm 0 7).toNat ≤ 2 ^ fieldW g.tagw k)) (mkCause 2 5)
   | .release => want (f.dst1.side == 1 && ws.any fun q => q.o == some .alloc && q.ctx == p.ctx &&
       q.slot == f.dst1.slot.toNat && dstSite g p.x p.y f.dst1 == some (q.x, q.y)) (mkCause 2 0xA)
   | .call | .ret =>
     (match poolTile g p.x p.y f with
      | none => [mkCause 2 9]
      | some (_, _, n) => want (decide (n ≤ 2 ^ fieldW g.tagw k)) (mkCause 2 6)) ++
     want (pairsReach g ctxs ws p) (mkCause 1 9)
   | .ctok => let n := (bitsAt f.imm 0 5).toNat
              want (n == 31 || portType (g.portWord n) == 3) (mkCause 1 7)
   | .census => want (bitAt f.imm 9 || bitAt g.ctxmask (bitsAt f.imm 6 3).toNat) c8
   | .kvpack => if g.tagw.length ≤ k then [mkCause 1 0xB] else want (decide (3 ≤ fieldW g.tagw k)) c8
   | .aggo => want (decide ((bitsAt f.xmod 4 4).toNat < g.tagw.length)) (mkCause 1 0xB)
   | .mma => mmaBad g ctxs ws p
   | _ => [])

/-- Every cause for which a slot word is rejected. -/
def placedBad (g : Region) (priv : Bool) (ctxs : BitVec 8) (ws : List Placed) (ds : List SheetDef) (p : Placed) : List Cause :=
  match p.o with
  | none => mkCause 1 1 :: sheetBad g ds p
  | some o => wordChecks o p.f ++ imageChecks g priv ctxs ws p o ++ sheetBad g ds p

/-- The first slot word that fails, in context and slot order (R77). -/
def firstSlotFail (g : Region) (priv : Bool) (ctxs : BitVec 8) : Option LoadFail :=
  let ws := placedWords g
  let ds := ((ws.filter fun q => q.o == some .mma).map sheetDef).eraseDups
  ((ws.filter fun p => bitAt ctxs p.ctx).filterMap fun p =>
    (lowestCause (placedBad g priv ctxs ws ds p)).map fun c => (⟨c, p.x, p.y, p.ctx, p.slot, 0⟩ : LoadFail)).head?

/-- A port's attachment site is in reach of the elements that name it (R62). -/
def attachOk (ws : List Placed) (i : Nat) (w : Word64) : Bool :=
  ws.all fun p =>
    let names (d : Dst) := d.v && d.side == 3 && d.slot.toNat == i
    let uses := names p.f.dst0 || names p.f.dst1 || (match p.o with
      | some .ctok => (bitsAt p.f.imm 0 5).toNat == i
      | some o => usesPort o p.f && (bitsAt p.f.imm 4 4).toNat == i
      | none => false)
    !uses || decide (((p.x : Int) - portAx w).natAbs ≤ 64 ∧ ((p.y : Int) - portAy w).natAbs ≤ 32)

/-- A sheet at image load (R296). -/
def SheetDef.fresh (d : SheetDef) : Sheet :=
  let bank : Bank := ⟨List.replicate 256 0, List.replicate 16 0⟩
  { x := d.x, y := d.y, slot := d.slot, rs := d.rs, cs := d.cs, spa := d.spa, spb := d.spb, act := 0,
    banks := [⟨none, none⟩, ⟨none, none⟩], elems := List.replicate (d.rs * d.cs) [bank, bank], staged := [],
    streams := [], ops := [] }

/-! ## The whole image -/

/-- A region built from an image, before placement. -/
def buildRegion (i : Img) (va : Nat) (ports : List Word64) (stns : List (Word64 × Word64)) (tab : List (BitVec 256))
    (ps : List Pat) : Region :=
  { die := 0, num := 0, x0 := 0, y0 := 0, w := i.w, h := i.h, rel := 0, image := BitVec.ofNat 64 va, tagw := i.tagw,
    ctxmask := i.ctxmask, multiw := bitAt i.hdr 74, memn := bitAt i.hdr 72, mems := bitAt i.hdr 73,
    ports := ports.map fun p => ⟨p, p, [], false⟩, stns := stns.map fun r => ⟨0, r.1, r.2, List.replicate 8 []⟩,
    elems := (sitesOf i.w i.h 0).map fun q => loadElem ps q.1 q.2,
    tiles := (sitesOf i.w i.h 1).map fun q => loadTile ps q.1 q.2,
    mports := [], links := [], accs := [],
    ctx := (List.range 8).map fun c => if bitAt i.ctxmask c then .running else .free,
    ctxCfg := List.replicate 8 0, ctxReqs := [], coltab := tab, census := [], deltas := [], admits := [], zeroLast := [],
    quiet := [], stall := [], stalled := [], sweeps := 0, sweepStart := 0, due := [], sheets := [], hwerr := 0,
    yielded := false, quietFor := 0, turns := [] }

/-- The outcome of loading: a region with its held ranges, a rejection, or a read that failed at an address. -/
inductive Loaded where
  | ok (g : Region) (held : List HeldRange)
  | bad (f : LoadFail)
  | unread (c : Cause) (va : Nat)

/-- A quota override (R195). -/
structure Override where
  col : Nat
  quota : BitVec 32
  deriving DecidableEq, Repr

/-- The colour table of an image: its own, or COLTAB's, with the overrides applied (R175, R195, R196). -/
def colourTable (i : Img) (m : List Host.Cell) (ct : Option VRange) (ovs : List Override) : List (BitVec 256) :=
  (List.range 64).map fun c =>
    let e : BitVec 256 := match ct with
      | some v => BitVec.ofNat 256 (v.readNat m (32 * c) 32)
      | none => if i.fld 288 32 = 0 then 0 else BitVec.ofNat 256 (i.num (i.fld 288 32 + 32 * c) 32)
    match ovs.find? fun o => o.col == c with
    | some o => setBits e 192 o.quota
    | none => e

/-- The slots of an element of a running region, those of a context that a configuration defines apart. -/
def keptSlots (b : Region) (e : Elem) (ctxs : BitVec 8) : List (Nat × SlotWord) :=
  match b.elem? e.x e.y with
  | none => []
  | some k => k.slots.filter fun q => !bitAt ctxs (q.1 / 32)

/-- A configuration's region beside the running region that it joins (R173, R200). -/
def joinBase (g b : Region) : Region :=
  let es := g.elems.map fun e => { e with slots := e.slots ++ keptSlots b e g.ctxmask }
  { g with ports := b.ports, tiles := b.tiles, coltab := b.coltab, ctxmask := b.ctxmask ||| g.ctxmask, elems := es }

/-- Check an image that has been read and build its region: slot words first, then every other structure together (R77). `base` is
the running region that a configuration of CTXNEXT joins (R173): the entries that its words name are that region's. `lead` holds the
port table of member 0 for another member of a group, whose colour table names that one's entry and exit ports (R420). `kept` is the
colour table of a SAVED launch, whose images are checked without their own (R384). A section
that the header puts outside the image is not read. (DEDUCED, log 29.) -/
def loadFrom (s : State) (i : Img) (va : Nat) (priv : Bool) (ct : Option VRange) (ovs : List Override)
    (base : Option Region) (lead : Option (List Word64)) (kept : Option (List (BitVec 256))) : Loaded :=
  let hb := i.headerBad base.isSome ++ (match base with
    | some b => need (i.w == b.w && i.h == b.h) (mkCause 1 8) 0
    | none => [])
  let offp := i.fld 256 32
  let offs := i.fld 352 32
  let offh := i.fld 320 32
  let entries (off n len : Nat) : List Nat := if i.sectOk off n len then List.range n else []
  let ports := (entries offp (i.fld 88 8) 8).map fun k => BitVec.ofNat 64 (i.num (offp + 8 * k) 8)
  let stns := (entries offs (i.fld 104 8) 16).map fun k =>
    ((BitVec.ofNat 64 (i.num (offs + 16 * k) 8) : Word64), (BitVec.ofNat 64 (i.num (offs + 16 * k + 8) 8) : Word64))
  let decls := (entries offh (i.fld 96 8) 16).map fun k => (BitVec.ofNat 128 (i.num (offh + 16 * k) 16) : BitVec 128)
  let tab := kept.getD (colourTable i s.mem ct ovs)
  let pb := if i.fld 192 32 = 0 ∨ i.fld 384 32 = 0 then ([], []) else i.pats (i.fld 192 32) (i.fld 384 32)
  let g0 := buildRegion i va ports stns tab pb.1
  let g := match base with
    | none => g0
    | some b => joinBase g0 b
  let ws := placedWords g
  match firstSlotFail g priv i.ctxmask with
  | some f => .bad f
  | none =>
    let mine := ws.filter fun p => bitAt i.ctxmask p.ctx
    let portBad := ((List.range g.ports.length).map fun k =>
      need ((base.isSome || portOk i.w i.h (ports.getD k 0)) && attachOk mine k (g.portWord k)) (mkCause 1 8)
        (if base.isSome then 0 else offp + 8 * k)).flatten
    let modeBad := (pb.1.filter fun p => p.kind == 1).map fun p =>
      need (modesOk p.modes && (g0.tiles.filter fun t => p.has t.x t.y).all (landingOk i.w)) (mkCause 1 8) p.off
    let rest := pb.2 ++ overlapBad pb.1 i.w i.h ++ modeBad.flatten ++ portBad ++ stnBad s ports tab stns offs ++
      heldBad tab decls offh ++ (if base.isSome || kept.isSome then [] else coltabBad tab (lead.getD ports) (bitAt i.hdr 74) (i.fld 288 32))
    match lowestBad (hb ++ rest) with
    | some b => .bad ⟨b.1, 0, 0, 0, 31, b.2⟩
    | none =>
      let sheets := (((ws.filter fun q => q.o == some .mma).map sheetDef).eraseDups).map SheetDef.fresh
      .ok { g with sheets := sheets } (decls.map heldDecl)

/-- Read an image's header, then all its bytes, through a world's page tables, and load it (R196). -/
def loadImage (s : State) (w : BitVec 8) (va : Nat) (priv : Bool) (ct : Option VRange) (ovs : List Override)
    (base : Option Region) (lead : Option (List Word64) := none) (kept : Option (List (BitVec 256)) := none) : Loaded :=
  match s.vrange w va 64 false with
  | .error e => .unread e.1 e.2
  | .ok v0 =>
    let hdr : BitVec 512 := BitVec.ofNat 512 (v0.readNat s.mem 0 64)
    let i0 : Img := ⟨v0, s.mem, hdr⟩
    if i0.fld 0 32 != imageMagic || i0.fld 32 16 != 1 then .bad ⟨mkCause 1 8, 0, 0, 0, 31, 0⟩
    else
      match s.vrange w va (max 64 i0.size) false with
      | .error e => .unread e.1 e.2
      | .ok v => loadFrom s ⟨v, s.mem, hdr⟩ va priv ct ovs base lead kept

/-- The MAGIC of a group descriptor (R420). -/
def groupMagic : Nat := 0x57584752

/-- Load the members of a group in order; `lead` holds the port table of member 0 once that is loaded. -/
def loadMembers (s : State) (w : BitVec 8) (priv : Bool) (ct : Option VRange) (ovs : List Override) :
    Option (List Word64) → List (Nat × Nat) → Nat → Except Loaded (List Region × List HeldRange)
  | _, [], _ => .ok ([], [])
  | lead, (va, rel) :: rest, m =>
    match loadImage s w va priv ct ovs none lead with
    | .ok g hs =>
      (match loadMembers s w priv ct ovs (lead.or (some (g.ports.map Port.image))) rest (m + 1) with
       | .ok r => .ok ({ g with rel := rel } :: r.1, (hs.map fun h => { h with member := m }) ++ r.2)
       | .error e => .error e)
    | e => .error e

/-- Do the members of a group, or a single image, use flight pairs as R422 has it? -/
def flightsOk (gs : List Region) : Bool :=
  let pairs (g : Region) : List Nat := (g.ports.filter fun p => portType p.image == 5).map fun p => portIndex p.image
  (gs.all fun g => g.ports.all fun p => portType p.image != 5 || (portDie p.image == 0 && decide (portIndex p.image < 24))) &&
  (List.range 24).all fun n =>
    let having := gs.filter fun g => (pairs g).contains n
    (gs.all fun g => decide (countIf (· == n) (pairs g) ≤ 1)) &&
    (match having with
     | [] => true
     | [a, b] => (a.rel ^^^ b.rel) == 1 || (a.rel ^^^ b.rel) == 2
     | _ => false)

/-- The conditions of a group beyond its members' own (R420). -/
def groupOk (gs : List Region) : Bool :=
  (match gs with
   | [] => false
   | g :: rest => g.rel == 0 && rest.all fun r => (r.ports.all fun p => portType p.image != 3 && portType p.image != 4) &&
       r.coltab == g.coltab) &&
  decide ((gs.map Region.rel).Nodup) && flightsOk gs

/-- What a launch loads: its members and held ranges, a rejection, or a failed read (R196, R420). -/
inductive LoadedLaunch where
  | ok (ms : List Region) (held : List HeldRange)
  | bad (f : LoadFail)
  | unread (c : Cause) (va : Nat)

/-- Load what IMAGE addresses: one image, or the members of a group. -/
def loadLaunch (s : State) (w : BitVec 8) (va : Nat) (priv : Bool) (ct : Option VRange) (ovs : List Override) : LoadedLaunch :=
  let gbad : LoadedLaunch := .bad ⟨mkCause 0xB 1, 0, 0, 0, 31, 0⟩
  match s.vrange w va 64 false with
  | .error e => .unread e.1 e.2
  | .ok v =>
    let b (off n : Nat) := v.readNat s.mem off n
    if b 0 4 = groupMagic then
      let n := b 6 1
      if b 4 2 != 1 || n < 2 || n > 4 || b 0x28 24 != 0 || b 7 1 / 2 ^ (2 * n) != 0 ||
          ((List.range (4 - n)).any fun k => b (8 + 8 * (n + k)) 8 != 0) then gbad
      else
        match loadMembers s w priv ct ovs none ((List.range n).map fun m => (b (8 + 8 * m) 8, b 7 1 / 4 ^ m % 4)) 0 with
        | .error (.bad f) => .bad f
        | .error (.unread c a) => .unread c a
        | .error _ => gbad
        | .ok r => if groupOk r.1 then .ok r.1 r.2 else gbad
    else
      match loadImage s w va priv ct ovs none with
      | .bad f => .bad f
      | .unread c a => .unread c a
      | .ok g hs => if flightsOk [g] then .ok [g] hs else gbad

end Sys2Proof.Machine
end

