-- ==== Sys2Proof/Machine/Placer.lean ====
section
/-! DEFINITION. Launches from submission to RUNNING (R160 to R171, R193 to R196, R267, R405, R419 to R422, R426): checking
a launch record, handles, the placer's decisions, and the end of loading. -/

namespace Sys2Proof.Machine

/-! ## Launch queues (R167) -/

/-- LQCFGn. -/
def State.lq (s : State) (n : Nat) : Word64 := s.reg (8 * n)
/-- EN of an LQCFG. -/
def lqEn (w : Word64) : Bool := bitAt w 63
/-- OVL of an LQCFG. -/
def lqOvl (w : Word64) : Bool := bitAt w 62
/-- PRE of an LQCFG. -/
def lqPre (w : Word64) : Bool := bitAt w 61
/-- VICT of an LQCFG. -/
def lqVict (w : Word64) : Bool := bitAt w 60
/-- PRIO of an LQCFG. -/
def lqPrio (w : Word64) : Nat := (bitsAt w 58 2).toNat
/-- WORLD of an LQCFG. -/
def lqWorld (w : Word64) : BitVec 8 := bitsAt w 50 8

/-! ## Heads (R169, R170) -/

/-- Is a launch waiting for a place? -/
def Launch.waits (l : Launch) : Bool := l.state == .queued || l.state == .saved

/-- The earliest launch, by place in its queue, that satisfies a test. -/
def earliest (q : Launch → Bool) : List Launch → Option Launch
  | [] => none
  | l :: ls =>
    match earliest q ls with
    | none => if q l then some l else none
    | some k => if q l && decide (l.order < k.order) then some l else some k

/-- The head of a queue: the first launch of it that waits, and whether it is eligible (R169). -/
def State.headAt (s : State) (n : Nat) : Option (Launch × Bool) :=
  (earliest (fun l => l.queue == n && l.waits) s.launches).map fun l =>
    (l, lqOvl (s.lq n) || !s.launches.any fun k => k.queue == n && decide (k.order < l.order) && k.state != .committed)

/-- The eligible head of a queue. -/
def State.head? (s : State) (n : Nat) : Option Launch := (s.headAt n).bind fun q => if q.2 then some q.1 else none

/-- A state that follows another: a placement decision is due when a launch has become the head of its queue, or a head has become
eligible (R170). -/
def State.dueSince (s old : State) : State :=
  let key (s : State) (n : Nat) : Option (Word32 × Bool) := (s.headAt n).map fun q => (q.1.handle, q.2)
  let news (n : Nat) : Bool := match key s n, key old n with
    | some a, some b => a.1 != b.1 || (a.2 && !b.2)
    | some _, none => true
    | none, _ => false
  if (List.range 64).any news then { s with placeDue := s.placeDue + 1 } else s

/-! ## Submission (R193, R195, R196) -/

/-- The overrides of a launch record: its V bits and values. -/
def recOverrides (r : BitVec 512) : List Override :=
  (List.range 4).filterMap fun k =>
    let o : BitVec 48 := bitsAt r (192 + 48 * k) 48
    if bitAt o 47 then some ⟨(bitsAt o 40 6).toNat, bitsAt o 0 32⟩ else none

/-- Step 1 of R196. -/
def recordOk (r : BitVec 512) : Bool :=
  let image : Word64 := bitsAt r 0 64
  let coltab : Word64 := bitsAt r 64 64
  bitsAt r 384 128 == 0 && bitsAt r 151 41 == 0 && !bitAt r 147 &&
  ((List.range 4).all fun k => !bitAt r (192 + 48 * k + 46) && bitsAt r (192 + 48 * k + 32) 8 == 0) &&
  bitsAt image 0 6 == 0 && bitsAt image 57 7 == 0 && bitsAt coltab 0 6 == 0 &&
  decide (((recOverrides r).map Override.col).Nodup)

/-- The first free handle from a number (R193): one whose launch, if any, is COMMITTED. -/
def State.freeHandle (s : State) : Nat → Word32 → Word32
  | 0, h => h
  | fuel + 1, h =>
    match s.launch? h with
    | some l => if l.state == .committed then h else State.freeHandle s fuel (h + 1)
    | none => h

/-- The first sealing state of a launch before it loads. -/
def SealState.none : SealState := ⟨0, 0, false, [], Option.none, Option.none, false, false, true, false⟩

/-- The launch of a record (R195). -/
def newLaunch (r : BitVec 512) (h : Word32) (ms : List Region) (held : List HeldRange) (no : Nat) : Launch :=
  { handle := h, queue := (bitsAt r 128 6).toNat, prio := (bitsAt r 134 2).toNat, world := bitsAt r 136 8,
    autoc := bitAt r 148, priv := bitAt r 149, capt := bitAt r 150, strict := bitAt r 146, adie := (bitsAt r 144 2).toNat,
    image := bitsAt r 0 64, state := .queued, members := ms, openSpan := 0, closedSpans := 0, committed := 0,
    spanReplies := [], spanDue := [], held := held, sl := .none, purges := [], causes := [], freezeWaiters := [], freezeReq := false,
    toSaved := false, scanned := false, scanTried := false, areas := [], frozenBy := Option.none, drainFrom := Option.none, results := [], admitted := false,
    fails := 0, order := no, placedNo := 0, replay := false, hwDead := false }

/-- The fault record of a rejected image (R77). -/
def rejectRecord (s : State) (w : BitVec 8) (f : LoadFail) : FaultRec :=
  { bareFault s w f.cause 0 (BitVec.ofNat 64 f.extra) with ax := f.ax, ay := f.ay, ctx := f.ctx, slot := f.slot }

/-- Is the seal counter of a world exhausted (R405)? -/
def State.genx (s : State) (w : BitVec 8) : Bool := bitAt (s.wcfg w) 60

/-- Submit a launch record (R196): the state after, the status and the handle. -/
def State.submit (s : State) (r : BitVec 512) (world : BitVec 8) (trust : Bool) : State × BitVec 8 × Word32 :=
  let w : BitVec 8 := bitsAt r 136 8
  let lq := s.lq (bitsAt r 128 6).toNat
  if !recordOk r then (s, 9, 0)
  else if !trust && (bitAt r 149 || w != world) then (s, 10, 0)
  else if !lqEn lq || lqWorld lq != w || decide (lqPrio lq < (bitsAt r 134 2).toNat) then (s, 7, 0)
  else
    let ct : Word64 := bitsAt r 64 64
    let table := if ct = 0 then Except.ok none else (s.vrange w ct.toNat 2048 false).map some
    match table with
    | .error e => (s.deliver (bareFault s w e.1 0 (BitVec.ofNat 64 e.2)), 8, 0)
    | .ok ct =>
      match loadLaunch s w (bitsAt r 0 64).toNat (bitAt r 149) ct (recOverrides r) with
      | .unread c va => (s.deliver (bareFault s w c 0 (BitVec.ofNat 64 va)), 8, 0)
      | .bad f => (s.deliver (rejectRecord s w f), 8, 0)
      | .ok ms held =>
        if s.sealedWorld w && s.genx w then (s, 8, 0)
        else
          let h := s.freeHandle (s.launches.length + 1) s.nextHandle
          let s1 := s.dropDeclarations h
          let l := newLaunch r h ms held s.orderNo
          let s2 : State := { s1 with
            launches := (s1.launches.filter fun k => k.handle != h) ++ [l]
            nextHandle := h + 1
            orderNo := s1.orderNo + 1 }
          (s2.dueSince s, 0, h)

/-! ## Where a launch fits (R161 to R165, R267, R421, R422, R426) -/

/-- Does a launch hold sites (R168)? -/
def Launch.placed (l : Launch) : Bool := l.state == .loading || l.state == .running || l.state == .frozen

/-- The regions in place. -/
def placedRegions (ls : List Launch) : List Region := ((ls.filter Launch.placed).map Launch.members).flatten

/-- Do two regions in place share a site? -/
def sitesMeet (d x0 y0 w h : Nat) (g : Region) : Bool :=
  g.die == d && decide (x0 < g.x0 + g.w ∧ g.x0 < x0 + w ∧ y0 < g.y0 + g.h ∧ g.y0 < y0 + h)

/-- The column of memory-port tile n of an edge (R163). -/
def tileColumn (n : Nat) : Nat := 5 * n / 2

/-- INDEX of an entry of TYPE 1 or 2 at a column (R163); none when it does not fit. -/
def rebaseTile (index x0 w : Nat) : Option Nat :=
  let n := (2 * x0 + 4) / 5 + index % 32
  if n > 31 || tileColumn n > x0 + w - 1 then none else some (32 * (index / 32) + n)

/-- The lowest number below a bound that is not taken. -/
def lowestFree (taken : List Nat) (bound : Nat) : Option Nat := (List.range bound).find? fun n => !taken.contains n

/-- INDEXes in use on a die by one entry type. -/
def usedIndexes (gs : List Region) (die type : Nat) : List Nat :=
  ((gs.filter fun g => g.die == die).map fun g => (g.ports.filter fun p => portType p.word == type).map fun p => portIndex p.word).flatten

/-- The DIE and INDEX fields of a port word replaced (R163, R164). -/
def setTarget (w : Word64) (die index : Nat) : Word64 := setBits (setBits w 58 (BitVec.ofNat 2 die)) 50 (BitVec.ofNat 8 index)

/-- Rebase the entries of a port table at an origin, flights apart (R163, R164); none when one does not fit. -/
def rebasePorts (gs : List Region) (die x0 w : Nat) : List Port → List Nat → List Nat → Option (List Port)
  | [], _, _ => some []
  | p :: ps, ins, outs =>
    let t := portType p.image
    let put (i : Nat) : Port := { p with word := setTarget p.image die i }
    if t = 1 ∨ t = 2 then
      match rebaseTile (portIndex p.image) x0 w, rebasePorts gs die x0 w ps ins outs with
      | some i, some rest => some (put i :: rest)
      | _, _ => none
    else if t = 3 then
      match lowestFree (usedIndexes gs die 3 ++ ins) 64 with
      | some i => (rebasePorts gs die x0 w ps (i :: ins) outs).map fun rest => put i :: rest
      | none => none
    else if t = 4 then
      match lowestFree (usedIndexes gs die 4 ++ outs) 64 with
      | some i => (rebasePorts gs die x0 w ps ins (i :: outs)).map fun rest => put i :: rest
      | none => none
    else if t = 6 then (rebasePorts gs die x0 w ps ins outs).map fun rest => put (portIndex p.image) :: rest
    else (rebasePorts gs die x0 w ps ins outs).map fun rest => p :: rest

/-- The station of a station word of a region. -/
def Region.stnIndex (g : Region) (b : Word64) : Nat := portIndex (g.portWord (bindEntry b))

/-- The station words in place at a station (R426). -/
def wordsAt (gs : List Region) (die station : Nat) : List Word64 :=
  ((gs.filter fun g => g.die == die).map fun g => (g.stns.filter fun k => stnSop k.word != 0 && g.stnIndex k.bind == station).map StnWord.word).flatten

/-- Do a region's station words find room on a die (R426)? -/
def stationsFit (gs : List Region) (die : Nat) (g : Region) : Bool :=
  (List.range 16).all fun n =>
    let mine := (g.stns.filter fun k => stnSop k.word != 0 && g.stnIndex k.bind == n).map StnWord.word
    let there := wordsAt gs die n
    mine.isEmpty || (decide (there.length + mine.length ≤ 4) &&
      mine.all fun w => !there.any fun v => stnCol v == stnCol w && stnCtx v == stnCtx w)

/-- A region at an origin of a die, when it fits (R161, R163, R164). -/
def placeAt (gs : List Region) (g : Region) (die x0 y0 : Nat) : Option Region :=
  if (x0 + y0) % 2 ≠ 0 ∨ x0 + g.w > 80 ∨ y0 + g.h > 56 ∨ (g.memn ∧ y0 ≠ 0) ∨ (g.mems ∧ y0 + g.h ≠ 56) then none
  else if gs.any (sitesMeet die x0 y0 g.w g.h) || !stationsFit gs die g then none
  else
    match rebasePorts gs die x0 g.w g.ports [] [] with
    | none => none
    | some ps =>
      let nums := (gs.filter fun r => r.die == die).map Region.num
      some { g with die := die, x0 := x0, y0 := y0, ports := ps, num := (lowestFree nums 256).getD 0,
                    stns := g.stns.map fun k => { k with die := die } }

/-- The first origin of a die, row-major, where a region fits (R162). -/
def placeOn (gs : List Region) (g : Region) (die : Nat) : Option Region :=
  ((List.range 56).map fun y => (List.range 80).map fun x => (x, y)).flatten.findSome? fun q => placeAt gs g die q.1 q.2

/-- Place the members of a launch in order on the dies of a candidate (R421). -/
def placeMembers (d : Nat) : List Region → List Region → Option (List Region)
  | _, [] => some []
  | gs, g :: rest =>
    match placeOn gs g (d ^^^ g.rel) with
    | none => none
    | some k => (placeMembers d (gs ++ [k]) rest).map fun ks => k :: ks

/-- The channels of a border that flight pairs in place hold (R422). -/
def usedChannels (gs : List Region) (a b : Nat) : List Nat :=
  (gs.map fun g => (g.ports.filter fun p => portType p.word == 5 &&
    ((g.die == a && portDie p.word == b) || (g.die == b && portDie p.word == a))).map fun p => portIndex p.word).flatten

/-- The ports of a region whose image names one of the first pairs: those that have their channels already. -/
def Region.paired (g : Region) (n : Nat) : Region := { g with ports := g.ports.filter fun p => decide (portIndex p.image < n) }

/-- Give one flight pair a channel: the members with both entries written; none when the border has none free. The pairs of the
launch itself hold channels once they have been given (R422). -/
def placePair (gs : List Region) (ms : List Region) (n : Nat) : Option (List Region) :=
  let has (g : Region) : Bool := g.ports.any fun p => portType p.image == 5 && portIndex p.image == n
  match ms.filter has with
  | [a, b] =>
    match lowestFree (usedChannels (gs ++ ms.map fun g => g.paired n) a.die b.die) 24 with
    | none => none
    | some c => some (ms.map fun g =>
        let partner := if g.die == a.die then b.die else a.die
        { g with ports := g.ports.map fun p =>
            if portType p.image == 5 && portIndex p.image == n then { p with word := setTarget p.image partner c } else p })
  | _ => some ms

/-- Give every flight pair of a launch a channel, pair by pair. -/
def placePairs (gs : List Region) : List Nat → List Region → Option (List Region)
  | [], ms => some ms
  | n :: ns, ms =>
    match placePair gs ms n with
    | none => none
    | some k => placePairs gs ns k

/-- Do the held ranges of a launch allow it to be placed (R267)? (DEDUCED, log 31.) -/
def heldClear (ls : List Launch) (l : Launch) : Bool :=
  let active (k : Launch) := k.handle != l.handle &&
    (k.state == .running || k.state == .frozen || k.state == .saved || k.state == .retired)
  let worldOf (k : Launch) (r : HeldRange) : BitVec 8 := ((k.members[r.member]?).map fun g => colWorld (g.col r.col)).getD 0
  (ls.filter active).all fun k => l.held.all fun r => k.held.all fun q => !(worldOf l r == worldOf k q && heldOverlap r q)

/-- The dies that a launch tries, in order (R162). -/
def candidateDies (l : Launch) : List Nat := if l.strict then [l.adie] else (List.range 4).map fun k => (l.adie + k) % 4

/-- A launch's members in place, beside the launches `ls` that hold sites, where the held ranges of all launches allow it (R161 to
R166, R267). -/
def fitLaunch (all ls : List Launch) (l : Launch) : Option (List Region) :=
  if !heldClear all l then none
  else
    let gs := placedRegions ls
    let fresh := l.members.map fun g => { g with ports := g.ports.map fun p => { p with word := p.image } }
    (candidateDies l).findSome? fun d =>
      match placeMembers d gs fresh with
      | none => none
      | some ms => placePairs gs (List.range 24) ms

/-! ## Placement decisions (R169 to R171) -/

/-- The next seal generation of a world (R405): the counter after, and the value; none when it is exhausted. -/
def State.drawGen (s : State) (w : BitVec 8) : State × Option Word32 :=
  match s.keys.find? fun k => k.world == w with
  | none => (s, some 0)
  | some k =>
    let n := k.counter + 1
    if n > 0xFFFFFFFF then (s.setReg (0xA000 + 16 * w.toNat) (s.wcfg w ||| 0x1000000000000000), none)
    else ({ s with keys := s.keys.map fun q => if q.world == w then { q with counter := n } else q }, some (BitVec.ofNat 32 n))

/-- A launch that has found its place enters LOADING (R168, R405, R412). A SAVED launch keeps its sealing state. -/
def State.enterLoading (s : State) (l : Launch) (ms : List Region) : State :=
  let d := if l.scanned then (s, none) else s.drawGen l.world
  let sl := match d.2 with
    | some gen => { l.sl with gen := gen, prev := gen, epoch := false, seqs := [], prevClear := true }
    | none => l.sl
  let l' := { l with members := ms, state := .loading, fails := 0, placedNo := s.orderNo, sl := sl }
  let s1 := d.1.putLaunch l'
  State.dueSince { s1.bumpLayout with orderNo := s1.orderNo + 1, reserved := s1.reserved.filter (· != l.handle) } s

/-- A launch whose world has no seal generation left ends before it loads: GENX is set, a record 0xA.05 is written, and its queue
goes on (R405). (DEDUCED, log 42.) -/
def State.refuseSeal (s : State) (l : Launch) : State :=
  let s1 := (s.drawGen l.world).1.putLaunch { l with state := .committed, closedSpans := 1, committed := 1 }
  (s1.deliver (bareFault s1 l.world (mkCause 10 5) 0 0)).dueSince s

/-- May a launch be taken as a victim for a head of this priority (R171, R198)? -/
def victimFor (s : State) (head : Launch) (v : Launch) : Bool :=
  let hp := lqPrio (s.lq head.queue)
  let frozenOk := v.state == .frozen && !v.hwDead
  (v.state == .running || frozenOk) && !v.toSaved && v.handle != head.handle &&
    ((lqPre (s.lq head.queue) && lqVict (s.lq v.queue) && decide (v.prio < hp)) ||
     ((v.members.any Region.yielded) && decide (v.prio ≤ hp)))

/-- Victims in the order the placer takes them: ascending priority, then the most recently placed first (R171).
(DEDUCED, log 31.) -/
def victimBefore (a b : Launch) : Bool := decide (a.prio < b.prio) || (a.prio == b.prio && decide (b.placedNo < a.placedNo))

/-- Insert a launch in victim order. -/
def insertVictim (v : Launch) : List Launch → List Launch
  | [] => [v]
  | k :: ks => if victimBefore v k then v :: k :: ks else k :: insertVictim v ks

/-- The fewest victims, in order, whose sites let the head fit; none when no set suffices (R171). `ls` are the launches that keep their
sites without them; a victim is SAVED, so that its held ranges still count among those of `all` (R267). -/
def takeVictims (head : Launch) (all ls : List Launch) : List Launch → List Launch → Option (List Launch)
  | _, [] => none
  | took, v :: vs =>
    let gone := v :: took
    let left := ls.filter fun k => !gone.any fun g => g.handle == k.handle
    if (fitLaunch all left head).isSome then some gone else takeVictims head all ls gone vs

/-- A launch frees its sites and ports and waits as SAVED at the head of its queue (R168, R382, R385, R412). -/
def State.saveLaunch (s : State) (l : Launch) : State :=
  let s1 := s.putLaunch { l with state := .saved, scanned := true, toSaved := false, drainFrom := none, fails := 0 }
  { s1.bumpLayout with placeDue := s1.placeDue + 1 }

/-- A RUNNING launch that is to be saved drains, as soon as no purge of it runs (R385). -/
def Launch.drain (l : Launch) (now : Nat) : Launch :=
  { l with toSaved := true, drainFrom := if l.purges.isEmpty then some now else none, frozenBy := none }

/-- Mark a victim: a RUNNING one drains, a FROZEN one is released once its scan is complete (R171, R382, R385). -/
def markVictim (s : State) (v : Launch) : State :=
  if v.state == .running then s.putLaunch (v.drain s.cycle)
  else if v.scanned then s.saveLaunch v
  else s.putLaunch { v with toSaved := true }

/-- Look for victims of a head that did not fit. -/
def State.preempt (s : State) (head : Launch) : State :=
  let ls := s.launches.filter fun k => !(k.placed && k.toSaved)
  if (fitLaunch s.launches ls head).isSome then s
  else
    let vs := (ls.filter (victimFor s head)).foldl (fun a v => insertVictim v a) []
    match takeVictims head s.launches ls [] vs with
    | none => s
    | some took => took.foldl markVictim s

/-- Try one head: place it, or count a failure, reserve after 16, and look for victims (R170, R171). -/
def State.tryHead (s : State) (h : Word32) (prio : Nat) : State :=
  match s.launch? h with
  | none => s
  | some l =>
    let s0 := { s with pointers := s.pointers.set prio ((l.queue + 1) % 64) }
    let spent := !l.scanned && s.sealedWorld l.world && (s.drawGen l.world).2.isNone
    if spent then s0.refuseSeal l
    else match fitLaunch s0.launches s0.launches l with
    | some ms => s0.enterLoading l ms
    | none =>
      let n := l.fails + 1
      let s1 := s0.putLaunch { l with fails := n }
      let s2 := { s1 with reserved := if n ≥ 16 && !s1.reserved.contains h then s1.reserved ++ [h] else s1.reserved }
      s2.preempt l

/-- The eligible heads of one priority, round-robin from its pointer (R170). -/
def State.headsAt (s : State) (prio : Nat) : List Word32 :=
  let from' := s.pointers.getD prio 0
  (List.range 64).filterMap fun k =>
    let q := (from' + k) % 64
    if lqPrio (s.lq q) = prio then (s.head? q).map Launch.handle else none

/-- May a head be tried while reservations stand (R170)? Each of another launch that still waits holds back the heads of equal or
lower priority. -/
def State.mayTry (s : State) (prio : Nat) (h : Word32) : Bool :=
  s.reserved.all fun r => r == h || (match s.launch? r with
    | some l => !l.waits || decide (lqPrio (s.lq l.queue) < prio)
    | none => true)

/-- One placement decision: every eligible head once, priorities from the highest down (R170). -/
def State.decide' (s : State) : State :=
  let heads := [3, 2, 1, 0].map fun p => (p, s.headsAt p)
  heads.foldl (fun s ph => ph.2.foldl (fun s h => if s.mayTry ph.1 h then s.tryHead h ph.1 else s) s) s

/-- PLACEMENT_DECISION: due when a head or a place has appeared (R166, R170). Marks that YIELD made end with it (R198). -/
def execPlacementDecision (s : State) : Host.Outcome State Fault Refusal :=
  if s.placeDue = 0 || s.pkg != .running then .next s
  else
    let s1 := { s with placeDue := s.placeDue - 1 }.decide'
    .next { s1 with launches := s1.launches.map fun l => { l with members := l.members.map fun g => { g with yielded := false } } }

/-- LOAD_COMPLETE: every pattern is in place; the entry ports open and span 0 opens (R160, R168, R193). Nothing is read here: the
patterns are those of the image as its submission read it. (DESIGN CHOICE, log 58.) -/
def execLoadComplete (h : Word32) (s : State) : Host.Outcome State Fault Refusal :=
  match s.launch? h with
  | none => .next s
  | some l =>
    if l.state == .loading && !l.scanned && s.pkg == .running then
      .next (s.putLaunch { l with state := .running, members := l.members.map fun g => { g with sweepStart := s.cycle } })
    else .next s

end Sys2Proof.Machine
end

