-- ==== Sys2Proof/Machine/Summary.lean ====
section
/-! DEFINITION. The launch blocks of the summary record (R388), taken at the ends of sweeps (R389). -/

namespace Sys2Proof.Machine

/-- The two-bit code of a context's state in RGN_CTX (R189). -/
def CtxState.code : CtxState → Nat
  | .free => 0
  | .running => 1
  | .draining => 2

/-- The code of a launch's state in RGN_STATE and WX.SUMMARY (R168, R189). -/
def LState.code : LState → Nat
  | .queued => 0
  | .placing => 1
  | .loading => 2
  | .running => 3
  | .frozen => 4
  | .saved => 5
  | .retired => 6
  | .committed => 7

/-- RGN_ID (R189). -/
def Region.idReg (g : Region) : Word64 :=
  BitVec.ofNat 64 (g.num + 2 ^ 8 * g.die + 2 ^ 10 * g.x0 + 2 ^ 17 * g.y0 + 2 ^ 23 * g.w + 2 ^ 31 * g.h)

/-- RGN_CTX (R189). -/
def Region.ctxReg (g : Region) : Word64 := BitVec.ofNat 64 (g.ctx.zipIdx.foldl (fun a q => a + q.1.code * 4 ^ q.2) 0)

/-- Is a (context, colour) pair quiescent for the launch (R182, R424)? -/
def Launch.quietKey (l : Launch) (k : Nat) : Bool := l.members.all fun g => g.quiet.contains k

/-- The census of a launch: the sum over its members (R424). -/
def Launch.census (l : Launch) (cx col : Nat) (all : Bool) : Word32 :=
  l.members.foldl (fun a g => a + (if all then g.censSum col else g.cens cx col)) 0

/-- A held-range declaration as the image has it (R265). -/
def HeldRange.bytes (r : HeldRange) : List Byte := leBytes 16 (2 ^ 120 * r.col + 2 ^ 64 * r.size + r.base)

/-- The 80 bytes of a colour block (R388). -/
def colourBlock (l : Launch) (g : Region) (c : Nat) : List Byte :=
  let flags := (if l.members.any fun g => g.stalled.contains c then 1 else 0) + (if l.purging c then 2 else 0) +
    (if (List.range 8).all fun k => l.quietKey (64 * k + c) then 4 else 0)
  leBytes 2 (c + 256 * flags) ++ leBytes 2 0 ++ leBytes 4 (l.members.foldl (fun a g => a + g.adm c) 0) ++ leBytes 8 (lookupD 0 c g.stall) ++
    toBytes (g.col c) 32 ++ (List.range 8).flatMap fun k => toBytes (l.census k c false) 4

/-- A launch block (R388); none for a launch without members. -/
def launchBlock (l : Launch) : Option (List Byte) :=
  (l.members[0]?).map fun g =>
    let cols := (List.range 64).filter fun c => colV (g.col c)
    let mask := l.held.zipIdx.foldl (fun a q => if q.1.active.isSome then a + 2 ^ q.2 else a) 0
    let decls := (l.held.take 16).flatMap HeldRange.bytes
    toBytes l.handle 4 ++ [BitVec.ofNat 8 l.state.code, BitVec.ofNat 8 l.queue, BitVec.ofNat 8 l.prio, l.world] ++
      toBytes g.idReg 8 ++ toBytes g.image 8 ++ toBytes g.ctxReg 8 ++ toBytes g.sweeps 8 ++ leBytes 4 l.openSpan ++
      leBytes 4 l.committed ++ leBytes 2 cols.length ++ leBytes 2 l.held.length ++ leBytes 2 mask ++
      leBytes 2 ((l.frozenBy.map fun q => q.1.toNat).getD 0) ++ leBytes 8 (320 + 80 * cols.length) ++
      decls ++ List.replicate (256 - decls.length) 0 ++ cols.flatMap (colourBlock l g)

/-- Does a WX.SUMMARY on its way still want the block of a launch: one of its world's, or any for a trusted hart (R388)? -/
def SumScan.wants (c : SumScan) (a : Accessor) (l : Launch) : Bool :=
  c.body.isNone && (a.trust || l.world == a.world) && !c.blocks.any fun b => b.1 == l.handle

/-- At the end of a sweep of a launch, each WX.SUMMARY on its way takes the launch's block (R389). -/
def State.noteBlock (s : State) (h : Word32) : State :=
  match s.launch? h with
  | none => s
  | some l =>
    match launchBlock l with
    | none => s
    | some b => { s with harts := s.harts.map fun k => match k.scan with
        | some c => if c.wants k.accessor l then { k with scan := some { c with blocks := c.blocks ++ [(h, b)] } } else k
        | none => k }

end Sys2Proof.Machine
end

