-- ==== Sys2Proof/Machine/Control.lean ====
section
/-! DEFINITION. The region controller (R172 to R174, R180 to R188, R192, R197 to R201): census sweeps, stalled colours,
auto-close, contexts, and the region instructions LAUNCH to HORIZON. -/

namespace Sys2Proof.Machine

/-! ## Sweeps (R181 to R183, R186) -/

/-- The length of a sweep (R181). -/
def Region.sweepLen (g : Region) : Nat := 2 * (g.w + g.h) + 32

/-- How many of its last changes a sweep reads too early to find at a source. -/
def lateAt (late : List (Src × Nat)) (src : Src) : Nat := ((late.find? fun p => p.1 == src).map Prod.snd).getD 0

/-- The changes that a sweep reads and those it leaves, in order: of each late source the last n are left (R181).
(DESIGN CHOICE, log 15.) -/
def readDeltas (late : List (Src × Nat)) : List Delta → List Delta × List Delta
  | [] => ([], [])
  | d :: ds =>
    let r := readDeltas late ds
    if countIf (fun k => k.src == d.src) ds < lateAt late d.src then (r.1, d :: r.2) else (d :: r.1, r.2)

/-- The signed 16-bit delta counter of a source for a key (R180). -/
def deltaOf (ds : List Delta) (src : Src) (key : Nat) : Int :=
  toSigned 16 (wrapTo 16 ((ds.filter fun d => d.src == src && d.key == key).foldl (fun a d => a + d.d) 0))

/-- The sum of the delta counters of all participants for a key. -/
def deltaSum (ds : List Delta) (key : Nat) : Int :=
  (((ds.filter fun d => d.key == key).map Delta.src).eraseDups).foldl (fun a src => a + deltaOf ds src key) 0

/-- The census after a sweep has added what it read (R181). -/
def addCensus (census : List (Nat × Word32)) (ds : List Delta) : List (Nat × Word32) :=
  ((ds.map Delta.key).eraseDups).foldl (fun c k => setKey k (lookupD 0 k c + BitVec.ofInt 32 (deltaSum ds k)) c) census

/-- Was a sticky bit of a colour read? -/
def readBit (bit : Delta → Bool) (ds : List Delta) (col : Nat) : Bool := ds.any fun d => d.key % 64 == col && bit d

/-- Is a change the admission of a token at an entry port (R180)? -/
def Region.admission (g : Region) (d : Delta) : Bool :=
  match d.src with
  | .port i => portType (g.portWord i) == 3
  | _ => false

/-- The pairs that are quiescent after a sweep (R182): those that were and still have no census, and those with a zero census in
two sweeps, no ACT read in the second and no admission that it left unread. (DEDUCED, log 14.) -/
def quietAfter (g : Region) (census : List (Nat × Word32)) (ds left : List Delta) : List Nat :=
  (List.range 512).filter fun k => lookupD 0 k census == 0 &&
    (g.quiet.contains k || (g.zeroLast.contains k && !readBit Delta.act ds (k % 64) &&
      !left.any fun d => g.admission d && d.key == k))

/-- A(c) after a sweep: the admissions that it left unread (R183). -/
def admitAfter (g : Region) (left : List Delta) : List (Nat × Nat) :=
  (List.range 64).filterMap fun c =>
    let n := countIf (fun d => g.admission d && d.key % 64 == c) left
    if n = 0 then none else some (c, n)

/-- A region after a sweep (R181 to R183, R186). -/
def Region.sweep (g : Region) (late : List (Src × Nat)) : Region :=
  let r := readDeltas late g.deltas
  let census := addCensus g.census r.1
  let g1 := { g with census := census }
  let clear (c : Nat) : Bool := readBit Delta.fire r.1 c || g1.censSum c == 0
  let count (c : Nat) : Nat := if clear c then 0 else lookupD 0 c g.stall + g.sweepLen
  let stalled := g.stalled.filter fun c => !clear c
  { g1 with
      deltas := r.2
      admits := admitAfter g r.2
      quiet := quietAfter g census r.1 r.2
      zeroLast := (List.range 512).filter fun k => lookupD 0 k census == 0
      stall := ((List.range 64).map fun c => (c, count c)).filter fun p => p.2 != 0
      stalled := stalled
      due := (List.range 64).filter fun c => colHzn (g.col c) != 0 && 2 ^ colHzn (g.col c) ≤ count c && !stalled.contains c
      sweeps := g.sweeps + 1
      sweepStart := g.sweepStart + g.sweepLen }

/-- The tokens of an element, wherever they wait in it. -/
def Elem.tokens (e : Elem) : List Token :=
  e.store.map Entry.tok ++ (e.pend ++ e.ready ++ e.held).flatMap ReadySet.toks ++
    e.out.filterMap (fun o => match o with
      | .tok t => some t
      | _ => none) ++ e.reds.flatMap fun r => r.exit.toList ++ r.record.toList

/-- The tokens of a region that may be sealed, those in its requests apart. -/
def Region.tokens (g : Region) : List Token :=
  g.elems.flatMap Elem.tokens ++ g.links.map Link.tok ++ g.ports.flatMap Port.queue ++
    g.tiles.flatMap (fun t => t.lane ++ t.frameWaits.flatMap fun w => w.2.2.toks) ++
    g.sheets.flatMap (fun h => h.staged.map Staged.tok) ++ g.stns.flatMap fun w => w.queues.flatten

/-- The sealed operands in a region's requests (R403). -/
def Region.operands (g : Region) : List Token :=
  (g.elems.flatMap fun e => e.out.flatMap fun o => match o with
    | .tok _ => []
    | .global q | .tile q => q.tokens) ++ g.accs.flatMap fun a => a.req.tokens

/-- The live tokens of a launch sealed under PREV (R405). -/
def State.prevTokens (s : State) (l : Launch) : List Token :=
  (l.members.flatMap Region.tokens ++ l.members.flatMap Region.operands ++ (s.stnToks.filter fun k => k.h == l.handle).map StnTok.tok).filter fun t =>
    (t.sl.map Seal.epoch).any fun e => e != l.sl.epoch

/-- SWEEP_END: a sweep of a region ends (R181). `late` names the participants it read before their last changes. -/
def execSweepEnd (r : Rid) (late : List (Src × Nat)) (s : State) : Host.Outcome State Fault Refusal :=
  match s.launch? r.h, s.region? r with
  | some l, some g =>
    if s.live l && g.due.isEmpty && decide (g.sweepStart + g.sweepLen ≤ s.cycle) then
      .next ((s.putLaunch { (l.put r.m (g.sweep late)) with sl := { l.sl with prevClear := (s.prevTokens l).isEmpty } }).noteBlock r.h)
    else .next s
  | _, _ => .next s

/-- Start a purge of a colour, or join the one that runs (R187, R198). -/
def Launch.startPurge (l : Launch) (col : Nat) (ws : List Waiter) : Launch :=
  if l.purging col then
    { l with purges := l.purges.map fun p => if p.col == col then { p with waiters := p.waiters ++ ws } else p }
  else { l with purges := l.purges ++ [⟨col, ws⟩] }

/-- STALLED_COLOUR: a stall counter has reached its horizon at a sweep's end (R186). -/
def execStalledColour (r : Rid) (col : BitVec 6) (s : State) : Host.Outcome State Fault Refusal :=
  match s.launch? r.h, s.region? r with
  | some l, some g =>
    let c := col.toNat
    if s.live l && g.due.contains c then
      let e := g.col c
      let l1 := l.put r.m { g with due := g.due.filter (· != c), stalled := g.stalled ++ [c] }
      let l2 := if colAutop e then l1.startPurge c [] else l1
      .next ((s.putLaunch l2).deliver { regionFault s l g (colWorld e) (mkCause 4 3) 1 0 0 with col := c })
    else .next s
  | _, _ => .next s

/-- Is every pair quiescent? -/
def Launch.quietAll (l : Launch) : Bool := (List.range 512).all l.quietKey

/-- Every entry port closed or open (R174, R198). -/
def Region.setClosed (g : Region) (v : Bool) : Region :=
  { g with ports := g.ports.map fun p => if portType p.word == 3 then { p with closed := v } else p }

/-- AUTO_CLOSE: the entry ports close when everything is quiescent after the first admission (R174). -/
def execAutoClose (h : Word32) (s : State) : Host.Outcome State Fault Refusal :=
  match s.launch? h with
  | none => .next s
  | some l =>
    if s.live l && l.autoc && l.admitted && l.quietAll then
      .next (s.putLaunch { l with members := l.members.map fun g => g.setClosed true })
    else .next s

/-- CONTEXT_RETIRE: a draining context whose pairs are all quiescent becomes free; its slots become invalid (R172). -/
def execContextRetire (r : Rid) (ctx : BitVec 3) (s : State) : Host.Outcome State Fault Refusal :=
  match s.launch? r.h, s.region? r with
  | some l, some g =>
    let c := ctx.toNat
    if s.live l && g.ctx.getD c .free == .draining && (List.range 64).all (fun k => l.quietKey (64 * c + k)) then
      .next (s.putRegion r { g with
        ctx := g.ctx.set c .free
        ctxCfg := g.ctxCfg.set c 0
        elems := g.elems.map fun e => { e with slots := e.slots.filter fun q => q.1 / 32 != c } })
    else .next s
  | _, _ => .next s

/-! ## Seal generations (R405) -/

/-- Advance a launch's seal generation; none when the world's counter is exhausted, with GENX then set. -/
def State.advanceSeal (s : State) (l : Launch) : State × Option SealState :=
  let d := s.drawGen l.world
  (d.1, d.2.map fun gen => { l.sl with gen := gen, prev := l.sl.gen, epoch := !l.sl.epoch, seqs := [], atMax := false, prevClear := false })

/-- The record of a seal counter that is exhausted (0xA.05). -/
def State.sealSpent (s : State) (l : Launch) : State :=
  match l.members[0]? with
  | none => s
  | some g => s.deliver (regionFault s l g l.world (mkCause 10 5) 0 0 0)

/-! ## CTXNEXT's load (R173, R200) -/

/-- An element with the context that a configuration defines; its random generator, which the contexts share, keeps its value.
(DESIGN CHOICE, log 58.) -/
def Elem.withCtx (e : Elem) (c : Nat) (n : Elem) : Elem :=
  { e with
    slots := (e.slots.filter fun q => q.1 / 32 != c) ++ n.slots.filter fun q => q.1 / 32 == c
    badWords := e.badWords.filter fun k => k / 32 != c
    k := (e.k.filter fun q => q.1 / 8 != c) ++ n.k.filter fun q => q.1 / 8 == c
    st := (e.st.filter fun q => q.1 / 4 != c) ++ n.st.filter fun q => q.1 / 4 == c }

/-- The region with a configuration's context running. -/
def Region.withCtx (g : Region) (c : Nat) (addr : Word64) (es : List Elem) : Region :=
  let g1 := { g with
    ctx := g.ctx.set c .running
    ctxCfg := g.ctxCfg.set c addr
    ctxmask := g.ctxmask ||| BitVec.ofNat 8 (2 ^ c)
    elems := g.elems.map fun e => match es.find? fun n => n.x == e.x && n.y == e.y with
      | some n => e.withCtx c n
      | none => e }
  let defs := (((placedWords g1).filter fun q => q.o == some .mma).map sheetDef).eraseDups
  let old (d : SheetDef) (h : Sheet) : Bool := ⟨h.x, h.y, h.slot, h.rs, h.cs, h.spa, h.spb⟩ == d
  { g1 with sheets := (g1.sheets.filter fun h => !defs.any fun d => d.x == h.x && d.y == h.y && !old d h) ++
      (defs.filter fun d => !g1.sheets.any (old d)).map SheetDef.fresh }

/-- The payload of a result with a status (R192, R198): `rest` holds what stands beyond bits 7:0. -/
def stat (code rest : Nat) : Payload := lane0 (rest + code)

/-- CTXNEXT_LOAD_COMPLETE: the oldest CTXNEXT that waits for a context finds it free and loads it; a sealed region advances
its generation first (R173, R200, R405, R412). -/
def execCtxnextLoadComplete (r : Rid) (ctx : BitVec 3) (s : State) : Host.Outcome State Fault Refusal :=
  match s.launch? r.h, s.region? r with
  | some l, some g =>
    let c := ctx.toNat
    match takeFirst (fun q => q.ctx == c) g.ctxReqs with
    | none => .next s
    | some (q, rest) =>
      let sealed := s.sealedWorld l.world
      if !s.live l || g.ctx.getD c .free != .free || (sealed && !l.sl.prevClear) then .next s
      else
        let a := if sealed then s.advanceSeal l else (s, some l.sl)
        match a.2 with
        | none => .next (if l.sl.spent then s else (a.1.putLaunch { l with sl := { l.sl with spent := true } }).sealSpent l)
        | some z =>
          let l1 := { (l.put r.m { g.withCtx c q.addr q.elems with ctxReqs := rest }) with sl := z }
          .next (answerAll (a.1.putLaunch l1).bumpLayout r (ctrlSender r.m) q.reply (stat 0 (256 * c)))
  | _, _ => .next s

/-! ## The region instructions (R197 to R201) -/

/-- The reply that an issuing instruction's result will be. -/
def Ctx.replyOf (c : Ctx) : Reply := ⟨c.p.r.m, c.p.x, c.p.y, c.set.slot, c.f, c.tag, c.set.leftLast⟩

/-- A state with a reply pending at the region controller (R198). -/
def Ctx.pending (c : Ctx) (s : State) : State :=
  match s.region? c.p.r with
  | none => s
  | some g => s.putRegion c.p.r (g.count .ctrl c.tag 1 false)

/-- An effect on the state alone. -/
def Ctx.only (c : Ctx) (s : State) : Effect := { c.sends [] with s := s }

/-- An effect on the region, with one result. -/
def Ctx.region (c : Ctx) (g : Region) (v : Payload) : Effect := { c.all v with s := c.s.putRegion c.p.r g }

/-- COL of a region instruction's IMM. -/
def immCol (f : Fields) : Nat := (bitsAt f.imm 0 6).toNat

/-- The check of the colours that CTOK, CENSUS and COLGET name (R198), none of which is a privileged instruction: 0, NOTFOUND or
NOPRIV. (DEDUCED, log 34.) -/
def Ctx.colourCheck (c : Ctx) (col : Nat) : Nat :=
  let e := c.g.col col
  if !colV e then 11 else if colWorld e != c.g.tagWorld c.tag then 10 else 0

/-- LAUNCH: submits the record in a and b and replies with the status and the handle (R198). -/
def execLaunch (f : Fields) (s : State) : Host.Outcome State Fault Refusal :=
  fire f s fun c =>
    let x := c.opnds
    let r := (c.pending c.s).submit (x.b ++ x.a) (c.g.tagWorld c.tag) c.l.priv
    c.only (answerAll r.1 c.p.r (ctrlSender c.p.r.m) c.replyOf (stat r.2.1.toNat (2 ^ 32 * r.2.2.toNat)))

/-- The first failing check of several colours. -/
def firstBad (checks : List Nat) : Nat := (checks.find? (· != 0)).getD 0

/-- CTOK: closes or reopens an entry port, or all of them (R198). -/
def execCtok (f : Fields) (s : State) : Host.Outcome State Fault Refusal :=
  fire f s fun c =>
    let n := (bitsAt f.imm 0 5).toNat
    let v := !bitAt f.mod 0
    let named (i : Nat) : Bool := portType (c.g.portWord i) == 3 && (n == 31 || i == n)
    let idx := (List.range c.g.ports.length).filter named
    let code := firstBad (idx.map fun i => c.colourCheck (portCol (c.g.portWord i)))
    if code ≠ 0 then c.all (stat code 0)
    else c.region (idx.foldl (fun g i => match g.ports[i]? with
      | some p => g.putPort i { p with closed := v }
      | none => g) c.g) (stat 0 0)

/-- What CENSUS and WX.CENSUS read of a colour of a region: quiescent, stalled, purging and the census (R198, R204). -/
def censusBits (l : Launch) (g : Region) (quiet : Nat → Bool) (cens : Word32) (cx col : Nat) (all : Bool) : Nat :=
  let q := if all then (List.range 8).all fun k => quiet (64 * k + col) else quiet (64 * cx + col)
  (if q then 2 ^ 8 else 0) + (if g.stalled.contains col then 2 ^ 9 else 0) + (if l.purging col then 2 ^ 10 else 0) +
    2 ^ 32 * cens.toNat

/-- CENSUS: reads a census value as of the last completed sweep (R198). -/
def execCensus (f : Fields) (s : State) : Host.Outcome State Fault Refusal :=
  fire f s fun c =>
    let col := immCol f
    let cx := (bitsAt f.imm 6 3).toNat
    let all := bitAt f.imm 9
    let code := c.colourCheck col
    if code ≠ 0 then c.all (stat code 0)
    else
      let v := if all then c.g.censSum col else c.g.cens cx col
      c.all (stat 0 (censusBits c.l c.g (fun k => c.g.quiet.contains k) v cx col all + 2 ^ 64 * c.g.sweeps.toNat))

/-- PURGE: purges a colour; the reply comes when the purge completes (R187, R198). -/
def execPurge (f : Fields) (s : State) : Host.Outcome State Fault Refusal :=
  fire f s fun c =>
    let col := immCol f
    if !colV (c.g.col col) then c.all (stat 11 0)
    else
      let s1 := c.pending c.s
      match s1.launch? c.p.r.h with
      | none => c.only s1
      | some l => c.only (s1.putLaunch (l.startPurge col [.reply c.replyOf]))

/-- A region with one colour-table entry replaced. -/
def Region.setCol (g : Region) (col : Nat) (e : BitVec 256) : Region := { g with coltab := g.coltab.set col e }

/-- An effect that changes the colour table: the layout generation advances (R199). -/
def Ctx.recolourTable (c : Ctx) (col : Nat) (e : BitVec 256) (v : Payload) : Effect :=
  { c.all v with s := (c.s.putRegion c.p.r (c.g.setCol col e)).bumpLayout }

/-- QUOTA: sets a colour's quota (R198). -/
def execQuota (f : Fields) (s : State) : Host.Outcome State Fault Refusal :=
  fire f s fun c =>
    let col := immCol f
    let e := c.g.col col
    if !colV e then c.all (stat 11 0)
    else c.recolourTable col (setBits e 192 (bitsAt c.opnds.a 0 32)) (stat 0 (2 ^ 32 * colQuota e))

/-- COLGET: reads a colour-table entry; zero where its check fails (R198). -/
def execColget (f : Fields) (s : State) : Host.Outcome State Fault Refusal :=
  fire f s fun c => c.all (if c.colourCheck (immCol f) = 0 then c.g.col (immCol f) else 0)

/-- The entry that COLSET makes of an old one, a new image and its MASK (R198). -/
def colsetEntry (mask : BitVec 5) (old new : BitVec 256) : BitVec 256 :=
  let e0 := if bitAt mask 0 then setBits old 254 (bitsAt new 254 1) else old
  let e1 := if bitAt mask 1 then setBits e0 249 (bitsAt new 249 5) else e0
  let e2 := if bitAt mask 2 then setBits e1 234 (bitsAt new 234 7) else e1
  let e3 := if bitAt mask 3 then setBits e2 192 (bitsAt new 192 32) else e2
  if bitAt mask 4 then setBits e3 0 (bitsAt new 0 128) else e3

/-- COLSET: copies fields into a colour-table entry (R198). -/
def execColset (f : Fields) (s : State) : Host.Outcome State Fault Refusal :=
  fire f s fun c =>
    let col := immCol f
    let old := c.g.col col
    let e := colsetEntry (bitsAt f.xmod 0 5) old c.opnds.a
    if !colV old then c.all (stat 11 0)
    else if !colourOk (c.g.ports.map Port.image) col e || (c.g.multiw && colWsize e == 0) then c.all (stat 9 0)
    else c.recolourTable col e (stat 0 0)

/-- The identifier of a span (R193). -/
def spanId (h : Word32) (n : Nat) : Word64 := h ++ BitVec.ofNat 32 n

/-- The span that the operand of a SPANEND closed when it arrived, with the launch after; a set that no arrival brought closes the open
span. (DEDUCED, log 36.) -/
def Launch.spanOf (l : Launch) (c : Ctx) : Nat × Launch :=
  let mine (d : SpanDue) : Bool := d.m == c.p.r.m && d.x == c.p.x && d.y == c.p.y && d.slot == c.set.slot && d.tag == c.tag
  match l.spanDue.find? mine with
  | some d => (d.span, { l with spanDue := l.spanDue.eraseP mine })
  | none => (l.openSpan, l.closeSpan)

/-- SPANEND: reports the commit of the span that its operand's arrival closed (R193, R198, R271): at once if it has committed, else when
it does. (DEDUCED, log 36.) -/
def execSpanend (f : Fields) (s : State) : Host.Outcome State Fault Refusal :=
  fire f s fun c =>
    let q := c.l.spanOf c
    if q.1 < c.l.committed then
      let e := c.all (stat 0 (2 ^ 64 * (spanId c.p.r.h q.1).toNat))
      { e with s := match e.s.launch? c.p.r.h with
        | some l => e.s.putLaunch { l with spanDue := q.2.spanDue }
        | none => e.s }
    else
      let s1 := c.pending c.s
      match s1.launch? c.p.r.h with
      | none => c.only s1
      | some l =>
        let q := l.spanOf c
        c.only (s1.putLaunch { q.2 with spanReplies := l.spanReplies ++ [(q.1, c.replyOf)] })

/-- The single context that a configuration's CTXMASK defines. -/
def ctxOf (m : BitVec 8) : Nat := ((List.range 8).find? fun c => bitAt m c).getD 0

/-- CTXNEXT: checks a one-context configuration and queues its load; a rejected one is answered at once (R173, R198).
(DEDUCED, log 32.) -/
def execCtxnext (f : Fields) (s : State) : Host.Outcome State Fault Refusal :=
  fire f s fun c =>
    let addr : Word64 := bitsAt c.opnds.a 0 64
    let refuse (s1 : State) : Effect :=
      c.only (answerAll (c.pending s1) c.p.r (ctrlSender c.p.r.m) c.replyOf (stat 8 0))
    match loadImage c.s c.l.world addr.toNat c.l.priv none [] (some c.g) with
    | .unread cause va => refuse (c.s.deliver (bareFault c.s c.l.world cause 0 (BitVec.ofNat 64 va)))
    | .bad e => refuse (c.s.deliver (rejectRecord c.s c.l.world e))
    | .ok g _ =>
      let n := ctxOf (match c.s.readVirt c.l.world (addr.toNat + 8) 1 with
        | .ok bs => ofBytes 8 bs
        | .error _ => 0)
      let o := (bitsAt f.mod 0 3).toNat
      let drain := bitAt f.mod 3
      let ctx := if drain && c.g.ctx.getD o .free == .running then c.g.ctx.set o .draining else c.g.ctx
      let q : CtxReq := ⟨addr, if drain then some o else none, n, g.elems, none, c.replyOf⟩
      c.only (c.pending (c.s.putRegion c.p.r { c.g with ctx := ctx, ctxReqs := c.g.ctxReqs ++ [q] }))

/-- YIELD: passes a and marks the region as a victim until the next placement decision (R198). -/
def execYield (f : Fields) (s : State) : Host.Outcome State Fault Refusal :=
  fire f s fun c => c.region { c.g with yielded := true } c.opnds.a

/-- HORIZON: sets a colour's horizon and AUTOP (R198). -/
def execHorizon (f : Fields) (s : State) : Host.Outcome State Fault Refusal :=
  fire f s fun c =>
    let col := immCol f
    let e := c.g.col col
    if !colV e then c.all (stat 11 0)
    else c.recolourTable col (setBits (setBits e 249 (bitsAt f.imm 6 5)) 254 (bitsAt f.imm 11 1)) (stat 0 0)

end Sys2Proof.Machine
end

