-- ==== Sys2Proof/Machine/System.lean ====
section
/-! DEFINITION. The system instructions TRAP, BRK, FAULT and MARK (R395 to R397) and the capture rings (R392, R393). -/

namespace Sys2Proof.Machine

/-! ## Token images and capture (R203, R392, R393) -/

/-- The header, tag and payload of a token as the bytes of its image (R203). -/
def tokenImage (t : Token) : List Byte := toBytes t.pay 32 ++ toBytes t.tag 8 ++ toBytes t.hdr 4 ++ List.replicate 20 0

/-- The counter block of a capture entry (R393). -/
def captureBlock (w : BitVec 8) (no : Word64) (b : Nat) : BitVec 128 := w ++ no ++ (0 : BitVec 53) ++ BitVec.ofNat 3 b

/-- XOR bytes with keystream blocks of 16 bytes, from a block number on. (DEDUCED, log 23.) -/
def xorStream (block : Nat → BitVec 128) (bs : List Byte) : List Byte :=
  bs.zipIdx.map fun p => p.1 ^^^ byteAt (block (p.2 / 16)) (p.2 % 16)

/-- The capture key of a world (R406). -/
def State.captureKey (s : State) (w : BitVec 8) : BitVec 256 := (s.keysOf w).capture

/-- What stands in clear in bytes 0 to 111 of a capture entry (R393). -/
def captureClear (t : Token) (cycle : Nat) (h : Word32) (port src : Nat) (mark : BitVec 16) : List Byte :=
  tokenImage t ++ toBytes (BitVec.ofNat 64 cycle) 8 ++ toBytes h 4 ++ [BitVec.ofNat 8 port, BitVec.ofNat 8 src] ++
    toBytes mark 2 ++ List.replicate 32 0

/-- The 128 bytes of a capture entry (R393). -/
def captureEntry (key : BitVec 256) (w : BitVec 8) (no : Word64) (clear : List Byte) : List Byte :=
  let body := xorStream (fun b => Config.aes256 key (captureBlock w no b)) clear ++ toBytes no 8
  body ++ toBytes (Config.gmac64 key body) 8

/-- Must a token for the capture ring of a world wait: a line of the ring that it reaches is held, or an earlier one waits (R261)? -/
def State.captureWaits (s : State) (ring n : Nat) : Bool :=
  s.areaHeld ring 128 || s.areaHeld (ring + 128 + 128 * (readNat s.mem ring 8 % 2 ^ n)) 128 ||
    s.sysWaits.any fun k => match k with
      | .capture _ _ _ _ _ _ => true
      | _ => false

/-- Write a token in the capture ring of a launch's world, or count it as dropped (R392, R393). -/
def State.captureAt (s : State) (l : Launch) (ring n : Nat) (t : Token) (port src : Nat) (mark : BitVec 16) (cycle : Nat) : State :=
  let w := l.world
  let head : Word64 := BitVec.ofNat 64 (readNat s.mem ring 8)
  let tail : Word64 := BitVec.ofNat 64 (readNat s.mem (ring + 8) 8)
  if head - tail == BitVec.ofNat 64 (2 ^ n) then
    let s1 := s.poke (ring + 16) (toBytes (BitVec.ofNat 32 (readNat s.mem (ring + 16) 4 + 1)) 4)
    if s.captDropped.contains w then s1
    else
      match l.members[0]? with
      | none => s1
      | some g => { s1 with captDropped := s1.captDropped ++ [w] }.deliver (regionFault s l g w (mkCause 14 3) 0 0 0)
  else
    let e := captureEntry (s.captureKey w) w head (captureClear t cycle l.handle port src mark)
    let s1 := { s with captDropped := s.captDropped.filter (· != w) }
    (s1.poke (ring + 128 + 128 * (head.toNat % 2 ^ n)) e).poke ring (toBytes (head + 1) 8)

/-- Record a token in the capture ring of a launch's world, if the launch has CAPT set (R392); at a held line the capture waits
until the line is released (R261, `State.serveSys`). -/
def State.capture (s : State) (l : Launch) (t : Token) (port src : Nat) (mark : BitVec 16) : State :=
  let w := l.world
  let reg := s.reg (0x7000 + 16 * w.toNat)
  if !l.capt || !bitAt reg 0 then s
  else
    let ring := (bitsAt reg 12 40).toNat * 4096
    let n := (bitsAt (s.reg (0x7008 + 16 * w.toNat)) 0 5).toNat
    if s.captureWaits ring n then { s with sysWaits := s.sysWaits ++ [.capture l.handle t port src mark s.cycle] }
    else s.captureAt l ring n t port src mark s.cycle

/-- A write that waited at a held line is tried again. -/
def State.serveWait (s : State) (k : SysWait) : State :=
  match k with
  | .fault w bits =>
    (match s.faultPage w with
     | none => { s with lostRec := s.lostRec + 1 }
     | some page => if s.faultWaits w page then { s with sysWaits := s.sysWaits ++ [k] } else s.recordFault w page bits)
  | .capture h t port src mark cycle =>
    match s.launch? h with
    | none => s
    | some l =>
      let reg := s.reg (0x7000 + 16 * l.world.toNat)
      let ring := (bitsAt reg 12 40).toNat * 4096
      let n := (bitsAt (s.reg (0x7008 + 16 * l.world.toNat)) 0 5).toNat
      if !bitAt reg 0 then s
      else if s.captureWaits ring n then { s with sysWaits := s.sysWaits ++ [k] }
      else s.captureAt l ring n t port src mark cycle

/-- Lines have been released: the writes that waited for them are made, in the order of their arrival (R261). -/
def State.serveSys (s : State) : State := s.sysWaits.foldl State.serveWait { s with sysWaits := [] }

/-! ## The instructions (R396) -/

/-- The fault record that an issuing instruction writes (R376). -/
def Ctx.siteRecord (c : Ctx) (cause : Cause) (extra : Word64) : FaultRec :=
  siteFault c.s c.l c.g (c.g.tagWorld c.tag) cause 0 c.p.x c.p.y c.set.slot 0 c.tag extra

/-- TRAP: writes a fault record with a code and the low bits of a, and passes a (R396). -/
def execTrap (f : Fields) (s : State) : Host.Outcome State Fault Refusal :=
  fire f s fun c =>
    let a := c.opnds.a
    { c.all a with s := c.s.deliver (c.siteRecord (mkCause 13 1) (bitsAt f.imm 0 16 ++ bitsAt a 0 48)) }

/-- BRK: holds a in the element as a freeze cause; a goes on when the region does (R396, `State.releaseBrk`). -/
def execBrk (f : Fields) (s : State) : Host.Outcome State Fault Refusal :=
  fire f s fun c =>
    let cause : FreezeCause := ⟨mkCause 13 2, c.p.r.m, c.p.x, c.p.y, c.set.slot, 0, c.tag, (bitsAt f.imm 0 16).setWidth 64, c.s.cycle⟩
    let g := c.set.toks.foldl (fun g t => g.count (.site c.p.x c.p.y) t.tag 1 true) c.g
    { c.only (c.s.putLaunch ((c.l.put c.p.r.m g).hold cause)) with e := { c.e with held := c.e.held ++ c.e.ready.take 1 } }

/-- FAULT: an error record with a program's cause in place of a, and the same as a fault record under REC (R396). -/
def execFault (f : Fields) (s : State) : Host.Outcome State Fault Refusal :=
  fire f s fun c =>
    let cause := mkCause 13 (bitsAt f.imm 0 6).toNat
    let extra : Word64 := bitsAt c.opnds.a 0 64
    let x := c.sends ((dests f).map (c.recordTo cause 1 0 extra c.tagOut))
    if bitAt f.xmod 0 then { x with s := c.s.deliver (c.siteRecord cause extra) } else x

/-- MARK: a capture entry of source 2 where the launch has CAPT set, and a goes on (R396). -/
def execMark (f : Fields) (s : State) : Host.Outcome State Fault Refusal :=
  fire f s fun c =>
    match c.set.l with
    | none => c.all c.opnds.a
    | some t => { c.all c.opnds.a with s := c.s.capture c.l t 0 2 (bitsAt f.imm 0 16) }

/-- Send the operand that one BRK holds: its tokens join the element's output queue (R396). -/
def State.releaseOne (s : State) (p : Site) (set : ReadySet) : State :=
  match s.launch? p.r.h with
  | none => s
  | some l =>
    match l.members[p.r.m]? with
    | none => s
    | some g =>
      match g.elem? p.x p.y with
      | none => s
      | some e =>
        let f := ((e.slotWord? set.ctx set.slot).map decodeFields).getD (decodeFields 0)
        let o := set.opened s l g
        let c : Ctx := ⟨s, p, l, g, e, f, o, o.tag, tagOp g.tagw f o.tag⟩
        let es0 := (c.all c.opnds.a).emits
        let es := if c.recolourRefused then c.refuse es0 else es0
        let q := pushEmits s g (prodId p.r.m p.x p.y 0) es l.sl
        let e' := { e with held := e.held.filter (· != set), out := e.out ++ q.1 }
        let g' := censusOfIssue (g.putElem e') (.site p.x p.y) o.toks es 0 c.tag
        s.putLaunch { (l.put p.r.m g') with sl := q.2 }

/-- Send every operand that BRKs of a launch hold, once, as the launch resumes or is restored (R396). -/
def State.releaseBrk (s : State) (h : Word32) : State :=
  match s.launch? h with
  | none => s
  | some l =>
    let held := l.members.zipIdx.flatMap fun q => q.1.elems.flatMap fun e => e.held.map fun set => ((⟨⟨h, q.2⟩, e.x, e.y⟩ : Site), set)
    held.foldl (fun s q => s.releaseOne q.1 q.2) s

end Sys2Proof.Machine
end

