-- ==== Sys2Proof/Machine/Snapshot.lean ====
section
/-! DEFINITION. The snapshot areas of a launch (R380, R381): where they lie, what a scan writes in them, and what a restore reads back
(R383). State that R381 gives a place and no layout is written as free bytes and kept beside the area (log 41). -/

namespace Sys2Proof.Machine

/-! ## The areas (R380) -/

/-- The size of a member's snapshot area (R380). -/
def Region.areaSize (g : Region) : Nat :=
  let n := 8192 + 16384 * (g.ports.length + g.elems.length) + 266240 * g.tiles.length
  (n + 65535) / 65536 * 65536

/-- The areas taken from a world's pool. -/
def State.areasOf (s : State) (w : BitVec 8) : List (Nat × Nat) := (s.launches.filter fun l => l.world == w).flatMap Launch.areas

/-- The first address, in 64 KiB steps, where an area fits among those taken (R380). -/
def firstFit (taken : List (Nat × Nat)) (size ending : Nat) : Nat → Nat → Option Nat
  | 0, _ => none
  | fuel + 1, a =>
    if a + size > ending then none
    else
      match taken.find? fun t => decide (a < t.1 + t.2 ∧ t.1 < a + size) with
      | none => some a
      | some t => firstFit taken size ending fuel (t.1 + t.2)

/-- Take areas for the members of a launch, first fit in ascending address; none when the pool lacks room. -/
def takeAreas (base ending : Nat) : List (Nat × Nat) → List Region → Option (List (Nat × Nat))
  | _, [] => some []
  | taken, g :: gs =>
    match firstFit taken g.areaSize ending (taken.length + 1) base with
    | none => none
    | some a => (takeAreas base ending (taken ++ [(a, g.areaSize)]) gs).map fun as => (a, g.areaSize) :: as

/-- The areas that a launch's world has room for; none without a pool. -/
def State.allocAreas (s : State) (l : Launch) : Option (List (Nat × Nat)) :=
  let reg := s.reg (0x6000 + 16 * l.world.toNat)
  let size := (bitsAt (s.reg (0x6008 + 16 * l.world.toNat)) 0 32).toNat * 65536
  let base := (bitsAt reg 16 36).toNat * 65536
  if bitAt reg 0 then takeAreas base (base + size) (s.areasOf l.world) l.members else none

/-! ## The header -/

/-- The header of a snapshot area up to its port table (R381), as (offset, bytes). The seal generation stands in bytes 8 to 11 of the
field at 0x0C00. (DESIGN CHOICE, log 41.) -/
def snapHeader (s : State) (l : Launch) (g : Region) (kind : Nat) : List (Nat × List Byte) :=
  let cause := l.frozenBy.map fun q => q.1.toNat + 1024 * q.2.toNat
  let closing := if l.committed < l.closedSpans then 2 ^ 32 else 0
  let reqs := g.ctxReqs.map fun q => leBytes 8 q.addr.toNat ++ leBytes 8 (match q.drain with
    | some o => o + 8
    | none => 0)
  let mask := l.held.zipIdx.foldl (fun a q => if q.1.active.isSome then a + 2 ^ q.2 else a) 0
  [(0x0000, leBytes 4 0x5758534E ++ leBytes 2 1 ++ [BitVec.ofNat 8 kind, 0]),
   (0x0008, leBytes 4 l.handle.toNat ++ leBytes 4 l.world.toNat),
   (0x0010, toBytes g.idReg 8),
   (0x0018, toBytes g.image 8),
   (0x0020, leBytes 8 (if kind = 0 then cause.getD 0 else 0)),
   (0x0028, toBytes s.laygen 8),
   (0x0030, leBytes 8 (l.openSpan + closing)),
   (0x0038, toBytes g.ctxReg 8),
   (0x0040, (g.ctxCfg.take 8).flatMap fun a => toBytes a 8),
   (0x0080, (reqs.take 8).flatten),
   (0x0100, (List.range 512).flatMap fun k => toBytes (lookupD (0 : Word32) k g.census) 4),
   (0x0900, (List.range 64).flatMap fun c => leBytes 4 (g.adm c)),
   (0x0A00, (List.range 64).flatMap fun c => leBytes 8 (lookupD 0 c g.stall)),
   (0x0C00, leBytes 2 mask ++ leBytes 6 0 ++ toBytes l.sl.gen 4 ++ leBytes 4 0),
   (0x1000, g.coltab.flatMap fun e => toBytes e 32),
   (0x1800, g.ports.flatMap fun p => toBytes p.word 8)]

/-! ## Element records -/

/-- One entry of a token list: a token image with its place, slot, side and order (R381), and its seal (R405). -/
def tokenEntry (place slot side order : Nat) (t : Token) : List Byte :=
  let e := match t.sl with
    | some k => if k.epoch then 2 ^ 31 else 0
    | none => 0
  let tail := match t.sl with
    | some k => leBytes 8 (k.seq.toNat + 2 ^ 32 * k.prod.toNat)
    | none => leBytes 8 0
  toBytes t.pay 32 ++ toBytes t.tag 8 ++ toBytes t.hdr 4 ++
    leBytes 4 (place + 2 ^ 8 * slot + 2 ^ 16 * side + 2 ^ 18 * order + e) ++ tail ++ leBytes 8 0

/-- The tokens of an element with their places: 0 matching store, 1 ready queue, 2 output queue, 3 input (R381, R396); what stands in the
landing is in its tile. -/
def Elem.placed (e : Elem) : List (Nat × Nat × Nat × Token) :=
  (e.store.filter fun n => !n.landed).map (fun n => (0, n.slot, n.side, n.tok)) ++
    (e.pend ++ e.ready).flatMap (fun r => r.toks.map fun t => (1, r.slot, t.side, t)) ++
    e.out.filterMap (fun o => match o with
      | .tok t => some (2, t.slot, t.side, t)
      | _ => none) ++
    e.held.flatMap fun r => r.toks.map fun t => (3, r.slot, t.side, t)

/-- The tokens that an element has sent and that still travel: place 4, the link buffers. -/
def Region.linked (g : Region) (e : Elem) : List (Nat × Nat × Nat × Token) :=
  (g.links.filter fun k => k.src == .site e.x e.y).map fun k => (4, k.tok.slot, k.tok.side, k.tok)

/-- The colours, by bit, for which a participant has a sticky bit that no sweep has read (R180). -/
def Region.sticky (g : Region) (src : Src) (bit : Delta → Bool) : Word64 :=
  (List.range 64).foldl (fun a c => if g.deltas.any fun d => d.src == src && d.key % 64 == c && bit d then a ||| BitVec.ofNat 64 (2 ^ c) else a) 0

/-- Bytes that the spec does not lay out. -/
def freeBytes (move a n : Nat) : List Byte := (List.range n).map fun i => Config.snapByte move (a + i)

/-- What an element's record holds beyond its free bytes (R381): the 64-byte header (AX, AY, xs, and the ACT and FIRE bits by colour,
at 0, 2, 4, 8 and 16: DESIGN CHOICE, log 41), the context blocks and the token list. -/
def elemRecord (g : Region) (e : Elem) : List (Nat × List Byte) :=
  [(0, leBytes 2 e.x ++ leBytes 2 e.y ++ toBytes e.xs 4 ++ toBytes (g.sticky (.site e.x e.y) Delta.act) 8 ++
    toBytes (g.sticky (.site e.x e.y) Delta.fire) 8 ++ List.replicate 40 0)] ++
  (List.range 8).map (fun c => (0x0800 + 384 * c,
    (List.range 8).flatMap (fun k => toBytes (e.kreg c k) 32) ++ (List.range 4).flatMap fun k => toBytes (e.sreg c k) 32)) ++
  [(0x2000, ((e.placed ++ g.linked e).take 128).zipIdx.flatMap fun q => tokenEntry q.1.1 q.1.2.1 q.1.2.2.1 q.2 q.1.2.2.2)]

/-! ## Memory-tile records -/

/-- The landing of an element: its tile and mode word (R212, R213). -/
def Region.landing? (g : Region) (e : Elem) : Option (Tile × Word64) :=
  let find (t : Tile) (nbr : Bool) : Option (Tile × Word64) := (t.modes.find? fun w => modeOf w == 6 && modeNbr w == nbr).map fun w => (t, w)
  if e.x + 1 < g.w then (g.tile? (e.x + 1) e.y).bind fun t => find t false
  else if e.x = 0 then none else (g.tile? (e.x - 1) e.y).bind fun t => find t true

/-- A landing entry (R214). -/
def landingEntry (t : Token) : List Byte := toBytes t.pay 32 ++ toBytes t.tag 8 ++ toBytes t.hdr 4 ++ leBytes 4 1

/-- The tokens in an element's landing, in the order of their entries. (DESIGN CHOICE, log 41.) -/
def Elem.landing (e : Elem) : List Token := (e.store.filter Entry.landed).map Entry.tok

/-- What stands in the partitions of a tile beside its bytes, by offset: the entries of the landings that it holds (R214) and of its
FIFOs (R211). -/
def Region.overlay (g : Region) (t : Tile) : List (Nat × List Byte) :=
  (g.elems.flatMap fun e => match g.landing? e with
    | some (k, w) => if k.x = t.x ∧ k.y = t.y then e.landing.zipIdx.map fun q => (modeBase w + 48 * q.2, landingEntry q.1) else []
    | none => []) ++
  t.fifos.flatMap fun q =>
    let w := t.part q.part
    q.items.zipIdx.map fun v => (modeBase w + 32 * ((q.first + v.2) % (modeSize w / 32)), toBytes v.1 32)

/-- What a tile's record holds beyond its 4 KiB of mode words, generator and channel state: the 256 KiB of contents (R381). -/
def tileRecord (g : Region) (t : Tile) : List (Nat × List Byte) :=
  (4096, t.read 0 262144) :: (g.overlay t).map fun p => (4096 + p.1, p.2)

/-! ## The scan -/

/-- The sites of a region in row-major order (R381). -/
def Region.rowMajor (g : Region) : List (Nat × Nat) := (List.range g.h).flatMap fun y => (List.range g.w).map fun x => (x, y)

/-- The size of a site's record: an element's 16 KiB, a memory tile's 260 KiB. -/
def Region.recordSize (g : Region) (x y : Nat) : Nat :=
  if (g.elem? x y).isSome then 16384 else if (g.tile? x y).isSome then 266240 else 0

/-- The sites with the offsets of their records in the area (R381). -/
def Region.recordsFrom (g : Region) : Nat → List (Nat × Nat) → List (Nat × Nat × Nat)
  | _, [] => []
  | off, (x, y) :: rest => (x, y, off) :: g.recordsFrom (off + g.recordSize x y) rest

/-- The site records of a region's area. -/
def Region.records (g : Region) : List (Nat × Nat × Nat) := g.recordsFrom (8192 + 16384 * g.ports.length) g.rowMajor

/-- What a scan writes at a site's record. -/
def Region.siteParts (g : Region) (x y : Nat) : List (Nat × List Byte) :=
  match g.elem? x y, g.tile? x y with
  | some e, _ => elemRecord g e
  | _, some t => tileRecord g t
  | none, none => []

/-- Write a region's snapshot in its area: free bytes, then the header and what R381 lays out of the site records. Port records have no
layout, and are free bytes that stand for the accesses, chains and registry entries that the launch keeps. (DESIGN CHOICE, log 41.) -/
def State.writeSnap (s : State) (l : Launch) (kind : Nat) (q : Region × Nat × Nat) : State :=
  let g := q.1
  let a := q.2.1
  let s1 := s.poke a (List.replicate 0xC10 0 ++ freeBytes s.moves (a + 0xC10) 0x3F0 ++ List.replicate 0x1000 0 ++
    freeBytes s.moves (a + 8192) (g.areaSize - 8192))
  let s2 := (snapHeader s l g kind).foldl (fun s p => s.poke (a + p.1) p.2) s1
  g.records.foldl (fun s k => (g.siteParts k.1 k.2.1).foldl (fun s p => s.poke (a + k.2.2 + p.1) p.2) s) s2

/-- Write the snapshot of every member. -/
def State.writeSnaps (s : State) (l : Launch) (kind : Nat) (areas : List (Nat × Nat)) : State :=
  (l.members.zip areas).foldl (fun s q => s.writeSnap l kind q) s

/-- Must a scan or a restore wait: does an area meet a held line (R261)? -/
def State.areasWait (s : State) (areas : List (Nat × Nat)) : Bool := areas.any fun a => s.areaHeld a.1 a.2

/-! ## Reading back (R383) -/

/-- A token as a snapshot has it, in the place of the one that stood there. -/
def readToken (m : List Host.Cell) (a : Nat) (t : Token) : Token :=
  let word := readNat m (a + 44) 4
  let sq := readNat m (a + 48) 8
  ⟨ofBytes 32 (readBytes m (a + 40) 4), ofBytes 64 (readBytes m (a + 32) 8), ofBytes 256 (readBytes m a 32),
    t.sl.map fun k => { k with epoch := decide (2 ^ 31 ≤ word), seq := BitVec.ofNat 32 sq, prod := BitVec.ofNat 19 (sq / 2 ^ 32) }⟩

/-- A landing entry as the tile's contents have it. -/
def readLanding (m : List Host.Cell) (a : Nat) (t : Token) : Token :=
  { t with hdr := ofBytes 32 (readBytes m (a + 40) 4), tag := ofBytes 64 (readBytes m (a + 32) 8), pay := ofBytes 256 (readBytes m a 32) }

/-- Replace things one after another from a list of tokens. -/
def refillAll {α : Type} (f : α → List Token → α × List Token) : List α → List Token → List α × List Token
  | [], ts => ([], ts)
  | a :: as, ts =>
    let r := f a ts
    let rest := refillAll f as r.2
    (r.1 :: rest.1, rest.2)

/-- Replace one token. -/
def refillTok (t : Token) : List Token → Token × List Token
  | [] => (t, [])
  | u :: rest => (u, rest)

/-- Replace a token that may be absent. -/
def refillOpt (o : Option Token) (ts : List Token) : Option Token × List Token :=
  match o with
  | none => (none, ts)
  | some t => let r := refillTok t ts
              (some r.1, r.2)

/-- Replace the tokens of a set. -/
def ReadySet.refill (q : ReadySet) (ts : List Token) : ReadySet × List Token :=
  let a := refillOpt q.l ts
  let b := refillOpt q.r a.2
  let c := refillOpt q.p b.2
  let d := refillAll refillTok q.members c.2
  ({ q with l := a.1, r := b.1, p := c.1, members := d.1 }, d.2)

/-- Replace the token of an entry, when it stands in the matching store or, with `landed`, in the landing. -/
def Entry.refill (landed : Bool) (n : Entry) (ts : List Token) : Entry × List Token :=
  if n.landed == landed then
    let r := refillTok n.tok ts
    ({ n with tok := r.1 }, r.2)
  else (n, ts)

/-- Replace a token in the output queue. -/
def OutItem.refill (o : OutItem) (ts : List Token) : OutItem × List Token :=
  match o with
  | .tok t => let r := refillTok t ts
              (.tok r.1, r.2)
  | _ => (o, ts)

/-- Replace a link's token, when an element sent it. -/
def Link.refill (src : Src) (k : Link) (ts : List Token) : Link × List Token :=
  if k.src == src then
    let r := refillTok k.tok ts
    ({ k with tok := r.1 }, r.2)
  else (k, ts)

/-- An element with the tokens of its list, and those that are left for its links. -/
def Elem.refill (e : Elem) (ts : List Token) : Elem × List Token :=
  let a := refillAll (Entry.refill false) e.store ts
  let b := refillAll ReadySet.refill e.pend a.2
  let c := refillAll ReadySet.refill e.ready b.2
  let d := refillAll OutItem.refill e.out c.2
  let h := refillAll ReadySet.refill e.held d.2
  ({ e with store := a.1, pend := b.1, ready := c.1, out := d.1, held := h.1 }, h.2)

/-- The participant's sticky bits as a record has them. -/
def Region.restick (g : Region) (src : Src) (act fire : Word64) : Region :=
  let cut (d : Delta) : Delta := if d.src == src then
      { d with act := d.act && bitAt act (d.key % 64), fire := d.fire && bitAt fire (d.key % 64) } else d
  let old := g.deltas.map cut
  let has (c : Nat) (bit : Delta → Bool) : Bool := old.any fun d => d.src == src && d.key % 64 == c && bit d
  let more := (List.range 64).filterMap fun c =>
    let a := bitAt act c && !has c Delta.act
    let f := bitAt fire c && !has c Delta.fire
    if a || f then some (⟨src, c, 0, a, f⟩ : Delta) else none
  { g with deltas := old ++ more }

/-- An element's record read back (R381, R383). -/
def Region.readElem (g : Region) (m : List Host.Cell) (a : Nat) (e : Elem) : Region :=
  let src := Src.site e.x e.y
  let list := (e.placed ++ g.linked e).take 128
  let ts := list.zipIdx.map fun q => readToken m (a + 0x2000 + 64 * q.2) q.1.2.2.2
  let block (c n : Nat) : Payload := ofBytes 256 (readBytes m (a + 0x0800 + 384 * c + 32 * n) 32)
  let r := e.refill ts
  let e1 := { r.1 with
    xs := ofBytes 32 (readBytes m (a + 4) 4)
    k := (List.range 64).foldl (fun k i => setKey i (block (i / 8) (i % 8)) k) r.1.k
    st := (List.range 32).foldl (fun k i => setKey i (block (i / 4) (8 + i % 4)) k) r.1.st }
  let g1 := { g with links := (refillAll (Link.refill src) g.links r.2).1 }
  (g1.restick src (ofBytes 64 (readBytes m (a + 8) 8)) (ofBytes 64 (readBytes m (a + 16) 8))).putElem e1

/-- A memory tile's record read back: its contents, its FIFO entries, and the landings that it holds (R381, R383). -/
def Region.readTile (g : Region) (m : List Host.Cell) (a : Nat) (t : Tile) : Region :=
  let at' (off : Nat) : Nat := a + 4096 + off
  let fifo (q : Fifo) : Fifo :=
    let w := t.part q.part
    { q with items := q.items.zipIdx.map fun v =>
        ofBytes 256 (readBytes m (at' (modeBase w + 32 * ((q.first + v.2) % (modeSize w / 32)))) 32) }
  let laid := (g.overlay t).flatMap fun p => (List.range p.2.length).map fun i => p.1 + i
  let cells := (List.range 262144).filterMap fun i =>
    let b := if laid.contains i then (t.read i 1).headD 0 else (readBytes m (at' i) 1).headD 0
    if b = 0 then none else some (i, b)
  let land (e : Elem) : Elem := match g.landing? e with
    | some (k, w) => if k.x = t.x ∧ k.y = t.y then
        { e with store := (refillAll (Entry.refill true) e.store
            (e.landing.zipIdx.map fun q => readLanding m (at' (modeBase w + 48 * q.2)) q.1)).1 } else e
    | none => e
  { (g.putTile { t with bytes := cells, fifos := t.fifos.map fifo }) with elems := g.elems.map land }

/-- The header's state read back: the colour table, C and A, and the addresses of the contexts' configurations (R381, R383). -/
def Region.readHeader (g : Region) (m : List Host.Cell) (a : Nat) : Region :=
  let cens (k : Nat) : Word32 := ofBytes 32 (readBytes m (a + 0x100 + 4 * k) 4)
  let adm (c : Nat) : Nat := readNat m (a + 0x900 + 4 * c) 4
  { g with
    coltab := (List.range 64).map fun c => ofBytes 256 (readBytes m (a + 0x1000 + 32 * c) 32)
    census := (List.range 512).foldl (fun q k => if lookupD 0 k q = cens k then q else setKey k (cens k) q) g.census
    admits := (List.range 64).foldl (fun q c => if lookupD 0 c q = adm c then q else setKey c (adm c) q) g.admits
    ctxCfg := (List.range 8).map fun c => ofBytes 64 (readBytes m (a + 0x40 + 8 * c) 8) }

/-- A region as its area has it: the header, then the site records; what R381 gives no layout stays as the launch kept it.
(DESIGN CHOICE, log 41.) -/
def Region.readSnap (g : Region) (m : List Host.Cell) (a : Nat) : Region :=
  g.records.foldl (fun g k => match g.elem? k.1 k.2.1, g.tile? k.1 k.2.1 with
    | some e, _ => g.readElem m (a + k.2.2) e
    | _, some t => g.readTile m (a + k.2.2) t
    | none, none => g) (g.readHeader m a)

end Sys2Proof.Machine
end

