-- ==== Sys2Proof/Machine/Lifecycle.lean ====
section
/-! DEFINITION. The end of launches and spans, freezing, scanning, pre-emption and seal generations (R174, R193, R205, R271,
R379 to R382, R385, R386, R405, R412). Restore stands in Machine/Restore.lean, the purge in Machine/Purge.lean. -/

namespace Sys2Proof.Machine

/-! ## Retirement (R174, R193, R205) -/

/-- Are all entry ports of a launch closed? -/
def Launch.allClosed (l : Launch) : Bool := l.members.all fun g => g.ports.all fun p => portType p.word != 3 || p.closed

/-- The result store of a launch: the exit-port tokens of member 0, by image port index (R205). -/
def Launch.exitTokens (l : Launch) : List (Nat × List Token) :=
  match l.members[0]? with
  | none => []
  | some g => (g.ports.zipIdx.filter fun q => portType q.1.word == 4 && !q.1.queue.isEmpty).map fun q => (q.2, q.1.queue)

/-- A blocked hart of an Xwenxus instruction gets its rd and goes on; one that has taken a trap meanwhile is left alone. -/
def State.wake (s : State) (h : Nat) (rd : BitVec 5) (v : Word64) : State :=
  match s.hart? h with
  | some k => if k.blocked then s.hartDone h rd v else s
  | none => s

/-- Answer the harts that wait for a freeze. -/
def State.wakeFreezers (s : State) (l : Launch) (code : Nat) : State :=
  l.freezeWaiters.foldl (fun s w => s.wake w.1 w.2 (BitVec.ofNat 64 code)) s

/-- A launch retires: its last span closes, its ports and sites are free, its views are detached (R193, R205, R315, R412). -/
def State.retire (s : State) (l : Launch) (results : List (Nat × List Token)) : State :=
  let l' := { l with
    state := .retired
    closedSpans := l.openSpan + 1
    results := results
    members := l.members.map fun g =>
      { g with ports := g.ports.map (fun p => { p with queue := [], closed := true }), mports := g.mports.map fun m => { m with registry := [] } }
    causes := []
    freezeWaiters := []
    freezeReq := false
    toSaved := false
    drainFrom := none
    areas := [] }
  let s1 := (s.wakeFreezers l 4).putLaunch l'
  { s1.bumpLayout with
      kvSeqs := s1.kvSeqs.map fun q => { q with views := q.views.filter fun v => v.r.h != l.handle }
      placeDue := s1.placeDue + 1 }

/-- REGION_RETIRE: all entry ports are closed and everything is quiescent (R174). -/
def execRegionRetire (h : Word32) (s : State) : Host.Outcome State Fault Refusal :=
  match s.launch? h with
  | none => .next s
  | some l =>
    if s.live l && l.allClosed && l.quietAll && l.purges.isEmpty then .next (s.retire l l.exitTokens) else .next s

/-- Accesses that have left their memory-port tile complete in memory, and their replies are dropped. -/
def muteLeft (as : List Access) : List Access :=
  (as.filter fun a => match a.stage with
    | .slice | .held _ => true
    | _ => false).map fun a => { a with mute := true }

/-- A region without any token (R382). -/
def Region.emptied (g : Region) : Region :=
  { g with
    elems := g.elems.map fun e => { e with store := [], allocs := [], reds := [], pend := [], ready := [], out := [], repPos := 0, held := [] }
    tiles := g.tiles.map fun t =>
      let chans := t.chans.map fun c => { c with cur := none, queue := [], waits := [] }
      let gens := t.gens.map fun n => { n with nest := none, queue := [] }
      { t with fifos := [], lines := [], frameWaits := [], lane := [], chans := chans, gens := gens }
    mports := g.mports.map fun m => { m with chains := [], windows := [] }
    stns := g.stns.map fun w => { w with queues := List.replicate 8 [] }
    links := []
    accs := muteLeft g.accs
    ctxReqs := []
    sheets := g.sheets.map fun h => { h with staged := [], streams := [], ops := [] }
    census := []
    deltas := []
    admits := [] }

/-- Discard a FROZEN or SAVED launch (R382). -/
def State.discard (s : State) (l : Launch) : State :=
  let s1 := { s with stnToks := s.stnToks.filter fun k => k.h != l.handle }
  s1.retire { l with members := l.members.map Region.emptied, spanReplies := [], purges := [] } []

/-! ## Spans (R271) -/

/-- Is an access a store whose span's commit waits for it (R271)? -/
def Access.isStore (a : Access) : Bool :=
  match a.req.op with
  | .st | .cmst | .nann => true
  | .copy => bitAt a.req.f.xmod 3
  | _ => false

/-- Does a region still have stores of a span to perform (R271)? -/
def Region.storing (g : Region) (span : Nat) : Bool :=
  let due (a : Access) : Bool := a.isStore && a.span == span && a.stage != .net
  g.accs.any due || g.mports.any (fun m => m.windows.any fun w => w.write && w.units.any fun u => u.span == span) ||
    g.tiles.any fun t => t.chans.any fun c => (c.cur.toList ++ c.queue).any fun x => due x.acc

/-- SPAN_COMMIT: the oldest closed span of a launch commits: its held lines are released, its declarations close, and its
SPANEND is answered (R271, R354). -/
def execSpanCommit (h : Word32) (s : State) : Host.Outcome State Fault Refusal :=
  match s.launch? h with
  | none => .next s
  | some l =>
    let n := l.committed
    if s.pkg != .running || decide (l.closedSpans ≤ n) || l.members.any (fun g => g.storing n) then .next s
    else
      let fin := l.state == .retired && decide (n + 1 = l.closedSpans)
      let l' := { l with
        committed := n + 1
        held := l.held.map fun r => if r.active = some n then { r with active := none } else r
        spanReplies := l.spanReplies.filter fun q => q.1 != n
        state := if fin then .committed else l.state }
      let s1 := (s.putLaunch l').closeDeclarations l n
      let s2 := (State.dueSince { s1 with heldLines := s1.heldLines.filter fun k => !(k.r.h == h && k.span == n) } s).serveSys
      .next ((l.spanReplies.filter fun q => q.1 == n).foldl (fun s q =>
        answerAll s ⟨h, q.2.m⟩ (ctrlSender q.2.m) q.2 (stat 0 (2 ^ 64 * (spanId h n).toNat))) s2)

/-! ## Freeze (R379) -/

/-- Freeze causes in the order of R377: by cycle, then die, Y, X and SLOT. -/
def causeBefore (l : Launch) (a b : FreezeCause) : Bool :=
  let place (c : FreezeCause) : Nat :=
    match l.members[c.m]? with
    | none => 0
    | some g => ((g.die * 64 + (g.y0 + c.y)) * 128 + (g.x0 + c.x)) * 32 + c.slot
  decide (a.cycle < b.cycle) || (a.cycle == b.cycle && decide (place a < place b))

/-- Insert a freeze cause in order. -/
def insertCause (l : Launch) (c : FreezeCause) : List FreezeCause → List FreezeCause
  | [] => [c]
  | d :: ds => if causeBefore l c d then c :: d :: ds else d :: insertCause l c ds

/-- The fault record of a freeze cause. -/
def causeRecord (s : State) (l : Launch) (c : FreezeCause) : Option FaultRec :=
  (l.members[c.m]?).map fun g =>
    { siteFault s l g (g.tagWorld c.tag) c.cause 2 c.x c.y c.slot c.side c.tag c.extra with cycle := c.cycle }

/-- The record that a freeze cause writes is delivered. -/
def State.deliverCause (s : State) (l : Launch) (c : FreezeCause) : State :=
  match causeRecord s l c with
  | some r => s.deliver r
  | none => s

/-- REGION_FREEZE: with no purge running, a launch with a freeze cause, or asked to, enters FROZEN: its sheets finish what is on their
lanes (R298), its causes are recorded and WX.FREEZE returns OK (R379). -/
def execRegionFreeze (h : Word32) (s : State) : Host.Outcome State Fault Refusal :=
  match s.launch? h with
  | none => .next s
  | some l =>
    if !s.live l || !l.purges.isEmpty || (l.causes.isEmpty && !l.freezeReq) then .next s
    else
      let cs := l.causes.foldl (fun a c => insertCause l c a) []
      let l' := { l with
        state := .frozen
        causes := []
        freezeReq := false
        freezeWaiters := []
        drainFrom := none
        scanned := false
        scanTried := false
        members := l.members.map Region.finishLanes
        frozenBy := (cs.head?.map fun c => (c.cause, s.seqNo)).or l.frozenBy }
      .next ((cs.foldl (fun s c => s.deliverCause l c) (s.putLaunch l')).wakeFreezers l 0)

/-! ## The scan (R379, R380) -/

/-- SNAPSHOT_SCAN: a FROZEN launch's state goes into a snapshot area; without room it stays unscanned with a record 0xE.02.
A launch to be released is then SAVED. A scan whose area meets a held line waits (R261, R379, R380, R382). -/
def execSnapshotScan (h : Word32) (s : State) : Host.Outcome State Fault Refusal :=
  match s.launch? h with
  | none => .next s
  | some l =>
    if s.pkg != .running || l.state != .frozen || l.scanned || l.scanTried then .next s
    else
      match s.allocAreas l with
      | none =>
        let s1 := s.putLaunch { l with scanTried := true }
        .next (match l.members[0]? with
          | some g => s1.deliver (regionFault s l g l.world (mkCause 14 2) 0 0 0)
          | none => s1)
      | some areas =>
        if s.areasWait areas then .next s
        else
          let s1 := s.writeSnaps l 0 areas
          let l' := { l with scanned := true, areas := areas }
          .next (if l.toSaved then s1.saveLaunch l' else s1.putLaunch l')

/-! ## Pre-emption (R385, R386) -/

/-- A region as a drained save leaves it: its sheets have finished what was on their lanes (R298), and read-window bytes are
discarded. -/
def Region.drained (g0 : Region) : Region :=
  let g := g0.finishLanes
  { g with mports := g.mports.map fun m => { m with windows := m.windows.map fun w =>
      if w.write then w else { w with head := w.tail, units := [], wait := none } } }

/-- PREEMPT_DRAIN: nothing has moved in a draining launch for 64 cycles; its state is saved and its sites are free (R385). -/
def execPreemptDrain (h : Word32) (s : State) : Host.Outcome State Fault Refusal :=
  match s.launch? h with
  | none => .next s
  | some l =>
    match l.drainFrom with
    | none => .next s
    | some from' =>
      let settled (g : Region) : Bool := decide (from' + 64 ≤ s.cycle ∧ g.quietFor + 64 ≤ s.cycle)
      if !s.live l || !l.purges.isEmpty || !l.causes.isEmpty || l.frozenBy.isSome || !l.members.all settled then .next s
      else
        match s.allocAreas l with
        | none => .next s
        | some areas =>
          if s.areasWait areas then .next s
          else
            let l1 := { l with members := l.members.map Region.drained, frozenBy := none }
            .next ((s.writeSnaps l1 1 areas).saveLaunch { l1 with areas := areas })

/-- DRAIN_TIMEOUT: a drain has not settled after 2^16 cycles: a record 0xE.04, and the launch is frozen, its sources still stopped,
and then SAVED (R386). -/
def execDrainTimeout (h : Word32) (s : State) : Host.Outcome State Fault Refusal :=
  match s.launch? h with
  | none => .next s
  | some l =>
    match l.drainFrom, l.members[0]? with
    | some from', some g =>
      if s.live l && l.frozenBy.isNone && decide (from' + 65536 ≤ s.cycle) then
        .next ((s.putLaunch { l with freezeReq := true, frozenBy := some (mkCause 14 4, s.seqNo) }).deliver (regionFault s l g l.world (mkCause 14 4) 0 0 0))
      else .next s
    | _, _ => .next s

/-! ## Leaving FROZEN (R382) -/

/-- A window that a fault or a page walk kept back may go on. -/
def Window.reissue (w : Window) : Window :=
  { w with wait := w.wait.filter fun k => k.why == .line, pages := [] }

/-- A transfer that a fault or a page walk kept back may go on. -/
def Xfer.reissue (x : Xfer) : Xfer :=
  match x.acc.stage with
  | .frozen | .walk _ => { x with acc := { x.acc with stage := .slice, pas := [] } }
  | _ => x

/-- Accesses held at their tile are issued again from the colour-window stage, the waiting members of CMST groups among them; those
whose requests had left their tile go on (R235, R236, R382). -/
def Region.reissue (g : Region) : Region :=
  { g with
    accs := g.accs.map fun a => match a.stage with
      | .translate | .walk _ | .frozen => { a with stage := .window }
      | .settled => if a.req.op == .cmst then { a with stage := .window, pas := [] } else a
      | _ => a
    mports := g.mports.map fun m => { m with windows := m.windows.map Window.reissue }
    tiles := g.tiles.map fun t => { t with chans := t.chans.map fun c => { c with cur := c.cur.map Xfer.reissue } } }

/-- A FROZEN launch restarts on its own sites (R382). -/
def State.resume (s : State) (l : Launch) : State :=
  (s.putLaunch { l with
    state := .running
    scanned := false
    toSaved := false
    frozenBy := none
    areas := []
    members := l.members.map fun g => { g.reissue with sweepStart := s.cycle } }).releaseBrk l.handle

/-- A store of a value to PKG_RELEASE: a FROZEN launch goes to SAVED once its scan is complete, one frozen with 0xC.02 apart;
with bit 32 set a FROZEN or SAVED launch is discarded; any other launch is left alone (R382). -/
def State.release (s : State) (v : Word64) : State :=
  match s.launch? (bitsAt v 0 32) with
  | none => s
  | some l =>
    if bitAt v 32 then (if l.state == .frozen || l.state == .saved then s.discard l else s)
    else if l.state != .frozen || l.hwDead then s
    else if l.scanned then s.saveLaunch l
    else s.putLaunch { l with toSaved := true }

/-! ## Seal generations (R405) -/

/-- SEAL_ADVANCE: the sweep has found no token sealed under PREV, and an instruction whose tag wraps or a producer whose counter is at its
end waits: the generation advances, or the exhausted counter is recorded (R405). -/
def execSealAdvance (h : Word32) (s : State) : Host.Outcome State Fault Refusal :=
  match s.launch? h with
  | none => .next s
  | some l =>
    if !s.live l || !(l.sl.waiting.isSome || l.sl.atMax) || !l.sl.prevClear || l.sl.spent then .next s
    else
      let a := s.advanceSeal l
      match a.2 with
      | some z => .next (a.1.putLaunch { l with sl := { z with granted := l.sl.waiting, waiting := none } })
      | none => .next ((a.1.putLaunch { l with sl := { l.sl with spent := true } }).sealSpent l)

end Sys2Proof.Machine
end

