-- ==== Sys2Proof/Machine/Registers.lean ====
section
/-! DEFINITION. The register pages (R189, R401, R402, R445): what a load reads, what a store does, and who may; the stores with
an action of their own (R230, R342, R380, R382, R394, R407, R432), and the row that a store at a page runs. -/

namespace Sys2Proof.Machine

/-! ## The package register page (R445) -/

/-- Is a number in [lo, hi)? -/
def inRange (lo hi n : Nat) : Bool := decide (lo ≤ n ∧ n < hi)

/-- The offset of an address in the package register page (R229). -/
def pkgOffset (pa : Nat) : Option Nat := if pa / 2 ^ 40 = 0x900 then some (pa % 2 ^ 40) else none

/-- Is an address on a register page (R229)? -/
def onPage (pa : Nat) : Bool := pa / 2 ^ 40 == 0x900 || pa / 2 ^ 40 == 0x800

/-- Does an offset hold a register that a load reads as it was last written? -/
def storedReg (off : Nat) : Bool :=
  off % 8 == 0 && (inRange 0 0x200 off || inRange 0x800 0x1000 off || inRange 0x2000 0x2800 off || inRange 0x3000 0x4C00 off ||
    inRange 0x5000 0x8000 off || off == 0x8020 || inRange 0x8100 0x8128 off || inRange 0x9000 0x9800 off || inRange 0xA000 0x10000 off)

/-- Is a register one that no store changes (R232, R398, R407, R432, R439)? -/
def readOnlyReg (off : Nat) : Bool :=
  inRange 0x2000 0x2800 off || off == 0x8108 || off == 0x8110 || off == 0x8118 || inRange 0xA000 0xB000 off ||
    (inRange 0xB000 0xC000 off && off % 16 == 8)

/-- The 64 bits at an offset of the package register page. -/
def State.pkgReg (s : State) (off : Nat) : Word64 :=
  if off = 0x8010 then BitVec.ofNat 64 s.cycle
  else if off = 0x8018 then s.lostRec
  else if inRange 0x8040 0x8080 off then bitsAt s.mcRec (8 * (off - 0x8040)) 64
  else if off = 0x8080 then s.laygen
  else if off = 0x1000 then Config.openRead s.moves (0x9000000000000 + off) &&& 0xFFC001FFFFFFFFFF
  else if storedReg off then s.reg off
  else Config.openRead s.moves (0x9000000000000 + off)

/-- The world that a register of the package page belongs to, where it belongs to one (R402). -/
def State.regWorld (s : State) (off : Nat) : Option Nat :=
  if off < 0x200 then some (lqWorld (s.reg off)).toNat
  else if inRange 0x800 0x1000 off then some ((off - 0x800) / 8)
  else if inRange 0x3000 0x4000 off then some ((off - 0x3000) / 16)
  else if inRange 0x5000 0x8000 off then some (off % 0x1000 / 16)
  else if inRange 0x9000 0x9800 off then some ((off - 0x9000) / 8)
  else if inRange 0xA000 0xB000 off && off % 16 == 8 then some ((off - 0xA000) / 16)
  else if inRange 0xB000 0xC000 off then some ((off - 0xB000) / 16)
  else none

/-- What an accessor reads at an offset of the package page: zero where the register is another world's (R402). -/
def State.pkgView (s : State) (a : Accessor) (off : Nat) : Word64 :=
  if !a.trust && (s.regWorld off).any (· != a.world.toNat) then 0 else s.pkgReg off

/-! ## Region register pages (R189, R401) -/

/-- The launch and region whose register page holds an address: one in place, else the last one that was. -/
def State.pageRegion? (s : State) (pa : Nat) : Option (Launch × Region) :=
  let die := pa % 2 ^ 40 / 2 ^ 24
  let num := pa / 2 ^ 16 % 256
  let mine (l : Launch) : Option (Launch × Region) :=
    if l.state == .queued then none else (l.members.find? fun g => g.die == die && g.num == num).map fun g => (l, g)
  match (s.launches.filter Launch.placed).findSome? mine with
  | some q => some q
  | none => s.launches.reverse.findSome? mine

/-- The word with bit c set where a colour passes a test. -/
def colourBits (q : Nat → Bool) : Word64 := BitVec.ofNat 64 ((List.range 64).foldl (fun a c => if q c then a + 2 ^ c else a) 0)

/-- Is every context of a colour quiescent (R189)? -/
def Region.quietCol (g : Region) (c : Nat) : Bool := (List.range 8).all fun k => g.quiet.contains (64 * k + c)

/-- The 64 bits at an offset of a region register page (R189). -/
def State.rgnReg (s : State) (l : Launch) (g : Region) (off : Nat) : Word64 :=
  if off = 0x000 then g.idReg
  else if off = 0x008 then BitVec.ofNat 64 l.state.code
  else if off = 0x010 then g.ctxReg
  else if off = 0x018 then g.sweeps
  else if off = 0x020 then colourBits g.stalled.contains
  else if off = 0x028 then colourBits l.purging
  else if off = 0x030 then colourBits g.quietCol
  else if off = 0x038 then g.image
  else if off = 0x040 then BitVec.ofNat 64 g.hwerr
  else if inRange 0x100 0x900 off then
    let k := (off - 0x100) / 4
    lookupD (0 : Word32) (k + 1) g.census ++ lookupD (0 : Word32) k g.census
  else if inRange 0x900 0xA00 off then
    let k := (off - 0x900) / 4
    (BitVec.ofNat 32 (g.adm (k + 1)) : Word32) ++ (BitVec.ofNat 32 (g.adm k) : Word32)
  else if inRange 0x1000 0x1800 off then bitsAt (g.col ((off - 0x1000) / 32)) (8 * (off % 32)) 64
  else Config.openRead s.moves (0x8000000000000 + off)

/-- EXTRA of a record of a refused access: world, TRUST and PA of the access (R401, R402). -/
def accessExtra (a : Accessor) (pa : Nat) : Word64 := a.world ++ b2b a.trust ++ (0 : BitVec 3) ++ BitVec.ofNat 52 pa

/-- Is a region register page shared (R401)? -/
def State.sharedPage (s : State) (l : Launch) : Bool := bitAt (s.wcfg l.world) 61

/-- An access to a region register page: the state after, and whether it is performed. Another world's access is refused
with a record 0xA.01, or performed and audited where it is trusted and the page shared (R401). -/
def State.rgnAccess (s : State) (a : Accessor) (pa : Nat) (l : Launch) (g : Region) : State × Bool :=
  if a.world == l.world then (s, true)
  else if a.trust && s.sharedPage l then
    let off := 0xA008 + 16 * l.world.toNat
    (s.setReg off (s.reg off + 1), true)
  else (s.deliver (regionFault s l g l.world (mkCause 10 1) 0 0 (accessExtra a pa)), false)

/-! ## Loads -/

/-- Bytes from an address, each taken from the register that holds it (R445). -/
def regBytes (reg : Nat → Word64) (off n : Nat) : List Byte :=
  (List.range n).map fun i => byteAt (reg ((off + i) / 8 * 8)) ((off + i) % 8)

/-- A load of n bytes at a register page: the state after, and the bytes (R401, R402, R445).
(DESIGN CHOICE, log 11.) -/
def State.pageLoad (s : State) (a : Accessor) (pa n : Nat) : State × List Byte :=
  match pkgOffset pa with
  | some off => (s, regBytes (s.pkgView a) off n)
  | none =>
    match s.pageRegion? pa with
    | none => (s, regBytes (fun o => Config.openRead s.moves (0x8000000000000 + o)) (pa % 65536) n)
    | some (l, g) =>
      let r := s.rgnAccess a pa l g
      (r.1, if r.2 then regBytes (s.rgnReg l g) (pa % 65536) n else List.replicate n 0)

/-! ## Stores -/

/-- Does an entry map a page of a world, in itself or within a larger page (R230)? -/
def XEntry.maps (e : XEntry) (w : BitVec 8) (vpn : Nat) : Bool :=
  e.world == w && decide (e.vpn ≤ vpn ∧ vpn < e.vpn + 2 ^ (pszBits e.psz - 16))

/-- What an XLT_INV value names (R230): all entries, a world's, or a page's. -/
def invNames (v : Word64) (w : BitVec 8) (covers : Nat → Bool) : Bool :=
  match (bitsAt v 62 2).toNat with
  | 0 => w == bitsAt v 54 8 && covers (bitsAt v 0 41).toNat
  | 1 => w == bitsAt v 54 8
  | 2 => true
  | _ => false

/-- The first and last 64 KiB pages that a translated access reaches. -/
def Access.pageEnds (a : Access) : Nat × Nat :=
  let n := if a.req.op == .nann then a.tnum.toNat else if a.req.op == .pin || a.req.op == .unpin || a.req.op == .pref then 4096 else 1
  (a.va / 65536, (a.va + n - 1) / 65536)

/-- Has an access its physical address without having reached its home slice: on its way there, or held in its tile for its CMST group
(R230, R246)? -/
def Access.underWay (a : Access) : Bool := a.stage == .slice || (a.stage == .settled && a.req.op == .cmst)

/-- Has some access translated with an entry that an XLT_INV names, and not yet reached its home slice (R230)? -/
def State.onTheWay (s : State) (v : Word64) : Bool :=
  s.launches.any fun l => l.members.any fun g => g.accs.any fun a =>
    a.underWay && invNames v (g.tagWorld a.req.tag) fun vpn => decide (a.pageEnds.1 ≤ vpn ∧ vpn ≤ a.pageEnds.2)

/-- A trusted store to XLT_INV: the entries that it names are dropped from the translation tiles and from the memory-port tiles; none
while accesses that used them are on their way (R224, R230, R412). -/
def State.invalidate (s : State) (v : Word64) : Option State :=
  if bitsAt v 62 2 == 3 then some s
  else if s.onTheWay v then none
  else
    let keep (e : XEntry) : Bool := !invNames v e.world fun vpn => e.maps e.world vpn
    let window (w : Window) : Window := { w with pages := w.pages.filter keep }
    let port (m : MPort) : MPort := { m with windows := m.windows.map window }
    let launch (l : Launch) : Launch := { l with members := l.members.map fun g => { g with mports := g.mports.map port } }
    some { s.bumpLayout with xlat := s.xlat.filter keep, launches := s.launches.map launch }

/-- A slice with fewer caching ways: the least recently used lines leave it, unpinned ones first (R232, R247, R342). -/
def Slice.shrink (c : Slice) (ways : Nat) : Slice :=
  let order := c.lines.filter (fun k => k.pinned) ++ c.lines.filter fun k => !k.pinned
  let rank (k : CLine) : Nat := countIf (fun q => q.inSet (k.line % 65536 / 64)) (order.takeWhile fun q => q.line != k.line)
  let gone := c.lines.filter fun k => decide (ways ≤ rank k)
  { c with lines := c.lines.filter (fun k => decide (rank k < ways)), floor := (gone.map CLine.stamp).foldl maxStamp c.floor }

/-- A store to GAL_CFG of a router: dropped for 5 to 7 ways, or while the router's store holds a pinned tile (R342). -/
def State.setGalCfg (s : State) (off : Nat) (v : Word64) : State :=
  let r := (off - 0x4000) / 8
  let w := (bitsAt v 0 3).toNat
  if w > 4 || s.gtiles.any (fun t => t.router == r && t.pinned) then s
  else
    let s1 := s.setReg off (BitVec.ofNat 64 w)
    let s2 := s1.putSlice r ((s1.slices.getD r .reset).shrink (16 - w))
    { s2 with gtiles := (evict r (131072 * w) 0 s2.gtiles.length s2.gtiles).getD s2.gtiles }

/-- A store to WRLD_SNAPSZ: the scans that found no room are tried again (R380). -/
def State.setSnapSize (s : State) (off : Nat) (v : Word64) : State :=
  let w : BitVec 8 := BitVec.ofNat 8 ((off - 0x6000) / 16)
  { s.setReg off v with launches := s.launches.map fun l => if l.world == w then { l with scanTried := false } else l }

/-- Does a chip-port station word stand, or a GLOB declaration (R432)? -/
def State.linkUse (s : State) : Bool :=
  s.routes.any Route.glob || (placedRegions s.launches).any fun g => g.stns.any fun k =>
    stnSop k.word != 0 && decide (g.stnIndex k.bind < 8)

/-- A store to PKG_DEVID: dropped while chip-port station words or GLOB declarations exist (R432). -/
def State.setDevid (s : State) (v : Word64) : State := if s.linkUse then s else s.setReg 0x8100 v

/-- The fields of a capture ring of a world: the PA of its header and the number of its entries (R392). -/
def State.ring? (s : State) (w : BitVec 8) : Option (Nat × Nat) :=
  let reg := s.reg (0x7000 + 16 * w.toNat)
  if bitAt reg 0 then some ((bitsAt reg 12 40).toNat * 4096, 2 ^ (bitsAt (s.reg (0x7008 + 16 * w.toNat)) 0 5).toNat) else none

/-- A store to PKG_REPLAY: replay starts into a RUNNING target of the same image and world as the captured launch, from the
entry at TAIL (R394). (DEDUCED, log 49.) -/
def State.startReplay (s : State) (v : Word64) : State :=
  match s.launch? (bitsAt v 0 32) with
  | none => s
  | some t =>
    let same := match s.launch? (bitsAt v 32 32) with
      | some c => c.image == t.image && c.world == t.world
      | none => true
    match s.ring? t.world with
    | none => s
    | some (ring, _) =>
      if t.state != .running || t.replay || !same then s
      else
        let head := readNat s.mem ring 8
        let tail := readNat s.mem (ring + 8) 8
        let s1 := s.putLaunch { t with replay := true }
        if head = tail then s else { s1 with replays := s1.replays ++ [⟨t.handle, bitsAt v 32 32, tail, head⟩] }

/-- A store to TB_CMD of a world: dropped while BUSY is set, else the command is queued (R407, R408). -/
def State.queueCommand (s : State) (a : Accessor) (off : Nat) (v : Word64) : State :=
  if bitAt (s.reg (off + 8)) 63 then s
  else
    let s1 := (s.setReg off v).setReg (off + 8) 0x8000000000000000
    { s1 with tbQueue := s1.tbQueue ++ [(BitVec.ofNat 8 ((off - 0xB000) / 16), a, v)] }

/-- Is an offset the TB_CMD of a hart's own world (R407)? -/
def ownMailbox (a : Accessor) (off : Nat) : Bool :=
  a.hart && inRange 0xB000 0xC000 off && off % 16 < 8 && (off - 0xB000) / 16 == a.world.toNat

/-- A word with the bits from `lo`, `n` of them, set. -/
def ones (lo n : Nat) : Word64 := BitVec.ofNat 64 ((2 ^ n - 1) * 2 ^ lo)

/-- The bits of a register of the package page that are not reserved, where no rule gives another fate to the reserved ones: a
store takes those as zero (R10). A reserved bit of WRLD_ROOT makes it malformed (R226), one of TB_CMD is BADCMD (R408).
(DEDUCED, log 51.) -/
def regKeep (off : Nat) : Word64 :=
  let msi := ones 2 61 ||| 1
  if off < 0x200 then ones 50 14
  else if inRange 0x3000 0x4000 off then (if off % 16 = 0 then ones 0 40 else ones 4 48 ||| 1)
  else if inRange 0x4800 0x4C00 off then (if off % 16 = 0 then 0 else ones 6 58)
  else if inRange 0x5000 0x6000 off then (if off % 16 = 0 then ones 12 40 ||| 1 else msi)
  else if inRange 0x6000 0x7000 off then (if off % 16 = 0 then ones 16 36 ||| 1 else ones 0 32)
  else if inRange 0x7000 0x8000 off then (if off % 16 = 0 then ones 12 40 ||| 1 else ones 0 5)
  else if off = 0x8020 then msi
  else if off = 0x8100 then ones 63 1 ||| ones 0 20
  else if off = 0x8120 then ones 0 16
  else if inRange 0x9000 0x9800 off then ones 12 52 ||| 1
  else if inRange 0xC000 0x10000 off then ones 63 1 ||| ones 0 5
  else ones 0 64

/-- What an 8-byte store at a register of the package page does, for one who may make it; none while it must wait. -/
def State.regStore (s : State) (a : Accessor) (off : Nat) (w : Word64) : Option State :=
  let v := w &&& regKeep off
  if off = 0x1000 then s.invalidate v
  else if off = 0x8000 then some (s.release v)
  else if off = 0x8008 then some (s.startReplay v)
  else if off = 0x8100 then some (s.setDevid v)
  else if readOnlyReg off || !storedReg off then some s
  else if inRange 0x4000 0x4800 off then some (s.setGalCfg off v)
  else if inRange 0x6000 0x7000 off && off % 16 == 8 then some (s.setSnapSize off v)
  else if inRange 0xB000 0xC000 off then some (s.queueCommand a off v)
  else if off < 0x200 then some ((s.setReg off v).dueSince s)
  else if inRange 0x800 0x1000 off then some (s.setReg off v).bumpLayout
  else some (s.setReg off v)

/-- A store at a register page (R401, R402, R445); none while it must wait. A hart may write its own world's mailbox (R407). -/
def State.pageStore (s : State) (b : BusStore) : Option State :=
  match pkgOffset b.pa with
  | some off =>
    if !b.a.trust && !ownMailbox b.a off then
      some (s.deliver (bareFault s b.a.world (mkCause 10 3) 0 (accessExtra b.a b.pa)))
    else if b.size ≠ 8 ∨ off % 8 ≠ 0 then some s
    else s.regStore b.a off b.value
  | none =>
    match s.pageRegion? b.pa with
    | none => some s
    | some (l, g) => some (s.rgnAccess b.a b.pa l g).1

/-! ## The rows of stores at a page -/

/-- The trusted 8-byte store at a register of the package page that a step makes, with its offset. -/
def State.action? (s : State) : Option (BusStore × Nat) :=
  s.bus.bind fun b => (pkgOffset b.pa).bind fun off => if b.a.trust && b.size == 8 && off % 8 == 0 then some (b, off) else none

/-- Run the store of a step at one register: nothing happens at another, or while the store must wait. -/
def State.actAt (s : State) (here : Nat → Bool) : State :=
  match s.action? with
  | some (b, off) => if here off then (s.regStore b.a off b.value).getD s else s
  | none => s

/-- The scope of the XLT_INV store that a step makes. (DEDUCED, log 51.) -/
def State.invScope (s : State) : Option Nat :=
  s.action?.bind fun q => if q.2 = 0x1000 then some (bitsAt q.1.value 62 2).toNat else none

/-- XLT_INV_PAGE: the entries of one page of a world are dropped (R230). -/
def execXltInvPage (s : State) : Host.Outcome State Fault Refusal :=
  .next (if s.invScope = some 0 then s.actAt (· == 0x1000) else s)

/-- XLT_INV_WORLD: the entries of a world are dropped (R230). -/
def execXltInvWorld (s : State) : Host.Outcome State Fault Refusal :=
  .next (if s.invScope = some 1 then s.actAt (· == 0x1000) else s)

/-- XLT_INV_ALL: every entry is dropped (R230). -/
def execXltInvAll (s : State) : Host.Outcome State Fault Refusal :=
  .next (if s.invScope = some 2 then s.actAt (· == 0x1000) else s)

/-- GAL_CFG_WRITE: the ways of a router's tile store change (R342). -/
def execGalCfgWrite (s : State) : Host.Outcome State Fault Refusal := .next (s.actAt (inRange 0x4000 0x4800))

/-- WRLD_SNAPSZ_WRITE: the size of a snapshot pool, and the scans that wait for room (R380). -/
def execWrldSnapszWrite (s : State) : Host.Outcome State Fault Refusal :=
  .next (s.actAt fun off => inRange 0x6000 0x7000 off && off % 16 == 8)

/-- PKG_DEVID_WRITE: the device's own identifier (R432). -/
def execPkgDevidWrite (s : State) : Host.Outcome State Fault Refusal := .next (s.actAt (· == 0x8100))

/-- Does the PKG_RELEASE store of a step discard? -/
def State.discards (s : State) : Option Bool :=
  s.action?.bind fun q => if q.2 = 0x8000 then some (bitAt q.1.value 32) else none

/-- PKG_RELEASE_SAVE: a FROZEN launch is released (R382). -/
def execPkgReleaseSave (s : State) : Host.Outcome State Fault Refusal :=
  .next (if s.discards = some false then s.actAt (· == 0x8000) else s)

/-- PKG_RELEASE_DISCARD: a FROZEN or SAVED launch is discarded (R382). -/
def execPkgReleaseDiscard (s : State) : Host.Outcome State Fault Refusal :=
  .next (if s.discards = some true then s.actAt (· == 0x8000) else s)

/-- REPLAY_START: replay of a capture ring starts (R394). -/
def execReplayStart (s : State) : Host.Outcome State Fault Refusal := .next (s.actAt (· == 0x8008))

/-- REGISTER_WRITE: a store at a register page without an action of its own is performed, dropped, or recorded (R402, R445). -/
def execRegisterWrite (a : Accessor) (pa size : Nat) (value : Word64) (s : State) : Host.Outcome State Fault Refusal :=
  .next (if onPage pa then (s.pageStore ⟨a, pa, size, value⟩).getD s else s)

/-- REGION_PAGE_FOREIGN_ACCESS: another world's access to a region register page (R401). -/
def execRegionPageForeignAccess (a : Accessor) (pa : Nat) (_ : BusOp) (s : State) : Host.Outcome State Fault Refusal :=
  match (if pa / 2 ^ 40 = 0x800 then s.pageRegion? pa else none) with
  | some (l, g) => .next (s.rgnAccess a pa l g).1
  | none => .next s

/-- The row that a store at a register page runs. -/
def State.storeInstr (s : State) (b : BusStore) : Instr :=
  let plain : Instr := .registerWrite b.a b.pa b.size b.value
  match pkgOffset b.pa with
  | none =>
    (match s.pageRegion? b.pa with
     | some (l, _) => if b.a.world == l.world then plain else .regionPageForeignAccess b.a b.pa (.store b.size b.value)
     | none => plain)
  | some off =>
    if !b.a.trust || b.size ≠ 8 || off % 8 ≠ 0 then plain
    else if off = 0x1000 then
      (match (bitsAt b.value 62 2).toNat with
       | 0 => .xltInvPage
       | 1 => .xltInvWorld
       | 2 => .xltInvAll
       | _ => plain)
    else if off = 0x8000 then (if bitAt b.value 32 then .pkgReleaseDiscard else .pkgReleaseSave)
    else if off = 0x8008 then .replayStart
    else if off = 0x8100 then .pkgDevidWrite
    else if inRange 0x4000 0x4800 off then .galCfgWrite
    else if inRange 0x6000 0x7000 off && off % 16 == 8 then .wrldSnapszWrite
    else plain

end Sys2Proof.Machine
end

