-- ==== Sys2Proof/Machine/Memory.lean ====
section
/-! DEFINITION. Global accesses at their memory-port tile and their home slice (R221, R235 to R248, R256 to R260, R265 to R270):
requests, chains, the colour window, held lines, and the accesses of one line: LD to ATTSB, PIN, UNPIN, PREF; ORDER, MFENCE and
OWNPASS. The steps that run them stand in Machine/Chain.lean. -/

namespace Sys2Proof.Machine

/-! ## Requests (R64, R239, R240) -/

/-- CHAIN of a request. -/
def Request.chain (q : Request) : Nat := (bitsAt q.f.imm 0 4).toNat
/-- PORT of a request. -/
def Request.port (q : Request) : Nat := (bitsAt q.f.imm 4 4).toNat
/-- SSEQ of a request. -/
def Request.sseq (q : Request) : Nat := (bitsAt q.f.imm 8 8).toNat
/-- OSEQ of a request. -/
def Request.oseq (q : Request) : Nat := (bitsAt q.f.imm 16 8).toNat
/-- PSEQ of a request. -/
def Request.pseq (q : Request) : Nat := (bitsAt q.f.imm 24 8).toNat
/-- The wildcard of PSEQ and SSEQ (R64). -/
def seqAny : Nat := 0xFF
/-- ACQ of a request (R66). -/
def Request.acq (q : Request) : Bool := bitAt q.f.mod 0
/-- REL of a request (R66). -/
def Request.rel (q : Request) : Bool := bitAt q.f.mod 1

/-- The low 64 bits of a payload as a number. -/
def low64 (p : Payload) : Nat := (bitsAt p 0 64).toNat

/-- The request of an issuing instruction: its site, its operands in clear and its base register (R239, R240). -/
def Ctx.request (c : Ctx) (o : Op) : Request :=
  let pay (t : Option Token) : Payload := (t.map Token.pay).getD 0
  ⟨o, c.f, c.p.x, c.p.y, c.set.slot, c.tag, c.set.leftLast, c.set.bubbly, pay c.set.l, pay c.set.r, pay c.set.p,
    c.e.kreg c.set.ctx c.f.ksel.toNat, []⟩

/-- Fire an instruction that sends a request to a memory-port tile. An error record or a control token gets the standard
treatment; a bubble takes its place in its chain under BUB, and is consumed without (R240). -/
def fireGlobal (o : Op) (f : Fields) (s : State) : Host.Outcome State Fault Refusal :=
  fireRaw f s fun c =>
    if c.set.record?.isSome || c.set.control then c.standard fun c => c.sends []
    else if c.set.bubbly && !f.bub then c.sends []
    else { c.sends [] with reqs := [.global (c.request o)] }

/-- LD: reads 2^SZ bytes (R244). -/
def execLd (f : Fields) (s : State) : Host.Outcome State Fault Refusal := fireGlobal .ld f s
/-- ST: writes 2^SZ bytes of the left operand (R244). -/
def execSt (f : Fields) (s : State) : Host.Outcome State Fault Refusal := fireGlobal .st f s
/-- LDV: reads as LD, with the line's stamp to DST1 (R244). -/
def execLdv (f : Fields) (s : State) : Host.Outcome State Fault Refusal := fireGlobal .ldv f s
/-- CMST: one member of a conditional store group (R246). -/
def execCmst (f : Fields) (s : State) : Host.Outcome State Fault Refusal := fireGlobal .cmst f s
/-- ATADD: atomic add (R248). -/
def execAtadd (f : Fields) (s : State) : Host.Outcome State Fault Refusal := fireGlobal .atadd f s
/-- ATMIN: atomic minimum (R248). -/
def execAtmin (f : Fields) (s : State) : Host.Outcome State Fault Refusal := fireGlobal .atmin f s
/-- ATMAX: atomic maximum (R248). -/
def execAtmax (f : Fields) (s : State) : Host.Outcome State Fault Refusal := fireGlobal .atmax f s
/-- ATAND: atomic and (R248). -/
def execAtand (f : Fields) (s : State) : Host.Outcome State Fault Refusal := fireGlobal .atand f s
/-- ATOR: atomic or (R248). -/
def execAtor (f : Fields) (s : State) : Host.Outcome State Fault Refusal := fireGlobal .ator f s
/-- ATXOR: atomic exclusive or (R248). -/
def execAtxor (f : Fields) (s : State) : Host.Outcome State Fault Refusal := fireGlobal .atxor f s
/-- ATSWP: atomic exchange (R248). -/
def execAtswp (f : Fields) (s : State) : Host.Outcome State Fault Refusal := fireGlobal .atswp f s
/-- ATCAS: atomic compare and swap (R248). -/
def execAtcas (f : Fields) (s : State) : Host.Outcome State Fault Refusal := fireGlobal .atcas f s
/-- ATTSB: atomic test and set bit (R248). -/
def execAttsb (f : Fields) (s : State) : Host.Outcome State Fault Refusal := fireGlobal .attsb f s
/-- PIN: pins lines in their slices (R258). -/
def execPin (f : Fields) (s : State) : Host.Outcome State Fault Refusal := fireGlobal .pin f s
/-- UNPIN: clears pins (R258). -/
def execUnpin (f : Fields) (s : State) : Host.Outcome State Fault Refusal := fireGlobal .unpin f s
/-- PREF: asks slices to allocate lines (R259). -/
def execPref (f : Fields) (s : State) : Host.Outcome State Fault Refusal := fireGlobal .pref f s

/-- ORDER: sends its left operand when both have come (R256). -/
def execOrder (f : Fields) (s : State) : Host.Outcome State Fault Refusal := fireData f s fun x => x.a

/-- Is a request an atomic (R248)? -/
def isAtomic (o : Op) : Bool :=
  match o with
  | .atadd | .atmin | .atmax | .atand | .ator | .atxor | .atswp | .atcas | .attsb => true
  | _ => false

/-- Does a request name consecutive lines (R258, R259)? -/
def namesLines (o : Op) : Bool :=
  match o with
  | .pin | .unpin | .pref => true
  | _ => false

/-- The index operand of a request (R239, R246, R248, R254, R317, R321, R357). -/
def Request.index (q : Request) : Nat :=
  match q.op with
  | .cmst | .atcas | .massacc => if q.f.ar = .predicated then low64 q.c else 0
  | .nann => (bitsAt q.a 64 64).toNat
  | .st => if q.f.ar = .dyadic then low64 q.b else 0
  | o =>
    if isAtomic o then (if q.f.ar = .dyadic then low64 q.b else 0)
    else if q.f.ar = .monadic then low64 q.a else 0

/-- The byte offset of a global access (R239). -/
def Request.offset (q : Request) : Nat := (low64 q.k + q.index) % 2 ^ 64

/-- The length of an access in bytes (R239, R248, R312, R321); the lines of PIN, UNPIN and PREF count 128 each. -/
def Request.len (q : Request) : Nat :=
  match q.op with
  | .ld | .st | .ldv | .cmst => 2 ^ (bitsAt q.f.xmod 0 3).toNat
  | .massacc | .pin | .unpin | .pref => 128
  | .kvseqCreate | .kvseqAttach | .kvseqDetach | .kvapp | .kvevict | .kvstat | .kvdrop => 8256
  | .copy | .nann => 32
  | o => if isAtomic o then etWidth q.f.et / 8 else 1

/-- What an access's offset must be a multiple of (R239, R317, R321, R359). -/
def Request.align (q : Request) : Nat :=
  match q.op with
  | .kvseqCreate | .kvseqAttach | .kvseqDetach | .kvapp | .kvevict | .kvstat | .kvdrop => 128
  | .pin | .unpin | .pref => 1
  | _ => q.len

/-- The permissions that an access needs of its leaf: R, W (R235, R248). An engine checks its own (R318). -/
def Request.needs (q : Request) : Bool × Bool :=
  match q.op with
  | .st | .cmst => (false, true)
  | .massacc => (true, true)
  | .kvseqCreate | .kvseqAttach | .kvseqDetach | .kvapp | .kvevict | .kvstat | .kvdrop => (false, false)
  | o => if isAtomic o then (true, true) else (true, false)

/-! ## The colour window (R221) -/

/-- The virtual address of n bytes at an offset of a colour, or 0x5.03 or 0x5.04 (R221). -/
def Region.vaOf (g : Region) (col o n : Nat) : Except Cause Nat :=
  let e := g.col col
  if colWsize e ≠ 0 then (if o + n ≤ colWsize e then .ok ((colWbase e + o) % 2 ^ 64) else .error (mkCause 5 3))
  else if o / 2 ^ 57 ≠ 0 then .error (mkCause 5 4)
  else .ok o

/-- The offsets of an access's parts: its own, or those of its lines (R258, R259). -/
def Request.offsets (q : Request) : List Nat :=
  if namesLines q.op then (List.range ((bitsAt q.f.xmod 0 5).toNat + 1)).map fun k => (q.offset / 128 * 128 + 128 * k) % 2 ^ 64
  else [q.offset]

/-- The virtual addresses of an access's parts, or the first cause; a PREF drops the parts that fail (R221, R259). -/
def Region.vasOf (g : Region) (q : Request) : Except Cause (List Nat) :=
  let all := q.offsets.map fun o => g.vaOf (tagCol q.tag) o q.len
  let good := all.filterMap fun v => match v with
    | .ok a => some a
    | .error _ => none
  if q.op = .pref then .ok good
  else
    match all.findSome? (fun v => match v with
      | .ok _ => none
      | .error c => some c) with
    | some c => .error c
    | none => .ok good

/-! ## Chains (R242, R243) -/

/-- The state of a chain at a tile. -/
def MPort.chain (p : MPort) (n key : Nat) : Chain :=
  (p.chains.find? fun c => c.chain == n && c.key == key).getD ⟨n, key, none, none, none, []⟩
/-- Replace the state of a chain. -/
def MPort.putChain (p : MPort) (c : Chain) : MPort :=
  { p with chains := if p.chains.any (fun d => d.chain == c.chain && d.key == c.key) then
      p.chains.map (fun d => if d.chain == c.chain && d.key == c.key then c else d) else p.chains ++ [c] }

/-- A chain after performing an access (R242). -/
def Chain.finish (c : Chain) (q : Request) : Chain :=
  if q.sseq = q.oseq then { c with wave := none, last := none, busy := none, done := [] }
  else { c with last := some (q.oseq, q.sseq), busy := none, done := c.done ++ [q.oseq] }

/-- Is an access linked to the last one performed of its wave (R242)? -/
def Chain.links (c : Chain) (q : Request) : Bool :=
  match c.last with
  | none => false
  | some (oseq, sseq) => sseq == q.oseq || (q.pseq != seqAny && q.pseq == oseq)

/-- What a chain does with a waiting access (R242). -/
inductive Start where
  | wait | refuse | go
  deriving DecidableEq, Repr

/-- Does an access open waves before another: accepted earlier, then lower PATH (R242)? -/
def opensBefore (a b : Access) : Bool :=
  decide (a.at' < b.at') ||
    (a.at' == b.at' && decide ((bitsAt a.req.tag 0 55).toNat < (bitsAt b.req.tag 0 55).toNat))

/-- Is a waiting access the next opener of its chain? -/
def Region.nextOpener (g : Region) (a : Access) : Bool :=
  !g.accs.any fun b => b.stage == .waiting && b.tile == a.tile && b.req.chain == a.req.chain &&
    tagKey b.req.tag == tagKey a.req.tag && b.req.pseq == b.req.oseq && b.id != a.id && opensBefore b a

/-- Is an access a member of the group that a chain's held CMST waits in: the next member may follow it (R246)? -/
def Region.joins (g : Region) (c : Chain) (q : Request) : Bool :=
  q.op == .cmst && c.busy.any fun i => g.accs.any fun b => b.id == i && b.stage == .settled && b.req.op == .cmst

/-- What its chain does with a waiting access (R242). -/
def Region.chainStart (g : Region) (a : Access) : Start :=
  let q := a.req
  if q.chain = 15 then .go
  else
    let c := (g.mport a.tile).chain q.chain (tagKey q.tag)
    match c.wave with
    | none => if c.busy.isNone && q.pseq == q.oseq && g.nextOpener a then .go else .wait
    | some t =>
      if q.tag != t then .wait
      else if c.done.contains q.oseq || q.pseq == q.oseq then .refuse
      else if (c.busy.isNone || g.joins c q) && c.links q then .go else .wait

/-- The tile starts an access: its chain is busy until it is performed. -/
def Region.chainBusy (g : Region) (a : Access) : Region :=
  if a.req.chain = 15 then g
  else
    let p := g.mport a.tile
    let c := p.chain a.req.chain (tagKey a.req.tag)
    g.putMport (p.putChain { c with wave := some a.req.tag, busy := some a.id })

/-- A CMST that is not its group's last member waits in its tile: the next member may link to it, and nothing else starts before the
group has been performed (R242, R246). -/
def Region.chainHeld (g : Region) (a : Access) : Region :=
  if a.req.chain = 15 then g
  else
    let p := g.mport a.tile
    let c := p.chain a.req.chain (tagKey a.req.tag)
    g.putMport (p.putChain { c with
      last := some (a.req.oseq, a.req.sseq)
      done := if c.done.contains a.req.oseq then c.done else c.done ++ [a.req.oseq] })

/-- An access has been performed: it enters its chain's done and last (R242, R243). -/
def Region.chainDone (g : Region) (a : Access) : Region :=
  if a.req.chain = 15 then g
  else
    let p := g.mport a.tile
    let c := p.chain a.req.chain (tagKey a.req.tag)
    if c.busy = some a.id then g.putMport (p.putChain (c.finish a.req)) else g

/-- The regions in place on a die, with their names. -/
def State.onDie (s : State) (die : Nat) : List (Rid × Region) :=
  (s.launches.filter Launch.placed).flatMap fun l => (l.members.zipIdx.filter fun q => q.1.die == die).map fun q => (⟨l.handle, q.2⟩, q.1)

/-! ## What is performed before what (R241, R245, R257) -/

/-- The (context, colour) of a window's running stream. -/
def Region.windowKey (g : Region) (w : Window) : Option Nat :=
  (g.tile? w.x w.y).bind fun t => (t.gens[w.gen]?).bind fun n => n.nest.map fun k => tagKey k.req.tag

/-- The transfers of a region's copy channels. -/
def Region.xfers (g : Region) : List Xfer := g.tiles.flatMap fun t => t.chans.flatMap fun c => c.cur.toList ++ c.queue

/-- The ids of the accesses of a (context, colour) that the region's tiles have accepted and not performed, bytes of write
windows and running copies among them. -/
def Region.pendingIds (g : Region) (key : Nat) : List Nat :=
  ((g.accs.filter fun a => a.stage != .net && a.req.op != .mfence && a.req.op != .ownpass && tagKey a.req.tag == key).map Access.id) ++
    ((g.mports.flatMap MPort.windows).filter fun w => w.write && g.windowKey w == some key).flatMap (fun w => w.units.map WUnit.id) ++
    (g.xfers.filter fun x => x.acc.req.op == .copy && tagKey x.acc.req.tag == key).map fun x => x.acc.id

/-- Are two accesses CMSTs of one chain and one wave, of which the second waits for its group: both are performed at once (R246)? -/
def Access.mateOf (a b : Access) : Bool :=
  a.req.op == .cmst && b.req.op == .cmst && b.stage == .settled && b.tile == a.tile && b.req.chain == a.req.chain && b.req.tag == a.req.tag

/-- The accesses that must be performed before an access starts: those of R241, without the members of its own group. -/
def Region.mustFollow (g : Region) (a : Access) : List Nat := a.before.filter fun i => !g.accs.any fun b => b.id == i && a.mateOf b

/-- Are accesses performed (R241)? -/
def Region.allDone (g : Region) (ids : List Nat) : Bool :=
  !(ids.any fun i => g.accs.any (fun a => a.id == i) ||
    (g.mports.any fun m => m.windows.any fun w => w.units.any fun u => u.id == i) || g.xfers.any fun x => x.acc.id == i)

/-! ## Answers (R240) -/

/-- Change a region. -/
def State.mapRegion (s : State) (r : Rid) (f : Region → Region) : State :=
  match s.region? r with
  | none => s
  | some g => s.putRegion r (f g)

/-- What an access answers: one payload for every destination, a payload for each, an error record, a bubble. -/
inductive Ans where
  | all (v : Payload)
  | each (out : List (Dst × Payload))
  | record (c : Cause)
  | bubble
  deriving DecidableEq, Repr

/-- The answer of an access leaves its memory-port tile; a purge has taken a mute one's (R187). -/
def State.answerAcc (s : State) (r : Rid) (a : Access) (x : Ans) : State :=
  if a.mute then s
  else
    match s.region? r with
    | none => s
    | some g =>
      let z := portSender g r.m a.req.port 1
      let q := a.req.reply r.m
      match x with
      | .all v => answerAll s r z q v
      | .each out => answer s r z q out
      | .record c => answerRecord s r z q c 0
      | .bubble => answerBubble s r z q

/-- The region discards the bytes of the read windows of a (context, colour): they fill again (R245, R257).
(DEDUCED, log 22.) -/
def Region.acquire (g : Region) (key : Nat) : Region :=
  { g with mports := g.mports.map fun m => { m with windows := m.windows.map fun w =>
      if (!w.write && g.windowKey w == some key) then { w with head := w.tail, units := [], wait := none } else w } }

/-- Does an access acquire: ACQ on a load, a CMST or an atomic (R66, R245)? -/
def Request.acquires (q : Request) : Bool :=
  q.acq && (q.op == .ld || q.op == .ldv || q.op == .cmst || isAtomic q.op)

/-- An access is performed and answered (R242, R245). -/
def State.perform (s : State) (r : Rid) (a : Access) (x : Ans) : State :=
  (s.mapRegion r fun g =>
    let g1 := (g.dropAcc a.id).chainDone a
    if a.req.acquires then g1.acquire (tagKey a.req.tag) else g1).answerAcc r a x

/-- An access is refused with 0x5.09, and does not enter its chain (R242). -/
def State.refuseAcc (s : State) (r : Rid) (a : Access) : State :=
  (s.mapRegion r fun g => g.dropAcc a.id).answerAcc r a (.record (mkCause 5 9))

/-- The freeze cause of an access at its memory-port tile (R235, R373). -/
def portCause (s : State) (g : Region) (r : Rid) (q : Request) (c : Cause) : FreezeCause :=
  ⟨c, r.m, portAx (g.portWord q.port), portAy (g.portWord q.port), 31, 0, q.tag, 0, s.cycle⟩

/-- An access is held at its tile, and its launch freezes (R235, R379). -/
def State.holdAcc (s : State) (r : Rid) (a : Access) (c : Cause) : State :=
  match s.launch? r.h with
  | none => s
  | some l =>
    match l.members[r.m]? with
    | none => s
    | some g => s.putLaunch ((l.put r.m (g.putAcc { a with stage := .frozen })).hold (portCause s g r a.req c))

/-! ## Held lines (R268 to R270, R326) -/

/-- The world through which a held range is translated (R265). -/
def Launch.rangeWorld (l : Launch) (r : HeldRange) : BitVec 8 := ((l.members[r.member]?).map fun g => colWorld (g.col r.col)).getD 0

/-- The held range of a launch's member that holds an address of a world. -/
def Launch.rangeAt (l : Launch) (m : Nat) (w : BitVec 8) (va : Nat) : Option (Nat × HeldRange) :=
  (l.held.zipIdx.find? fun q => q.1.member == m && l.rangeWorld q.1 == w && decide (q.1.base ≤ va ∧ va < q.1.base + q.1.size)).map
    fun q => (q.2, q.1)

/-- Are a launch's held ranges declared: is it in place, SAVED, or RETIRED with spans to commit (R267)? -/
def Launch.declares (l : Launch) : Bool := l.placed || l.state == .saved || l.state == .retired

/-- Does an address lie in a declared held range (R267, R269)? -/
def State.declared (s : State) (w : BitVec 8) (va : Nat) : Bool :=
  s.launches.any fun l => l.declares && (List.range l.members.length).any fun m => (l.rangeAt m w va).isSome

/-- Does an address lie in a declared held range, or a line in one that is held (R246, R248, R269)? -/
def State.inHeld (s : State) (w : BitVec 8) (va pa : Nat) : Bool := s.lineHeld pa || s.declared w va

/-- The span of a store at a held line; none for a load, which NANN is there (R275). -/
def Access.storeSpan (a : Access) : Option Nat := if a.isStore && a.req.op != .nann then some a.span else none

/-- Must an agent's access wait for a line to be released (R269, R270)? The holder is a region; another member of its group is
another agent (R261). -/
def State.lineBusy (s : State) (line : Nat) (who : Option Rid) (store : Option Nat) : Bool :=
  s.heldLines.any fun k => k.line == line && (if some k.r = who then (match store with
    | some n => decide (k.span < n)
    | none => false) else true)

/-- Is a line held by another agent (R269)? -/
def State.lineForeign (s : State) (line : Nat) (who : Option Rid) : Bool :=
  s.heldLines.any fun k => k.line == line && some k.r != who

/-- An access that waits at a held line: since when, its id, its region, its span as a store. -/
structure LineWait where
  since : Nat
  id : Nat
  who : Option Rid
  store : Option Nat
  deriving DecidableEq, Repr

/-- The wait of an access, if it waits. -/
def Access.wait? (a : Access) (r : Rid) : Option LineWait :=
  match a.stage with
  | .held t => some ⟨t, a.id, some r, a.storeSpan⟩
  | _ => none

/-- The wait of a window's next bytes at a line, if they wait there. -/
def Window.wait? (w : Window) (r : Rid) (line : Nat) : Option LineWait :=
  (w.wait.filter fun k => k.why == .line && lineOf k.pa == line).map fun k =>
    ⟨k.since, w.id, some r, if w.write then (w.units.head?).map WUnit.span else none⟩

/-- The accesses that wait at a line (R270). -/
def State.waitsAt (s : State) (line : Nat) : List LineWait :=
  (s.launches.flatMap fun l => l.members.zipIdx.flatMap fun q =>
    let r : Rid := ⟨l.handle, q.2⟩
    (((q.1.accs ++ q.1.xfers.map Xfer.acc).filter fun a => a.pas.any fun pa => lineOf pa == line).filterMap fun a => a.wait? r) ++
      (q.1.mports.flatMap MPort.windows).filterMap fun w => w.wait? r line) ++
  (s.busWaits.filter fun b => lineOf b.pa == line).map fun b => ⟨b.since, b.id, none, none⟩

/-- May an access go at a line: no access that waits there and may go now came before it (R270)? -/
def State.lineTurn (s : State) (line since id : Nat) : Bool :=
  !(s.waitsAt line).any fun w => w.id != id && !s.lineBusy line w.who w.store &&
    (decide (w.since < since) || (w.since == since && decide (w.id < id)))

/-- Since when an access waits; one that does not yet wait stands behind those that do. -/
def Access.since (a : Access) (now : Nat) : Nat :=
  match a.stage with
  | .held t => t
  | _ => now + 1

/-- The lines that a held range's pages map to (R268). -/
def State.rangeLines (s : State) (w : BitVec 8) (base : Nat) : Nat → List Nat
  | 0 => []
  | n + 1 => s.rangeLines w base n ++ (match s.physOf w (base + 128 * n) false false with
    | .ok pa => [lineOf pa]
    | .error _ => [])

/-- Does an access of another agent wait at a line that is free for it: it is served before the line is held again (R270)? -/
def State.othersWait (s : State) (line : Nat) (r : Rid) : Bool :=
  (s.waitsAt line).any fun w => w.who != some r && !s.lineBusy line w.who w.store

/-- A store of a span reaches an address: the first one into a held range makes the range active, and every line of it is held
for the span; none while the range is active for an earlier span, or while another agent that waited for one of its lines has still
to be served (R268, R270). -/
def State.holdFor (s : State) (r : Rid) (w : BitVec 8) (va span : Nat) : Option State :=
  match s.launch? r.h with
  | none => some s
  | some l =>
    match l.rangeAt r.m w va with
    | none => some s
    | some (i, k) =>
      match k.active with
      | some t => if t < span then none else some s
      | none =>
        let lines := s.rangeLines w k.base (k.size / 128)
        if lines.any fun n => s.othersWait n r then none
        else
          let s1 := s.putLaunch { l with held := l.held.set i { k with active := some span } }
          some { s1 with heldLines := s1.heldLines ++ lines.map fun n => ⟨n, r, span⟩ }

/-- What meets an access at its home slices. -/
inductive Gate where
  | go (s : State)
  | wait
  | behind
  | fail (c : Cause)

/-- May a plain access go: held lines of other agents make it wait, its own earlier span and the engine keep it back, and a
first store activates its range (R268 to R270, R326). -/
def State.gate (s : State) (r : Rid) (g : Region) (a : Access) : Gate :=
  let w := g.tagWorld a.req.tag
  let hbm := a.pas.filter inHbm
  if isAtomic a.req.op || a.req.op == .massacc then
    (if hbm.any (fun pa => s.inHeld w a.va pa) then .fail (mkCause 6 2)
     else if hbm.any fun pa => s.engineHolds (lineOf pa) then .behind else .go s)
  else if a.req.op == .pref then .go s
  else if hbm.any fun pa => s.engineHolds (lineOf pa) then .behind
  else if hbm.any fun pa => s.lineForeign (lineOf pa) (some r) then .wait
  else if hbm.any fun pa => s.lineBusy (lineOf pa) (some r) a.storeSpan || !s.lineTurn (lineOf pa) (a.since s.cycle) a.id then .behind
  else
    match a.storeSpan with
    | none => .go s
    | some n =>
      match s.holdFor r w a.va n with
      | some s1 => .go s1
      | none => .behind

/-! ## At the home slice (R244, R247, R248, R258, R259) -/

/-- The old value and the new one of an atomic: the value returned, and the value stored (R248). -/
def atomicStep (q : Request) (old : Nat) : Nat × Nat :=
  let w := etWidth q.f.et
  let v := laneU w q.a 0
  let int (n : Nat) : Int := if etSigned q.f.et then toSigned w n else n
  match q.op with
  | .atadd => (old, if etIsFloat q.f.et then faddCode q.f.et 0 q.f.sat old v else fitInt q.f.et q.f.sat (int old + int v))
  | .atmin => (old, if int v < int old then v else old)
  | .atmax => (old, if int old < int v then v else old)
  | .atand => (old, old &&& v)
  | .ator => (old, old ||| v)
  | .atxor => (old, old ^^^ v)
  | .atswp => (old, v)
  | .atcas => (old, if old = v then laneU w q.b 0 else old)
  | .attsb => ((old >>> (v % 32)) % 2, old ||| 2 ^ (v % 32))
  | _ => (old, old)

/-- Pin or unpin the line of an address: the state after, and whether its state changed (R258). -/
def State.pinLine (s : State) (pa : Nat) (on : Bool) : State × Bool :=
  let n := homeSlice pa
  let s1 := if on then s.touch pa false else s
  let c := s1.slices.getD n .reset
  match c.lines.find? fun k => k.line == lineOf pa with
  | none => (s1, false)
  | some k =>
    let pins := countIf (fun q : CLine => q.inSet (sliceSet pa) && q.pinned) c.lines
    if k.pinned == on || (on && decide (s1.cachingWays n ≤ pins)) then (s1, false)
    else (s1.putSlice n { c with lines := c.lines.map fun q => if q.line == k.line then { q with pinned := on } else q }, true)

/-- Pin or unpin lines, counting those whose state changed. -/
def State.pinLines (s : State) (on : Bool) : List Nat → State × Nat
  | [] => (s, 0)
  | pa :: rest =>
    let a := if inHbm pa then s.pinLine pa on else (s, false)
    let b := a.1.pinLines on rest
    (b.1, b.2 + if a.2 then 1 else 0)

/-- A load of n bytes at a physical address by a region: the bytes, or the cause of a poisoned line (R244, R371, R401). -/
def State.loadAt (s : State) (who : Accessor) (pa n : Nat) : State × Except Cause (List Byte) :=
  if onPage pa then let r := s.pageLoad who pa n
                    (r.1, .ok r.2)
  else
    match s.poison? pa n with
    | some c => (s.peek pa n, .error c)
    | none => (s.peek pa n, .ok (readBytes s.mem pa n))

/-- A store of bytes at a physical address by a region; none while a register's store must wait (R230, R402). -/
def State.storeAt (s : State) (who : Accessor) (pa : Nat) (bs : List Byte) : Option State :=
  if onPage pa then s.pageStore ⟨who, pa, bs.length, ofBytes 64 bs⟩ else some (s.poke pa bs)

/-- The world and trusted bit of a region's access (R399). -/
def fabricAccessor (l : Launch) (g : Region) (tag : Word64) : Accessor := ⟨g.tagWorld tag, l.priv, false⟩

/-- LD, LDV, ST and the atomics at their line: the state after and the answer; none while a register's store must wait. -/
def State.lineOp (s : State) (who : Accessor) (q : Request) (pa : Nat) : Option (State × Ans) :=
  let n := q.len
  match q.op with
  | .ld | .ldv =>
    let r := s.loadAt who pa n
    (match r.2 with
     | .error c => some (r.1, .record c)
     | .ok bs =>
       let v : Payload := ofBytes 256 bs
       let stamp : Word64 := if onPage pa then Config.openRead s.moves pa else r.1.stampOf pa
       some (r.1, if q.op = .ld then .all v else .each [(q.f.dst0, v), (q.f.dst1, lane0 stamp.toNat)]))
  | .st => (s.storeAt who pa (toBytes q.a n)).map fun s1 => (s1, .all 0)
  | _ =>
    if onPage pa then some (s, .record (mkCause 5 0xD))
    else
      match s.poison? pa n with
      | some c => some (s.peek pa n, .record c)
      | none =>
        let v := atomicStep q (readNat s.mem pa n)
        some (s.poke pa (toBytes (BitVec.ofNat (8 * n) v.2) n), .all (lane0 v.1))

/-- PIN, UNPIN and PREF at their lines (R258, R259). -/
def State.linesOp (s : State) (q : Request) (pas : List Nat) : State × Ans :=
  match q.op with
  | .pref => ((pas.filter fun pa => inHbm pa && !s.lineHeld pa).foldl (fun s pa => s.prefetch pa) s, .all 0)
  | o =>
    let r := s.pinLines (o == .pin) pas
    (r.1, .all (lane0 r.2))

/-! ## CMST groups (R246) -/

/-- Insert an access by the order in which it joined its group. -/
def insertJoined (a : Access) : List Access → List Access
  | [] => [a]
  | b :: bs => if a.tnum.toNat < b.tnum.toNat then a :: b :: bs else b :: insertJoined a bs

/-- The accesses up to and with the first whose data token has LAST set; none when there is none. -/
def uptoLast : List Access → Option (List Access)
  | [] => none
  | a :: as => if a.req.last then some [a] else (uptoLast as).map fun r => a :: r

/-- The group that a CMST belongs to, in order, once it is complete (R246): in chain order in chains 0 to 14, in order of
acceptance in chain 15. -/
def Region.cmstGroup (g : Region) (a : Access) : Option (List Access) :=
  let mine := g.accs.filter fun b => b.req.op == .cmst && b.stage != .net && b.tile == a.tile && b.req.chain == a.req.chain && b.req.tag == a.req.tag
  if a.req.chain = 15 then (uptoLast mine).bind fun r => if r.all (fun b => b.stage == .settled) then some r else none
  else uptoLast ((mine.filter fun b => b.stage == .settled).foldl (fun l b => insertJoined b l) [])

/-- Settle a complete group in one step at its home slice: its outcome for every member (R246, R247).
(DESIGN CHOICE, log 25.) -/
def State.settleGroup (s : State) (w : BitVec 8) (ms : List Access) : State × Ans :=
  let pa (a : Access) : Nat := a.pas.headD 0
  let version (a : Access) : Word64 := bitsAt a.req.b 0 64
  let slices := (ms.map fun a => homeSlice (pa a)).eraseDups
  if ms.length > 4 then (s, .record (mkCause 5 0xC))
  else if ms.any fun a => onPage (pa a) then (s, .record (mkCause 5 0xD))
  else if slices.length > 1 then (s, .record (mkCause 5 0xB))
  else if ms.any fun a => s.inHeld w a.va (pa a) then (s, .record (mkCause 6 2))
  else
    let s1 := ms.foldl (fun s a => s.touch (pa a) false) s
    if ms.all fun a => s.stampOf (pa a) == version a then
      (ms.foldl (fun s a => s.poke (pa a) (toBytes a.req.a a.req.len)) s1, .all (lane0 1))
    else (s1, .all 0)

/-- CMST_GROUP_SETTLE: a complete group is settled, and every member answered (R246). -/
def execCmstGroupSettle (r : Rid) (id : Nat) (s : State) : Host.Outcome State Fault Refusal :=
  match s.region? r with
  | none => .next s
  | some g =>
    match g.acc? id with
    | none => .next s
    | some a =>
      if a.req.op != .cmst || a.stage != .settled || s.pkg != .running then .next s
      else
        match g.cmstGroup a with
        | none => .next s
        | some ms =>
          if ms.any fun b => b.pas.any fun p => s.engineHolds (lineOf p) then .next s
          else
            let x := s.settleGroup (g.tagWorld a.req.tag) ms
            .next (ms.foldl (fun s b => s.perform r b x.2) x.1)

/-! ## MFENCE and OWNPASS (R253, R257) -/

/-- An effect that leaves an operation pending at the issuing element, whose reply counts until it comes (R180).
(DEDUCED, log 7.) -/
def Ctx.await (c : Ctx) (g : Region) (a : Access) : Effect :=
  let g1 := g.count (.site c.p.x c.p.y) c.tag 1 true
  let s1 := c.s.putRegion c.p.r { g1 with accs := g1.accs ++ [{ a with id := c.s.freshId }] }
  { c.sends [] with s := { s1 with freshId := s1.freshId + 1 } }

/-- An operation that waits at its element: its request and the accesses that it waits for. -/
def settledAcc (q : Request) (tile : Nat) (before : List Nat) (now span : Nat) : Access :=
  ⟨0, q, tile, .settled, now, span, 0, [], before, 0, false⟩

/-- MFENCE: waits for the accesses of its context and colour that the region's tiles have accepted (R257). -/
def execMfence (f : Fields) (s : State) : Host.Outcome State Fault Refusal :=
  fire f s fun c =>
    c.await c.g (settledAcc (c.request .mfence) 0 (c.g.pendingIds (tagKey c.tag)) c.s.cycle c.l.openSpan)

/-- The registry entry of a tile with a number, and the region whose generator owns it (R220). -/
def State.regEntry (s : State) (die tile ent : Nat) : Option (Rid × RegEntry) :=
  (s.onDie die).findSome? fun q => ((q.2.mport tile).registry.find? fun e => e.ent == ent).map fun e => (q.1, e)

/-- ENT of an OWNPASS. -/
def Request.passEnt (q : Request) : Nat := (bitsAt q.f.imm 0 4).toNat

/-- OWNPASS: waits for the bytes of the old owner's write windows; an empty entry gives 0x5.0D (R253). -/
def execOwnpass (f : Fields) (s : State) : Host.Outcome State Fault Refusal :=
  fire f s fun c =>
    let q := c.request .ownpass
    let tile := c.g.portTile q.port
    match c.s.regEntry c.g.die tile q.passEnt with
    | none => c.raise (mkCause 5 0xD)
    | some _ => c.await c.g (settledAcc q tile [] c.s.cycle c.l.openSpan)

/-- The element as sender of an operation that waited. -/
def elementSender (m : Nat) (q : Request) : Sender := siteSender m q.x q.y 0 q.slot

/-- The first operation of a kind that waits at an element. -/
def Region.firstWaiting (g : Region) (o : Op) (x y : Nat) : Option Access :=
  g.accs.find? fun a => a.req.op == o && a.req.x == x && a.req.y == y && a.stage == .settled

/-- MFENCE_COMPLETE: every access that an MFENCE waits for has been performed; its operand goes on (R257). -/
def execMfenceComplete (p : Site) (s : State) : Host.Outcome State Fault Refusal :=
  match s.launch? p.r.h, s.region? p.r with
  | some l, some g =>
    match g.firstWaiting .mfence p.x p.y with
    | none => .next s
    | some a =>
      if s.live l && g.allDone a.before then
        .next (answerAll (s.putRegion p.r ((g.dropAcc a.id).acquire (tagKey a.req.tag))) p.r (elementSender p.r.m a.req)
          (a.req.reply p.r.m) a.req.a)
      else .next s
  | _, _ => .next s

/-- Do the write windows of a registry entry's owner hold bytes? -/
def Region.ownerWrites (g : Region) (e : RegEntry) : Bool :=
  g.mports.any fun m => m.windows.any fun w => w.write && w.x == e.x && w.y == e.y && w.gen == e.gen && !w.units.isEmpty

/-- OWNPASS_COMPLETE: the old owner's bytes are written; the new owner is named (R253). -/
def execOwnpassComplete (p : Site) (s : State) : Host.Outcome State Fault Refusal :=
  match s.launch? p.r.h, s.region? p.r with
  | some l, some g =>
    match g.firstWaiting .ownpass p.x p.y with
    | none => .next s
    | some a =>
      match s.regEntry g.die a.tile a.req.passEnt with
      | none => .next s
      | some (old, e) =>
        if !s.live l || (s.region? old).any (fun k => k.ownerWrites e) then .next s
        else
          let n := neighbour p.x p.y (bitsAt a.req.f.xmod 0 2).toNat
          let e' := { e with x := n.1, y := n.2, gen := (bitsAt a.req.f.xmod 2 2).toNat }
          let drop (k : Region) : Region := k.putMport { k.mport a.tile with registry := (k.mport a.tile).registry.filter (· != e) }
          let take (k : Region) : Region :=
            (k.dropAcc a.id).putMport { k.mport a.tile with registry := e' :: (k.mport a.tile).registry }
          .next (answerAll ((s.mapRegion old drop).mapRegion p.r take) p.r (elementSender p.r.m a.req) (a.req.reply p.r.m) 0)
  | _, _ => .next s

end Sys2Proof.Machine
end

