-- ==== Sys2Proof/Machine/Bank.lean ====
section
/-! DEFINITION. The memory tile as its neighbouring elements reach it (R209, R211, R249, R250, R320, R400): MTLD, MTST, MTTSB,
KVXLAT and the bank step that serves them. -/

namespace Sys2Proof.Machine

/-! ## Requests of a tile -/

/-- Fire an instruction that sends a request to a neighbouring memory tile. -/
def fireTile (o : Op) (f : Fields) (s : State) : Host.Outcome State Fault Refusal :=
  fire f s fun c => { c.sends [] with reqs := [.tile (c.request o)] }

/-- MTLD: reads or pops from a partition (R249). -/
def execMtld (f : Fields) (s : State) : Host.Outcome State Fault Refusal := fireTile .mtld f s
/-- MTST: writes or pushes to a partition (R249). -/
def execMtst (f : Fields) (s : State) : Host.Outcome State Fault Refusal := fireTile .mtst f s
/-- MTTSB: tests and sets one bit of a partition (R249). -/
def execMttsb (f : Fields) (s : State) : Host.Outcome State Fault Refusal := fireTile .mttsb f s
/-- KVXLAT: translates four sequence slots through a view (R320). -/
def execKvxlat (f : Fields) (s : State) : Host.Outcome State Fault Refusal := fireTile .kvxlat f s

/-- DIR of a bank request. -/
def Request.dir (q : Request) : Nat := (bitsAt q.f.xmod 4 2).toNat
/-- PART of a bank request. -/
def Request.part (q : Request) : Nat := (bitsAt q.f.xmod 6 3).toNat
/-- The low 32 bits of a payload as a number. -/
def low32 (p : Payload) : Nat := (bitsAt p 0 32).toNat

/-- The index operand of a bank request (R249). -/
def Request.tileIndex (q : Request) : Nat :=
  match q.op with
  | .mtst => if q.f.ar = .dyadic then low32 q.b else 0
  | _ => if q.f.ar = .monadic then low32 q.a else 0

/-- The offset of a bank request in its partition (R249). -/
def Request.tileOffset (q : Request) : Nat :=
  match q.op with
  | .kvxlat => 0
  | .mttsb => (low32 q.k + 4 * (q.tileIndex / 32)) % 2 ^ 32
  | _ => (low32 q.k + q.tileIndex) % 2 ^ 32

/-- The bytes that a bank request reaches; KVXLAT is checked by the parts that it reads (R320). -/
def Request.tileLen (q : Request) : Nat :=
  match q.op with
  | .mttsb => 4
  | _ => 2 ^ (bitsAt q.f.xmod 0 3).toNat

/-! ## Places in a tile (R211) -/

/-- Entries of a FIFO partition (R211). -/
def fifoCap (w : Word64) : Nat := modeSize w / 32

/-- The bytes of one line of a line buffer (R211). -/
def lineSize (w : Word64) : Nat := modeSize w / (modePar w + 1)

/-- Where the newest line of a line buffer stands among its lines. -/
def Tile.newest (t : Tile) (n : Nat) : Nat := lookupD 0 n t.lines

/-- The byte in its partition that an offset names: in a line buffer, line 0 is the newest (R211). (DESIGN CHOICE, log 52.) -/
def Tile.offsetAt (t : Tile) (n off : Nat) : Nat :=
  let w := t.part n
  if modeOf w = 3 then (t.newest n + off / lineSize w) % (modePar w + 1) * lineSize w + off % lineSize w else off

/-- The newest line of a line buffer is complete: the oldest becomes the newest, to be overwritten (R211). -/
def Tile.nextLine (t : Tile) (n : Nat) : Tile :=
  let k := modePar (t.part n)
  { t with lines := setKey n ((t.newest n + k) % (k + 1)) t.lines }

/-- The first byte of the tile that a bank request reaches: in a FIFO the entry to pop or the place of the one pushed, in a view the
copy that the selector names (R211, R249, R320). -/
def Tile.addrOf (t : Tile) (q : Request) : Nat :=
  let w := t.part q.part
  if q.op = .kvxlat then modeBase w + 0x2040 * (readNat t.bytes (modeBase w + 0x4080) 8 % 2)
  else if modeOf w = 2 then
    modeBase w + 32 * ((t.fifoFirst q.part + (if q.op = .mtst then (t.fifo q.part).length else 0)) % fifoCap w)
  else modeBase w + t.offsetAt q.part q.tileOffset

/-! ## Checks (R249, R320, R400) -/

/-- Do bytes lie in the quarter of a tile that a colour of a MULTIW image may reach (R400)? -/
def Region.inQuarter (g : Region) (tag : Word64) (a n : Nat) : Bool :=
  !g.multiw ||
    (let q := colWbase (g.col (tagCol tag)) / 65536 % 4
     decide (65536 * q ≤ a ∧ a + n ≤ 65536 * q + 65536))

/-- Does a partition hold plain bytes for MTLD, MTST and MTTSB? (DESIGN CHOICE, log 52.) -/
def plainMode (w : Word64) : Bool := modeOf w == 1 || modeOf w == 3 || modeOf w == 4

/-- Is a partition a view's: a table with PAR 0 of at least 17 KiB (R315)? -/
def viewFit (w : Word64) : Bool := modeOf w == 4 && modePar w == 0 && decide (17408 ≤ modeSize w)

/-- The first failing check of a bank request: alignment, the partition's mode, its bounds, then the quarter of the bytes that the
access touches (R249, R320, R400). (DEDUCED, log 13.) -/
def bankCause (g : Region) (t : Tile) (q : Request) : Option Cause :=
  let w := t.part q.part
  let off := q.tileOffset
  let n := q.tileLen
  let quarter (a n : Nat) : Option Cause := if g.inQuarter q.tag a n then none else some (mkCause 10 2)
  if q.op = .kvxlat then
    if !viewFit w then some (mkCause 5 0xD) else (quarter (modeBase w + 0x4080) 8).or (quarter (t.addrOf q) 0x2040)
  else if off % n ≠ 0 then some (mkCause 5 8)
  else if modeOf w = 2 then
    if q.op = .mttsb ∨ n ≠ 32 then some (mkCause 5 0xD) else quarter (t.addrOf q) 32
  else if !plainMode w then some (mkCause 5 0xD)
  else if modeSize w < off + n then some (mkCause 5 7)
  else quarter (t.addrOf q) n

/-- The bank of a byte of a tile (R209). -/
def bankAt (a : Nat) : Nat := a / 32 % 32

/-- Must a request wait at its FIFO: a push to a full one, a pop from an empty one (R211)? -/
def Tile.blocked (t : Tile) (q : Request) : Bool :=
  let w := t.part q.part
  modeOf w == 2 &&
    (match q.op with
     | .mtld => (t.fifo q.part).isEmpty
     | .mtst => decide (fifoCap w ≤ (t.fifo q.part).length)
     | _ => false)

/-! ## The bank step -/

/-- The client that a bank served last; an order just placed starts at channel 0 (R209). -/
def Tile.lastClient (t : Tile) (bank : Nat) : Nat := ((t.rr.find? fun k => k.bank == bank).map BankTurn.client).getD 9

/-- Has a bank made no access in this cycle (R209)? -/
def Tile.idle (t : Tile) (bank now : Nat) : Bool := !t.rr.any fun k => k.bank == bank && k.cycle == now

/-- A bank has served a client in this cycle. -/
def Tile.served (t : Tile) (bank client now : Nat) : Tile :=
  { t with rr := ⟨bank, client, now⟩ :: t.rr.filter fun k => k.bank != bank }

/-- The banks that n bytes of a tile lie in. -/
def banksOf (a n : Nat) : List Nat := (List.range ((a + n - 1) / 32 - a / 32 + 1)).map fun k => (a / 32 + k) % 32

/-- The address that KVXLAT gives for a sequence slot in a view's active copy (R320). -/
def viewAddr (t : Tile) (copy what j : Nat) : Nat :=
  let sl := j % 128
  let page := readNat t.bytes (copy + 64 + 8 * (j / 128)) 8
  let off := match what with
    | 0 => 64 * sl
    | 1 => 0x2000 + 64 * sl
    | 2 => 0x4000 + 2 * sl
    | 3 => 0x4100 + 2 * sl
    | _ => 0x4200 + 8 * sl
  (page + off) % 2 ^ 64

/-- KVXLAT's four lanes: the address, or all ones with the lane bad (R320). -/
def viewLanes (t : Tile) (base : Nat) (what : Nat) (a : Payload) : List (Nat × Bool) :=
  let copy := base + 0x2040 * (readNat t.bytes (base + 0x4080) 8 % 2)
  let live := readNat t.bytes (copy + 8) 4
  (List.range 4).map fun i =>
    let j := laneU 64 a i
    if live ≤ j then (2 ^ 64 - 1, true) else (viewAddr t copy what j, false)

/-- A bank request is served: the tile after, and its results by destination (R211, R249, R320). A token with LAST ends a line of a
line buffer. -/
def Tile.serve (t : Tile) (q : Request) : Tile × List (Dst × Payload) :=
  let w := t.part q.part
  let a := t.addrOf q
  let all (v : Payload) := (dests q.f).map fun d => (d, v)
  match q.op with
  | .mtld =>
    if modeOf w = 2 then
      match t.fifo q.part with
      | [] => (t, [])
      | v :: _ => (t.popFifo q.part, all v)
    else (t, all (ofBytes 256 (t.read a q.tileLen)))
  | .mtst =>
    if modeOf w = 2 then (t.setFifo q.part (t.fifo q.part ++ [q.a]), all 0)
    else
      let t1 := t.write a (toBytes q.a q.tileLen)
      (if modeOf w = 3 && q.last then t1.nextLine q.part else t1, all 0)
  | .mttsb =>
    let old := readNat t.bytes a 4
    let b := q.tileIndex % 32
    (t.write a (toBytes (BitVec.ofNat 32 (old ||| 2 ^ b)) 4), [(q.f.dst0, lane0 (old >>> b % 2)), (q.f.dst1, q.a)])
  | _ =>
    let r := viewLanes t (modeBase w) (bitsAt q.f.xmod 0 3).toNat q.a
    (t, [(q.f.dst0, packLanes 64 (r.map Prod.fst)), (q.f.dst1, packLanes 64 (r.map fun p => if p.2 then 1 else 0))])

/-- The bank request at the head of an element's output queue, for the tile at a site (R250). -/
def Elem.tileReq (e : Elem) (x y : Nat) : Option Request :=
  match e.out with
  | .tile q :: _ => if neighbour e.x e.y q.dir = (x, y) then some q else none
  | _ => none

/-- The request of the neighbour in a direction that wants a bank and need not wait (R209, R211). -/
def Region.bankReq (g : Region) (t : Tile) (bank d : Nat) : Option (Elem × Request) :=
  let n := neighbour t.x t.y d
  (g.elem? n.1 n.2).bind fun e => (e.tileReq t.x t.y).bind fun q =>
    if bankAt (t.addrOf q) = bank ∧ ((bankCause g t q).isSome ∨ !t.blocked q) then some (e, q) else none

/-- An output-queue entry with a sealed memory-tile request opened. -/
def OutItem.clear (s : State) (l : Launch) (g : Region) (o : OutItem) : OutItem :=
  match o with
  | .tile q => .tile (openReq s l.sl (g.tagWorld q.tag) q)
  | _ => o

/-- Does an output queue hold a sealed memory-tile request? -/
def Elem.sealedReq (e : Elem) : Bool := e.out.any fun o => match o with
  | .tile q => !q.seals.isEmpty
  | _ => false

/-- The region as its memory tiles see it: the requests that stand before them are opened (R403). The queues themselves keep them
sealed. -/
def State.tileView (s : State) (l : Launch) (g : Region) : Region :=
  if g.elems.any Elem.sealedReq then { g with elems := g.elems.map fun e => { e with out := e.out.map (OutItem.clear s l g) } } else g

/-- The region with the oldest entry of an element's output queue gone. -/
def Region.popOut (g : Region) (x y : Nat) : Region :=
  match g.elem? x y with
  | some e => g.putElem { e with out := e.out.tail }
  | none => g

/-- The clients of a bank in round-robin order, from the one after the last served: 0 and 1 the copy channels, 2 to 5 the
generators, 6 to 9 the elements north, east, south and west (R209). -/
def Tile.clients (t : Tile) (bank : Nat) : List Nat := (List.range 10).map fun i => (t.lastClient bank + 1 + i) % 10

/-- The next element of a bank's clients that wants it. A copy channel or a generator wants it when its own step makes its access
(`Region.banksFree`). -/
def Region.bankTurn (g : Region) (t : Tile) (bank : Nat) : Option (Nat × Elem × Request) :=
  (t.clients bank).findSome? fun c => if c < 6 then none else (g.bankReq t bank (c - 6)).map fun r => (c, r.1, r.2)

/-- May a copy channel or a generator access bytes of its tile now: their banks are idle in this cycle, and no element that wants one
of them comes before it in the bank's order (R209)? -/
def Region.banksFree (g : Region) (t : Tile) (client now a n : Nat) : Bool :=
  (banksOf a n).all fun b => t.idle b now &&
    !((t.clients b).takeWhile (· != client)).any fun c => decide (6 ≤ c) && (g.bankReq t b (c - 6)).isSome

/-- The banks of bytes of a tile have served a client. -/
def Tile.servedAll (t : Tile) (client now a n : Nat) : Tile := (banksOf a n).foldl (fun t b => t.served b client now) t

/-- BANK_ACCESS: a bank serves the next element that wants it, in one indivisible step (R209, R249). -/
def execBankAccess (p : Site) (bank : Nat) (s : State) : Host.Outcome State Fault Refusal :=
  match s.launch? p.r.h, s.region? p.r with
  | some l, some g =>
    match g.tile? p.x p.y with
    | none => .next s
    | some t =>
      match (s.tileView l g).bankTurn t bank with
      | none => .next s
      | some (c, e, q) =>
        if !s.live l || !t.idle bank s.cycle then .next s
        else
          let t1 := t.served bank c s.cycle
          let g1 := g.popOut e.x e.y
          let z := siteSender p.r.m q.x q.y 0 q.slot
          match bankCause g t q with
          | some cause => .next (answerRecord (s.putRegion p.r (g1.putTile t1)) p.r z (q.reply p.r.m) cause 0)
          | none =>
            let r := t1.serve q
            .next (answer (s.putRegion p.r (g1.putTile r.1)) p.r z (q.reply p.r.m) r.2)
  | _, _ => .next s

end Sys2Proof.Machine
end

