-- ==== Sys2Proof/Machine/Gen.lean ====
section
/-! DEFINITION. Address generators and stream windows (R216, R217, R219, R220, R251 to R253): AGSET, AGGO, the accesses of a
nest, its end, and the fills and write-backs of a window. -/

namespace Sys2Proof.Machine

/-! ## Fields of AGSET and AGGO (R251, R252) -/

/-- DIR of AGSET, AGGO, COPY, CPWAIT and CPPTR. -/
def Request.dir0 (q : Request) : Nat := (bitsAt q.f.xmod 0 2).toNat
/-- GEN of a request. -/
def Request.genNo (q : Request) : Nat := (bitsAt q.f.xmod 2 2).toNat
/-- KIND of an AGSET. -/
def Request.kind (q : Request) : Nat := (bitsAt q.f.xmod 4 2).toNat
/-- WINDOW of an AGSET. -/
def Request.window (q : Request) : Nat := (bitsAt q.f.imm 0 3).toNat
/-- PSZ of an AGSET. -/
def Request.psz (q : Request) : Nat := (bitsAt q.f.imm 8 2).toNat
/-- OWN of an AGSET. -/
def Request.own (q : Request) : Bool := bitAt q.f.imm 11
/-- ENT of an AGSET. -/
def Request.ent (q : Request) : Nat := (bitsAt q.f.imm 12 4).toNat
/-- The tag field of an AGGO. -/
def Request.nestField (q : Request) : Nat := (bitsAt q.f.xmod 4 4).toNat
/-- LANE of an AGGO. -/
def Request.lane (q : Request) : Bool := bitAt q.f.xmod 8

/-! ## Nests (R216) -/

/-- STRIDE of a counter of a descriptor. -/
def cntStride (d : Payload) (c : Nat) : Int := (bitsAt d (64 * c + 32) 32).toInt
/-- START of a counter. -/
def cntStart (d : Payload) (c : Nat) : Nat := (bitsAt d (64 * c + 16) 16).toNat
/-- COUNT of a counter; 0 means 65,536. -/
def cntCount (d : Payload) (c : Nat) : Nat := let n := (bitsAt d (64 * c) 16).toNat
                                              if n = 0 then 65536 else n

/-- The number of addresses of a nest. -/
def nestLen (d : Payload) : Nat := cntCount d 0 * cntCount d 1 * cntCount d 2 * cntCount d 3

/-- What the counters add to the base at address number i, innermost counter first. -/
def nestOffset (d : Payload) : List Nat → Nat → Int
  | [], _ => 0
  | c :: cs, i => ((cntStart d c + i % cntCount d c : Nat) : Int) * cntStride d c + nestOffset d cs (i / cntCount d c)

/-- An integer modulo 2^64. -/
def wrap64 (v : Int) : Nat := (v % 2 ^ 64).toNat

/-- Address number i of a nest (R216). -/
def nestAddr (d : Payload) (base : Nat) (i : Nat) : Nat := wrap64 (base + nestOffset d [0, 1, 2, 3] i)

/-- The least and the largest that one counter adds. -/
def cntEnds (d : Payload) (c : Nat) : Int × Int :=
  let a := (cntStart d c : Int) * cntStride d c
  let b := ((cntStart d c + cntCount d c - 1 : Nat) : Int) * cntStride d c
  if a < b then (a, b) else (b, a)

/-- The least and the largest address of a nest less its base. -/
def nestEnds (d : Payload) : Int × Int :=
  [0, 1, 2, 3].foldl (fun s c => let e := cntEnds d c
                                 (s.1 + e.1, s.2 + e.2)) (0, 0)

/-! ## Generators and windows -/

/-- A generator of a tile. -/
def Tile.gen (t : Tile) (n : Nat) : Gen := t.gens.getD n ⟨0, 0, none, none, [], 0⟩
/-- Replace a generator. -/
def Tile.putGen (t : Tile) (n : Nat) (k : Gen) : Tile := { t with gens := t.gens.set n k }
/-- A window of a memory-port tile. -/
def MPort.window? (m : MPort) (n : Nat) : Option Window := m.windows.find? fun w => w.num == n
/-- Replace a window, or bind it. -/
def MPort.putWindow (m : MPort) (w : Window) : MPort := { m with windows := w :: m.windows.filter fun k => k.num != w.num }
/-- Replace a window of a region's tile. -/
def Region.putWindow (g : Region) (tile : Nat) (w : Window) : Region := g.putMport ((g.mport tile).putWindow w)
/-- Is a window bound to a generator? -/
def Window.of (w : Window) (x y n : Nat) : Bool := w.x == x && w.y == y && w.gen == n
/-- The window that a generator's stream runs through: its binding's, while it is still bound to the generator. -/
def Region.genWindow (g : Region) (t : Tile) (n : Nat) (b : Request) : Option Window :=
  ((g.mport (g.portTile b.port)).window? b.window).filter fun w => w.of t.x t.y n

/-- A generator that is not this one owns a byte of an access, at a memory-port tile: in the tile's registry, whichever region's
generator claimed the range (R220, R253). -/
def State.foreign (s : State) (r : Rid) (die tile : Nat) (w : BitVec 8) (va x y n : Nat) : Bool :=
  (s.onDie die).any fun q => (q.2.mport tile).registry.any fun e =>
    e.world == w && decide (e.lo < va + 32 ∧ va < e.hi) && !(q.1 == r && e.x == x && e.y == y && e.gen == n)

/-- The region without the windows that a generator was bound to. -/
def Region.unbind (g : Region) (x y n : Nat) : Region :=
  { g with mports := g.mports.map fun m => { m with windows := m.windows.filter fun w => !w.of x y n } }

/-! ## AGSET and AGGO (R251 to R253) -/

/-- What serving an AGSET or AGGO comes to: it waits, fails, is in place (AGSET), or has started a nest (AGGO). -/
inductive GenStep where
  | wait
  | fail (c : Cause)
  | set (s : State)
  | started (s : State)

/-- The registry entry that an AGSET with OWN claims: the virtual addresses of its nest (R221, R253). -/
def Region.claim (g : Region) (t : Tile) (q : Request) : RegEntry :=
  let e := nestEnds q.a
  let c := g.col (tagCol q.tag)
  let base := if colWsize c = 0 then 0 else colWbase c
  let lo := wrap64 ((base : Int) + low64 q.k + e.1)
  ⟨q.ent, g.tagWorld q.tag, lo, lo + (e.2 - e.1).toNat + 32, t.x, t.y, q.genNo⟩

/-- Does a running stream of another generator hold a window of a tile, in whichever region (R251)? -/
def State.windowTaken (s : State) (r : Rid) (die tile num x y n : Nat) : Bool :=
  (s.onDie die).any fun q => ((q.2.mport tile).window? num).any fun w => !(q.1 == r && w.of x y n) && (q.2.windowKey w).isSome

/-- Does another generator own a registry entry of a tile, in whichever region (R253)? -/
def State.entryTaken (s : State) (r : Rid) (die tile ent x y n : Nat) : Bool :=
  (s.onDie die).any fun q => (q.2.mport tile).registry.any fun e => e.ent == ent && !(q.1 == r && e.x == x && e.y == y && e.gen == n)

/-- The other regions of a die give up a window of a tile: it has been bound again (R219). -/
def State.loseWindow (s : State) (r : Rid) (die tile num : Nat) : State :=
  (s.onDie die).foldl (fun s q =>
    if q.1 = r ∨ !(q.2.mport tile).windows.any (fun w => w.num == num) then s
    else s.mapRegion q.1 fun g => g.putMport { g.mport tile with windows := (g.mport tile).windows.filter fun w => w.num != num }) s

/-- AGSET at its generator, whose nest is not running (R251, R253). (DEDUCED, log 21.) -/
def State.bindGen (s : State) (r : Rid) (g : Region) (t : Tile) (q : Request) : GenStep :=
  let n := q.genNo
  let t1 := t.putGen n { t.gen n with desc := q.a, base := bitsAt q.k 0 64, bind := some q }
  if q.kind = 0 then .set (s.putRegion r ((g.unbind t.x t.y n).putTile t1))
  else
    let tile := g.portTile q.port
    if s.windowTaken r g.die tile q.window t.x t.y n then .wait
    else if q.own && s.entryTaken r g.die tile q.ent t.x t.y n then .fail (mkCause 5 0xA)
    else
      let g1 := (g.unbind t.x t.y n).putTile t1
      let m1 := (g1.mport tile).putWindow ⟨s.freshId, q.window, t.x, t.y, n, q.kind == 2, 0, 0, [], none, []⟩
      let m2 := if q.own then { m1 with registry := g.claim t q :: m1.registry.filter fun e => e.ent != q.ent } else m1
      .set (({ s with freshId := s.freshId + 1 }.putRegion r (g1.putMport m2)).loseWindow r g.die tile q.window)

/-- Is a generator's binding fit for its kind (R251, R252)? -/
def Region.genReady (g : Region) (t : Tile) (n : Nat) (b : Request) : Bool :=
  match b.kind with
  | 0 => plainMode (t.part b.part)
  | 1 => (g.genWindow t n b).isSome
  | _ => modeOf (t.part b.part) == 2 && (g.genWindow t n b).isSome

/-- AGGO at its generator, whose nest is not running: the nest starts with its window empty (R252). -/
def State.startNest (s : State) (r : Rid) (g : Region) (t : Tile) (q : Request) : GenStep :=
  let n := q.genNo
  let k := t.gen n
  match k.bind with
  | none => .fail (mkCause 5 0xD)
  | some b =>
    if !g.genReady t n b then .fail (mkCause 5 0xD)
    else
      let g1 := g.putTile (t.putGen n { k with nest := some ⟨q, 0, none⟩ })
      .started (s.putRegion r (match g.genWindow t n b with
        | some w => g1.putWindow (g.portTile b.port) { w with head := 0, tail := 0, units := [], wait := none, pages := [] }
        | none => g1))

/-- The request at the head of a generator's queue is served (R251, R252); none while it waits. -/
def State.serveGen (s : State) (r : Rid) (x y n : Nat) : Option State :=
  (s.region? r).bind fun g => (g.tile? x y).bind fun t =>
    match (t.gen n).queue, (t.gen n).nest with
    | q :: rest, none =>
      let t1 := t.putGen n { t.gen n with queue := rest }
      let s1 := s.putRegion r (g.putTile t1)
      let z := elementSender r.m q
      match (if q.op == .agset then s1.bindGen r (g.putTile t1) t1 q else s1.startNest r (g.putTile t1) t1 q) with
      | .wait => none
      | .fail c => some (answerRecord s1 r z (q.reply r.m) c 0)
      | .set s2 => some (answerAll s2 r z (q.reply r.m) 0)
      | .started s2 => some s2
    | _, _ => none

/-- Serve the queues of a region's generators until every head waits. -/
def State.serveGens (r : Rid) : Nat → State → State
  | 0, s => s
  | fuel + 1, s =>
    match s.region? r with
    | none => s
    | some g =>
      match (g.tiles.flatMap fun t => [0, 1, 2, 3].map fun n => (t.x, t.y, n)).findSome? fun q => s.serveGen r q.1 q.2.1 q.2.2 with
      | none => s
      | some s1 => State.serveGens r fuel s1

/-- The requests that wait at a region's generators. -/
def Region.genQueued (g : Region) : Nat := g.tiles.foldl (fun a t => t.gens.foldl (fun a k => a + k.queue.length) a) 0

/-- Serve the queues of a region's generators. -/
def State.serveAllGens (s : State) (r : Rid) : State :=
  match s.region? r with
  | none => s
  | some g => State.serveGens r g.genQueued s

/-- The tile that a request's DIR names. -/
def Region.dirTile (g : Region) (q : Request) (d : Nat) : Option Tile :=
  let n := neighbour q.x q.y d
  g.tile? n.1 n.2

/-- Issue an AGSET or AGGO: it joins its generator's queue, pending at the element, and is served at once if it can be. -/
def fireGen (o : Op) (f : Fields) (s : State) : Host.Outcome State Fault Refusal :=
  fire f s fun c =>
    let q := c.request o
    match c.g.dirTile q q.dir0 with
    | none => c.raise (mkCause 5 0xD)
    | some t =>
      let k := t.gen q.genNo
      let g1 := (c.g.putTile (t.putGen q.genNo { k with queue := k.queue ++ [q] })).count (.site c.p.x c.p.y) c.tag 1 true
      c.only ((c.s.putRegion c.p.r g1).serveAllGens c.p.r)

/-- AGSET: configures a generator (R251). -/
def execAgset (f : Fields) (s : State) : Host.Outcome State Fault Refusal := fireGen .agset f s
/-- AGGO: starts a generator's nest (R252). -/
def execAggo (f : Fields) (s : State) : Host.Outcome State Fault Refusal := fireGen .aggo f s

/-! ## The accesses of a nest (R252) -/

/-- A generator as sender (R404). -/
def genSender (m : Nat) (t : Tile) (n : Nat) (q : Request) : Sender := ⟨.site t.x t.y, prodId m t.x t.y (7 + n), q.x, q.y, q.slot⟩

/-- The stream input that a feeder's lane circuit leads to: the row's A input east of a west feeder, the column's B input south of a
north feeder (R155, R283). (DEDUCED, log 21.) -/
def Region.laneDst (g : Region) (t : Tile) : Option Dst :=
  g.sheets.findSome? fun h =>
    let dst (dx : BitVec 7) (dy : BitVec 6) (side : BitVec 2) : Dst := ⟨true, dx, dy, BitVec.ofNat 5 h.slot, side⟩
    if (List.range h.rs).any fun i => t.x + 1 == h.x && t.y == h.y + 2 * i then some (dst 1 0 0)
    else if (List.range h.cs).any fun i => t.x == h.x + 2 * i && t.y + 1 == h.y then some (dst 0 1 1)
    else none

/-- Put a token on a tile's stream-lane circuit (R155, R252, R403): a feeder's leads to a stream input of its sheet; no field of an image
sets up another, and on a tile without one the token stays on the lane. (DEDUCED, log 21.) -/
def State.laneSend (s : State) (r : Rid) (t : Tile) (prod : BitVec 19) (m : Emit) : State :=
  match s.launch? r.h with
  | none => s
  | some l =>
    match l.members[r.m]? with
    | none => s
    | some g =>
      match g.laneDst t with
      | some d => sendFrom s r (.site t.x t.y) prod t.x t.y { m with dst := d }
      | none =>
        let z := sealTok s l.sl (g.tagWorld m.tag) prod m.token
        let g1 := (g.putTile { t with lane := t.lane ++ [z.1] }).count (.site t.x t.y) m.tag 1 false
        s.putLaunch { (l.put r.m g1) with sl := z.2 }

/-- Access i of n of a nest emits its token: the bytes read, or the record of what failed (R252, R216). -/
def State.nestEmit (s : State) (r : Rid) (g : Region) (t : Tile) (n : Nat) (q : Request) (i len : Nat) (v : Except Cause Payload) : State :=
  let z := genSender r.m t n q
  let k := q.nestField
  let tag := setField g.tagw k (i % 2 ^ fieldW g.tagw k) q.tag
  let last := i + 1 == len
  let m : Emit := match v with
    | .ok p => ⟨q.f.dst0, tag, true, 0, last, 0, p⟩
    | .error c => ⟨q.f.dst0, tag, true, 3, last, 0, recPayload 0 q.tag r.h z.ax z.ay 0 z.slot c⟩
  if q.lane then s.laneSend r t z.prod m else if q.f.dst0.v then sendFrom s r z.src z.prod q.x q.y m else s

/-- The bytes of a tile that a generator's next access reaches: of a local read its own, of a store the FIFO entry that it pops (R252). -/
def Tile.genReach (t : Tile) (b : Request) (a : Nat) : Nat :=
  let w := t.part b.part
  if b.kind = 0 then modeBase w + t.offsetAt b.part a else modeBase w + 32 * (t.fifoFirst b.part % fifoCap w)

/-- Access i of a local read: its bytes, or its cause (R216, R252, R400). -/
def localRead (g : Region) (t : Tile) (b q : Request) (a : Nat) : Except Cause Payload :=
  let w := t.part b.part
  if a % 32 ≠ 0 then .error (mkCause 5 8)
  else if modeSize w < a + 32 then .error (mkCause 5 7)
  else if !g.inQuarter q.tag (t.genReach b a) 32 then .error (mkCause 10 2)
  else .ok (ofBytes 256 (t.read (t.genReach b a) 32))

/-- The tile with a generator's nest at its next access, a store's cause noted. -/
def Tile.nestOn (t : Tile) (n : Nat) (c : Option Cause) : Tile :=
  let k := t.gen n
  t.putGen n { k with nest := k.nest.map fun v => { v with next := v.next + 1, fail := if v.fail.isSome then v.fail else c } }

/-- A store of a nest: one FIFO entry goes into the write window (R252, R253, R400); none while it waits.
(DEDUCED, log 21.) -/
def State.nestStore (s : State) (r : Rid) (l : Launch) (g : Region) (t : Tile) (n : Nat) (b q : Request) (i a : Nat) : Option State :=
  let tile := g.portTile b.port
  let t0 := t.servedAll (2 + n) s.cycle (t.genReach b a) 32
  let skip (t' : Tile) (c : Cause) : Option State := some (s.putRegion r (g.putTile (t'.nestOn n (some c))))
  match t.fifo b.part, g.genWindow t n b with
  | v :: _, some win =>
    let t1 := t0.popFifo b.part
    if win.tail + 65536 ≤ win.head || !(s.tileView l g).banksFree t (2 + n) s.cycle (t.genReach b a) 32 then none
    else if !g.inQuarter q.tag (t.genReach b a) 32 then skip t1 (mkCause 10 2)
    else if a % 32 ≠ 0 then skip t1 (mkCause 5 8)
    else
      match g.vaOf (tagCol q.tag) a 32 with
      | .error c => skip t1 c
      | .ok va =>
        if s.foreign r g.die tile (g.tagWorld q.tag) va t.x t.y n then none
        else
          let u : WUnit := ⟨s.freshId, i, va, v, none, l.openSpan⟩
          let g1 := (g.putTile (t1.nestOn n none)).putWindow tile { win with head := win.head + 32, units := win.units ++ [u] }
          some ({ s with freshId := s.freshId + 1 }.putRegion r g1)
  | _, _ => none

/-- GENERATOR_ACCESS: a generator makes the next access of its nest (R216, R252); one without a nest serves a request that waited for
a window which is free now (R251). -/
def execGeneratorAccess (p : Site) (gen : Nat) (s : State) : Host.Outcome State Fault Refusal :=
  match s.launch? p.r.h, s.region? p.r with
  | some l, some g =>
    match g.tile? p.x p.y with
    | none => .next s
    | some t =>
      let k := t.gen gen
      match k.nest, k.bind with
      | some v, some b =>
        let len := nestLen k.desc
        let a := nestAddr k.desc k.base.toNat v.next
        if !s.live l || l.draining || decide (len ≤ v.next) then .next s
        else
          match b.kind with
          | 0 =>
            if !(s.tileView l g).banksFree t (2 + gen) s.cycle (t.genReach b a) 32 then .next s
            else
              let t1 := (t.servedAll (2 + gen) s.cycle (t.genReach b a) 32).nestOn gen none
              .next ((s.putRegion p.r (g.putTile t1)).nestEmit p.r (g.putTile t1) t1 gen v.req v.next len (localRead g t b v.req a))
          | 1 =>
            (match g.genWindow t gen b with
             | none => .next s
             | some w =>
               match w.units with
               | [] => .next s
               | u :: rest =>
                 let t1 := t.nestOn gen none
                 let g2 := (g.putTile t1).putWindow (g.portTile b.port) { w with tail := w.tail + 32, units := rest }
                 .next ((s.putRegion p.r g2).nestEmit p.r g2 t1 gen v.req v.next len (match u.cause with
                   | some c => .error c
                   | none => .ok u.pay)))
          | _ => .next ((s.nestStore p.r l g t gen b v.req v.next a).getD s)
      | none, _ => .next (if s.live l then (s.serveGen p.r p.x p.y gen).getD s else s)
      | _, _ => .next s
  | _, _ => .next s

/-- AGGO_NEST_END: a nest has made every access and, writing, every byte of its window is performed: the done token, or the
record of a store that failed, goes to DST1, the control token goes out, and waiting requests are served (R216, R252). -/
def execAggoNestEnd (p : Site) (gen : Nat) (s : State) : Host.Outcome State Fault Refusal :=
  match s.launch? p.r.h, s.region? p.r with
  | some l, some g =>
    match g.tile? p.x p.y with
    | none => .next s
    | some t =>
      let k := t.gen gen
      match k.nest, k.bind with
      | some v, some b =>
        let held := b.kind == 2 && (g.genWindow t gen b).any fun w => !w.units.isEmpty
        if !s.live l || decide (v.next < nestLen k.desc) || held then .next s
        else
          let s1 := s.putRegion p.r (g.putTile (t.putGen gen { k with nest := none, control := k.control + 1 }))
          let z := genSender p.r.m t gen v.req
          let q := v.req.reply p.r.m
          let q1 : Reply := { q with f := { q.f with dst0 := { q.f.dst0 with v := false } } }
          .next ((match v.fail with
            | none => answerAll s1 p.r z q1 0
            | some c => answerRecord s1 p.r z q1 c 0).serveAllGens p.r)
      | _, _ => .next s
  | _, _ => .next s

/-! ## Fills and write-backs (R217, R219, R253, R269) -/

/-- Hold a freeze cause of a launch. -/
def State.holdCause (s : State) (h : Word32) (c : FreezeCause) : State :=
  match s.launch? h with
  | none => s
  | some l => s.putLaunch (l.hold c)

/-- Does a page walk meet a held line, for which it waits with a timeout (R222, R269)? -/
def State.walkHeld (s : State) (reads : List Nat) : Bool := reads.any s.lineHeld

/-- Must a page walk stay back: an entry that it reads lies in a line that the compaction engine holds (R326)? -/
def State.walkBehind (s : State) (reads : List Nat) : Bool := reads.any fun pa => s.engineHolds (lineOf pa)

/-- What a stream access comes to: it stays where it is, fails with a cause, or reaches its line. -/
inductive Reach where
  | stay (s : State)
  | cause (s : State) (c : Cause)
  | go (s : State) (pa : Nat)

/-- A window's next access as an access at its home slice. -/
def Window.access (w : Window) (tile : Nat) (q : Request) (va pa span : Nat) : Access :=
  ⟨w.id, { q with op := if w.write then .st else .ld }, tile, match w.wait with
    | some k => if k.why == .line then .held k.since else .slice
    | none => .slice, 0, span, va, [pa], [], 0, false⟩

/-- Note that a window's next access waits. -/
def State.windowWait (s : State) (r : Rid) (tile : Nat) (w : Window) (pa : Nat) (why : WaitKind) : State :=
  if (w.wait.map WinWait.why) = some why then s else s.mapRegion r fun g => g.putWindow tile { w with wait := some ⟨s.cycle, pa, why⟩ }

/-- A window's next access faults: it is held in its tile, and its launch freezes (R235, R379). -/
def State.windowFault (s : State) (r : Rid) (g : Region) (tile : Nat) (w : Window) (b q : Request) (c : Cause) : State :=
  (s.windowWait r tile w 0 .frozen).holdCause r.h (portCause s g r { b with tag := q.tag } c)

/-- The translation that a memory-port tile keeps for a stream, at an address (R217, R224). -/
def Window.page? (w : Window) (psz va : Nat) : Option XEntry := w.pages.find? fun e => e.psz == psz && e.vpn == vpnAt psz va

/-- The address of a nest's access i as a virtual one, where it has one. -/
def Region.nestVa (g : Region) (q : Request) (k : Gen) (i : Nat) : Option Nat :=
  let a := nestAddr k.desc k.base.toNat i
  if a % 32 ≠ 0 then none
  else match g.vaOf (tagCol q.tag) a 32 with
    | .ok va => some va
    | .error _ => none

/-- The generator asks for the page of the address 64 accesses ahead of access n, where it is another than the page `e` of access n
(R217). A request that fails leaves the fault to the access itself. -/
def State.askAhead (s : State) (g : Region) (w : Window) (b q : Request) (k : Gen) (n : Nat) (e : XEntry) : State × Window :=
  match if n + 64 < nestLen k.desc then g.nestVa q k (n + 64) else none with
  | none => (s, { w with pages := [e] })
  | some va =>
    if vpnAt b.psz va = e.vpn then (s, { w with pages := [e] })
    else
      match w.page? b.psz va with
      | some f => (s, { w with pages := [e, f] })
      | none =>
        let x := s.translate g.die (g.tagWorld q.tag) b.psz va (!w.write) w.write
        match x.entry with
        | some f => if s.walkHeld x.reads || s.walkBehind x.reads then (s, { w with pages := [e] }) else (x.s, { w with pages := [e, f] })
        | none => (s, { w with pages := [e] })

/-- The translation of access n of a stream: kept by the tile, or made at the translation tile (R217, R224). -/
def State.streamPage (s : State) (g : Region) (w : Window) (b q : Request) (va : Nat) : Translated :=
  match w.page? b.psz va with
  | some e => ⟨s, [], some e, e.give va (!w.write) w.write⟩
  | none => s.translate g.die (g.tagWorld q.tag) b.psz va (!w.write) w.write

/-- A window's access n on the path of R221, from its virtual address (R217, R228, R235, R269). -/
def State.windowReach (s : State) (r : Rid) (g : Region) (tile : Nat) (w : Window) (b q : Request) (k : Gen) (n va span : Nat) : Reach :=
  let frozen := w.wait.any fun d => d.why == .frozen
  if frozen || s.foreign r g.die tile (g.tagWorld q.tag) va w.x w.y w.gen then .stay s
  else
    let x := s.streamPage g w b q va
    if s.walkBehind x.reads then .stay s
    else if s.walkHeld x.reads then .stay (s.windowWait r tile w (x.reads.headD 0) .walk)
    else
      match x.out, x.entry with
      | .error c, _ => if tokenLevel c then .cause x.s c else .stay (x.s.windowFault r g tile w b q c)
      | .ok pa, some e =>
        let y := x.s.askAhead g w b q k n e
        let s1 := y.1.mapRegion r fun g => g.putWindow tile y.2
        if onPage pa then .go s1 pa
        else
          match s1.gate r g (w.access tile q va pa span) with
          | .go s2 => .go s2 pa
          | .wait => .stay (s1.windowWait r tile y.2 pa .line)
          | .behind => .stay s1
          | .fail c => .cause s1 c
      | .ok _, none => .stay s

/-- The running nest of a window's generator: its binding, AGGO and descriptor. -/
def Region.windowNest (g : Region) (w : Window) : Option (Request × Request × Gen) :=
  (g.tile? w.x w.y).bind fun t =>
    let k := t.gen w.gen
    match k.bind, k.nest with
    | some b, some v => some (b, v.req, k)
    | _, _ => none

/-- The next 32 bytes, or their cause, enter a read window. -/
def State.fillUnit (s : State) (r : Rid) (tile num n va : Nat) (v : Except Cause (List Byte)) : State :=
  let u : WUnit := match v with
    | .ok bs => ⟨0, n, va, ofBytes 256 bs, none, 0⟩
    | .error c => ⟨0, n, va, 0, some c, 0⟩
  s.mapRegion r fun g => match (g.mport tile).window? num with
    | some w => g.putWindow tile { w with head := w.head + 32, units := w.units ++ [u], wait := none }
    | none => g

/-- WINDOW_FILL: a read window fills the next 32 bytes of its stream from their home slice (R219). -/
def execWindowFill (r : Rid) (tile win : Nat) (s : State) : Host.Outcome State Fault Refusal :=
  match s.launch? r.h, s.region? r with
  | some l, some g =>
    match (g.mport tile).window? win with
    | none => .next s
    | some w =>
      match g.windowNest w with
      | none => .next s
      | some (b, q, k) =>
        let n := w.head / 32
        if !s.live l || l.draining || w.write || decide (nestLen k.desc ≤ n) || decide (w.tail + 65536 ≤ w.head) then .next s
        else
          let a := nestAddr k.desc k.base.toNat n
          if a % 32 ≠ 0 then .next (s.fillUnit r tile win n a (.error (mkCause 5 8)))
          else
            match g.vaOf (tagCol q.tag) a 32 with
            | .error c => .next (s.fillUnit r tile win n a (.error c))
            | .ok va =>
              .next (match s.windowReach r g tile w b q k n va 0 with
                | .stay s1 => s1
                | .cause s1 c => s1.fillUnit r tile win n va (.error c)
                | .go s1 pa =>
                  let x := s1.loadAt (fabricAccessor l g q.tag) pa 32
                  x.1.fillUnit r tile win n va x.2)
  | _, _ => .next s

/-- The oldest 32 bytes of a write window leave it; a cause becomes the nest's. -/
def State.dropUnit (s : State) (r : Rid) (tile num : Nat) (c : Option Cause) : State :=
  s.mapRegion r fun g =>
    match (g.mport tile).window? num with
    | none => g
    | some w =>
      let g1 := g.putWindow tile { w with tail := w.tail + 32, units := w.units.tail, wait := none }
      match g1.tile? w.x w.y with
      | none => g1
      | some t =>
        let k := t.gen w.gen
        g1.putTile (t.putGen w.gen { k with nest := k.nest.map fun v => { v with fail := if v.fail.isSome then v.fail else c } })

/-- WINDOW_WRITEBACK: the oldest bytes of a write window are written back and performed at their home slice (R219). -/
def execWindowWriteback (r : Rid) (tile win : Nat) (s : State) : Host.Outcome State Fault Refusal :=
  match s.launch? r.h, s.region? r with
  | some l, some g =>
    match (g.mport tile).window? win with
    | none => .next s
    | some w =>
      match g.windowNest w, w.units with
      | some (b, q, k), u :: _ =>
        if !s.live l || !w.write then .next s
        else
          .next (match s.windowReach r g tile w b q k u.n u.va u.span with
            | .stay s1 => s1
            | .cause s1 c => s1.dropUnit r tile win (some c)
            | .go s1 pa =>
              match s1.storeAt (fabricAccessor l g q.tag) pa (toBytes u.pay 32) with
              | some s2 => s2.dropUnit r tile win none
              | none => s)
      | _, _ => .next s
  | _, _ => .next s

end Sys2Proof.Machine
end

