-- ==== Sys2Proof/Machine/Copy.lean ====
section
/-! DEFINITION. Copy channels (R218, R254, R255, R329 to R331, R352, R437): the acceptance of COPY and NASK, the pieces of a
transfer and its end, CPWAIT and CPPTR. -/

namespace Sys2Proof.Machine

/-! ## Fields (R254, R356, R357) -/

/-- CH of COPY, NASK, CPWAIT and CPPTR. -/
def Request.ch (q : Request) : Nat := (bitsAt q.f.xmod 2 1).toNat
/-- OUT of a COPY. -/
def Request.out (q : Request) : Bool := q.op == .copy && bitAt q.f.xmod 3
/-- PART of COPY and NASK. -/
def Request.copyPart (q : Request) : Nat := (bitsAt q.f.xmod 4 3).toNat
/-- BUF of COPY and NASK. -/
def Request.buf (q : Request) : Nat := (bitsAt q.f.xmod 7 2).toNat
/-- EXT of a COPY. -/
def Request.ext (q : Request) : Bool := q.op == .copy && bitAt q.f.xmod 9
/-- n of a COPY or NASK: the bytes to move, or the room. -/
def Request.amount (q : Request) : Nat := (bitsAt q.a 64 32).toNat
/-- The local byte offset of a COPY or NASK. -/
def Request.local (q : Request) : Nat := (bitsAt q.a 96 32).toNat

/-- A copy channel of a tile. -/
def Tile.chan (t : Tile) (n : Nat) : Chan := t.chans.getD n ⟨0xFFFFFFFF, 0, none, [], []⟩
/-- Replace a copy channel. -/
def Tile.putChan (t : Tile) (n : Nat) (k : Chan) : Tile := { t with chans := t.chans.set n k }

/-- The bytes of a partition's buffers: all of a table, a share of an operand store (R211, R254). -/
def bufSize (w : Word64) : Nat := if modeOf w = 1 then modeSize w / (modePar w + 1) else modeSize w
/-- The first byte of a transfer's place in its tile (R211, R254). -/
def Request.place (q : Request) (w : Word64) : Nat := modeBase w + q.buf * bufSize w + q.local

/-! ## Acceptance (R254, R330, R357, R400, R437) -/

/-- Does a NASK operand keep its limits: the bits that it does not read are zero (R357)? -/
def naskCause (q : Request) : Option Cause := if q.op == .nask && bitsAt q.a 144 112 != 0 then some (mkCause 9 0xB) else none

/-- The check of a COPY or NASK's place in its tile (R254, R357, R400). -/
def placeCause (g : Region) (w : Word64) (q : Request) : Option Cause :=
  let n := q.amount
  let fit := (modeOf w == 1 && decide (q.buf ≤ modePar w)) || (modeOf w == 4 && q.buf == 0)
  if !fit then some (mkCause 5 0xD)
  else if n % 32 ≠ 0 ∨ q.local % 32 ≠ 0 ∨ n = 0 ∨ (q.op = .copy ∧ q.offset % 32 ≠ 0) then some (mkCause 5 8)
  else if bufSize w < q.local + n then some (mkCause 5 7)
  else if !g.inQuarter q.tag (q.place w) n then some (mkCause 10 2)
  else none

/-- The check of a COPY's external window (R254, R330, R437). (DEDUCED, log 13.) -/
def State.extCause (s : State) (w : BitVec 8) (q : Request) : Option Cause :=
  let size := (bitsAt (s.reg (0x3000 + 16 * w.toNat)) 0 40).toNat * 512
  if !q.ext then none
  else if !Config.hostAttached || !bitAt (s.reg (0x9000 + 8 * w.toNat)) 0 then some (mkCause 5 0xE)
  else if q.offset % 512 ≠ 0 ∨ q.amount % 512 ≠ 0 ∨ size < q.offset + q.amount ∨ !bitAt (s.reg (0x3008 + 16 * w.toNat)) 0 then
    some (mkCause 8 0xA)
  else none

/-- The first failing check of a COPY or NASK. -/
def State.xferCause (s : State) (g : Region) (t : Tile) (q : Request) : Option Cause :=
  let e := match placeCause g (t.part q.copyPart) q with
    | some c => some c
    | none => s.extCause (g.tagWorld q.tag) q
  match naskCause q with
  | some c => some c
  | none => e

/-- The number of the last transfer that a channel accepted. -/
def Chan.lastNum (c : Chan) : Word32 := ((c.queue.getLast?).map Xfer.num).getD c.num

/-- The entry router of an access (R341). (DEDUCED, log 28.) -/
def Region.entryRouter (g : Region) (q : Request) : Nat := 64 * g.die + g.portTile q.port

/-- A NASK's interest leaves its memory-port tile (R352, R364). -/
def State.sendInterest (s : State) (r : Rid) (g : Region) (t : Tile) (q : Request) (num : Word32) : State :=
  let exp : Word32 := BitVec.ofNat 32 (s.cycle + 1024 * (bitsAt q.a 128 16).toNat)
  s.gsend (GMsg.mk 0 (g.entryRouter q) (g.tagWorld q.tag) (bitsAt q.a 0 64) (.asker r t.x t.y q.ch num) 0 none
    (.interest exp q.amount (bitsAt q.a 128 16 == 0) []))

/-- A copy channel is given a COPY or NASK: it fails, waits for room, or is accepted with its number, start token and, for a
NASK, its interest (R254, R352). -/
def State.acceptXfer (s : State) (r : Rid) (g : Region) (a : Access) : State :=
  let q := a.req
  match g.dirTile q q.dir0 with
  | none => s.perform r a (.record (mkCause 5 0xD))
  | some t =>
    match s.xferCause g t q with
    | some c => s.perform r a (.record c)
    | none =>
      let c := t.chan q.ch
      if 5 ≤ c.cur.toList.length + c.queue.length then s
      else
        let num := c.lastNum + 1
        let x : Xfer := ⟨{ a with stage := .slice, tnum := num }, num, none⟩
        let g1 := (g.dropAcc a.id).putTile (t.putChan q.ch { c with queue := c.queue ++ [x] })
        let s1 := s.putRegion r (if q.op = .nask then g1.chainDone a else g1)
        let z := portSender g r.m q.port 1
        let s2 := if q.f.dst1.v then sendFrom s1 r z.src z.prod q.x q.y (replyEmit g (q.reply r.m) q.f.dst1 (lane0 num.toNat)) else s1
        if q.op = .nask then s2.sendInterest r g t q num else s2

/-- COPY: moves bytes between global memory and a tile (R254). -/
def execCopy (f : Fields) (s : State) : Host.Outcome State Fault Refusal := fireGlobal .copy f s

/-! ## The course of a transfer -/

/-- Change the channel of a tile of a region. -/
def State.setChan (s : State) (r : Rid) (t : Tile) (ch : Nat) (f : Chan → Chan) : State :=
  s.mapRegion r fun g => match g.tile? t.x t.y with
    | some t1 => g.putTile (t1.putChan ch (f (t1.chan ch)))
    | none => g

/-- COPY_TRANSFER_START: the oldest queued transfer becomes the channel's current one, with WPTR 0 (R218, R254). -/
def execCopyTransferStart (p : Site) (ch : Nat) (s : State) : Host.Outcome State Fault Refusal :=
  match s.launch? p.r.h, s.region? p.r with
  | some l, some g =>
    match g.tile? p.x p.y with
    | none => .next s
    | some t =>
      let c := t.chan ch
      match c.cur, c.queue with
      | none, x :: rest =>
        if s.live l then .next (s.setChan p.r t ch fun c => { c with num := x.num, wptr := 0, cur := some x, queue := rest }) else .next s
      | _, _ => .next s
  | _, _ => .next s

/-- The result of a transfer goes to DST0, and a COPY is performed (R254, R352, R360); a purge has taken a mute one's. -/
def State.endXfer (s : State) (r : Rid) (t : Tile) (ch : Nat) (x : Xfer) (v : Except Cause Payload) : State :=
  let q := x.acc.req
  let s1 := (s.setChan r t ch fun c => { c with cur := none }).mapRegion r fun g => if q.op = .copy then g.chainDone x.acc else g
  let k := q.reply r.m
  let k1 : Reply := { k with f := { k.f with dst1 := { k.f.dst1 with v := false } } }
  match s1.region? r with
  | none => s1
  | some g =>
    if x.acc.mute then s1
    else
      match v with
      | .ok p => answerAll s1 r (portSender g r.m q.port 1) k1 p
      | .error c => answerRecord s1 r (portSender g r.m q.port 1) k1 c 0

/-- COPY_DONE: a COPY whose WPTR is n, or that has failed, sends its done token or record (R254). -/
def execCopyDone (p : Site) (ch : Nat) (s : State) : Host.Outcome State Fault Refusal :=
  match s.launch? p.r.h, s.region? p.r with
  | some l, some g =>
    match g.tile? p.x p.y with
    | none => .next s
    | some t =>
      match (t.chan ch).cur with
      | none => .next s
      | some x =>
        if !s.live l || x.acc.req.op != .copy then .next s
        else
          match x.answer with
          | some (.cause c) => .next (s.endXfer p.r t ch x (.error c))
          | _ => if (t.chan ch).wptr = x.acc.req.amount then .next (s.endXfer p.r t ch x (.ok 0)) else .next s
  | _, _ => .next s

/-- ANSWER_DELIVERY: the answer of the current NASK goes on: 32 bytes land in the tile, the last of them with the done token,
or a negative answer ends the transfer (R352, R360). -/
def execAnswerDelivery (p : Site) (ch : Nat) (s : State) : Host.Outcome State Fault Refusal :=
  match s.launch? p.r.h, s.region? p.r with
  | some l, some g =>
    match g.tile? p.x p.y with
    | none => .next s
    | some t =>
      let c := t.chan ch
      match c.cur with
      | none => .next s
      | some x =>
        if !s.live l || x.acc.req.op != .nask then .next s
        else
          match x.answer with
          | none => .next s
          | some (.cause e) => .next (s.endXfer p.r t ch x (.error e))
          | some (.bytes bs) =>
            let at' := x.acc.req.place (t.part x.acc.req.copyPart) + c.wptr
            let t1 := ((t.write at' ((bs.drop c.wptr).take 32)).servedAll ch s.cycle at' 32).putChan ch { c with wptr := c.wptr + 32 }
            let s1 := s.putRegion p.r (g.putTile t1)
            if !(s.tileView l g).banksFree t ch s.cycle at' 32 then .next s
            else if bs.length ≤ c.wptr + 32 then .next (s1.endXfer p.r t1 ch x (.ok (lane0 bs.length))) else .next s1
  | _, _ => .next s

/-! ## Pieces (R218, R254, R275, R330, R331) -/

/-- Replace the access of a channel's current transfer. -/
def State.setCur (s : State) (r : Rid) (t : Tile) (ch : Nat) (a : Access) : State :=
  s.setChan r t ch fun c => { c with cur := c.cur.map fun x => { x with acc := a } }

/-- A piece waits at a held line, with its page walk or at its home slice. -/
def State.pieceWait (s : State) (r : Rid) (t : Tile) (ch : Nat) (a : Access) (pa : Nat) (walk : Bool) : State :=
  match a.stage, walk with
  | .walk _, true => s
  | .held _, false => s
  | _, _ => s.setCur r t ch { a with stage := if walk then .walk s.cycle else .held s.cycle, pas := [pa] }

/-- A piece meets the line of an address. -/
def State.pieceLine (s : State) (r : Rid) (g : Region) (t : Tile) (ch : Nat) (a : Access) (va pa : Nat) : Reach :=
  if onPage pa then .go s pa
  else
    match s.gate r g { a with va := va, pas := [pa] } with
    | .go s1 => .go s1 pa
    | .wait => .stay (s.pieceWait r t ch a pa false)
    | .behind => .stay s
    | .fail c => .cause s c

/-- A piece on the path of R221, from its offset (R221, R228, R235, R269); one that has faulted is held in its tile until its region
goes on. (DEDUCED, log 23.) -/
def State.pieceReach (s : State) (r : Rid) (g : Region) (t : Tile) (ch : Nat) (a : Access) (o : Nat) : Reach :=
  if a.stage = .frozen then .stay s
  else
    match g.vaOf (tagCol a.req.tag) o 32 with
    | .error c => .cause s c
    | .ok va =>
      let x := s.translate g.die (g.tagWorld a.req.tag) 0 va (!a.req.out) a.req.out
      if s.walkBehind x.reads then .stay s
      else if s.walkHeld x.reads then .stay (s.pieceWait r t ch a (x.reads.headD 0) true)
      else
        match x.out with
        | .error c =>
          if tokenLevel c then .cause x.s c
          else .stay ((x.s.setCur r t ch { a with stage := .frozen, pas := [] }).holdCause r.h (portCause s g r a.req c))
        | .ok pa => x.s.pieceLine r g t ch a va pa

/-- A piece of n bytes at a place of the tile has moved: its banks have served the channel, and WPTR rises (R209, R218). -/
def State.pieceDone (s : State) (r : Rid) (t : Tile) (ch at' n : Nat) (bytes : Option (List Byte)) : State :=
  s.mapRegion r fun g => match g.tile? t.x t.y with
    | none => g
    | some t0 =>
      let t1 := (match bytes with
        | some bs => t0.write at' bs
        | none => t0).servedAll ch s.cycle at' n
      let c := t1.chan ch
      g.putTile (t1.putChan ch { c with wptr := c.wptr + n, cur := c.cur.map fun x => { x with acc := { x.acc with stage := .slice, pas := [] } } })

/-- A transfer fails: it stops, and its record waits for the end (R254, R269, R331). -/
def State.pieceFail (s : State) (r : Rid) (t : Tile) (ch : Nat) (c : Cause) : State :=
  s.setChan r t ch fun k => { k with cur := k.cur.map fun x => { x with answer := some (.cause c), acc := { x.acc with stage := .slice, pas := [] } } }

/-- A 32-byte piece between memory and a tile. -/
def State.plainPiece (s : State) (r : Rid) (l : Launch) (g : Region) (t : Tile) (ch : Nat) (x : Xfer) : State :=
  let q := x.acc.req
  let k := (t.chan ch).wptr
  let at' := q.place (t.part q.copyPart) + k
  match s.pieceReach r g t ch x.acc ((q.offset + k) % 2 ^ 64) with
  | .stay s1 => s1
  | .cause s1 c => s1.pieceFail r t ch c
  | .go s1 pa =>
    let who := fabricAccessor l g q.tag
    if q.out then
      match s1.storeAt who pa (t.read at' 32) with
      | some s2 => s2.pieceDone r t ch at' 32 none
      | none => s
    else
      let v := s1.loadAt who pa 32
      match v.2 with
      | .ok bs => v.1.pieceDone r t ch at' 32 (some bs)
      | .error c => v.1.pieceFail r t ch c

/-- The counter block of an external sector (R330). -/
def sectorBlock (w : BitVec 8) (version : Word32) (e b : Nat) : BitVec 128 :=
  w ++ version ++ BitVec.ofNat 40 e ++ (0 : BitVec 43) ++ BitVec.ofNat 5 b

/-- The page key of a world (R329, R406). -/
def State.pageKey (s : State) (w : BitVec 8) : BitVec 256 := (s.keysOf w).page

/-- A sector encrypted, or decrypted, under the page key (R330). -/
def sectorCrypt (key : BitVec 256) (w : BitVec 8) (version : Word32) (e : Nat) (bs : List Byte) : List Byte :=
  xorStream (fun b => Config.aes256 key (sectorBlock w version e b)) bs

/-- The tag of a sector's ciphertext (R330). -/
def sectorTag (key : BitVec 256) (w : BitVec 8) (version : Word32) (e : Nat) (cipher : List Byte) : BitVec 64 :=
  Config.gmac64 key ([w] ++ toBytes (BitVec.ofNat 40 e) 5 ++ toBytes version 4 ++ cipher)

/-- The 512 bytes of an external sector as the device reads them (R437). -/
def State.hostSector (s : State) (w : BitVec 8) (e : Nat) : List Byte :=
  let base := (bitsAt (s.reg (0x9000 + 8 * w.toNat)) 12 52).toNat * 4096
  (List.range 512).map fun i => Config.hostByte s.moves (base + 512 * e + i)

/-- A 512-byte sector of an external transfer, with its tag-table entry at an address (R330, R331). -/
def State.sectorMove (s : State) (r : Rid) (l : Launch) (g : Region) (t : Tile) (ch : Nat) (x : Xfer) (pa : Nat) : State :=
  let q := x.acc.req
  let w := g.tagWorld q.tag
  let k := (t.chan ch).wptr
  let at' := q.place (t.part q.copyPart) + k
  let e := (q.offset + k) / 512
  let who := fabricAccessor l g q.tag
  let entry := s.loadAt who pa 16
  match entry.2 with
  | .error c => entry.1.pieceFail r t ch c
  | .ok bs =>
    let version : Word32 := ofBytes 32 (bs.drop 8)
    let key := s.pageKey w
    if q.out then
      let cipher := sectorCrypt key w (version + 1) e (t.read at' 512)
      match entry.1.storeAt who pa (toBytes (sectorTag key w (version + 1) e cipher) 8 ++ toBytes (version + 1) 4 ++ [0, 0, 0, 0]) with
      | some s2 => s2.pieceDone r t ch at' 512 none
      | none => s
    else
      let cipher := s.hostSector w e
      if sectorTag key w version e cipher = ofBytes 64 bs then
        entry.1.pieceDone r t ch at' 512 (some (sectorCrypt key w version e cipher))
      else
        (entry.1.pieceFail r t ch (mkCause 8 0xB)).deliver
          (siteFault s l g w (mkCause 8 0xB) 0 (portAx (g.portWord q.port)) (portAy (g.portWord q.port)) 31 0 q.tag 0)

/-- The virtual address of an access that has none: it lies in no held range. -/
def noVa : Nat := 2 ^ 64

/-- COPY_PIECE: the channel's COPY moves its next piece (R218, R254, R275). A tag table at an unmapped address faults. -/
def execCopyPiece (p : Site) (ch : Nat) (s : State) : Host.Outcome State Fault Refusal :=
  match s.launch? p.r.h, s.region? p.r with
  | some l, some g =>
    match g.tile? p.x p.y with
    | none => .next s
    | some t =>
      match (t.chan ch).cur with
      | none => .next s
      | some x =>
        let q := x.acc.req
        let k := (t.chan ch).wptr
        let busy := !(s.tileView l g).banksFree t ch s.cycle (q.place (t.part q.copyPart) + k) (if q.ext then 512 else 32)
        if !s.live l || l.draining || q.op != .copy || x.answer.isSome || decide (q.amount ≤ k) || busy then .next s
        else if !q.ext then .next (s.plainPiece p.r l g t ch x)
        else
          let pa := (bitsAt (s.reg (0x3008 + 16 * (g.tagWorld q.tag).toNat)) 4 48).toNat * 16 + 16 * ((q.offset + k) / 512)
          if !mapped pa then .fault (.unmapped pa)
          else
            .next (match s.pieceLine p.r g t ch x.acc noVa pa with
              | .stay s1 => s1
              | .cause s1 c => s1.pieceFail p.r t ch c
              | .go s1 pa => s1.sectorMove p.r l g t ch x pa)
  | _, _ => .next s

/-! ## CPWAIT and CPPTR (R255) -/

/-- Does a channel meet a CPWAIT's operand: its transfer is later than t, or it is t with WPTR at b or above (R255)? -/
def Chan.meets (c : Chan) (v : Payload) : Bool :=
  let t : Word32 := bitsAt v 32 32
  let d := (c.num - t).toNat
  (d != 0 && decide (d ≤ 2 ^ 31)) || (d == 0 && decide (low32 v ≤ c.wptr))

/-- CPWAIT: passes its operand once a transfer has come far enough (R255). -/
def execCpwait (f : Fields) (s : State) : Host.Outcome State Fault Refusal :=
  fire f s fun c =>
    let q := c.request .cpwait
    match c.g.dirTile q q.dir0 with
    | none => c.raise (mkCause 5 0xD)
    | some t =>
      let k := t.chan q.ch
      if k.meets q.a then c.all q.a
      else
        c.only (c.s.putRegion c.p.r ((c.g.putTile (t.putChan q.ch { k with waits := k.waits ++ [q] })).count (.site c.p.x c.p.y) c.tag 1 true))

/-- CPPTR: reads WPTR and the current transfer number (R255). -/
def execCpptr (f : Fields) (s : State) : Host.Outcome State Fault Refusal :=
  fire f s fun c =>
    let q := c.request .cpptr
    match c.g.dirTile q q.dir0 with
    | none => c.raise (mkCause 5 0xD)
    | some t => c.all (packLanes 32 [(t.chan q.ch).wptr, (t.chan q.ch).num.toNat])

/-- CPWAIT_RELEASE: a waiting CPWAIT's operand is met, and it goes on (R255). -/
def execCpwaitRelease (p : Site) (ch : Nat) (s : State) : Host.Outcome State Fault Refusal :=
  match s.launch? p.r.h, s.region? p.r with
  | some l, some g =>
    match g.tile? p.x p.y with
    | none => .next s
    | some t =>
      let c := t.chan ch
      match takeFirst (fun q => c.meets q.a) c.waits with
      | none => .next s
      | some (q, rest) =>
        if !s.live l then .next s
        else .next (answerAll (s.setChan p.r t ch fun c => { c with waits := rest }) p.r (elementSender p.r.m q) (q.reply p.r.m) q.a)
  | _, _ => .next s

end Sys2Proof.Machine
end

