-- ==== Sys2Proof/Machine/Kv.lean ====
section
/-! DEFINITION. Attention pages (R306 to R328): KVPACK, MASSACC, the compaction engine's commands and its eviction. -/

namespace Sys2Proof.Machine

/-! ## KVPACK (R308, R319) -/

/-- The BF16 codes of a head vector from its eight members. -/
def kvCodes (ms : List Token) : List Nat := ms.flatMap fun t => (List.range 16).map fun i => laneU 16 t.pay i

/-- The largest magnitude code of a vector. -/
def kvMax (cs : List Nat) : Nat := cs.foldl (fun a c => if a < c % 32768 then c % 32768 else a) 0

/-- A value rounded to the nearest integer, ties to even, and clamped to −7 to 7. -/
def kvRound (v : XVal) : Int :=
  match v with
  | .num n d =>
    let lo := n.natAbs / d
    let r := if roundsAway 0 (decide (n < 0)) lo (n.natAbs % d) d 0 then lo + 1 else lo
    let m : Int := if 7 < r then 7 else (r : Int)
    if n < 0 then -m else m
  | _ => 0

/-- The scale code and the component codes of a head vector (R319). -/
def kvQuant (cs : List Nat) : Nat × List Int :=
  let m := kvMax cs
  if 0x7F80 ≤ m then (0x7FC0, cs.map fun _ => 0)
  else
    let scale := froundX .bf16 3 false false 0 ((fdecode .bf16 m).div (.num 7 1))
    (scale, cs.map fun c => if m = 0 then 0 else kvRound ((fdecode .bf16 c).div (fdecode .bf16 scale)))

/-- KVPACK's three tokens from their three payloads (R319): codes 0 to 63, codes 64 to 127, the scale. -/
def Ctx.kvTokens (c : Ctx) (mk : Dst → Word64 → Bool → Payload → Emit) (h0 h1 sc : Payload) : List Emit :=
  let k := (bitsAt c.f.xmod 0 4).toNat
  toDst c.f.dst0 (mk c.f.dst0 (setField c.g.tagw k 0 c.tag) false h0) ++
    toDst c.f.dst0 (mk c.f.dst0 (setField c.g.tagw k 1 c.tag) true h1) ++
    toDst c.f.dst1 (mk c.f.dst1 (setField c.g.tagw k 0 c.tag) true sc)

/-- KVPACK's effect on the members of one head vector. -/
def kvpackEffect (c : Ctx) : Effect :=
  let ms := c.set.members
  match c.set.record? with
  | some t => c.sends ((dests c.f).map (c.forward t))
  | none =>
    if c.set.control then c.raiseControl
    else if c.set.bubbly then
      c.sends (if c.f.bub then c.kvTokens (fun d t l p => ⟨d, t, false, 0, l, 0, p⟩) 0 0 0 else [])
    else
      let q := kvQuant (kvCodes ms)
      let half (n : Nat) : Payload := packLanes 4 ((List.range 64).map fun i => wrapTo 4 (q.2.getD (n + i) 0))
      c.sends (c.kvTokens (fun d t l p => ⟨d, t, true, 0, l, 0, p⟩) (half 0) (half 64) (lane0 q.1))

/-- KVPACK: quantises one head vector (R319). -/
def execKvpack (f : Fields) (s : State) : Host.Outcome State Fault Refusal := fireRaw f s kvpackEffect

/-! ## MASSACC (R309, R321) -/

/-- MASSACC: adds attention mass to sixteen slots (R321). -/
def execMassacc (f : Fields) (s : State) : Host.Outcome State Fault Refusal := fireGlobal .massacc f s

/-- The largest mass (R309). -/
def massMax : Nat := 2 ^ 28 - 1

/-- What adding a probability does to a metadata word: the word, NEG, DEAD, SATF (R321). -/
def massStep (p w : Nat) : Nat × Bool × Bool × Bool :=
  let x := fdecode .f32 p
  let mass := w / 16 % 2 ^ 28
  let add (v : Nat) : Nat × Bool × Bool × Bool :=
    let m := if massMax < mass + v then massMax else mass + v
    (w - 16 * mass + 16 * m, false, false, decide (massMax < mass + v))
  if w / 2 % 2 = 0 then (w, false, true, false)
  else
    match x with
    | .nan => (w, true, false, false)
    | .inf b => if b then (w, true, false, false) else add massMax
    | .zero _ => add 0
    | .num n d =>
      if n < 0 then (w, true, false, false)
      else
        let k := n.natAbs * 2 ^ 20
        let lo := k / d
        add (if roundsAway 0 false lo (k % d) d 0 then lo + 1 else lo)

/-- MASSACC at its line: the state after and the flags (R321). (DESIGN CHOICE, log 25.) -/
def State.massacc (s : State) (q : Request) (pa : Nat) : State × Ans :=
  if onPage pa then (s, .record (mkCause 5 0xD))
  else
    match s.poison? pa 128 with
    | some c => (s.peek pa 128, .record c)
    | none =>
      let rs := (List.range 16).map fun i =>
        massStep (laneU 32 (if i < 8 then q.a else q.b) (i % 8)) (readNat s.mem (pa + 8 * i) 8)
      let flag (g : Nat × Bool × Bool × Bool → Bool) : Nat := (rs.zipIdx.foldl (fun a r => if g r.1 then a + 2 ^ r.2 else a) 0)
      let sat := if rs.any fun r => r.2.2.2 then 2 ^ 32 else 0
      (s.poke pa (rs.flatMap fun r => leBytes 8 r.1), .all (lane0 (flag (fun r => r.2.1) + 2 ^ 16 * flag (fun r => r.2.2.1) + sat)))

/-! ## The engine's memory (R306, R307, R312, R313) -/

/-- The physical pages of a virtual range of the engine, with the permissions it needs; none where it does not translate. -/
def State.kvPages (s : State) (w : BitVec 8) (r wr : Bool) : Nat → Nat → Option (List Nat)
  | 0, _ => some []
  | n + 1, va =>
    match s.physOf w va r wr with
    | .error _ => none
    | .ok pa => if inHbm pa then (State.kvPages s w r wr n (va / 65536 * 65536 + 65536)).map fun ps => pa / 65536 * 65536 :: ps else none

/-- A virtual range of the engine. -/
def State.kvRange (s : State) (w : BitVec 8) (va n : Nat) (r wr : Bool) : Option VRange :=
  if 2 ^ 57 < va + n then none else (s.kvPages w r wr ((va % 65536 + n + 65535) / 65536) va).map fun ps => ⟨va, ps⟩

/-- Do parts of what stands at an address, each an offset and a length, translate with a permission? -/
def State.kvMay (s : State) (w : BitVec 8) (va : Nat) (r wr : Bool) (parts : List (Nat × Nat)) : Bool :=
  parts.all fun p => p.2 == 0 || (s.kvRange w (va + p.1) p.2 r wr).isSome

/-- A range of the engine of which it reads and writes parts; none where one does not translate with the permission that it needs
(R318). -/
def State.kvParts (s : State) (w : BitVec 8) (va : Nat) (reads writes : List (Nat × Nat)) : Option VRange :=
  let n := (reads ++ writes).foldl (fun a p => if a < p.1 + p.2 then p.1 + p.2 else a) 0
  if s.kvMay w va true false reads && s.kvMay w va false true writes then s.kvRange w va n false false else none

/-- Write bytes at an offset of a range, 64 KiB page by page. -/
def VRange.poke (v : VRange) : Nat → State → Nat → List Byte → State
  | 0, s, _, _ => s
  | fuel + 1, s, off, bs =>
    if bs.isEmpty then s
    else
      let k := 65536 - (v.va + off) % 65536
      VRange.poke v fuel (s.poke (v.pa off) (bs.take k)) (off + k) (bs.drop k)

/-- Write bytes at an offset of a range: a table, a list or part of a page. -/
def VRange.write (v : VRange) (s : State) (off : Nat) (bs : List Byte) : State := v.poke 3 s off bs

/-- The bytes at an offset of a range. -/
def VRange.read (v : VRange) (s : State) (off n : Nat) : List Byte := (List.range n).map fun i => cellRead s.mem (v.pa (off + i))

/-- The lines of parts of a range, each once. -/
def VRange.lines (v : VRange) (parts : List (Nat × Nat)) : List Nat :=
  (parts.flatMap fun p =>
    let a := (v.va + p.1) % 128
    if p.2 = 0 then [] else (List.range ((a + p.2 + 127) / 128)).map fun i => lineOf (v.pa (if i = 0 then p.1 else p.1 + 128 * i - a))).eraseDups

/-- The engine reads lines as plain loads at their home slices (R222). -/
def State.peekLines (s : State) (ls : List Nat) : State := ls.foldl (fun s n => s.touch (128 * n) false) s

/-- The cause of the first poisoned line among those that the engine reads (R371). -/
def State.poisonIn (s : State) (ls : List Nat) : Option Cause := ls.findSome? fun n => s.poison? (128 * n) 1

/-- Does a line of n bytes at a virtual address lie in a held range (R307, R318)? -/
def State.heldRange (s : State) (w : BitVec 8) (va n : Nat) : Bool :=
  (List.range ((va % 128 + n + 127) / 128)).any fun i =>
    let a := va / 128 * 128 + 128 * i
    match s.physOf w a false false with
    | .ok pa => s.inHeld w a pa
    | .error _ => s.declared w a

/-- Bytes of a remap table (R312). -/
def tableSize : Nat := 8256
/-- LIVE of a table. -/
def VRange.live (v : VRange) (s : State) : Nat := v.readNat s.mem 8 4
/-- NPAGES of a table. -/
def VRange.npages (v : VRange) (s : State) : Nat := v.readNat s.mem 12 2 % 2048
/-- HIGH of a table, signed. -/
def VRange.high (v : VRange) (s : State) : Int := toSigned 64 (v.readNat s.mem 16 8)
/-- BASEVA of a table. -/
def VRange.baseva (v : VRange) (s : State) : Nat := v.readNat s.mem 24 8
/-- GEN of a table. -/
def VRange.gen (v : VRange) (s : State) : Nat := v.readNat s.mem 32 8
/-- Entry e of a table. -/
def VRange.entry (v : VRange) (s : State) (e : Nat) : Nat := if e < 1024 then v.readNat s.mem (64 + 8 * e) 8 else 0

/-- Write LIVE, NPAGES, HIGH and the advanced GEN of a table (R312). -/
def VRange.update (v : VRange) (s : State) (live npages : Nat) (high : Int) : State :=
  v.write s 8 (leBytes 8 (live + 2 ^ 32 * npages) ++ leBytes 8 (wrap64 high) ++ leBytes 8 (v.baseva s) ++ leBytes 8 (v.gen s + 1))

/-- The header of the table of a command, at the physical address that its directory entry names. -/
def Access.kvHead (a : Access) : VRange := ⟨a.va, [a.pas.headD 0 / 65536 * 65536]⟩

/-- The parts of a table that its views' copies need, beside others. -/
def KvSeq.reads (e : KvSeq) (parts : List (Nat × Nat)) : List (Nat × Nat) := if e.views.isEmpty then parts else [(0, tableSize)]

/-- The bytes of a page (R306). -/
def pageSize : Nat := 20480
/-- The virtual address of a page or a list of a sequence (R313, R325). -/
def kvAddr (base off : Nat) : Nat := (base + off) % 2 ^ 64

/-- The 64 bytes of a page header (R310). -/
def pageHeader (seq : Nat) (w : BitVec 8) (idx live : Nat) : List Byte :=
  leBytes 64 (seq + 2 ^ 20 * w.toNat + 2 ^ 28 * (idx % 1024) + 2 ^ 38 * (live % 256))

/-- A metadata word of a live position without mass (R309). -/
def metaWord (origpos : Nat) (sink pinned : Bool) : Nat :=
  2 ^ 32 * (origpos % 2 ^ 32) + (if sink then 8 else 0) + (if pinned then 4 else 0) + 2

/-- Positions in page e of a sequence with n live ones. -/
def pageLive (n e : Nat) : Nat := if 128 * e + 128 ≤ n then 128 else n - 128 * e

/-! ## Views (R315) -/

/-- May the engine write a view: its region is in place and neither FROZEN nor SAVED? -/
def State.viewOpen (s : State) (v : View) : Bool :=
  match s.launch? v.r.h with
  | some l => l.state == .running || l.state == .loading
  | none => false

/-- Write a table in a copy of a view and make it the active one; `copy` picks the copy from the active one's number. -/
def State.writeView (s : State) (bs : List Byte) (copy : Nat → Nat) (v : View) : State :=
  s.mapRegion v.r fun g => match g.tile? v.x v.y with
    | none => g
    | some t =>
      let base := modeBase (t.part v.part)
      let n := copy (readNat t.bytes (base + 0x4080) 8 % 2)
      g.putTile ((t.write (base + 0x2040 * n) bs).write (base + 0x4080) (leBytes 8 n))

/-- After a change to a table, its views take it in their inactive copies and flip (R315). -/
def State.refreshViews (s : State) (e : KvSeq) (v : VRange) : State :=
  (e.views.filter s.viewOpen).foldl (fun s k => s.writeView (v.read s 0 tableSize) (fun n => 1 - n) k) s

/-! ## The commands (R317 to R325) -/

/-- LIST of a command's operand (R317). -/
def Request.kvList (q : Request) : Nat := (bitsAt q.a 192 64).toNat
/-- PAGE of a command's operand. -/
def Request.kvPageOff (q : Request) : Nat := (bitsAt q.a 128 64).toNat
/-- SEQ of a command's operand. -/
def Request.kvSeq (q : Request) : Nat := (bitsAt q.a 64 20).toNat
/-- N of a KVAPP. -/
def Request.kvN (q : Request) : Nat := (bitsAt q.a 96 8).toNat

/-- The operand bits that a command reads (R317). -/
def kvMask (o : Op) : Payload :=
  let low : Payload := BitVec.ofNat 256 (2 ^ 84 - 1)
  let at' (lo n : Nat) : Payload := BitVec.ofNat 256 ((2 ^ n - 1) * 2 ^ lo)
  match o with
  | .kvevict => low ||| at' 96 64 ||| at' 192 64
  | .kvapp => low ||| at' 96 10 ||| at' 128 64
  | .kvdrop => low ||| at' 192 64
  | _ => low

/-- What a command comes to: its cause, or the lines that it reads and writes, the lines that it reads, the state after and its
payload. -/
abbrev KvResult := Except Cause (List Nat × List Nat × State × Payload)

/-- Replace the directory entry of a table. -/
def State.putSeq (s : State) (e : KvSeq) : State := { s with kvSeqs := s.kvSeqs.map fun k => if k.pa == e.pa then e else k }

/-- KVSEQ create (R322). -/
def State.kvCreate (s : State) (g : Region) (a : Access) (w : BitVec 8) (pa : Nat) : KvResult :=
  let seq := a.req.kvSeq
  let e := g.col (tagCol a.req.tag)
  if 256 ≤ countIf (fun k : KvSeq => homeSlice k.pa == homeSlice pa) s.kvSeqs then .error (mkCause 8 5)
  else if s.kvSeqs.any fun k => (k.seq == seq && k.world == w) || k.pa == pa then .error (mkCause 8 4)
  else
    match s.kvRange w a.va tableSize false true with
    | none => .error (mkCause 8 6)
    | some v =>
      let base := if colWsize e = 0 then 0 else colWbase e
      let head := leBytes 8 (seq + 2 ^ 20 * w.toNat) ++ leBytes 8 0 ++ leBytes 8 (2 ^ 64 - 1) ++ leBytes 8 base ++ List.replicate 8224 (0 : Byte)
      let s1 := v.write s 0 head
      .ok (v.lines [(0, tableSize)], [], { s1 with kvSeqs := s1.kvSeqs ++ [KvSeq.mk seq w pa v.pages []] }, 0)

/-- The view that a KVSEQ names. -/
def viewOf (r : Rid) (q : Request) : View :=
  let n := neighbour q.x q.y q.dir
  ⟨r, n.1, n.2, q.part⟩

/-- KVSEQ attach (R315, R322): a view whose region is frozen is written when a restore puts it back. -/
def State.kvAttach (s : State) (r : Rid) (g : Region) (a : Access) (e : KvSeq) : KvResult :=
  let k := viewOf r a.req
  let views := if e.views.contains k then e.views else e.views ++ [k]
  if !(g.tile? k.x k.y).any (fun t => viewFit (t.part k.part)) then .error (mkCause 8 0xC)
  else if 8 < views.length then .error (mkCause 8 8)
  else
    match s.kvParts e.world a.va [(0, tableSize)] [] with
    | none => .error (mkCause 8 6)
    | some v =>
      let s1 := s.putSeq { e with views := views }
      let ls := v.lines [(0, tableSize)]
      .ok (ls, ls, if s.viewOpen k then s1.writeView (v.read s 0 tableSize) (fun _ => 0) k else s1, 0)

/-- KVSEQ detach (R322). -/
def State.kvDetach (s : State) (r : Rid) (a : Access) (e : KvSeq) : KvResult :=
  let k := viewOf r a.req
  if e.views.contains k then .ok ([], [], s.putSeq { e with views := e.views.filter (· != k) }, 0) else .error (mkCause 8 2)

/-- What an append does (R323): the new positions, the first new slot, the table's pages and highest position as found, and the page
to add. -/
structure Append where
  q : Request
  e : KvSeq
  live : Nat
  npages : Nat
  high : Int
  deriving DecidableEq, Repr

/-- The page of the first new slot. -/
def Append.first (p : Append) : Nat := p.live / 128
/-- The page of the last new slot. -/
def Append.last (p : Append) : Nat := (p.live + p.q.kvN - 1) / 128
/-- Does an append reach the page that PAGE supplies? -/
def Append.adds (p : Append) : Bool := decide (p.npages ≤ p.last)

/-- The first failing check of an append's own (R317, R323). -/
def Append.bad (p : Append) : Option Cause :=
  if p.q.kvN = 0 ∨ 128 < p.q.kvN then some (mkCause 8 8)
  else if p.adds && (p.q.kvPageOff == 0 || p.q.kvPageOff % 32768 != 0) then some (mkCause 8 7)
  else if p.npages < p.last ∨ (p.adds ∧ 1024 < p.npages + 1) ∨ 2 ^ 32 - 1 < p.high + p.q.kvN then some (mkCause 8 8)
  else none

/-- An append's work in page n: an added page gets its metadata words, every page its header and the new positions (R310, R323). -/
def Append.page (p : Append) (n : Nat) (pv : VRange) (s : State) : State :=
  let slots := (List.range p.q.kvN).filter fun k => (p.live + k) / 128 == n
  let s1 := if p.npages ≤ n then pv.write s 0x4200 (List.replicate 1024 (0 : Byte)) else s
  let s2 := pv.write s1 0x4E00 (pageHeader p.e.seq p.e.world n (pageLive (p.live + p.q.kvN) n))
  slots.foldl (fun s k => pv.write s (0x4200 + 8 * ((p.live + k) % 128))
    (leBytes 8 (metaWord (p.high + 1 + (k : Int)).toNat (bitAt p.q.a 104) (bitAt p.q.a 105)))) s2

/-- KVAPP (R323). -/
def State.kvAppend (s : State) (a : Access) (e : KvSeq) : KvResult :=
  let h := a.kvHead
  let p : Append := ⟨a.req, e, h.live s, h.npages s, h.high s⟩
  let base := h.baseva s
  let ns := [p.first, p.last].eraseDups
  let reads := e.reads ((0, 64) :: (ns.filter fun n => decide (n < p.npages ∧ n < 1024)).map fun n => (64 + 8 * n, 8))
  let writes := (0, 64) :: if p.adds then [(64 + 8 * p.npages, 8)] else []
  let own : List (Nat × Nat) := [(0x4200, 1024), (0x4E00, 64)]
  match p.bad with
  | some c => .error c
  | none =>
    match s.kvParts e.world a.va reads writes with
    | none => .error (mkCause 8 6)
    | some v =>
      let off (n : Nat) : Nat := if p.npages ≤ n then p.q.kvPageOff else v.entry s n
      let ps := ns.map fun n => (n, s.kvParts e.world (kvAddr base (off n)) [] own)
      if ps.any fun k => k.2.isNone then .error (mkCause 8 6)
      else if ns.any fun n => s.heldRange e.world (kvAddr base (off n)) pageSize then .error (mkCause 6 2)
      else
        let ok := ps.filterMap fun k => k.2.map fun pv => (k.1, pv)
        let s1 := ok.foldl (fun s k => p.page k.1 k.2 s) s
        let s2 := if p.adds then v.write s1 (64 + 8 * p.npages) (leBytes 8 p.q.kvPageOff) else s1
        let live' := p.live + p.q.kvN
        let s3 := v.update s2 live' (if p.adds then p.npages + 1 else p.npages) (p.high + p.q.kvN)
        .ok (v.lines (reads ++ writes) ++ ok.flatMap (fun k => k.2.lines own), v.lines reads, s3.refreshViews e v,
          lane0 (p.live + 2 ^ 32 * live' + 2 ^ 64 * off p.first + 2 ^ 128 * off p.last))

/-- KVSTAT: the first half of the header (R324). -/
def State.kvStat (s : State) (a : Access) (e : KvSeq) : KvResult :=
  match s.kvParts e.world a.va [(0, 32)] [] with
  | none => .error (mkCause 8 6)
  | some v => .ok (v.lines [(0, 32)], v.lines [(0, 32)], s, ofBytes 256 (v.read s 0 32))

/-- A freed-page list of n pages as the engine writes it (R325): none where it does not translate, and a cause where it lies in a held
range (R307). -/
def State.kvFreed (s : State) (e : KvSeq) (base list n : Nat) : Except Cause VRange :=
  let va := kvAddr base list
  match s.kvParts e.world va [] [(0, 8 + 8 * n)] with
  | none => .error (mkCause 8 6)
  | some v => if s.heldRange e.world va (8 + 8 * n) then .error (mkCause 6 2) else .ok v

/-- The bytes of a freed-page list. -/
def listBytes (offs : List Nat) : List Byte := leBytes 8 offs.length ++ offs.flatMap (leBytes 8)

/-- KVDROP (R324, R325). -/
def State.kvDrop (s : State) (a : Access) (e : KvSeq) : KvResult :=
  let list := a.req.kvList
  let h := a.kvHead
  let n := h.npages s
  let reads := (0, 64) :: if list = 0 then [] else [(64, 8 * if n < 1024 then n else 1024)]
  if list % 8 ≠ 0 then .error (mkCause 8 3)
  else
    match s.kvParts e.world a.va reads [(0, 64)] with
    | none => .error (mkCause 8 6)
    | some v =>
      let offs := (List.range n).map (v.entry s)
      let ls := v.lines reads
      let finish (more : List Nat) (s1 : State) : KvResult :=
        let s2 := v.write s1 0 (List.replicate 64 (0 : Byte))
        .ok (ls ++ more, ls, { s2 with kvSeqs := s2.kvSeqs.filter fun k => k.pa != e.pa }, lane0 n)
      if list = 0 then finish [] s
      else
        match s.kvFreed e (h.baseva s) list n with
        | .error c => .error c
        | .ok lv => finish (lv.lines [(0, 8 + 8 * n)]) (lv.poke (n + 2) s 0 (listBytes offs))

/-! ## KVEVICT (R326, R327) -/

/-- The sequence as an eviction finds it: its table, its pages by entry, its list if it writes one. -/
structure Eviction where
  v : VRange
  pages : List VRange
  live : Nat
  npages : Nat
  list : Option VRange
  deriving DecidableEq, Repr

/-- A page of an eviction. -/
def Eviction.page (x : Eviction) (e : Nat) : VRange := x.pages.getD e ⟨0, []⟩
/-- The metadata word of a sequence slot. -/
def Eviction.meta (x : Eviction) (s : State) (j : Nat) : Nat := (x.page (j / 128)).readNat s.mem (0x4200 + 8 * (j % 128)) 8

/-- Does an eviction keep a position (R326)? -/
def Eviction.keeps (x : Eviction) (s : State) (q : Request) (j : Nat) : Bool :=
  let w := x.meta s j
  w / 8 % 2 == 1 || w / 4 % 2 == 1 || decide (x.v.high s < ((w / 2 ^ 32 + (bitsAt q.a 96 32).toNat : Nat) : Int)) ||
    decide ((bitsAt q.a 128 28).toNat ≤ w / 16 % 2 ^ 28)

/-- The slots that an eviction keeps, ascending. -/
def Eviction.kept (x : Eviction) (s : State) (q : Request) : List Nat := (List.range x.live).filter (x.keeps s q)

/-- The offsets in a page of what belongs to a slot: key codes, value codes, key scale, value scale, each with its length. -/
def slotParts (sl : Nat) : List (Nat × Nat) := [(64 * sl, 64), (0x2000 + 64 * sl, 64), (0x4000 + 2 * sl, 2), (0x4100 + 2 * sl, 2)]

/-- Copy a slot to another and shift its mass (R326). -/
def Eviction.move (x : Eviction) (d : Nat) (s : State) (n j : Nat) : State :=
  let src := x.page (j / 128)
  let dst := x.page (n / 128)
  let w := x.meta s j
  let mass := w / 16 % 2 ^ 28
  let s1 := if n = j then s else
    ((slotParts (j % 128)).zip (slotParts (n % 128))).foldl (fun s p => dst.write s p.2.1 (src.read s p.1.1 p.1.2)) s
  dst.write s1 (0x4200 + 8 * (n % 128)) (leBytes 8 (w - 16 * mass + 16 * (mass / 2 ^ d)))

/-- The lines of pages that an eviction reads: the metadata of every live slot, and the codes and scales of the slots that it moves; never
a reserved one or a header (R306, R310). -/
def Eviction.reads (x : Eviction) (s : State) (q : Request) : List Nat :=
  ((List.range x.live).flatMap fun j => (x.page (j / 128)).lines [(0x4200 + 8 * (j % 128), 8)]) ++
    ((x.kept s q).zipIdx.filter fun k => k.1 != k.2).flatMap fun k => (x.page (k.1 / 128)).lines (slotParts (k.1 % 128))

/-- The lines that an eviction holds: those of the sequence's pages (R326). -/
def Eviction.lines (x : Eviction) : List Nat :=
  (x.pages.take x.npages).flatMap fun p => p.lines [(0, if p.pages.length * 65536 < p.va % 65536 + pageSize then pageSize - 448 else pageSize)]

/-- Why an eviction cannot run, or what it will work on: the last checks of R318, made before anything moves. -/
def State.eviction (s : State) (a : Access) (e : KvSeq) : Except Cause Eviction :=
  let q := a.req
  let h := a.kvHead
  let base := h.baseva s
  let live := h.live s
  let np := h.npages s
  let need := if np < (live + 127) / 128 then (live + 127) / 128 else np
  let reads := e.reads [(0, 64), (64, 8 * if need < 1024 then need else 1024)]
  if q.kvList % 8 ≠ 0 then .error (mkCause 8 3)
  else
    match s.kvParts e.world a.va reads [(0, 64)] with
    | none => .error (mkCause 8 6)
    | some v =>
      let at' := (List.range need).map fun p => kvAddr base (v.entry s p)
      let ps := at'.map fun va => s.kvRange e.world va (pageSize - 448) true true
      if ps.any Option.isNone then .error (mkCause 8 6)
      else if at'.any fun va => s.heldRange e.world va pageSize then .error (mkCause 6 2)
      else
        let x : Eviction := ⟨v, ps.filterMap id, live, np, none⟩
        let p := ((x.kept s q).length + 127) / 128
        match s.poisonIn (v.lines reads ++ x.reads s q) with
        | some c => .error c
        | none =>
          if !s.kvMay e.world a.va false true [(64 + 8 * p, 8 * (np - p))] then .error (mkCause 8 6)
          else if q.kvList = 0 then .ok x
          else
            match s.kvFreed e base q.kvList (np - p) with
            | .error c => .error c
            | .ok lv => .ok { x with list := some lv }

/-- Does the engine already hold a line that an eviction will work on: it waits for another eviction (R326)? -/
def State.evictionWaits (s : State) (x : Eviction) : Bool := x.lines.any s.engineHolds

/-- The work of an eviction (R326): the state after, and its payload. -/
def Eviction.run (x : Eviction) (q : Request) (e : KvSeq) (s : State) : State × Payload :=
  let kept := x.kept s q
  let n := kept.length
  let d := (bitsAt q.a 156 4).toNat
  let p := (n + 127) / 128
  let offs := (List.range (x.npages - p)).map fun k => x.v.entry s (p + k)
  let s1 := kept.zipIdx.foldl (fun s k => x.move d s k.2 k.1) (s.peekLines (x.v.lines (e.reads [(0, 64), (64, 8 * if x.pages.length < 1024 then x.pages.length else 1024)]) ++ x.reads s q))
  let s2 := (List.range (x.live - n)).foldl (fun s k => (x.page ((n + k) / 128)).write s (0x4200 + 8 * ((n + k) % 128)) (leBytes 8 0)) s1
  let s3 := match x.list with
    | some v => v.poke (offs.length + 2) s2 0 (listBytes offs)
    | none => s2
  let s4 := x.v.write s3 (64 + 8 * p) (List.replicate (8 * offs.length) (0 : Byte))
  let s5 := (List.range p).foldl (fun s k => (x.page k).write s 0x4E00 (pageHeader e.seq e.world k (pageLive n k))) s4
  let s6 := x.v.update s5 n p (x.v.high s)
  (s6.refreshViews e x.v, lane0 (n + 2 ^ 32 * offs.length + 2 ^ 96 * x.live))

/-! ## The engine takes a command (R313, R318) -/

/-- The command's own work after the checks of R318 that every command makes. -/
def State.kvRun (s : State) (r : Rid) (g : Region) (a : Access) (e : KvSeq) : KvResult :=
  match a.req.op with
  | .kvseqAttach => s.kvAttach r g a e
  | .kvseqDetach => s.kvDetach r a e
  | .kvapp => s.kvAppend a e
  | .kvdrop => s.kvDrop a e
  | _ => s.kvStat a e

/-- A command reaches its home slice (R313, R318): it waits behind an eviction of its sequence, or of another whose pages it reaches; a
KVEVICT puts its hold in place, any other takes its whole effect. (DEDUCED, log 24.) -/
def State.kvCommand (s : State) (r : Rid) (g : Region) (a : Access) : State :=
  let q := a.req
  let w := g.tagWorld q.tag
  let pa := a.pas.headD 0
  let fail (c : Cause) : State := s.perform r a (.record c)
  let unread := q.a &&& ~~~(kvMask q.op) != 0
  let done (x : KvResult) : State := match x with
    | .error c => fail c
    | .ok (all, reads, s1, v) =>
      if all.any s.engineHolds then s
      else
        match s.poisonIn reads with
        | some c => fail c
        | none => (s1.peekLines reads).perform r a (.all v)
  if s.engineHolds (lineOf pa) || s.kvHolds.any fun k => lineOf (k.acc.pas.headD 0) == lineOf pa then s
  else if s.heldRange w a.va tableSize then fail (mkCause 6 2)
  else if q.op = .kvseqCreate then (if unread then fail (mkCause 8 8) else done (s.kvCreate g a w pa))
  else
    match s.kvSeqs.find? fun k => k.pa == pa with
    | none => fail (mkCause 8 2)
    | some e =>
      if e.seq ≠ q.kvSeq then fail (mkCause 8 2)
      else if e.world ≠ w then fail (mkCause 8 9)
      else if unread then fail (mkCause 8 8)
      else if let some c := s.poison? pa 64 then fail c
      else if q.op = .kvevict then
        match s.eviction a e with
        | .error c => fail c
        | .ok x =>
          if s.evictionWaits x then s
          else
            let s1 := s.mapRegion r fun g => g.putAcc { a with stage := .settled }
            { s1 with kvHolds := s1.kvHolds ++ [⟨homeSlice pa, e.seq, e.world, r, a, x.lines⟩] }
      else done (s.kvRun r g a e)

/-- The eviction of a hold that is in place: it selects, compacts, flips the views, releases the hold and replies (R326, R327). -/
def State.compact (s : State) (k : KvHold) : State :=
  let a := match s.region? k.r with
    | some g => (g.acc? k.acc.id).getD k.acc
    | none => k.acc
  let s0 := { s with kvHolds := s.kvHolds.filter (· != k) }
  match s.kvSeqs.find? fun e => e.pa == k.acc.pas.headD 0 with
  | none => s0.perform k.r a (.record (mkCause 8 2))
  | some e =>
    match s.eviction k.acc e with
    | .error c => s0.perform k.r a (.record c)
    | .ok x =>
      let y := x.run k.acc.req e s0
      y.1.perform k.r a (.all y.2)

/-- KVEVICT_COMPACTION: the engine's hold is in place and the eviction is made; the writes that waited for its lines follow (R261,
R326, R327). -/
def execKvevictCompaction (slice seq : Nat) (s : State) : Host.Outcome State Fault Refusal :=
  match s.kvHolds.find? fun k => k.slice == slice && k.seq == seq with
  | none => .next s
  | some k => .next (if s.pkg != .running then s else (s.compact k).serveSys)

/-- KVEVICT: commands an eviction (R326). -/
def execKvevict (f : Fields) (s : State) : Host.Outcome State Fault Refusal := fireGlobal .kvevict f s
/-- KVSEQ create (R322). -/
def execKvseqCreate (f : Fields) (s : State) : Host.Outcome State Fault Refusal := fireGlobal .kvseqCreate f s
/-- KVSEQ attach (R322). -/
def execKvseqAttach (f : Fields) (s : State) : Host.Outcome State Fault Refusal := fireGlobal .kvseqAttach f s
/-- KVSEQ detach (R322). -/
def execKvseqDetach (f : Fields) (s : State) : Host.Outcome State Fault Refusal := fireGlobal .kvseqDetach f s
/-- KVAPP: appends positions (R323). -/
def execKvapp (f : Fields) (s : State) : Host.Outcome State Fault Refusal := fireGlobal .kvapp f s
/-- KVSTAT: reads a sequence's header (R324). -/
def execKvstat (f : Fields) (s : State) : Host.Outcome State Fault Refusal := fireGlobal .kvstat f s
/-- KVDROP: drops a sequence (R324, R325). -/
def execKvdrop (f : Fields) (s : State) : Host.Outcome State Fault Refusal := fireGlobal .kvdrop f s

end Sys2Proof.Machine
end

