-- ==== Sys2Proof/Machine/Names.lean ====
section
/-! DEFINITION. The gallery instructions (R352 to R362): what NDECL, NANN, NDROP and NSTAT do at the gallery. NASK's transfer
stands in Machine/Copy.lean, the routers in Machine/Gallery.lean. -/

namespace Sys2Proof.Machine

/-- NDECL: declares a range of names (R358). -/
def execNdecl (f : Fields) (s : State) : Host.Outcome State Fault Refusal := fireGlobal .ndecl f s
/-- NASK: asks for a tile (R360). -/
def execNask (f : Fields) (s : State) : Host.Outcome State Fault Refusal := fireGlobal .nask f s
/-- NANN: announces a tile (R359). -/
def execNann (f : Fields) (s : State) : Host.Outcome State Fault Refusal := fireGlobal .nann f s
/-- NDROP of a declaration (R361). -/
def execNdropDecl (f : Fields) (s : State) : Host.Outcome State Fault Refusal := fireGlobal .ndropDecl f s
/-- NDROP of the launch's own interests (R361). -/
def execNdropOwn (f : Fields) (s : State) : Host.Outcome State Fault Refusal := fireGlobal .ndropOwn f s
/-- NSTAT: reads what the entry router knows of a name (R362). -/
def execNstat (f : Fields) (s : State) : Host.Outcome State Fault Refusal := fireGlobal .nstat f s

/-! ## Operands (R357) -/

/-- NAME of an operand. -/
def Request.name (q : Request) : Word64 := bitsAt q.a 0 64
/-- TCNT of an NDECL. -/
def Request.tcnt (q : Request) : Nat := (bitsAt q.a 64 32).toNat
/-- SIZE of an NDECL. -/
def Request.size (q : Request) : Nat := (bitsAt q.a 96 32).toNat

/-- Does an operand keep its limits, with the bits it does not read zero (R357)? -/
def nameOperandOk (q : Request) : Bool :=
  match q.op with
  | .ndecl => bitsAt q.a 128 128 == 0 && decide (1 ≤ q.tcnt ∧ q.tcnt + nameTile q.name ≤ 2 ^ 24) &&
      decide (q.size % 32 = 0 ∧ 32 ≤ q.size ∧ q.size ≤ 65536)
  | .nann => bitsAt q.a 128 128 == 0
  | .nask => bitsAt q.a 144 112 == 0
  | _ => bitsAt q.a 64 192 == 0

/-! ## NDECL (R353, R358) -/

/-- Do two declared ranges overlap (R358)? -/
def Route.overlaps (r k : Route) : Bool :=
  nameTensor r.base == nameTensor k.base && nameIter r.base == nameIter k.base &&
    decide (nameTile r.base < nameTile k.base + k.count ∧ nameTile k.base < nameTile r.base + r.count)

/-- NDECL at its entry router: the state after, and the answer (R353, R358); a sealed world declares nothing beyond the
package (R435). (DEDUCED, log 26.) -/
def State.declareNames (s : State) (m : Nat) (l : Launch) (g : Region) (a : Access) : State × Ans :=
  let q := a.req
  let e : Route := ⟨false, bitAt q.f.xmod 0, g.tagWorld q.tag, g.entryRouter q, q.size, q.tcnt, q.name, l.handle, a.span, m, q.x, q.y,
    q.slot, q.tag⟩
  if e.glob && s.sealedWorld e.world then (s, .record (mkCause 0xA 4))
  else if s.routes.any fun k => k.overlaps e then (s, .record (mkCause 9 8))
  else if 256 ≤ s.routes.length then (s, .record (mkCause 9 9))
  else ({ s.discardTiles e with routes := s.routes ++ [e] }, .all 0)

/-! ## NANN (R359) -/

/-- Has an access left its memory-port tile for P and not been performed: an announcement in flight there (R359)? -/
def Access.away (a : Access) : Bool :=
  match a.stage with
  | .net | .waiting | .window => false
  | _ => true

/-- Is an announcement of the same name by the same launch, in the same world, in flight at P before an access (R359)? -/
def Launch.announcing (l : Launch) (w : BitVec 8) (a : Access) : Bool :=
  l.members.any fun g => g.accs.any fun b =>
    b.req.op == .nann && b.id != a.id && b.away && b.req.name == a.req.name && g.tagWorld b.req.tag == w

/-- The declaration that an announcement falls under, or the first failing check (R359). (DEDUCED, log 27.) -/
def State.announceCheck (s : State) (l : Launch) (g : Region) (a : Access) : Except Cause Route :=
  let q := a.req
  let w := g.tagWorld q.tag
  match s.routes.find? fun e => e.handle == l.handle && e.holds q.name && e.world == w && !e.closed && e.span == a.span with
  | none => .error (mkCause 9 7)
  | some e =>
    if (s.tileAt e.prod w q.name).any GTile.pinned || (!a.away && l.announcing w a) then .error (mkCause 9 5)
    else if (s.storeTile ⟨e.prod, w, q.name, true, List.replicate e.size 0⟩).isNone then .error (mkCause 9 0xA)
    else .ok e

/-- A failing announcement is answered; one of a name announced before is recorded too (R359). -/
def State.announceFail (s : State) (r : Rid) (l : Launch) (g : Region) (a : Access) (c : Cause) : State :=
  let s1 := s.perform r a (.record c)
  if c = mkCause 9 5 then
    let q := a.req
    s1.deliver (siteFault s l g (g.tagWorld q.tag) c 0 (portAx (g.portWord q.port)) (portAy (g.portWord q.port)) 31 0 q.tag 0)
  else s1

/-- Read the units of a tile, 32 bytes each, at their physical addresses: the bytes, or the cause of a poisoned line. -/
def State.readUnits (s : State) (who : Accessor) : List Nat → State × Except Cause (List Byte)
  | [] => (s, .ok [])
  | pa :: rest =>
    let x := s.loadAt who pa 32
    match x.2 with
    | .error c => (x.1, .error c)
    | .ok bs =>
      let y := x.1.readUnits who rest
      match y.2 with
      | .error c => (y.1, .error c)
      | .ok more => (y.1, .ok (bs ++ more))

/-- NANN reaches P: the checks are made again, the bytes are read and pinned, and P serves its faces (R351, R359); where the name has
been declared anew with tiles of another size, the address path starts again. -/
def State.announce (s : State) (r : Rid) (l : Launch) (g : Region) (a : Access) : State :=
  let q := a.req
  match s.announceCheck l g a with
  | .error c => s.announceFail r l g a c
  | .ok e =>
    if e.size ≠ a.tnum.toNat then s.mapRegion r fun g => g.putAcc { a with stage := .window, pas := [] }
    else
      let x := s.readUnits (fabricAccessor l g q.tag) a.pas
      match x.2 with
      | .error c => x.1.perform r a (.record c)
      | .ok bs =>
        match x.1.storeTile ⟨e.prod, e.world, q.name, true, bs⟩ with
        | none => x.1.announceFail r l g a (mkCause 9 0xA)
        | some s1 => (s1.perform r a (.all 0)).serve e.prod e.world q.name bs

/-! ## NDROP and NSTAT (R361, R362) -/

/-- NDROP of a declaration: the state after, and the answer (R355, R361). -/
def State.dropNames (s : State) (g : Region) (q : Request) : State × Ans :=
  match s.routes.find? fun e => e.base == q.name && e.world == g.tagWorld q.tag with
  | none => (s, .record (mkCause 9 0xC))
  | some e => let x := s.dropRoute e
              (x.1, .all (lane0 x.2))

/-- Is a face the LOCAL one of a launch? -/
def Face.ofLaunch (f : Face) (h : Word32) : Bool :=
  match f.who with
  | .asker r _ _ _ _ => r.h == h
  | _ => false

/-- NDROP of the launch's own interests in a name: each transfer ends EXPIRED (R361). -/
def State.dropOwn (s : State) (h : Word32) (w : BitVec 8) (n : Word64) : State × Ans :=
  let ps := s.pits.filter fun p => p.world == w && p.name == n && p.faces.any fun f => f.ofLaunch h
  let fs := ps.flatMap fun p => p.faces.filter fun f => f.ofLaunch h
  let s1 := ps.foldl (fun s p => s.dropFaces p fun f => f.ofLaunch h) s
  (fs.foldl State.expireFace s1, .all (lane0 fs.length))

/-- What NSTAT reads (R362). (DEDUCED, log 27.) -/
def State.nameStat (s : State) (g : Region) (q : Request) : Payload :=
  let w := g.tagWorld q.tag
  let r := g.entryRouter q
  let held := if (s.tileAt r w q.name).isSome then 2 ^ 8 else 0
  let faces := (((s.pit? r w q.name).map fun p => p.faces.length).getD 0) % 65536 * 2 ^ 16
  match s.routeOf q.name with
  | none => lane0 (held + faces)
  | some e =>
    if e.world != w then lane0 (4 + held + faces)
    else
      let code := if (s.tileAt e.prod w q.name).any GTile.pinned then 2 else if e.closed then 3 else 1
      lane0 (code + held + faces + 2 ^ 32 * e.size + 2 ^ 64 * e.handle.toNat)

/-- NDECL, NDROP and NSTAT at their entry router: the state after, and the answer. -/
def State.nameOp (s : State) (m : Nat) (l : Launch) (g : Region) (a : Access) : State × Ans :=
  match a.req.op with
  | .ndecl => s.declareNames m l g a
  | .ndropDecl => s.dropNames g a.req
  | .ndropOwn => s.dropOwn l.handle (g.tagWorld a.req.tag) a.req.name
  | _ => (s, .all (s.nameStat g a.req))

end Sys2Proof.Machine
end

