-- ==== Sys2Proof/Machine/Chain.lean ====
section
/-! DEFINITION. The steps of a global access (R221, R224 to R228, R235, R239 to R243, R263, R269): its memory-port tile accepts
it, its chain performs it, its address is translated, its home slice serves it, or its wait at a held line ends. -/

namespace Sys2Proof.Machine

/-- Does a tile have room for one more waiting access: 64 over all its chains, of every region that it serves (R243)? -/
def State.hasRoom (s : State) (die tile : Nat) : Bool :=
  decide ((s.onDie die).foldl (fun n q => n + countIf (fun a : Access => a.tile == tile && a.stage == .waiting) q.2.accs) 0 < 64)

/-- Is an access the oldest of its element on its way to its tile (R155)? -/
def Region.firstNet (g : Region) (a : Access) : Bool :=
  (g.accs.find? fun b => b.stage == .net && b.tile == a.tile && b.req.x == a.req.x && b.req.y == a.req.y).any fun b => b.id == a.id

/-- MEMORY_REQUEST_ACCEPT: a memory-port tile accepts and opens a request (R403): its span and what it must follow are fixed, and the arrival sets ACT
(R180, R220, R241, R271). -/
def execMemoryRequestAccept (r : Rid) (id : Nat) (s : State) : Host.Outcome State Fault Refusal :=
  match s.launch? r.h, s.region? r with
  | some l, some g =>
    match g.acc? id with
    | none => .next s
    | some a =>
      if !s.live l || a.stage != .net || !g.firstNet a || !s.hasRoom g.die a.tile then .next s
      else
        let b := { a with req := openReq s l.sl (g.tagWorld a.req.tag) a.req, stage := .waiting, at' := s.cycle, span := l.openSpan, before := if a.req.rel then g.pendingIds (tagKey a.req.tag) else [] }
        let g1 := (g.dropAcc id).count (.port a.req.port) a.req.tag 0 false
        .next (s.putRegion r { g1 with accs := g1.accs ++ [b] })
  | _, _ => .next s

/-! ## At the memory-port tile (R221, R239, R242, R243) -/

/-- Is a request a command of the compaction engine (R317)? -/
def isKv (o : Op) : Bool :=
  match o with
  | .kvseqCreate | .kvseqAttach | .kvseqDetach | .kvapp | .kvevict | .kvstat | .kvdrop => true
  | _ => false

/-- Is a request one that the gallery answers at its entry router? -/
def isNameOp (o : Op) : Bool :=
  match o with
  | .ndecl | .ndropDecl | .ndropOwn | .nstat => true
  | _ => false

/-- Is a request a COPY or a NASK? -/
def isXfer (o : Op) : Bool := o == .copy || o == .nask

/-- A COPY or NASK finds its channel's queue full: it stays where it is (R254). -/
def Region.xferFull (g : Region) (q : Request) : Bool :=
  isXfer q.op && !q.bubble && ((g.dirTile q q.dir0).any fun t => decide (5 ≤ (t.chan q.ch).cur.toList.length + (t.chan q.ch).queue.length))

/-- An access goes on to its translation, from a virtual address; a NANN with the size of its tile. -/
def State.toTranslate (s : State) (r : Rid) (a : Access) (va : Nat) (size : Nat := 0) : State :=
  s.mapRegion r fun g => g.putAcc { a with stage := .translate, va := va, pas := [], tnum := BitVec.ofNat 32 size }

/-- A NANN at its memory-port tile (R357, R359). -/
def State.startAnnounce (s : State) (r : Rid) (l : Launch) (g : Region) (a : Access) : State :=
  let q := a.req
  if !nameOperandOk q then s.perform r a (.record (mkCause 9 0xB))
  else if q.offset % 32 ≠ 0 then s.perform r a (.record (mkCause 5 8))
  else
    match s.announceCheck l g a with
    | .error c => s.announceFail r l g a c
    | .ok e =>
      match g.vaOf (tagCol q.tag) q.offset e.size with
      | .error c => s.perform r a (.record c)
      | .ok va => s.toTranslate r a va e.size

/-- An access starts at its memory-port tile, its chain busy with it (R221, R239, R243). -/
def State.startAcc (s : State) (r : Rid) (l : Launch) (g : Region) (a : Access) : State :=
  let q := a.req
  if q.bubble then s.perform r a .bubble
  else if q.op = .pref && bitAt q.f.xmod 5 then s.perform r a (.all 0)
  else if isNameOp q.op then
    if !nameOperandOk q then s.perform r a (.record (mkCause 9 0xB))
    else let x := s.nameOp r.m l g a
         x.1.perform r a x.2
  else if isXfer q.op then s.acceptXfer r g a
  else if q.op = .nann then s.startAnnounce r l g a
  else if q.offset % q.align ≠ 0 then s.perform r a (.record (mkCause 5 8))
  else
    match g.vasOf q with
    | .error c => s.perform r a (.record c)
    | .ok [] => s.perform r a (.all 0)
    | .ok (va :: _) => s.toTranslate r a va

/-- CHAIN_PERFORM: a waiting access is linked in its wave, or chain 15 has it, and starts; or it is refused (R242). An access that
a restore has put back starts again from the colour window (R235). -/
def execChainPerform (r : Rid) (id : Nat) (s : State) : Host.Outcome State Fault Refusal :=
  match s.launch? r.h, s.region? r with
  | some l, some g =>
    match g.acc? id with
    | none => .next s
    | some a =>
      if !s.live l || g.xferFull a.req then .next s
      else
        match a.stage with
        | .waiting =>
          if !g.allDone (g.mustFollow a) then .next s
          else
            match g.chainStart a with
            | .wait => .next s
            | .refuse => .next (s.refuseAcc r a)
            | .go =>
              let g1 := g.chainBusy a
              .next ((s.putRegion r g1).startAcc r l g1 a)
        | .window =>
          if (g.accs.find? fun b => b.stage == .window && b.tile == a.tile).any fun b => b.id == id then .next (s.startAcc r l g a)
          else .next s
        | _ => .next s
  | _, _ => .next s

/-! ## Translation (R224 to R228, R235) -/

/-- The addresses that an access translates: its own, those of its lines, or those of a tile's pages (R258, R259, R359). -/
def Region.walkVas (g : Region) (a : Access) : List Nat :=
  if namesLines a.req.op then
    match g.vasOf a.req with
    | .ok vas => vas
    | .error _ => []
  else if a.req.op = .nann then (List.range ((a.va % 65536 + a.tnum.toNat + 65535) / 65536)).map fun k => if k = 0 then a.va else (a.va / 65536 + k) * 65536
  else [a.va]

/-- Translate addresses in turn: the state after, the table entries read, and each outcome. -/
def State.translateAll (s : State) (die : Nat) (w : BitVec 8) (needs : Bool × Bool) : List Nat → State × List Nat × List (Except Cause Nat)
  | [] => (s, [], [])
  | va :: rest =>
    let x := s.translate die w 0 va needs.1 needs.2
    let y := x.s.translateAll die w needs rest
    (y.1, x.reads ++ y.2.1, x.out :: y.2.2)

/-- The physical addresses of what an access reaches, once its addresses are translated. -/
def reached (a : Access) (ps : List Nat) : List Nat :=
  if a.req.op = .nann then
    let v : VRange := ⟨a.va, ps.map fun p => p / 65536 * 65536⟩
    (List.range (a.tnum.toNat / 32)).map fun k => v.pa (32 * k)
  else ps

/-- An access has its physical addresses: a CMST waits for its group, whose next member may follow it unless it has LAST; any other
goes to its home slice (R246). -/
def State.translated (s : State) (r : Rid) (a : Access) (pas : List Nat) : State :=
  if a.req.op = .cmst then
    let b := { a with stage := .settled, pas := pas, tnum := BitVec.ofNat 32 s.freshId }
    ({ s with freshId := s.freshId + 1 }).mapRegion r fun g => let g1 := g.putAcc b
                                                              if a.req.last then g1 else g1.chainHeld a
  else s.mapRegion r fun g => g.putAcc { a with stage := .slice, pas := pas }

/-- PAGE_TABLE_WALK: an access is translated, by the entries at its translation tile or a walk of the page tables. A walk that
meets a held line waits; a failing one freezes the region, a poisoned entry gives an error record, and a PREF drops what fails (R224 to
R228, R235, R259, R269, R371). -/
def execPageTableWalk (r : Rid) (id : Nat) (s : State) : Host.Outcome State Fault Refusal :=
  match s.launch? r.h, s.region? r with
  | some l, some g =>
    match g.acc? id with
    | none => .next s
    | some a =>
      let walking := match a.stage with
        | .walk _ => true
        | _ => false
      if !s.live l || !(a.stage == .translate || walking) then .next s
      else
        let w := g.tagWorld a.req.tag
        let vas := g.walkVas a
        let x := s.translateAll g.die w a.req.needs vas
        if s.walkBehind x.2.1 then .next s
        else if s.walkHeld x.2.1 then .next (if walking then s else s.putRegion r (g.putAcc { a with stage := .walk s.cycle }))
        else if a.req.op = .pref then
          let good := (vas.zip x.2.2).filterMap fun p => match p.2 with
            | .ok pa => if s.declared w p.1 then none else some pa
            | .error _ => none
          .next (x.1.translated r a good)
        else
          match x.2.2.findSome? fun o => match o with
            | .error c => some c
            | .ok _ => none with
          | some c => .next (if tokenLevel c then x.1.perform r a (.record c) else x.1.holdAcc r a c)
          | none =>
            .next (x.1.translated r a (reached a (x.2.2.filterMap fun o => match o with
              | .ok pa => some pa
              | .error _ => none)))
  | _, _ => .next s

/-! ## The home slice (R263) -/

/-- What an access does at its home slice, past the gate; none while a register's store must wait. -/
def State.serveAcc (s : State) (r : Rid) (l : Launch) (g : Region) (a : Access) : Option State :=
  let q := a.req
  if namesLines q.op then
    let x := s.linesOp q a.pas
    some (x.1.perform r a x.2)
  else if q.op = .nann then some (s.announce r l g a)
  else if q.op = .massacc then
    let x := s.massacc q (a.pas.headD 0)
    some (x.1.perform r a x.2)
  else (s.lineOp (fabricAccessor l g q.tag) q (a.pas.headD 0)).map fun x => x.1.perform r a x.2

/-- HOME_SLICE_ACCESS: an access reaches its home slice and is performed there, or waits at a held line (R263, R269). -/
def execHomeSliceAccess (r : Rid) (id : Nat) (s : State) : Host.Outcome State Fault Refusal :=
  match s.launch? r.h, s.region? r with
  | some l, some g =>
    match g.acc? id with
    | none => .next s
    | some a =>
      let held := match a.stage with
        | .held _ => true
        | _ => false
      if s.pkg != .running || !(a.stage == .slice || held) then .next s
      else if isKv a.req.op then .next (s.kvCommand r g a)
      else
        match s.gate r g a with
        | .go s1 => .next ((s1.serveAcc r l g a).getD s)
        | .wait => .next (if held then s else s.putRegion r (g.putAcc { a with stage := .held s.cycle }))
        | .behind => .next s
        | .fail c => .next (s.perform r a (.record c))
  | _, _ => .next s

/-! ## The end of a wait at a held line (R269) -/

/-- Has a wait lasted 2^16 cycles (R269)? -/
def State.overdue (s : State) (since : Nat) : Bool := decide (since + 65536 ≤ s.cycle)

/-- The cause of a wait that ends (R269). -/
def heldCause : Cause := mkCause 6 3

/-- An access of a region that has waited too long: a record, or, for its page walk, a freeze (R235, R269). -/
def State.endHeldAcc (s : State) (r : Rid) (a : Access) : Option State :=
  match a.stage with
  | .held t => if s.overdue t then some (s.perform r a (.record heldCause)) else none
  | .walk t => if s.overdue t then some (s.holdAcc r a heldCause) else none
  | _ => none

/-- A copy channel's piece that has waited too long: the COPY fails whole (R269). -/
def State.endHeldPiece (s : State) (r : Rid) (g : Region) (t : Tile) (ch : Nat) (a : Access) : Option State :=
  match a.stage with
  | .held k => if s.overdue k then some (s.pieceFail r t ch heldCause) else none
  | .walk k =>
    if s.overdue k then some ((s.setCur r t ch { a with stage := .frozen, pas := [] }).holdCause r.h (portCause s g r a.req heldCause)) else none
  | _ => none

/-- A stream window's access that has waited too long (R269). -/
def State.endHeldWindow (s : State) (r : Rid) (g : Region) (tile : Nat) (w : Window) : Option State :=
  match w.wait, g.windowNest w with
  | some k, some (b, q, _) =>
    if !s.overdue k.since then none
    else
      match k.why with
      | .walk => some (s.windowFault r g tile w b q heldCause)
      | .line => some (if w.write then s.dropUnit r tile w.num (some heldCause) else s.fillUnit r tile w.num (w.head / 32) 0 (.error heldCause))
      | .frozen => none
  | _, _ => none

/-- The world of a hart's accesses. -/
def State.hartWorld (s : State) (h : Nat) : BitVec 8 := ((s.hart? h).map fun k => k.accessor.world).getD 0

/-- A hart's or the host's access that has waited too long: the hart takes a load (5) or store (7) access fault and its world a
record; the host gets an error status, which leaves no trace here (R269). -/
def State.endHeldBus (s : State) (b : BusWait) : Option State :=
  if !s.overdue b.since then none
  else
    let s1 := { s with busWaits := s.busWaits.filter fun k => k.id != b.id }
    match b.hart with
    | none => some s1
    | some h =>
      let code := match b.op with
        | .load _ => 5
        | .store _ _ | .amo _ _ _ => 7
      some ((s1.hartTrap h code (BitVec.ofNat 64 b.va)).deliver (bareFault s (s.hartWorld h) heldCause h (BitVec.ofNat 64 b.va)))

/-- The wait with a number, anywhere in a region, ends. -/
def State.endHeldIn (s : State) (r : Rid) (g : Region) (id : Nat) : Option State :=
  match (g.accs.find? fun a => a.id == id).bind fun a => s.endHeldAcc r a with
  | some s1 => some s1
  | none =>
    match (g.tiles.flatMap fun t => [0, 1].map fun ch => (t, ch)).findSome? fun p =>
        ((p.1.chan p.2).cur.filter fun x => x.acc.id == id).bind fun x => s.endHeldPiece r g p.1 p.2 x.acc with
    | some s1 => some s1
    | none => (g.mports.flatMap fun m => m.windows.map fun w => (m.tile, w)).findSome? fun p =>
        if p.2.id == id then s.endHeldWindow r g p.1 p.2 else none

/-- HELD_ACCESS_TIMEOUT: an access has waited 2^16 cycles at a line that another agent holds, and ends (R269). -/
def execHeldAccessTimeout (id : Nat) (s : State) : Host.Outcome State Fault Refusal :=
  if s.pkg != .running then .next s
  else
    match (s.busWaits.find? fun b => b.id == id).bind s.endHeldBus with
    | some s1 => .next s1
    | none =>
      let all := s.launches.flatMap fun l => l.members.zipIdx.map fun q => (Rid.mk l.handle q.2, q.1)
      .next ((all.findSome? fun q => s.endHeldIn q.1 q.2 id).getD s)

end Sys2Proof.Machine
end

