-- ==== Sys2Proof/Machine/Float.lean ====
section
/-! DEFINITION. The floating-point and conversion instructions, 0x0C0 to 0x0DD (R99 to R113). -/

namespace Sys2Proof.Machine

/-- FADD (R99). -/
def execFadd (f : Fields) (s : State) : Host.Outcome State Fault Refusal :=
  fireData f s fun x => floatResult f x fun i => (fa f x i).add (isRdn f) (fb f x i)

/-- FSUB (R99). -/
def execFsub (f : Fields) (s : State) : Host.Outcome State Fault Refusal :=
  fireData f s fun x => floatResult f x fun i => (fa f x i).add (isRdn f) (fb f x i).neg

/-- FMUL (R99). -/
def execFmul (f : Fields) (s : State) : Host.Outcome State Fault Refusal :=
  fireData f s fun x => floatResult f x fun i => (fa f x i).mul (fb f x i)

/-- FFMA: a·b + c rounded once (R87, R99). -/
def execFfma (f : Fields) (s : State) : Host.Outcome State Fault Refusal :=
  fireMad f s fun x => floatResult f x fun i => ((fa f x i).mul (fb f x i)).add (isRdn f) (fc f x i)

/-- FMIN (R100). -/
def execFmin (f : Fields) (s : State) : Host.Outcome State Fault Refusal :=
  fireData f s fun x => laneResult f x fun i => fminmax f.et false (ua f x i) (ub f x i)

/-- FMAX (R100). -/
def execFmax (f : Fields) (s : State) : Host.Outcome State Fault Refusal :=
  fireData f s fun x => laneResult f x fun i => fminmax f.et true (ua f x i) (ub f x i)

/-- FABS (R100). -/
def execFabs (f : Fields) (s : State) : Host.Outcome State Fault Refusal :=
  fireData f s fun x => laneResult f x fun i => fsign f.et false (ua f x i)

/-- FNEG (R100). -/
def execFneg (f : Fields) (s : State) : Host.Outcome State Fault Refusal :=
  fireData f s fun x => laneResult f x fun i => fsign f.et true (ua f x i)

/-- FCMPEQ (R101). -/
def execFcmpeq (f : Fields) (s : State) : Host.Outcome State Fault Refusal :=
  fireData f s fun x => predResult f x fun i => (fa f x i).eqv (fb f x i)

/-- FCMPLT (R101). -/
def execFcmplt (f : Fields) (s : State) : Host.Outcome State Fault Refusal :=
  fireData f s fun x => predResult f x fun i => (fa f x i).lt (fb f x i)

/-- FCMPLE (R101). -/
def execFcmple (f : Fields) (s : State) : Host.Outcome State Fault Refusal :=
  fireData f s fun x => predResult f x fun i => (fa f x i).lt (fb f x i) || (fa f x i).eqv (fb f x i)

/-- FCMPUN (R101). -/
def execFcmpun (f : Fields) (s : State) : Host.Outcome State Fault Refusal :=
  fireData f s fun x => predResult f x fun i => (fa f x i).isNan || (fb f x i).isNan

/-- FRCP (R103). -/
def execFrcp (f : Fields) (s : State) : Host.Outcome State Fault Refusal :=
  fireData f s fun x => laneResult f x fun i => approx 0 f.et f.sat XVal.rcp (ua f x i)

/-- FRSQ (R103). -/
def execFrsq (f : Fields) (s : State) : Host.Outcome State Fault Refusal :=
  fireData f s fun x => laneResult f x fun i => approx 1 f.et f.sat XVal.rsq (ua f x i)

/-- FEXP2 (R103). -/
def execFexp2 (f : Fields) (s : State) : Host.Outcome State Fault Refusal :=
  fireData f s fun x => laneResult f x fun i => approx 2 f.et f.sat XVal.exp2 (ua f x i)

/-- FLOG2 (R103). -/
def execFlog2 (f : Fields) (s : State) : Host.Outcome State Fault Refusal :=
  fireData f s fun x => laneResult f x fun i => approx 3 f.et f.sat XVal.log2 (ua f x i)

/-- FTANH (R103). -/
def execFtanh (f : Fields) (s : State) : Host.Outcome State Fault Refusal :=
  fireData f s fun x => laneResult f x fun i => approx 4 f.et f.sat XVal.tanh (ua f x i)

/-- FSQRT (R102). -/
def execFsqrt (f : Fields) (s : State) : Host.Outcome State Fault Refusal :=
  fireData f s fun x => floatResult f x fun i => (fa f x i).sqrt

/-- FDIV (R102). -/
def execFdiv (f : Fields) (s : State) : Host.Outcome State Fault Refusal :=
  fireData f s fun x => floatResult f x fun i => (fa f x i).div (fb f x i)

/-- FSUMR (R50, R104). -/
def execFsumr (f : Fields) (s : State) : Host.Outcome State Fault Refusal :=
  fireData f s (fsumrResult f)

/-- FMAXR (R50, R104). -/
def execFmaxr (f : Fields) (s : State) : Host.Outcome State Fault Refusal :=
  fireData f s (fmaxrResult f)

/-- FCVT (R107, R108). -/
def execFcvt (f : Fields) (s : State) : Host.Outcome State Fault Refusal :=
  fireConv f s (fcvtResult f)

/-- ICVT (R107, R108). -/
def execIcvt (f : Fields) (s : State) : Host.Outcome State Fault Refusal :=
  fireConv f s (icvtResult f)

/-- FCVTI (R107, R108). -/
def execFcvti (f : Fields) (s : State) : Host.Outcome State Fault Refusal :=
  fireConv f s (fcvtiResult f)

/-- QNT (R109 to R111). -/
def execQnt (f : Fields) (s : State) : Host.Outcome State Fault Refusal :=
  fireConv f s (qntResult f)

/-- DQNT (R109 to R111). -/
def execDqnt (f : Fields) (s : State) : Host.Outcome State Fault Refusal :=
  fireConv f s (dqntResult f)

/-- HADS (R112). -/
def execHads (f : Fields) (s : State) : Host.Outcome State Fault Refusal :=
  fireData f s (hadsResult f)

/-- HADX: lane sums to DST0, lane differences to DST1 (R113). -/
def execHadx (f : Fields) (s : State) : Host.Outcome State Fault Refusal :=
  firePair f s fun x =>
    (floatResult f x fun i => (fa f x i).add (isRdn f) (fb f x i), floatResult f x fun i => (fa f x i).add (isRdn f) (fb f x i).neg)

/-- FSCALE (R105). -/
def execFscale (f : Fields) (s : State) : Host.Outcome State Fault Refusal :=
  fireData f s fun x => floatResult f x fun i => fscaleVal (etWidth f.et) (fa f x i) (ub f x i)

/-- FRESC: the new maximum to DST0, the rescale factor to DST1 (R106). -/
def execFresc (f : Fields) (s : State) : Host.Outcome State Fault Refusal :=
  firePair f s fun x =>
    (laneResult f x fun i => fminmax .f32 true (ua f x i) (ub f x i), laneResult f x fun i => frescLane (ua f x i) (ub f x i))

end Sys2Proof.Machine
end

