-- ==== Sys2Proof/Machine/Matrix.lean ====
section
/-! DEFINITION. The matrix sheet (R283 to R305): streams and their staging, passes, k-groups, bank operations, and the
instructions that run and feed a sheet. -/

namespace Sys2Proof.Machine

/-! ## Streams (R285, R286, R291) -/

/-- The corner as sender (R404). -/
def Sheet.sender (h : Sheet) (m slot : Nat) : Sender := siteSender m h.x h.y 0 slot

/-- Record a cause with a stream that is already there (R286): its pass fails if it runs, else it will. -/
def Sheet.failStream (h : Sheet) (k : Stream) (c : Cause) : Sheet :=
  if k.stage == .running then
    { h with ops := h.ops.map fun o => match o with
        | .pass p => if p.inputs.any (fun i => i.row == k.row && i.idx == k.idx && i.buf == k.buf && !i.ended) then
            .pass { p with fail := some (p.fail.getD c) } else o
        | _ => o }
  else { h with streams := h.streams.map fun q => if q.at' k.row k.idx k.buf then { q with cause := some (q.cause.getD c) } else q }

/-- The token that stands for a stream's head in the corner's ready set: not counted, since the head is staged (R286).
(DEDUCED, log 37.) -/
def headCopy (side : Nat) (tag : Word64) : Token := ⟨mkHdr 0 0 0 (BitVec.ofNat 2 side) true 1 false false 0, tag, 0, none⟩

/-- Move the oldest stream of each input from a stage to the next, for one tag. -/
def Sheet.advance (h : Sheet) (tag : Word64) (a b : StreamStage) : Sheet :=
  h.inputs.foldl (fun h i =>
    match h.streams.find? (fun k => k.row == i.1 && k.idx == i.2 && k.tag == tag && k.stage == a) with
    | none => h
    | some k => { h with streams := h.streams.map fun q => if q.at' k.row k.idx k.buf then { q with stage := b } else q }) h

/-- Does every input hold a head with a tag that no pass has claimed (R291)? -/
def Sheet.ready? (h : Sheet) (tag : Word64) : Bool :=
  h.inputs.all fun i => h.streams.any fun k => k.row == i.1 && k.idx == i.2 && k.tag == tag && k.stage == .pending

/-- A pass becomes ready: its set enters the corner (R291). -/
def Region.readyPass (g : Region) (h : Sheet) (tag : Word64) (now : Nat) : Region :=
  if h.ready? tag then
    match g.elem? h.x h.y with
    | none => g.putSheet h
    | some e =>
      let set := setOf (tagCtx tag) h.slot [(0, headCopy 0 tag), (1, headCopy 1 tag)] now none
      (g.putSheet (h.advance tag .pending .claimed)).putElem (e.complete now set)
  else g.putSheet h

/-- What staging a token comes to: it waits, it is consumed as a token of no stream, or the region has taken it; the last
Bool says that it was consumed. -/
inductive StageStep where
  | waits
  | stray
  | taken (g : Region) (consumed : Bool)
  deriving DecidableEq, Repr

/-- Stage a stream token (R286). -/
def Region.stageToken (g : Region) (h : Sheet) (row : Bool) (idx : Nat) (t : Token) (now : Nat) : StageStep :=
  let w := g.feeder h row idx
  let ends := t.kind != 1 && t.last
  match h.streams.find? fun k => k.row == row && k.idx == idx && k.unfinished with
  | some k =>
    if tagCol t.tag ≠ tagCol k.tag ∨ tagCtx t.tag ≠ tagCtx k.tag then .taken (g.putSheet (h.failStream k (mkCause 7 5))) true
    else if bufferCap w ≤ countIf (fun q => q.at' row idx k.buf) h.staged then .waits
    else
      .taken (g.putSheet { h with
        staged := h.staged ++ [Staged.mk row idx k.buf t]
        streams := h.streams.map fun q => if q.at' row idx k.buf then { q with unfinished := !ends } else q }) false
  | none =>
    if (g.mmaWord h (tagCtx t.tag)).isNone then .stray
    else
      match (List.range (modePar w + 1)).find? fun b => !h.streams.any fun q => q.at' row idx b with
      | none => .waits
      | some b =>
        let h1 := { h with
          staged := h.staged ++ [Staged.mk row idx b t]
          streams := h.streams ++ [Stream.mk row idx b t.tag (!ends) .pending none] }
        .taken (g.readyPass h1 t.tag now) false

/-- STREAM_TOKEN_STAGING: the oldest token from a source to a sheet input is staged, or consumed with 0x7.05 (R285, R286). -/
def execStreamTokenStaging (p : Site) (src : Src) (s : State) : Host.Outcome State Fault Refusal :=
  match s.launch? p.r.h, s.region? p.r with
  | some l, some g =>
    match g.nextLink src p.x p.y with
    | none => .next s
    | some (k, links) =>
      let t := k.tok
      let here := Src.site p.x p.y
      let minus (g : Region) : Region := if t.counted then g.count here t.tag (-1) false else g
      let g0 := { g with links := links, deltas := g.deltas ++ [Delta.mk here (tagKey t.tag) 0 true false] }
      match g0.streamTok p.x p.y t with
      | none => .next s
      | some (h, row, idx) =>
        if !s.live l then .next s
        else
          match g0.stageToken h row idx t s.cycle with
          | .waits => .next s
          | .stray =>
            .next (raiseToExit (s.putRegion p.r (minus g0)) p.r here (prodId p.r.m p.x p.y 0) p.x p.y t.slot t.side 0
              (mkCause 7 5) 0 t.tag)
          | .taken g1 consumed => .next (s.putRegion p.r (if consumed then minus g1 else g1))
  | _, _ => .next s

/-! ## The pass begins (R291, R299) -/

/-- MMA: a ready pass begins: its streams are its own from now on, and it accumulates into the active bank (R291, R296). -/
def execMma (f : Fields) (s : State) : Host.Outcome State Fault Refusal :=
  fireRaw f s fun c =>
    match c.g.sheet? c.p.x c.p.y with
    | none => c.sends []
    | some h =>
      let mine := h.inputs.filterMap fun i =>
        h.streams.find? fun k => k.row == i.1 && k.idx == i.2 && k.tag == c.tag && k.stage == .claimed
      let p : Pass := {
        reply := ⟨c.p.r.m, c.p.x, c.p.y, c.set.slot, f, c.tag, true⟩
        bank := h.act
        foreign := false
        fail := (mine.filterMap Stream.cause).head?
        prog := List.replicate (h.rs * h.cs) ⟨0, 0, 0, 0⟩
        inputs := mine.map fun k => ⟨k.row, k.idx, k.buf, 0, false, false, false, [], []⟩ }
      let h1 := h.advance c.tag .claimed .running
      let h2 := { h1 with ops := h1.ops ++ [.pass p] }
      c.only (c.s.putRegion c.p.r ((c.g.putSheet h2).count (.site c.p.x c.p.y) c.tag 1 true))

/-! ## K-groups (R292, R294) -/

/-- MMA_KGROUP: a sheet element adds its next k-group (R292, R294). Not enabled while its part of a stream has not come, its
neighbours are not ahead of it, or the pass waits for its bank. -/
def execMmaKgroup (p : Site) (row col : Nat) (s : State) : Host.Outcome State Fault Refusal :=
  match s.launch? p.r.h, s.region? p.r with
  | some l, some g =>
    match g.sheet? p.x p.y with
    | none => .next s
    | some h =>
      if !s.live l then .next s
      else
        match g.kgroup h row col (!l.draining) fun u => (openTok s l.sl (g.tagWorld u.tag) u).pay with
        | some g1 => .next (s.putRegion p.r g1)
        | none => .next s
  | _, _ => .next s

/-! ## Bank operations (R297, R300, R301) -/

/-- Does a bank belong to another colour or context than an operation's? -/
def Sheet.foreignTo (h : Sheet) (b : BankOp) : Bool :=
  match (h.bankState b.bank).owner with
  | none => false
  | some o => o != (tagCol b.reply.tag, tagCtx b.reply.tag)

/-- The first MZERO that need not wait. -/
def Sheet.nextZero (h : Sheet) : Option (Nat × BankOp) :=
  (List.range h.ops.length).findSome? fun i =>
    match (h.ops[i]? : Option SheetOp) with
    | some (.bank b) => if b.op == .mzero && !h.opWaits i b.bank then some (i, b) else none
    | _ => none

/-- Every MZERO that need not wait acts: it zeroes its bank, or is refused with 0x7.06 (R300). -/
def State.settleOps (r : Rid) (x y : Nat) : Nat → State → State
  | 0, s => s
  | fuel + 1, s =>
    match s.region? r with
    | none => s
    | some g =>
      match g.sheet? x y with
      | none => s
      | some h =>
        match h.nextZero with
        | none => s
        | some (i, b) =>
          let h1 := { h with ops := h.ops.eraseIdx i }
          let z := h.sender r.m b.reply.slot
          State.settleOps r x y fuel
            (if h.foreignTo b then answerRecord (s.putRegion r (g.putSheet h1)) r z b.reply (mkCause 7 6) 0
             else answerAll (s.putRegion r (g.putSheet (h1.zeroBank b.bank))) r z b.reply 0)

/-- Issue a bank operation: it is pending at the corner, in issue order (R297). -/
def fireBank (o : Op) (f : Fields) (s : State) : Host.Outcome State Fault Refusal :=
  fire f s fun c =>
    match c.g.sheet? c.p.x c.p.y with
    | none => c.sends []
    | some h =>
      let bank := if bitAt f.xmod 0 then 1 - h.act else h.act
      let b : BankOp := ⟨o, ⟨c.p.r.m, c.p.x, c.p.y, c.set.slot, f, c.tag, c.set.leftLast⟩, bank, none⟩
      let h1 := { h with ops := h.ops ++ [.bank b] }
      let s1 := c.s.putRegion c.p.r ((c.g.putSheet h1).count (.site c.p.x c.p.y) c.tag 1 true)
      c.only (s1.settleOps c.p.r c.p.x c.p.y h1.ops.length)

/-- MZERO: zeroes a bank (R300). -/
def execMzero (f : Fields) (s : State) : Host.Outcome State Fault Refusal := fireBank .mzero f s
/-- MDRAIN: drains a bank into FIFO partitions (R301). -/
def execMdrain (f : Fields) (s : State) : Host.Outcome State Fault Refusal := fireBank .mdrain f s

/-- MSWAP: the other bank becomes the active one (R300). -/
def execMswap (f : Fields) (s : State) : Host.Outcome State Fault Refusal :=
  fire f s fun c =>
    match c.g.sheet? c.p.x c.p.y with
    | none => c.all 0
    | some h => { c.all 0 with s := c.s.putRegion c.p.r (c.g.putSheet { h with act := 1 - h.act }) }

/-- Every input of a pass takes what is staged up to its LAST (R293). -/
def Sheet.finishPass (h : Sheet) (p : Pass) (op : Token → Payload) : Sheet × Pass × List Token :=
  p.inputs.foldl (fun q i =>
    let y := Taking.finish (mmaOperand p.reply.f i.row) op (q.1.staged.length + 1) ⟨q.1, i, q.2.1.fail, []⟩
    (y.h, { q.2.1.putInput y.i with fail := y.fail }, q.2.2 ++ y.used)) (h, p, [])

/-- Side-band tokens that stand in a pass's streams behind its last data load the latches of the elements that they pass (R289). -/
def Region.loadRest (g : Region) (h : Sheet) (p : Pass) : Region :=
  ((List.range h.rs).flatMap fun r => (List.range h.cs).map fun c => (r, c)).foldl (fun g q =>
    match g.sheetElem h q.1 q.2 with
    | none => g
    | some e =>
      let me := p.prog.getD (q.1 * h.cs + q.2) ⟨0, 0, 0, 0⟩
      g.putElem { e with
        lat := loadItems 1 (loadItems 0 e.lat ((p.input true q.1).items.drop me.ia)) ((p.input false q.2).items.drop me.ib) }) g

/-- The first pass that every element has finished. -/
def Sheet.donePass (h : Sheet) : Option (Nat × Pass) :=
  (List.range h.ops.length).findSome? fun i =>
    match (h.ops[i]? : Option SheetOp) with
    | some (.pass p) => if p.prog.all (fun e => decide (passGroups p.reply.f ≤ e.n)) then some (i, p) else none
    | _ => none

/-- MMA_PASS_COMPLETE: every element has added a pass's last k-group; what is left of its streams is discarded, and once they
have ended the pass sends its done token or its record (R293, R297, R299). -/
def execMmaPassComplete (p : Site) (s : State) : Host.Outcome State Fault Refusal :=
  match s.launch? p.r.h, s.region? p.r with
  | some l, some g =>
    match g.sheet? p.x p.y with
    | none => .next s
    | some h =>
      match h.donePass with
      | none => .next s
      | some (i, ps) =>
        if !s.live l || (l.draining && ps.inputs.any fun k => !k.ended) then .next s
        else
          let x := h.finishPass ps fun u => (openTok s l.sl (g.tagWorld u.tag) u).pay
          let minus (g : Region) : Region :=
            (x.2.2.filter Token.counted).foldl (fun g t => g.count (.site p.x p.y) t.tag (-1) false) g
          let q := x.2.1
          if q.inputs.any fun k => !k.ended then
            .next (s.putRegion p.r (minus (g.putSheet { x.1 with ops := x.1.ops.set i (.pass q) })))
          else
            let h1 := { x.1 with ops := x.1.ops.eraseIdx i }
            let k := h1.bankState q.bank
            let h2 := match q.fail with
              | some c => if q.foreign then h1 else h1.setState q.bank { k with poison := some (k.poison.getD c) }
              | none => h1
            let s1 := s.putRegion p.r (minus ((g.putSheet h2).loadRest h2 q))
            let z := h.sender p.r.m q.reply.slot
            let s2 := match q.fail with
              | some c => answerRecord s1 p.r z q.reply (if q.foreign then mkCause 7 6 else c) 0
              | none => if q.foreign then answerRecord s1 p.r z q.reply (mkCause 7 6) 0 else answerAll s1 p.r z q.reply 0
            .next (s2.settleOps p.r p.x p.y h2.ops.length)
  | _, _ => .next s

/-- The accumulator type of a bank (R301): ET of the sheet's MMA word in a context, or in the first context with one.
(DEDUCED, log 38.) -/
def Region.bankType (g : Region) (h : Sheet) (ctx : Nat) : ET :=
  (((ctx :: List.range 8).filterMap (g.mmaWord h)).head?.map Fields.et).getD .f32

/-- The 256 output codes of a sheet element (R301). -/
def drainBlock (f : Fields) (acc : ET) (l : Latches) (k : Bank) : List Nat :=
  (List.range 256).map fun n =>
    let j := n % 16
    let code := k.acc.getD n 0
    let v := if acc = .f32 then fdecode .f32 code else .ofInt (toSigned 32 code)
    let z := (fdecode .bf16 (laneU 16 l.epiz j)).mul (fdecode .f32 (k.rs.getD (n / 16) 0))
    let x := if bitAt f.xmod 1 then (fdecode .bf16 (laneU 16 l.epis j)).mul (v.add (isRdn f) z.neg) else v
    if etIsFloat f.et then froundX f.et f.rnd f.sat true 0 x else iroundX f.et f.rnd 0 x

/-- The FIFO entries of a block (R302). -/
def blockEntries (t : ET) (out : List Nat) : List Payload :=
  (List.range (etWidth t)).map fun n => packLanes (etWidth t) ((out.drop (n * etLanes t)).take (etLanes t))

/-- What every column of a sheet pushes for an MDRAIN (R302). -/
def Region.drainLists (g : Region) (h : Sheet) (b : BankOp) : List (List Payload) :=
  let f := b.reply.f
  let acc := g.bankType h (tagCtx b.reply.tag)
  (List.range h.cs).map fun c => (List.range h.rs).flatMap fun r =>
    match g.sheetElem h r c with
    | some e => blockEntries f.et (drainBlock f acc e.lat (h.bank r c b.bank))
    | none => []

/-- Push the entries of a column while its FIFO has room (R211, R302). -/
def Tile.pushAll (t : Tile) (part : Nat) (es : List Payload) : Tile × List Payload :=
  let room := fifoCap (t.part part) - (t.fifo part).length
  (t.setFifo part (t.fifo part ++ es.take room), es.drop room)

/-- Push what every column has still to push. -/
def Region.pushColumns (g : Region) (h : Sheet) (part : Nat) : Nat → List (List Payload) → Region × List (List Payload)
  | _, [] => (g, [])
  | c, es :: rest =>
    match g.tile? (h.x + 2 * c) (h.y + 2 * h.rs - 1) with
    | none => (g, es :: rest)
    | some t =>
      let r := t.pushAll part es
      let q := Region.pushColumns (g.putTile r.1) h part (c + 1) rest
      (q.1, r.2 :: q.2)

/-- The MDRAIN that goes on: the one in progress, else the first that need not wait. (DEDUCED, log 38.) -/
def Sheet.nextDrain (h : Sheet) : Option (Nat × BankOp) :=
  let pick (q : Nat → BankOp → Bool) : Option (Nat × BankOp) :=
    (List.range h.ops.length).findSome? fun i =>
      match (h.ops[i]? : Option SheetOp) with
      | some (.bank b) => if b.op == .mdrain && q i b then some (i, b) else none
      | _ => none
  match pick fun _ b => b.drain.isSome with
  | some r => some r
  | none => pick fun i b => !h.opWaits i b.bank

/-- MDRAIN_COMPLETE: an MDRAIN that need not wait drains its bank: entries go to the columns' FIFOs while these have room, and
its done token follows the last push; a foreign or poisoned bank gives a record (R301, R302). -/
def execMdrainComplete (p : Site) (s : State) : Host.Outcome State Fault Refusal :=
  match s.launch? p.r.h, s.region? p.r with
  | some l, some g =>
    match g.sheet? p.x p.y with
    | none => .next s
    | some h =>
      match h.nextDrain with
      | none => .next s
      | some (i, b) =>
        if !s.live l then .next s
        else
          let z := h.sender p.r.m b.reply.slot
          let zero := bitAt b.reply.f.xmod 2
          let h1 := { h with ops := h.ops.eraseIdx i }
          let poison := (h.bankState b.bank).poison
          let fuel := h.ops.length
          match b.drain, h.foreignTo b, poison with
          | none, true, _ =>
            .next ((answerRecord (s.putRegion p.r (g.putSheet h1)) p.r z b.reply (mkCause 7 6) 0).settleOps p.r p.x p.y fuel)
          | none, false, some c =>
            let h2 := if zero then h1.zeroBank b.bank else h1
            .next ((answerRecord (s.putRegion p.r (g.putSheet h2)) p.r z b.reply c 0).settleOps p.r p.x p.y fuel)
          | d, _, _ =>
            let lists := d.getD (g.drainLists h b)
            let x := g.pushColumns h (bitsAt b.reply.f.xmod 3 3).toNat 0 lists
            if x.2.all List.isEmpty then
              let h2 := if zero then h1.zeroBank b.bank else h1
              .next ((answerAll (s.putRegion p.r (x.1.putSheet h2)) p.r z b.reply 0).settleOps p.r p.x p.y fuel)
            else
              .next (s.putRegion p.r (x.1.putSheet { h with ops := h.ops.set i (.bank { b with drain := some x.2 }) }))
  | _, _ => .next s

/-! ## Side-band tokens (R303) -/

/-- Send the operand's payload as a side-band token to every valid destination; a bubble operand sends nothing (R303). -/
def fireSide (sub : BitVec 3) (f : Fields) (s : State) : Host.Outcome State Fault Refusal :=
  fire { f with bub := false } s fun c =>
    c.sends ((dests c.f).map fun d => ⟨d, c.tagOut, true, 1, false, sub, (operands c.e c.f c.set none).a⟩)

/-- MSCALE: scales (R303). -/
def execMscale (f : Fields) (s : State) : Host.Outcome State Fault Refusal := fireSide (if bitAt f.xmod 0 then 1 else 0) f s
/-- MCODE: a codebook (R303). -/
def execMcode (f : Fields) (s : State) : Host.Outcome State Fault Refusal := fireSide 2 f s
/-- MEPI: epilogue scales or zero points (R303). -/
def execMepi (f : Fields) (s : State) : Host.Outcome State Fault Refusal := fireSide (if bitAt f.xmod 0 then 4 else 3) f s

end Sys2Proof.Machine
end

