-- ==== Sys2Proof/Machine/Purge.lean ====
section
/-! DEFINITION. The end of a purge (R187, R188, R298, R328, R364): what it discards, what it resets, and its record. -/

namespace Sys2Proof.Machine

/-- Is a token of a colour? -/
def Token.of (t : Token) (c : Nat) : Bool := tagCol t.tag == c
/-- Is a matched set of a colour? -/
def ReadySet.of (r : ReadySet) (c : Nat) : Bool := tagCol r.tag == c
/-- Is a request of a colour? -/
def Request.of (q : Request) (c : Nat) : Bool := tagCol q.tag == c
/-- Is an output-queue entry of a colour? -/
def OutItem.of (o : OutItem) (c : Nat) : Bool :=
  match o with
  | .tok t => t.of c
  | .global q => q.of c
  | .tile q => q.of c

/-- Is whoever waits for a purge a reply of a colour, which a purge of that colour discards? -/
def Waiter.of (w : Waiter) (c : Nat) : Bool :=
  match w with
  | .reply q => tagCol q.tag == c
  | .hart _ _ => false

/-! ## Accesses (R187, R328) -/

/-- Has the request of an access left its memory-port tile? A KVEVICT's has once its hold is in place. -/
def Access.left (a : Access) : Bool :=
  match a.stage with
  | .slice | .held _ => true
  | .settled => isKv a.req.op
  | _ => false

/-- The accesses after a purge: those that have not left their tile go, the others complete without their replies. -/
def purgeAccs (as : List Access) (c : Nat) : List Access :=
  (as.filter fun a => !a.req.of c || a.left).map fun a => if a.req.of c then { a with mute := true } else a

/-- A transfer after a purge: a COPY completes without its reply, a NASK ends without an answer (R364). -/
def Xfer.purged (x : Xfer) (c : Nat) : Xfer :=
  if !x.acc.req.of c then x
  else
    let y := { x with acc := { x.acc with mute := true } }
    if x.acc.req.op == .nask then { y with answer := some (.cause (mkCause 4 5)) } else y

/-! ## Elements and tiles -/

/-- The instruction word in a slot of an element. -/
def Elem.fieldsAt (e : Elem) (ctx slot : Nat) : Fields := decodeFields ((e.slotWord? ctx slot).getD 0)

/-- A REPEAT or reduction of a purged colour ends: s[SSEL] becomes k[KSEL] (R187). -/
def Elem.resetAcc (e : Elem) (ctx slot : Nat) : Elem :=
  let f := e.fieldsAt ctx slot
  e.setSreg ctx f.ssel.toNat (e.kreg ctx f.ksel.toNat)

/-- An element without the tokens of a colour (R187). -/
def Elem.discard (e : Elem) (c : Nat) : Elem :=
  let part := match e.ready with
    | r :: _ => if e.repPos ≠ 0 && r.of c then some r else none
    | [] => none
  let e1 := match part with
    | some r => { e.resetAcc r.ctx r.slot with repPos := 0 }
    | none => e
  let e2 := (e1.reds.filter fun r => tagCol r.key == c).foldl (fun e r => e.resetAcc r.ctx r.slot) e1
  { e2 with
    store := e.store.filter fun n => !n.tok.of c
    allocs := e.allocs.filter fun a => tagCol a.key != c
    reds := e.reds.filter fun r => tagCol r.key != c
    pend := e.pend.filter fun r => !r.of c
    ready := e.ready.filter fun r => !r.of c
    held := e.held.filter fun r => !r.of c
    out := e.out.filter fun o => !o.of c }

/-- After a purge has ended an instance, the next waiting key of its reduction becomes active (R133). -/
def Region.nextReductions (g : Region) (op : Token → Payload) (now : Nat) (ended : List (Nat × Nat)) (e : Elem) : Elem × List Token :=
  ended.foldl (fun x p =>
    let f := x.1.fieldsAt p.1 p.2
    let o := (opOf (bitsAt ((x.1.slotWord? p.1 p.2).getD 0) 119 9) f.xmod).getD .ired
    match runReduce o now g f op p.1 p.2 (x.1.store.length + 1) x.1 [] with
    | some (e1, used) => (e1, x.2 ++ used)
    | none => x) (e, [])

/-- A frame pool without the frames whose SAVED tag has a colour (R187). -/
def Tile.freeFrames (t : Tile) (c : Nat) : Tile :=
  match t.pool? with
  | none => t
  | some w => (List.range (poolFrames w)).foldl (fun t m =>
      let r := t.frame w m
      if frameV r && tagCol (bitsAt r 0 64) == c then t.setFrame w m 0 else t) t

/-- A memory tile without the tokens of a colour (R187). -/
def Tile.discard (t : Tile) (c : Nat) : Tile :=
  let chan (k : Chan) : Chan := { k with
    cur := k.cur.map fun x => x.purged c
    queue := k.queue.map fun x => x.purged c
    waits := k.waits.filter fun q => !q.of c }
  let gen (k : Gen) : Gen := { k with nest := k.nest.filter fun n => !n.req.of c, queue := k.queue.filter fun q => !q.of c }
  { t.freeFrames c with
    frameWaits := t.frameWaits.filter fun w => !w.2.2.of c
    lane := t.lane.filter fun k => !k.of c
    chans := t.chans.map chan
    gens := t.gens.map gen }

/-- CALLs that wait at a tile take the frames that a purge has freed (R128). -/
def Region.serveFrames (g : Region) (x y now : Nat) : Nat → Region
  | 0 => g
  | fuel + 1 =>
    match g.tile? x y with
    | none => g
    | some t =>
      match t.pool? with
      | none => g
      | some w => if t.frameWaits.isEmpty then g else (g.serveFrame t w now).serveFrames x y now fuel

/-- A sheet without the streams, passes and operations of a colour; the banks it owned are zero (R298). -/
def Sheet.discard (h : Sheet) (c : Nat) : Sheet :=
  let gone (o : SheetOp) : Bool := match o with
    | .pass p => tagCol p.reply.tag == c
    | .bank b => tagCol b.reply.tag == c
  let h1 := { h with
    staged := h.staged.filter fun k => !k.tok.of c
    streams := h.streams.filter fun k => tagCol k.tag != c
    ops := h.ops.filter fun o => !gone o }
  [0, 1].foldl (fun h b => if (h.bankState b).owner.any fun o => o.1 == c then h.zeroBank b else h) h1

/-! ## The region -/

/-- The tokens of a colour that a purge discards in a region: its tokens, and its requests that have not left their tile. The
copies of stream heads in ready sets are no tokens of their own. (DEDUCED, log 35.) -/
def Region.doomed (g : Region) (c : Nat) : Nat :=
  let copies := g.elems.flatMap fun e => ((e.pend ++ e.ready).flatMap ReadySet.toks).filter fun t => t.kind == 1
  let requests := g.elems.flatMap fun e => e.out.filter fun o => match o with
    | .tok _ => false
    | _ => o.of c
  countIf (fun t : Token => t.of c) g.tokens - countIf (fun t : Token => t.of c) copies + requests.length +
    countIf (fun a : Access => a.req.of c && !a.left) g.accs

/-- A region without the tokens of a colour, its allocators reset, its census of the colour zero (R187). -/
def Region.discard (g : Region) (op : Token → Payload) (now c : Nat) : Region :=
  let es := g.elems.map fun e =>
    let ended := (e.reds.filter fun r => tagCol r.key == c).map fun r => (r.ctx, r.slot)
    g.nextReductions op now ended (e.discard c)
  let used := es.flatMap fun x => x.2.map fun t => (x.1.x, x.1.y, t)
  let empty (w : Window) : Window := if (g.windowKey w).any (fun k => k % 64 == c) then { w with head := 0, tail := 0, units := [], wait := none } else w
  let g1 : Region := { g with
    elems := es.map Prod.fst
    tiles := g.tiles.map fun t => t.discard c
    ports := g.ports.map fun p => { p with queue := p.queue.filter fun t => !t.of c }
    stns := g.stns.map fun w => { w with queues := w.queues.map fun q => q.filter fun t => !t.of c }
    mports := g.mports.map fun m => { m with chains := m.chains.filter fun k => k.key % 64 != c, windows := m.windows.map empty }
    links := g.links.filter fun k => !k.tok.of c
    accs := purgeAccs g.accs c
    ctxReqs := g.ctxReqs.filter fun q => tagCol q.reply.tag != c
    sheets := g.sheets.map fun h => h.discard c
    census := g.census.filter fun q => q.1 % 64 != c
    quiet := g.quiet.filter fun k => k % 64 != c
    zeroLast := g.zeroLast.filter fun k => k % 64 != c
    deltas := g.deltas.map fun d => if d.key % 64 == c then { d with d := 0 } else d
    admits := g.admits.filter fun q => q.1 != c
    stall := g.stall.filter fun q => q.1 != c
    stalled := g.stalled.filter (· != c)
    due := g.due.filter (· != c) }
  let g2 := g1.tiles.foldl (fun g t => g.serveFrames t.x t.y now t.frameWaits.length) g1
  (used.filter fun u => u.2.2.counted).foldl (fun g u => g.count (.site u.1 u.2.1) u.2.2.tag (-1) false) g2

/-! ## The package -/

/-- The LOCAL faces of the NASK transfers of a colour in a region (R364). -/
def Region.doomedAskers (g : Region) (r : Rid) (c : Nat) : List FaceTo :=
  g.tiles.flatMap fun t => t.chans.zipIdx.flatMap fun k =>
    ((k.1.cur.toList ++ k.1.queue).filter fun x => x.acc.req.op == .nask && x.acc.req.of c).map fun x =>
      .asker r t.x t.y k.2 x.num

/-- Remove faces, and the interests that would make them, without answers (R364). -/
def State.dropAskers (s : State) (fs : List FaceTo) : State :=
  let s1 := (s.pits.filter fun p => p.faces.any fun f => fs.contains f.who).foldl (fun s p => s.dropFaces p fun f => fs.contains f.who) s
  { s1 with
    gmsgs := s1.gmsgs.filter fun m => !fs.contains m.sender
    gheld := s1.gheld.filter fun m => !fs.contains m.sender }

/-- MZEROs that waited behind a purged operation act (R297). -/
def State.settleSheets (s : State) (r : Rid) : State :=
  match s.region? r with
  | none => s
  | some g => g.sheets.foldl (fun s h => s.settleOps r h.x h.y h.ops.length) s

/-- The members of a launch as region identities. -/
def Launch.rids (l : Launch) : List Rid := (List.range l.members.length).map fun m => ⟨l.handle, m⟩

/-- The purge record of a colour (R188): to its EXIT port, or to the fault page of its world. (DEDUCED, log 35.) -/
def State.purgeRecord (s : State) (h : Word32) (c n : Nat) : State :=
  match s.launch? h with
  | none => s
  | some l =>
    match l.members[0]? with
    | none => s
    | some g =>
      let tag := mkTag c 0 0
      let extra := BitVec.ofNat 64 n
      if colExit (g.col c) = 31 then s.deliver (regionFault s l g (colWorld (g.col c)) (mkCause 4 5) 0 tag extra)
      else raiseToExit s ⟨h, 0⟩ .ctrl (ctrlSender 0).prod 0x7F 0x3F 31 0 2 (mkCause 4 5) extra tag

/-- Whoever waits for a purge is answered (R198, R204); a reply of the purged colour is discarded with it. -/
def State.answerPurge (s : State) (h : Word32) (c n : Nat) (w : Waiter) : State :=
  match w with
  | .reply q => if tagCol q.tag = c then s else answerAll s ⟨h, q.m⟩ (ctrlSender q.m) q (stat 0 (2 ^ 32 * n))
  | .hart k rd => s.wake k rd (BitVec.ofNat 64 (2 ^ 32 * n))

/-- PURGE_COMPLETE: a purge of a colour ends, at every member of its launch at once (R187, R188, R424). -/
def execPurgeComplete (h : Word32) (col : BitVec 6) (s : State) : Host.Outcome State Fault Refusal :=
  match s.launch? h with
  | none => .next s
  | some l =>
    let c := col.toNat
    match l.purges.find? fun p => p.col == c with
    | none => .next s
    | some p =>
      if !s.live l then .next s
      else
        let mine (k : StnTok) : Bool := k.h == h && k.tok.of c
        let n := l.members.foldl (fun a g => a + g.doomed c) (countIf mine s.stnToks)
        let askers := (l.members.zip l.rids).flatMap fun q => q.1.doomedAskers q.2 c
        let op (g : Region) (u : Token) : Payload := (openTok s l.sl (g.tagWorld u.tag) u).pay
        let l1 := { l with
          members := l.members.map fun g => g.discard (op g) s.cycle c
          purges := (l.purges.filter fun q => q.col != c).map fun q => { q with waiters := q.waiters.filter fun w => !w.of c }
          spanReplies := l.spanReplies.filter fun q => tagCol q.2.tag != c
          spanDue := l.spanDue.filter fun d => tagCol d.tag != c }
        let s1 := { s with stnToks := s.stnToks.filter fun k => !mine k }
        let l2 := if l1.toSaved && l1.purges.isEmpty && l1.drainFrom.isNone then l1.drain s.cycle else l1
        let s2 := l.rids.foldl (fun s r => s.settleSheets r) ((s1.putLaunch l2).dropAskers askers)
        .next (p.waiters.foldl (fun s w => s.answerPurge h c n w) (s2.purgeRecord h c n))

end Sys2Proof.Machine
end

