-- ==== Sys2Proof/Machine/Restore.lean ====
section
/-! DEFINITION. Restore of a SAVED launch (R315, R383, R384). -/

namespace Sys2Proof.Machine

/-- The elements that an image describes, its words unchecked (R383); none when it cannot be read. -/
def State.imageElems (s : State) (w : BitVec 8) (va : Nat) : Option (List Elem) :=
  match s.vrange w va 64 false with
  | .error _ => none
  | .ok v0 =>
    let hdr : BitVec 512 := BitVec.ofNat 512 (v0.readNat s.mem 0 64)
    let i0 : Img := ⟨v0, s.mem, hdr⟩
    match s.vrange w va (max 64 i0.size) false with
    | .error _ => none
    | .ok v =>
      let i : Img := ⟨v, s.mem, hdr⟩
      let ps := if i.fld 192 32 = 0 then [] else (i.pats (i.fld 192 32) (i.fld 384 32)).1
      some ((sitesOf i.w i.h 0).map fun q => loadElem ps q.1 q.2)

/-- The slots of a context in the elements of an image, at a site. -/
def slotsAt (es : List Elem) (x y c : Nat) : List (Nat × SlotWord) :=
  match es.find? fun e => e.x == x && e.y == y with
  | some e => e.slots.filter fun q => q.1 / 32 == c
  | none => []

/-- The elements from which each context's words are reloaded: the image's, or those of the configuration that its CTXNEXT
loaded (R383); none when one cannot be read. -/
def State.wordSources (s : State) (w : BitVec 8) (g : Region) : Option (List (Nat × List Elem)) :=
  ((List.range 8).filter fun c => g.ctx.getD c .free != .free).foldl (fun acc c =>
    match acc, s.imageElems w (let a := (g.ctxCfg.getD c 0).toNat
                               if a = 0 then g.image.toNat else a) with
    | some l, some es => some (l ++ [(c, es)])
    | _, _ => none) (some [])

/-- A region with its slot words reloaded (R383); none when an image cannot be read. -/
def State.reloadWords (s : State) (w : BitVec 8) (g : Region) : Option Region :=
  (s.wordSources w g).map fun src =>
    { g with elems := g.elems.map fun e => { e with badWords := [], slots := src.flatMap fun p => slotsAt p.2 e.x e.y p.1 } }

/-- A mode word without PAR and SIZE when it is a landing's. -/
def landingBlind (w : Word64) : Word64 :=
  if modeOf w = 6 then setBits (setBits w 56 (0 : BitVec 4)) 39 (0 : BitVec 9) else w

/-- The colour table that an image itself holds; empty when it cannot be read. -/
def State.imageTable (s : State) (w : BitVec 8) (va : Nat) : List (BitVec 256) :=
  match s.vrange w va 64 false with
  | .error _ => []
  | .ok v0 =>
    let hdr : BitVec 512 := BitVec.ofNat 512 (v0.readNat s.mem 0 64)
    match s.vrange w va (max 64 (Img.mk v0 s.mem hdr).size) false with
    | .error _ => []
    | .ok v => colourTable ⟨v, s.mem, hdr⟩ s.mem none []

/-- What may not differ between an image and one that replaces it (R384). -/
def Region.imageBlind (g : Region) : Region :=
  { g with image := 0, tiles := g.tiles.map fun t => { t with modes := t.modes.map landingBlind } }

/-- An element's landing entries in the order of their buckets, as they are copied into a larger landing (R384). -/
def Elem.rebucket (e : Elem) : Elem :=
  let land := e.store.filter Entry.landed
  { e with store := (e.store.filter fun n => !n.landed) ++
      (List.range 64).flatMap fun b => land.filter fun n => bucket n.slot n.side n.tok.tag == b }

/-- A region under the image that its snapshot header names: itself when that has not changed; with the new landings when the
new image differs in nothing but their PAR and SIZE and passes its checks; else none (R384). The launch's colour table stays, so the
images are checked with it, and their own tables must agree. -/
def State.newImage (s : State) (l : Launch) (g : Region) (area : Nat) : Option Region :=
  let va := readNat s.mem (area + 0x18) 8
  if va = g.image.toNat then some g
  else
    let load (a : Nat) : Loaded := loadImage s l.world a l.priv none [] none none (some g.coltab)
    match load va, load g.image.toNat with
    | .ok a ha, .ok b hb =>
      if a.imageBlind == b.imageBlind && ha == hb && s.imageTable l.world va == s.imageTable l.world g.image.toNat then
        some { g with
          image := BitVec.ofNat 64 va
          elems := g.elems.map Elem.rebucket
          tiles := g.tiles.map fun t => match a.tile? t.x t.y with
            | some n => { t with modes := n.modes }
            | none => t }
      else none
    | _, _ => none

/-- A CTXNEXT that waits as a snapshot has it goes back to the ready queue of its element: its pending reply is a token again (R383). Its
operand is the address in the area, at 16 bytes an entry; the rest of the payload is zero. (DESIGN CHOICE, log 41.) -/
def Region.requeue (g : Region) (m : List Host.Cell) (area now : Nat) : Region :=
  g.ctxReqs.zipIdx.foldl (fun g q =>
    let r := q.1.reply
    match g.elem? r.x r.y with
    | none => g
    | some e =>
      let addr : Word64 := if q.2 < 8 then ofBytes 64 (readBytes m (area + 0x80 + 16 * q.2) 8) else q.1.addr
      let t : Token := ⟨mkHdr 0 0 (BitVec.ofNat 5 r.slot) 0 true 0 false r.last 0, r.tag, addr.setWidth 256, none⟩
      let g1 := (g.count .ctrl r.tag (-1) false).count (.site r.x r.y) r.tag 1 false
      g1.putElem (e.complete now (setOf (tagCtx r.tag) r.slot [(0, t)] now none))) { g with ctxReqs := [] }

/-- A restored region's accesses start again from the colour-window stage, and the banks' orders start at copy channel 0 (R209, R382,
R383). -/
def Region.restart (g : Region) : Region :=
  let h := g.reissue
  { h with tiles := h.tiles.map fun t => { t with rr := [] } }

/-- The members of a launch as a restore puts them in place: the area read back, the slot words reloaded, waiting CTXNEXT in the ready
queues, the entry ports open; none when it is refused (R383). (DESIGN CHOICE, log 41.) -/
def State.restored (s : State) (l : Launch) : List (Region × Nat × Nat) → Option (List Region)
  | [] => some []
  | (g, area, _) :: rest =>
    match s.newImage l (g.readSnap s.mem area) area with
    | none => none
    | some g1 =>
      match s.reloadWords l.world g1, s.restored l rest with
      | some g2, some gs =>
        let g3 := (g2.requeue s.mem area s.cycle).restart
        some ({ g3.setClosed false with stall := [], sweepStart := s.cycle } :: gs)
      | _, _ => none

/-- Every view of a launch is rewritten from its remap table (R315, R383). -/
def State.rewriteViews (s : State) (h : Word32) : State :=
  s.kvSeqs.foldl (fun s e => s.refreshViews { e with views := e.views.filter fun v => v.r.h == h } ⟨e.pa % 65536, e.pages⟩) s

/-- REGION_RESTORE: a SAVED launch in its new place is restored and RUNNING, or the restore is refused with 0xE.05 and it stays
SAVED (R383, R384, R412). While an area meets a held line it waits (R261). -/
def execRegionRestore (h : Word32) (s : State) : Host.Outcome State Fault Refusal :=
  match s.launch? h with
  | none => .next s
  | some l =>
    if l.state != .loading || !l.scanned || s.pkg != .running || s.areasWait l.areas then .next s
    else
      let s := l.areas.foldl (fun s a => s.peek a.1 a.2) s
      match s.restored l (l.members.zip l.areas) with
      | none =>
        .next (match l.members[0]? with
          | some g => (s.saveLaunch l).deliver (regionFault s l g l.world (mkCause 14 5) 0 0 0)
          | none => s)
      | some ms =>
        let s1 := s.putLaunch { l with state := .running, members := ms, scanned := false, areas := [], frozenBy := none }
        .next ((s1.rewriteViews h).releaseBrk h).bumpLayout

end Sys2Proof.Machine
end

