-- ==== Sys2Proof/Machine/HartMem.lean ====
section
/-! DEFINITION. The memory accesses of the control cores and of the host attach (R262 to R264, R269, R270, R371, R436, R445): a hart's
address translation (RISC-V, PRESUMED, log 60), the waits at held lines, and the pieces of a transfer. -/

namespace Sys2Proof.Machine

/-! ## Control and status registers that translation reads -/

/-- A control and status register that has no field of its own. -/
def Hart.kept (k : Hart) (n : Nat) : Word64 := lookupD 0 n k.csr

/-- What an access does at its address. -/
inductive XKind where
  | fetch | load | store
  deriving DecidableEq, Repr

/-- The mode in which a hart's access is made: MPRV of mstatus (bit 17) gives loads and stores of M-mode the mode that MRET returns to. -/
def Hart.accessMode (k : Hart) (x : XKind) : Mode :=
  if k.mode == .m && x != .fetch && bitAt (k.kept 0x300) 17 then k.mtrap.pp else k.mode

/-! ## Address translation of a hart (Sv39, Sv48, Sv57; PRESUMED, log 60) -/

/-- The access fault of a kind of access. -/
def XKind.accessFault : XKind → Nat
  | .fetch => 1
  | .load => 5
  | .store => 7

/-- The page fault of a kind of access; a guest page fault has its code plus 8. -/
def XKind.pageFault : XKind → Nat
  | .fetch => 12
  | .load => 13
  | .store => 15

/-- The levels of a translation register's MODE; none when addresses are bare. -/
def svLevels (atp : Word64) : Option Nat :=
  match (bitsAt atp 60 4).toNat with
  | 8 => some 3
  | 9 => some 4
  | 10 => some 5
  | _ => none

/-- The address that a leaf entry found `n` levels above the lowest gives; none where its page number is misaligned. -/
def svLeaf (e : Word64) (n va : Nat) : Option Nat :=
  let ppn := (bitsAt e 10 44).toNat
  if ppn % 2 ^ (9 * n) ≠ 0 then none
  else if bitAt e 63 then if n = 0 ∧ ppn % 16 = 8 then some (2 ^ 16 * (ppn / 16) + va % 2 ^ 16) else none
  else some (2 ^ 12 * ppn + va % 2 ^ (12 + 9 * n))

/-- Does an entry break a rule of the format: a reserved bit, or a write without a read? -/
def svBad (e : Word64) : Bool := bitsAt e 54 7 != 0 || bitsAt e 61 2 == 3 || (!bitAt e 1 && bitAt e 2)

/-- Walk a table of a hart from a level, `n` levels above the lowest: `via` gives the physical address of an entry, `ok` says whether a
leaf permits the access. -/
def State.svWalk (s : State) (via : Nat → Except Nat Nat) (ok : Word64 → Bool) (x : XKind) (fault va : Nat) :
    Nat → Nat → Nat → Except Nat Nat
  | 0, _, _ => .error fault
  | n + 1, span, table =>
    match via (table + 8 * (va / 2 ^ (12 + 9 * n) % span)) with
    | .error c => .error c
    | .ok pa =>
      if !inHbm (pa + 7) || (s.poison? pa 8).isSome then .error x.accessFault
      else
        let e : Word64 := BitVec.ofNat 64 (readNat s.mem pa 8)
        if !bitAt e 0 || svBad e then .error fault
        else if bitAt e 1 || bitAt e 3 then
          match svLeaf e n va with
          | some a => if ok e && bitAt e 6 && (x != .store || bitAt e 7) then .ok a else .error fault
          | none => .error fault
        else if bitsAt e 4 4 != 0 then .error fault
        else s.svWalk via ok x fault va n 512 (2 ^ 12 * (bitsAt e 10 44).toNat)

/-- Does a leaf permit a kind of access, for a user or a supervisor, with SUM and MXR? -/
def svPermits (x : XKind) (user sum mxr : Bool) (e : Word64) : Bool :=
  (if bitAt e 4 then user || (sum && x != .fetch) else !user) &&
    match x with
    | .fetch => bitAt e 3
    | .load => bitAt e 1 || (mxr && bitAt e 3)
    | .store => bitAt e 2

/-- The second stage: a guest-physical address through hgatp, as a user's access. -/
def State.guestPa (s : State) (k : Hart) (x : XKind) (gpa : Nat) : Except Nat Nat :=
  match svLevels (k.kept 0x680) with
  | none => .ok gpa
  | some n =>
    if 2 ^ (14 + 9 * n) ≤ gpa then .error (x.pageFault + 8)
    else s.svWalk .ok (svPermits x true false (bitAt (k.kept 0x300) 19)) x (x.pageFault + 8) gpa n 2048
      (2 ^ 12 * (bitsAt (k.kept 0x680) 0 44).toNat)

/-- The first stage, of satp or vsatp: `status` holds SUM and MXR. -/
def State.firstStage (s : State) (atp status : Word64) (user : Bool) (via : Nat → Except Nat Nat) (x : XKind) (va : Nat) : Except Nat Nat :=
  match svLevels atp with
  | none => .ok va
  | some n =>
    let top := va / 2 ^ (11 + 9 * n)
    if top ≠ 0 ∧ top ≠ 2 ^ (53 - 9 * n) - 1 then .error x.pageFault
    else s.svWalk via (svPermits x user (bitAt status 18) (bitAt status 19)) x x.pageFault va n 512 (2 ^ 12 * (bitsAt atp 0 44).toNat)

/-- The physical address of a hart's access, or the code of the exception that it takes. (PRESUMED, log 60.) -/
def State.hartPa (s : State) (k : Hart) (x : XKind) (va : Nat) : Except Nat Nat :=
  let mode := k.accessMode x
  match mode with
  | .m => .ok va
  | .hs | .u => s.firstStage (k.kept 0x180) (k.kept 0x300) (mode == .u) .ok x va
  | .vs | .vu =>
    match s.firstStage (k.kept 0x280) (k.kept 0x200) (mode == .vu) (s.guestPa k .load) x va with
    | .error c => .error c
    | .ok gpa => s.guestPa k x gpa

/-! ## Waits at held lines (R269, R270, R326) -/

/-- The lines of HBM that n bytes reach, by their first address. -/
def hbmLines (pa n : Nat) : List Nat := (lineAddrs pa n).filter inHbm

/-- Is a waiting access the one that a hart, or the host, now makes again? -/
def BusWait.is (b : BusWait) (hart : Option Nat) (pa n : Nat) (op : BusOp) : Bool :=
  b.hart == hart && b.op == op && (hbmLines pa n).any fun a => lineOf a == lineOf b.pa

/-- May an access of a hart or the host go now (R269, R270, R326)? It waits at a line that another agent holds, and its wait
ends when it goes. -/
def State.busTry (s : State) (hart : Option Nat) (va pa n : Nat) (op : BusOp) : State × Bool :=
  let lines := hbmLines pa n
  let w := s.busWaits.find? fun b => b.is hart pa n op
  let since := (w.map BusWait.since).getD (s.cycle + 1)
  let id := (w.map BusWait.id).getD s.freshId
  if lines.any fun a => s.engineHolds (lineOf a) then (s, false)
  else
    match lines.find? fun a => s.lineForeign (lineOf a) none with
    | some a =>
      if w.isSome then (s, false)
      else ({ s with busWaits := s.busWaits ++ [BusWait.mk s.freshId hart va a op s.cycle], freshId := s.freshId + 1 }, false)
    | none =>
      if lines.any fun a => !s.lineTurn (lineOf a) since id then (s, false)
      else ({ s with busWaits := s.busWaits.filter fun b => b.id != id }, true)

/-- Does a declared held range of any launch map to a line (R265, R267)? -/
def State.lineDeclared (s : State) (line : Nat) : Bool :=
  s.launches.any fun l => l.declares && l.held.any fun r => (s.rangeLines (l.rangeWorld r) r.base (r.size / 128)).contains line

/-! ## Accesses of a hart, piece by piece (R262) -/

/-- How many bytes of the n that are left from an address lie in its 32-byte piece. -/
def pieceLen (a n : Nat) : Nat := min n (32 - a % 32)

/-- The bytes of a transfer that its earlier pieces have done. -/
def Hart.done (k : Hart) (va n : Nat) (store : Bool) (bs : List Byte) : List Byte :=
  match k.part with
  | some p => if p.va = va ∧ p.len = n ∧ p.store = store ∧ (!store || bs.take p.done.length == p.done) then p.done else []
  | none => []

/-- Note how far a hart's transfer is. -/
def State.setPart (s : State) (h : Nat) (p : Option HartPart) : State :=
  match s.hart? h with
  | some k => s.putHart h { k with part := p }
  | none => s

/-- The next piece of a load: the bytes of one piece, or the state in which it waits or has taken an exception, 5 (R202, R269, R371). -/
def State.loadPiece (s : State) (h : Nat) (k : Hart) (va pa m : Nat) : Except State (State × List Byte) :=
  let tval : Word64 := BitVec.ofNat 64 va
  if !mapped pa || !mapped (pa + m - 1) then .error (s.hartTrap h 5 tval)
  else
    let t := s.busTry (some h) va pa m (.load m)
    if !t.2 then .error t.1
    else if onPage pa then .ok (t.1.pageLoad k.accessor pa m)
    else if (t.1.poison? pa m).isSome then .error ((t.1.peek pa m).hartTrap h 5 tval)
    else .ok (t.1.peek pa m, readBytes t.1.mem pa m)

/-- The next piece of a store: the state after it, or the state in which it waits or has taken an exception, 7. -/
def State.storePiece (s : State) (h : Nat) (k : Hart) (va pa : Nat) (bs : List Byte) : Except State State :=
  let m := bs.length
  if !mapped pa || !mapped (pa + m - 1) then .error (s.hartTrap h 7 (BitVec.ofNat 64 va))
  else
    let t := s.busTry (some h) va pa m (.store m (ofBytes 64 bs))
    if !t.2 then .error t.1
    else if onPage pa then
      match t.1.pageStore ⟨k.accessor, pa, m, ofBytes 64 bs⟩ with
      | some s1 => .ok s1
      | none => .error t.1
    else .ok (t.1.poke pa bs)

/-- A load of n bytes by a hart, aligned, at an address that `tr` translates: the state after with the bytes, or the state in which it
waits, has done a piece (R262), or has taken an exception: 4 misaligned, 5 access fault, or what translation gives (R202, R269, R371;
RISC-V, PRESUMED, log 5). -/
def State.hartLoad (s : State) (h : Nat) (k : Hart) (tr : Nat → Except Nat Nat) (va n align : Nat) : Except State (State × List Byte) :=
  if va % align ≠ 0 then .error (s.hartTrap h 4 (BitVec.ofNat 64 va))
  else
    let got := k.done va n false []
    let at' := va + got.length
    match tr at' with
    | .error c => .error (s.hartTrap h c (BitVec.ofNat 64 at'))
    | .ok pa =>
      match s.loadPiece h k at' pa (pieceLen at' (n - got.length)) with
      | .error t => .error t
      | .ok (t, bs) =>
        let all := got ++ bs
        if all.length < n then .error (t.setPart h (some ⟨va, n, false, all⟩)) else .ok (t.setPart h none, all)

/-- A store of bytes by a hart, aligned, at an address that `tr` translates: the state after, or the state in which it waits, has done a
piece (R262), or has taken an exception: 6 misaligned, 7 access fault, or what translation gives (R202, R269; RISC-V, PRESUMED,
log 5). -/
def State.hartStore (s : State) (h : Nat) (k : Hart) (tr : Nat → Except Nat Nat) (va align : Nat) (bs : List Byte) : Except State State :=
  if va % align ≠ 0 then .error (s.hartTrap h 6 (BitVec.ofNat 64 va))
  else
    let done := k.done va bs.length true bs
    let at' := va + done.length
    match tr at' with
    | .error c => .error (s.hartTrap h c (BitVec.ofNat 64 at'))
    | .ok pa =>
      let m := pieceLen at' (bs.length - done.length)
      match s.storePiece h k at' pa ((bs.drop done.length).take m) with
      | .error t => .error t
      | .ok t =>
        let all := bs.take (done.length + m)
        if all.length < bs.length then .error (t.setPart h (some ⟨va, bs.length, true, all⟩)) else .ok (t.setPart h none)

/-- What an atomic instruction of a hart stores, of an old value and its operand, both of the low n bytes. -/
def amoResult (op : AmoOp) (n : Nat) (old v : Word64) : Word64 :=
  let a : Int := toSigned (8 * n) (old.toNat % 2 ^ (8 * n))
  let b : Int := toSigned (8 * n) (v.toNat % 2 ^ (8 * n))
  let ua := old.toNat % 2 ^ (8 * n)
  let ub := v.toNat % 2 ^ (8 * n)
  match op with
  | .swap => v
  | .add => old + v
  | .xor => old ^^^ v
  | .and => old &&& v
  | .or => old ||| v
  | .min => if a ≤ b then old else v
  | .max => if b ≤ a then old else v
  | .minu => if ua ≤ ub then old else v
  | .maxu => if ub ≤ ua then old else v

/-- An atomic of n bytes by a hart at its home slice: the state after with the old value, or the state in which it waits or has taken an
exception: 6 misaligned, 7 access fault, or what translation gives. In a declared held range it takes code 7 at once, and a record
0x6.02 goes to the hart's world (R248, R269). (DEDUCED, log 60.) -/
def State.hartAmo (s : State) (h : Nat) (k : Hart) (tr : Nat → Except Nat Nat) (va n : Nat) (op : AmoOp) (v : Word64) :
    Except State (State × Word64) :=
  let tval : Word64 := BitVec.ofNat 64 va
  if va % n ≠ 0 then .error (s.hartTrap h 6 tval)
  else
    match tr va with
    | .error c => .error (s.hartTrap h c tval)
    | .ok pa =>
      if !inHbm pa then .error (s.hartTrap h 7 tval)
      else if s.lineHeld pa || s.lineDeclared (lineOf pa) then
        .error ((s.hartTrap h 7 tval).deliver (bareFault s k.accessor.world (mkCause 6 2) h tval))
      else
        let t := s.busTry (some h) va pa n (.amo n op v)
        if !t.2 then .error t.1
        else if (t.1.poison? pa n).isSome then .error ((t.1.peek pa n).hartTrap h 7 tval)
        else
          let old : Word64 := ofBytes 64 (readBytes t.1.mem pa n)
          .ok (t.1.poke pa (toBytes (amoResult op n old v) n), old)

end Sys2Proof.Machine
end

