-- ==== Sys2Proof/Machine/Wx.lean ====
section
/-! DEFINITION. The control cores (R72 to R74, R202 to R207, R262 to R264, R269, R388, R389, R399, R445): a hart's and the host's
memory accesses, the Xwenxus instructions, the two world registers and the illegal-instruction exception. -/

namespace Sys2Proof.Machine

/-! ## Accesses of harts and of the host (R263, R269, R436) -/

/-- The size of an access of a hart. -/
def busSize : BusOp → Nat
  | .load n => n
  | .store n _ => n
  | .amo n _ _ => n

/-- Is a number the size of a hart access? -/
def hartSize (n : Nat) : Bool := n == 1 || n == 2 || n == 4 || n == 8

/-- What an access of HART_MEMORY_ACCESS comes to: the state after with what it loads, or the state in which it is not over. -/
def State.hartAccess (s : State) (h : Nat) (k : Hart) (pa : Nat) : BusOp → Except State (State × Word64)
  | .load n => (s.hartLoad h k .ok pa n 1).map fun r => (r.1, ofBytes 64 r.2)
  | .store n v => (s.hartStore h k .ok pa 1 (toBytes v n)).map fun t => (t, k.mdr)
  | .amo n op v => s.hartAmo h k .ok pa n op v

/-- HART_MEMORY_ACCESS: a load, store or atomic of a hart at a physical address is performed, piece by piece, waits at a held line, or
takes an exception (R262 to R264, R269, R402). What it loads goes to the hart's data register. While it is on its way the hart does
nothing else. -/
def execHartMemoryAccess (hart pa : Nat) (op : BusOp) (s : State) : Host.Outcome State Fault Refusal :=
  match s.hart? hart with
  | none => .next s
  | some k =>
    if k.waiting || !s.clocked || !hartSize (busSize op) || (k.blocked && k.mem != some (pa, op)) || (!k.blocked && k.part.isSome) ||
        k.scan.isSome then .next s
    else
      match s.hartAccess hart k pa op with
      | .ok (t, v) => .next (match t.hart? hart with
        | some q => t.putHart hart { q.drop with mdr := v }
        | none => t)
      | .error t => .next (match t.hart? hart with
        | some q => if q.part.isSome || t.busWaits.any (fun b => b.hart == some hart) then
            t.putHart hart { q with blocked := true, mem := some (pa, op) } else t
        | none => t)

/-- The world and trusted bit of the host attach (R399, R436). -/
def hostAccessor : Accessor := ⟨0, true, false⟩

/-- Does the host attach reach an address: HBM through its HDM decoder, or the package register page through BAR0 (R436)? -/
def hostMaps (pa : Nat) : Bool := inHbm pa || (pkgOffset pa).isSome

/-- One access of the host, of at most 8 bytes: the state after and whether it was made; a load leaves no other trace here. -/
def State.hostPiece (s : State) (pa : Nat) (op : BusOp) : State × Bool :=
  let t := s.busTry none pa pa (busSize op) op
  if !t.2 then t
  else
    match op with
    | .load n => (if onPage pa then (t.1.pageLoad hostAccessor pa n).1 else t.1.peek pa n, true)
    | .store n v =>
      if onPage pa then
        match t.1.pageStore ⟨hostAccessor, pa, n, v⟩ with
        | some s1 => (s1, true)
        | none => (s, false)
      else (t.1.poke pa (toBytes v n), true)
    | .amo _ _ _ => (s, true)

/-- The bytes of a host access. -/
def hostSize : HostOp → Nat
  | .load n => n
  | .store bs => bs.length

/-- The access of at most 8 bytes that a host access makes at an offset (R445). -/
def hostPieceOp (op : HostOp) (off : Nat) : BusOp :=
  match op with
  | .load n => .load (min 8 (n - off))
  | .store bs => .store (min 8 (bs.length - off)) (ofBytes 64 ((bs.drop off).take 8))

/-- HOST_ACCESS: a load or store of the host attach. One wider than 8 bytes is split into accesses of 8 in ascending address order, one a
step (R445). It reaches HBM and the package register page and nothing else (R436). -/
def execHostAccess (pa : Nat) (op : HostOp) (s : State) : Host.Outcome State Fault Refusal :=
  let done := ((s.hostParts.find? fun p => p.1 == pa && p.2.1 == op).map fun p => p.2.2).getD 0
  if !s.clocked || !Config.hostAttached || hostSize op = 0 then .next s
  else if !hostMaps pa || !hostMaps (pa + hostSize op - 1) then .fault (.unmapped pa)
  else
    let t := s.hostPiece (pa + done) (hostPieceOp op done)
    if !t.2 then .next t.1
    else
      let rest := t.1.hostParts.filter fun p => !(p.1 == pa && p.2.1 == op)
      .next { t.1 with hostParts := if done + 8 < hostSize op then rest ++ [(pa, op, done + 8)] else rest }

/-! ## World registers and exceptions (R74, R202, R399) -/

/-- A write of wxvworld takes the world, if that exists (R399). -/
def State.setVworld (s : State) (h : Nat) (v : Word64) : State :=
  match s.hart? h with
  | some k => if bitAt (s.wcfg (bitsAt v 0 8)) 63 then (s.putHart h { k with wxvworld := (bitsAt v 0 8).setWidth 64 }).bumpLayout else s
  | none => s

/-- WXVWORLD_WRITE: a write of wxvworld: from M-mode it takes the world, if that exists; from another mode it is the
illegal-instruction exception of the CSR's privilege (R399). -/
def execWxvworldWrite (hart : Nat) (value : Word64) (s : State) : Host.Outcome State Fault Refusal :=
  match s.hart? hart with
  | none => .next s
  | some k =>
    if k.waiting || k.blocked || !s.clocked then .next s
    else if k.mode != .m then .next (s.hartTrap hart 2 0)
    else .next (s.setVworld hart value)

/-- WXWORLD_WRITE: a write of wxworld is the illegal-instruction exception in every mode (R202). -/
def execWxworldWrite (hart : Nat) (_ : Word64) (s : State) : Host.Outcome State Fault Refusal :=
  match s.hart? hart with
  | none => .next s
  | some k => if k.waiting || k.blocked || !s.clocked then .next s else .next (s.hartTrap hart 2 0)

/-- ILLEGAL_INSTRUCTION_EXCEPTION: a custom-0 word that breaks the table of R72 and R73 (R74). -/
def execIllegalInstructionException (w : Word32) (s : State) : Host.Outcome State Fault Refusal :=
  match s.focus with
  | .hart h => .next (s.hartTrap h 2 (w.setWidth 64))
  | _ => .fault .notExecuting

/-- The world and trusted bit that wxworld shows (R202). -/
def Hart.wxworld (k : Hart) : Word64 := (0 : BitVec 55) ++ b2b k.accessor.trust ++ k.accessor.world

/-! ## What the Xwenxus instructions share (R192, R194, R202, R204) -/

/-- Run an Xwenxus instruction at its hart. One that U-mode and VU-mode may not execute takes the illegal-instruction
exception there (R74, R202). -/
def wxRun (s : State) (user : Bool) (i : Instr) (act : Nat → Hart → State) : Host.Outcome State Fault Refusal :=
  match s.focus with
  | .hart h =>
    match s.hart? h with
    | none => .fault .notExecuting
    | some k =>
      if !user && (k.mode == .u || k.mode == .vu) then .next (s.hartTrap h 2 (((encodeWx i).getD 0).setWidth 64))
      else .next (act h k)
  | _ => .fault .notExecuting

/-- rd receives a status in bits 7:0 and a value above it (R204). -/
def State.wxDone (s : State) (h : Nat) (rd : BitVec 5) (code above : Nat) : State := s.hartDone h rd (BitVec.ofNat 64 (above + code))

/-- HANDLE of a selector or port handle (R194). -/
def selHandle (v : Word64) : Word32 := bitsAt v 32 32
/-- ALLCX of a selector. -/
def selAllcx (v : Word64) : Bool := bitAt v 19
/-- CX of a selector. -/
def selCx (v : Word64) : Nat := (bitsAt v 16 3).toNat
/-- COL of a selector. -/
def selCol (v : Word64) : Nat := (bitsAt v 0 6).toNat
/-- Are the reserved bits of a selector zero? -/
def selClean (v : Word64) : Bool := bitsAt v 20 12 == 0 && bitsAt v 6 10 == 0
/-- PORT of a port handle. -/
def portNo (v : Word64) : Nat := (bitsAt v 0 5).toNat
/-- Are the reserved bits of a port handle zero? -/
def portClean (v : Word64) : Bool := bitsAt v 5 27 == 0
/-- May a hart name a launch: is it of its world, or the hart trusted (R202)? -/
def Hart.mayName (k : Hart) (l : Launch) : Bool := k.accessor.trust || k.accessor.world == l.world

/-- Block a hart until it is answered. (DEDUCED, log 18.) -/
def State.blockHart (s : State) (h : Nat) : State :=
  match s.hart? h with
  | some k => s.putHart h { k with blocked := true }
  | none => s

/-! ## WX.LAUNCH -/

/-- WX.LAUNCH: reads the record at rs1 and submits it (R195, R196, R204). -/
def execWxLaunch (rd rs1 : BitVec 5) (s : State) : Host.Outcome State Fault Refusal :=
  wxRun s false (.wxLaunch rd rs1) fun h k =>
    match s.hartLoad h k (s.hartPa k .load) (k.reg rs1).toNat 64 64 with
    | .error t => t
    | .ok (t, bs) =>
      let r := t.submit (ofBytes 512 bs) k.accessor.world k.accessor.trust
      r.1.wxDone h rd r.2.1.toNat (2 ^ 32 * r.2.2.toNat)

/-! ## WX.PUSHTOK (R177, R183, R203) -/

/-- The token of an image (R203). -/
def imageToken (bs : List Byte) : Token := ⟨ofBytes 32 ((bs.drop 40).take 4), ofBytes 64 ((bs.drop 32).take 8), ofBytes 256 (bs.take 32), none⟩

/-- Is a pushed token image well formed (R203)? -/
def pushOk (g : Region) (w : Word64) (t : Token) (bs : List Byte) : Bool :=
  let x := (portAx w : Int) + t.dx
  let y := (portAy w : Int) + t.dy
  t.kind != 3 && t.side != 3 && !bitAt t.hdr 8 && bitsAt t.hdr 0 4 == 0 && (bs.drop 44).all (· == 0) &&
    decide (0 ≤ x ∧ 0 ≤ y) && (g.elem? x.toNat y.toNat).isSome

/-- Is a token a close request (R203)? -/
def closeRequest (t : Token) : Bool := t.kind == 2 && t.sub == 7

/-- Admit a token at entry port i of member 0: it takes the port's colour, is captured and sealed, counts unless it is a side-band
token, and ends its pair's quiescence in every member (R177, R180, R182, R183, R392, R403, R424). -/
def State.admits (s : State) (l : Launch) (g : Region) (i : Nat) (p : Port) (t : Token) : State :=
  let c := portCol p.word
  let u := { t with tag := setBits t.tag 58 (BitVec.ofNat 6 c) }
  let s1 := s.capture l u i 0 0
  let z := sealTok s l.sl (colWorld (g.col c)) (prodId 0 i 0x3F 2) u
  let g1 := (g.putPort i { p with queue := p.queue ++ [z.1] }).count (.port i) u.tag (if u.counted then 1 else 0) false
  let l1 := l.put 0 { g1 with admits := setKey c (g1.adm c + 1) g1.admits }
  s1.putLaunch { l1 with members := l1.members.map fun m => m.stir (tagKey u.tag), sl := z.2, admitted := true }

/-- Is a launch past its run (R168)? -/
def Launch.past (l : Launch) : Bool := l.state == .retired || l.state == .committed

/-- Do the ports of a launch take pushes: is it RUNNING, and not draining (R192, R385)? -/
def Launch.open' (l : Launch) : Bool := l.state == .running && !l.draining

/-- WX.PUSHTOK's conditions and effect, the image read (R203, R204): the status and the state after. -/
def State.push (s : State) (k : Hart) (v : Word64) (bs : List Byte) : State × Nat :=
  match s.launch? (selHandle v) with
  | none => (s, 11)
  | some l =>
    match l.members[0]? with
    | none => (s, 11)
    | some g =>
      let i := portNo v
      match g.ports[i]? with
      | none => (s, 11)
      | some p =>
        let w := colWorld (g.col (portCol p.word))
        let t := imageToken bs
        if portType p.word ≠ 3 then (s, 11)
        else if !k.mayName l || (s.sealedWorld w && k.accessor.world != w) then (s, 10)
        else if !portClean v || !pushOk g p.word t bs then (s, 9)
        else if l.past || p.closed then (s, 5)
        else if !l.open' then (s, 4)
        else if closeRequest t then (s.putLaunch (l.put 0 (g.putPort i { p with closed := true })), 0)
        else if l.purging (portCol p.word) then (s, 3)
        else if !l.underQuota (portCol p.word) then (s, 1)
        else if decide (16 ≤ p.queue.length) || l.replay then (s, 2)
        else (s.admits l g i p t, 0)

/-- WX.PUSHTOK: admits the token image at rs1 at the port in rs2 (R203, R204). -/
def execWxPushtok (rd rs1 rs2 : BitVec 5) (s : State) : Host.Outcome State Fault Refusal :=
  wxRun s true (.wxPushtok rd rs1 rs2) fun h k =>
    match s.hartLoad h k (s.hartPa k .load) (k.reg rs1).toNat 64 64 with
    | .error t => t
    | .ok (t, bs) =>
      let r := t.push k (k.reg rs2) bs
      r.1.wxDone h rd r.2 0

/-! ## WX.PULLTOK (R178, R205) -/

/-- The tokens that wait at an exit port: in its queue, or in the result store of a launch that is over. -/
def Launch.exitQueue (l : Launch) (g : Region) (i : Nat) : List Token :=
  if l.past then ((l.results.find? fun q => q.1 == i).map Prod.snd).getD [] else ((g.ports[i]?).map Port.queue).getD []

/-- Replace them; an empty result store is released. -/
def Launch.setExitQueue (l : Launch) (g : Region) (i : Nat) (ts : List Token) : Launch :=
  if l.past then { l with results := (l.results.map fun q => if q.1 == i then (i, ts) else q).filter fun q => !q.2.isEmpty }
  else match g.ports[i]? with
    | some p => l.put 0 (g.putPort i { p with queue := ts })
    | none => l

/-- The conditions of WX.PULLTOK (R204): a status, or the launch, its member 0 and the tokens that wait. -/
def State.pullCheck (s : State) (k : Hart) (v : Word64) : Except Nat (Launch × Region × Token × List Token) :=
  match s.launch? (selHandle v) with
  | none => .error 11
  | some l =>
    match l.members[0]? with
    | none => .error 11
    | some g =>
      let w := g.portWord (portNo v)
      let cw := colWorld (g.col (portCol w))
      if portType w ≠ 4 then .error 11
      else if !k.mayName l || (s.sealedWorld cw && k.accessor.world != cw) then .error 10
      else if !portClean v then .error 9
      else
        match l.exitQueue g (portNo v) with
        | [] => .error 6
        | t :: rest => .ok (l, g, t, rest)

/-- WX.PULLTOK: writes the oldest token of the exit queue to the buffer at rs1 and removes it (R204, R205). -/
def execWxPulltok (rd rs1 rs2 : BitVec 5) (s : State) : Host.Outcome State Fault Refusal :=
  wxRun s true (.wxPulltok rd rs1 rs2) fun h k =>
    match s.pullCheck k (k.reg rs2) with
    | .error c => s.wxDone h rd c 0
    | .ok (l, g, t, rest) =>
      match s.hartStore h k (s.hartPa k .store) (k.reg rs1).toNat 64 (tokenImage t) with
      | .error s1 => s1
      | .ok s1 => (s1.putLaunch (l.setExitQueue g (portNo (k.reg rs2)) rest)).wxDone h rd 0 (2 ^ 8 * rest.length)

/-! ## WX.CENSUS, WX.PURGE, WX.SPANWAIT -/

/-- What WX.CENSUS reads beyond the status (R204, R424). -/
def Launch.censusRead (l : Launch) (v : Word64) : Nat :=
  let col := selCol v
  let quiet := if selAllcx v then (List.range 8).all fun c => l.quietKey (64 * c + col) else l.quietKey (64 * selCx v + col)
  (if quiet then 2 ^ 8 else 0) + (if l.members.any fun g => g.stalled.contains col then 2 ^ 9 else 0) +
    (if l.purging col then 2 ^ 10 else 0) + 2 ^ 32 * (l.census (selCx v) col (selAllcx v)).toNat

/-- Has a launch entered RUNNING since it was last placed? -/
def Launch.begun (l : Launch) : Bool := !(l.state == .queued || l.state == .placing || l.state == .loading)

/-- The status of WX.CENSUS (R204): a selector of an unused colour or context is NOTFOUND (R192).
(DEDUCED, log 33.) -/
def State.censusCode (s : State) (k : Hart) (v : Word64) : Nat :=
  match s.launch? (selHandle v) with
  | none => 11
  | some l =>
    match l.members[0]? with
    | none => 11
    | some g =>
      if !colV (g.col (selCol v)) || (!selAllcx v && !bitAt g.ctxmask (selCx v)) then 11
      else if !k.mayName l then 10
      else if !selClean v then 9
      else if !l.begun then 4 else 0

/-- WX.CENSUS: reads a census value as of the last completed sweep (R204). -/
def execWxCensus (rd rs1 : BitVec 5) (s : State) : Host.Outcome State Fault Refusal :=
  wxRun s true (.wxCensus rd rs1) fun h k =>
    let v := k.reg rs1
    let code := s.censusCode k v
    s.wxDone h rd code (if code = 0 then ((s.launch? (selHandle v)).map fun l => l.censusRead v).getD 0 else 0)

/-- The status of WX.PURGE (R204). (DEDUCED, log 33.) -/
def State.purgeCode (s : State) (k : Hart) (v : Word64) : Nat :=
  match s.launch? (selHandle v) with
  | none => 11
  | some l =>
    if !(l.members[0]?).any fun g => colV (g.col (selCol v)) then 11
    else if !k.mayName l then 10
    else if selAllcx v || !selClean v then 9
    else if l.state != .running then 4 else 0

/-- WX.PURGE: purges a colour and returns when the purge completes (R187, R204). -/
def execWxPurge (rd rs1 : BitVec 5) (s : State) : Host.Outcome State Fault Refusal :=
  wxRun s false (.wxPurge rd rs1) fun h k =>
    let v := k.reg rs1
    let code := s.purgeCode k v
    match s.launch? (selHandle v) with
    | some l =>
      if code ≠ 0 then s.wxDone h rd code 0
      else (s.putLaunch (l.startPurge (selCol v) [.hart h rd])).blockHart h
    | none => s.wxDone h rd code 0

/-- WX.SPANWAIT: returns OK once span rs1 has committed; until then the hart executes it again (R204, R206). -/
def execWxSpanwait (rd rs1 : BitVec 5) (s : State) : Host.Outcome State Fault Refusal :=
  wxRun s true (.wxSpanwait rd rs1) fun h k =>
    let v := k.reg rs1
    match s.launch? (selHandle v) with
    | none => s.wxDone h rd 11 0
    | some l =>
      if !k.mayName l then s.wxDone h rd 10 0
      else if (bitsAt v 0 32).toNat < l.committed then s.wxDone h rd 0 0
      else s

/-! ## WX.FREEZE and WX.RESUME (R204, R379, R382) -/

/-- The first conditions of WX.FREEZE and WX.RESUME: a status, or the launch. -/
def State.regionSel (s : State) (k : Hart) (v : Word64) : Except Nat Launch :=
  match s.launch? (selHandle v) with
  | none => .error 11
  | some l => if !k.mayName l then .error 10 else if bitsAt v 0 32 != 0 then .error 9 else .ok l

/-- WX.FREEZE: freezes a RUNNING region and returns once it has stopped (R204, R379). -/
def execWxFreeze (rd rs1 : BitVec 5) (s : State) : Host.Outcome State Fault Refusal :=
  wxRun s false (.wxFreeze rd rs1) fun h k =>
    match s.regionSel k (k.reg rs1) with
    | .error c => s.wxDone h rd c 0
    | .ok l =>
      if l.state == .running then
        (s.putLaunch { l with freezeReq := true, freezeWaiters := l.freezeWaiters ++ [(h, rd)] }).blockHart h
      else s.wxDone h rd (if l.state == .frozen then 0 else 4) 0

/-- WX.RESUME: restarts a FROZEN region (R204, R382); one frozen with 0xC.02 can only be discarded. -/
def execWxResume (rd rs1 : BitVec 5) (s : State) : Host.Outcome State Fault Refusal :=
  wxRun s false (.wxResume rd rs1) fun h k =>
    match s.regionSel k (k.reg rs1) with
    | .error c => s.wxDone h rd c 0
    | .ok l =>
      if l.state == .frozen && !l.hwDead then (s.resume l).wxDone h rd 0 0
      else s.wxDone h rd (if l.state == .running then 0 else 4) 0

/-! ## WX.SUMMARY (R388, R389) -/

/-- The bits of a routing entry (R344). -/
def Route.bits (r : Route) : Nat :=
  2 ^ 255 + (if r.closed then 2 ^ 254 else 0) + (if r.glob then 2 ^ 253 else 0) + 2 ^ 245 * r.world.toNat + 2 ^ 236 * r.prod +
    2 ^ 225 * (r.size / 32 - 1) + 2 ^ 201 * (r.count - 1) + 2 ^ 128 * r.base.toNat + 2 ^ 96 * r.handle.toNat + 2 ^ 64 * r.span

/-- When a face expires, if it stands at a router or is on its way to one. -/
def State.faceExp (s : State) (f : FaceTo) : Word32 :=
  match (s.pits.flatMap Pit.faces).find? fun k => k.who == f with
  | some k => k.exp
  | none => match (s.gmsgs ++ s.gheld).find? fun m => m.sender == f with
    | some m => (match m.body with
      | .interest exp _ _ _ => exp
      | _ => 0)
    | none => 0

/-- The 32-byte records of the pending NASK transfers of a launch (R388). The order of the fields is the spec's, their places are
the model's (DESIGN CHOICE, log 20): name 0–7, handle 8–11, entry router 12–13, channel 14, AX 15, AY 16, EXP 20–23, number 24–27.
(DESIGN CHOICE, log 20.) -/
def State.naskRecords (s : State) (l : Launch) : List (List Byte) :=
  (l.members.zip l.rids).flatMap fun q => q.1.tiles.flatMap fun t => t.chans.zipIdx.flatMap fun k =>
    ((k.1.cur.toList ++ k.1.queue).filter fun x => x.acc.req.op == .nask && x.answer.isNone).map fun x =>
      leBytes 8 (low64 x.acc.req.a) ++ toBytes l.handle 4 ++ leBytes 2 (q.1.entryRouter x.acc.req) ++
        [BitVec.ofNat 8 k.2, BitVec.ofNat 8 t.x, BitVec.ofNat 8 t.y, 0, 0, 0] ++
        toBytes (s.faceExp (.asker q.2 t.x t.y k.2 x.num)) 4 ++ toBytes x.num 4 ++ leBytes 4 0

/-- The records of a list that fit before 256 KiB, and whether one did not. -/
def fitting : Nat → List (List Byte) → List (List Byte) × Bool
  | _, [] => ([], false)
  | off, b :: bs => if off + b.length > 262144 then ([], true)
    else let r := fitting (off + b.length) bs
         (b :: r.1, r.2)

/-- The 16 bytes of a queue entry (R388). -/
def State.queueEntry (s : State) (n : Nat) : List Byte :=
  let head := (earliest (fun l => l.queue == n && l.waits) s.launches).map Launch.handle
  toBytes (s.reg (8 * n)) 8 ++ leBytes 4 (countIf (fun l : Launch => l.queue == n && l.waits) s.launches) ++
    toBytes (head.getD ((Config.openRead s.moves n).setWidth 32)) 4

/-- HEAD, TAIL and LOST of a world's fault page, all ones for a trusted caller (R388). -/
def State.pageCounters (s : State) (a : Accessor) : List Byte :=
  let fpg := s.reg (0x5000 + 16 * a.world.toNat)
  if a.trust then List.replicate 12 0xFF
  else if bitAt fpg 0 then readBytes s.mem ((bitsAt fpg 12 40).toNat * 4096) 12
  else regBytes (Config.openRead s.moves) 0 12

/-- The launches that a summary covers (R388). -/
def State.summaryOf (s : State) (a : Accessor) : List Launch := s.launches.filter fun l => a.trust || l.world == a.world

/-- Has a sweep of each running launch that a summary covers ended since its start (R389)? -/
def State.sweptFor (s : State) (a : Accessor) (c : SumScan) : Bool :=
  (s.summaryOf a).all fun l => l.state != .running || c.blocks.any fun b => b.1 == l.handle

/-- The summary record for an accessor, CHANGED left clear (R388, R389): each running launch as it was at the end of a sweep, the others
as they are. (DESIGN CHOICE, log 20.) -/
def State.summary (s : State) (a : Accessor) (c : SumScan) : List Byte :=
  let ls := s.summaryOf a
  let block (l : Launch) : Option (List Byte) :=
    match c.blocks.find? fun b => b.1 == l.handle && l.state == .running with
    | some b => some b.2
    | none => launchBlock l
  let blocks := fitting 0x1000 (ls.filterMap block)
  let gal := 0x1000 + (blocks.1.map List.length).foldl (· + ·) 0
  let routes := fitting gal ((s.routes.filter fun r => a.trust || r.world == a.world).map fun r => leBytes 32 r.bits)
  let nasks := fitting (gal + 32 * routes.1.length) (ls.flatMap s.naskRecords)
  let flags := if blocks.2 || routes.2 || nasks.2 then 2 else 0
  leBytes 4 0x57585355 ++ leBytes 2 1 ++ leBytes 2 flags ++ toBytes c.gen 8 ++ leBytes 8 c.cycle ++ leBytes 4 blocks.1.length ++
    leBytes 4 gal ++ leBytes 4 routes.1.length ++ leBytes 4 nasks.1.length ++ s.pageCounters a ++ List.replicate 12 0 ++
    (List.range 64).flatMap s.queueEntry ++ List.replicate 0xBC0 0 ++ (blocks.1 ++ routes.1 ++ nasks.1).flatten

/-- The first 32 bytes of the record, with CHANGED when the layout generation is no longer the one at the start (R388, R389). -/
def State.summaryHead (s : State) (c : SumScan) (bs : List Byte) : List Byte :=
  let flags := (bs.getD 6 0) ||| (if s.laygen != c.gen then 1 else 0)
  (bs.take 32).set 6 flags

/-- Note how far a hart's WX.SUMMARY is. -/
def State.setScan (s : State) (h : Nat) (c : SumScan) : State :=
  match s.hart? h with
  | some k => s.putHart h { k with scan := some c }
  | none => s

/-- WX.SUMMARY: starts, waits for a sweep of each running launch, and writes the record at rs1 by 32-byte pieces, the first one last;
the hart executes it again until it is over (R204, R262, R388, R389). (DESIGN CHOICE, log 20.) -/
def execWxSummary (rd rs1 : BitVec 5) (s : State) : Host.Outcome State Fault Refusal :=
  wxRun s false (.wxSummary rd rs1) fun h k =>
    let a := k.accessor
    let at' := (k.reg rs1).toNat
    let tr := s.hartPa k .store
    match k.scan with
    | none =>
      if !a.trust && !s.launches.any fun l => l.world == a.world then s.wxDone h rd 10 0
      else if at' % 4096 ≠ 0 then s.hartTrap h 6 (k.reg rs1)
      else s.setScan h ⟨s.laygen, s.cycle, [], none, false⟩
    | some c =>
      match c.body with
      | none => if s.sweptFor a c then s.setScan h { c with body := some (s.summary a c) } else s
      | some bs =>
        if !c.tail then
          match s.hartStore h k tr (at' + 32) 1 (bs.drop 32) with
          | .error t => t
          | .ok t => t.setScan h { c with tail := true }
        else
          match s.hartStore h k tr at' 1 (s.summaryHead c bs) with
          | .error t => t
          | .ok t => t.wxDone h rd 0 (2 ^ 32 * bs.length)

end Sys2Proof.Machine
end

