-- ==== Sys2Proof/Machine/Stations.lean ====
section
/-! DEFINITION. The collective stations (R425 to R428): the words that a token reaches, what a word sends, and the step of a
token at an input. -/

namespace Sys2Proof.Machine

/-! ## Words in place -/

/-- The regions in place with their launches and members. -/
def State.placedMembers (s : State) : List (Launch × Nat × Region) :=
  (s.launches.filter Launch.placed).flatMap fun l => l.members.zipIdx.map fun q => (l, q.2, q.1)

/-- A station word in place: its launch, member, region, and position among the region's words. -/
structure WordAt where
  l : Launch
  m : Nat
  g : Region
  k : Nat
  w : StnWord

/-- The station words that stand at a station of a die (R426). -/
def State.stationWords (s : State) (die station : Nat) : List WordAt :=
  s.placedMembers.flatMap fun q => (q.2.2.stns.zipIdx.filter fun k =>
    stnSop k.1.word != 0 && k.1.die == die && q.2.2.stnIndex k.1.bind == station).map fun k => ⟨q.1, q.2.1, q.2.2, k.2, k.1⟩

/-- The words that a token of a tag reaches at an input (R427). (DEDUCED, log 43.) -/
def State.wordsFor (s : State) (die station input : Nat) (tag : Word64) : List WordAt :=
  (s.stationWords die station).filter fun q =>
    stnCol q.w.word == tagCol tag && stnCtx q.w.word == tagCtx tag && bitAt (stnInm q.w.word) input

/-! ## What a word sends (R427, R428) -/

/-- A station as sender for the entry of a word (R373, R404). -/
def StnWord.sender (w : StnWord) (g : Region) (m : Nat) : Sender := portSender g m (bindEntry w.bind) 3

/-- The input of a peer at which its word names this station (R427). -/
def peerInput (g : Region) (w : StnWord) (p : Nat) : Nat :=
  let station (n : Nat) : Option Nat := if n = 31 then none else some (portIndex (g.portWord n))
  ((List.range 6).findSome? fun k =>
    if g.stns.any (fun v => station (bindEntry v.bind) == station p && stnCol v.word == stnCol w.word && stnCtx v.word == stnCtx w.word &&
        station (bindPeer v.bind (k + 2)) == station (bindEntry w.bind)) then some (k + 2) else none).getD 2

/-- Put a token on its way from output j of a word. What leaves by output 1 of a chip-port station is opened and does not count
(R428, R433). -/
def State.stationSend (s : State) (h : Word32) (m : Nat) (w : StnWord) (t : Token) (j : Nat) : State :=
  match s.launch? h with
  | none => s
  | some l =>
    match l.members[m]? with
    | none => s
    | some g =>
      let entry := bindEntry w.bind
      let n := g.stnIndex w.bind
      let hdr := mkHdr 0 0 (bindSlot w.bind) (bindSide w.bind) t.pred (BitVec.ofNat 2 t.kind) false t.last (BitVec.ofNat 3 t.sub)
      let t0 := if j = 0 then { t with hdr := hdr } else t
      if j = 1 ∧ n < 8 then s.transmit (6 * w.die + n) 1 (bindDev w.bind) (t0.hdr ++ t0.tag ++ t0.pay) 0
      else
        let z := sealTok s l.sl (g.tagWorld t0.tag) (w.sender g m).prod t0
        let g1 := if t0.counted then g.count (.port entry) t0.tag 1 true else g
        let put (g2 : Region) : State := s.putLaunch { (l.put m g2) with sl := z.2 }
        let link := Link.mk (.port entry) (portAx (g.portWord entry)) (portAy (g.portWord entry)) none z.1
        if j = 0 then put { g1 with links := g1.links ++ [link] }
        else
          let at' : Nat × Nat × Nat :=
            if j = 1 then (w.die ^^^ ((n - 8) / 4 + 1), n, 1)
            else (w.die, portIndex (g.portWord (bindPeer w.bind j)), peerInput g w (bindPeer w.bind j))
          let s1 := put g1
          { s1 with stnToks := s1.stnToks ++ [StnTok.mk at'.1 at'.2.1 at'.2.2 h m z.1] }

/-- Send a token to every output in OUTM, or to those that pass a test. -/
def State.stationSendAll (s : State) (h : Word32) (m : Nat) (w : StnWord) (t : Token) (q : Nat → Bool) : State :=
  ((List.range 8).filter fun j => bitAt (stnOutm w.word) j && q j).foldl (fun s j => s.stationSend h m w t j) s

/-- The lane-by-lane sum of payloads in ascending input order: one rounding to nearest for each addition in BF16 and F32, the wrap
in I32 (R428). -/
def stationSum (t : ET) : List Payload → Payload
  | [] => 0
  | v :: vs => vs.foldl (fun a b => packLanes (etWidth t) ((List.range (etLanes t)).map fun i =>
      if etIsFloat t then faddCode t 0 false (laneU (etWidth t) a i) (laneU (etWidth t) b i)
      else wrapTo (etWidth t) (laneInt t a i + laneInt t b i))) v

/-- The result of a word for one token of each input, the payloads opened (R428). -/
def stationOut (w : StnWord) (record : Cause → Word64 → Payload) : List Token → Option Token
  | [] => none
  | t :: ts =>
    if stnSop w.word ≠ 1 then some t
    else
      let all := t :: ts
      let with' (pred : Bool) (kind sub : Nat) (v : Payload) : Token :=
        ⟨mkHdr 0 0 (BitVec.ofNat 5 t.slot) 3 pred (BitVec.ofNat 2 kind) false t.last (BitVec.ofNat 3 sub), t.tag, v, none⟩
      some (match all.find? fun u => u.kind == 3 with
        | some e => with' true 3 e.sub e.pay
        | none =>
          if all.any fun u => u.last != t.last then with' true 3 0 (record (mkCause 0xB 4) t.tag)
          else if all.all fun u => !u.pred then with' false 0 0 0
          else with' true 0 0 (stationSum (stnSet w.word) ((all.filter fun u => u.pred).map Token.pay)))

/-- One action of a word: while each input in INM has a token, the first of each is taken and the result sent (R428).
(DEDUCED, log 43.) -/
def State.stationAct (s : State) (h : Word32) (m k : Nat) : State :=
  match s.launch? h with
  | none => s
  | some l =>
    match l.members[m]? with
    | none => s
    | some g =>
      match g.stns[k]? with
      | none => s
      | some w =>
        let ins := (List.range 8).filter fun j => bitAt (stnInm w.word) j
        let heads := ins.filterMap fun j => (w.queues.getD j []).head?
        if heads.length < ins.length then s
        else
          let entry := bindEntry w.bind
          let queues := w.queues.zipIdx.map fun q => if ins.contains q.2 then q.1.tail else q.1
          let g1 := { g with stns := g.stns.set k { w with queues := queues } }
          let g2 := heads.foldl (fun g t => if t.counted then g.count (.port entry) t.tag (-1) true else g) g1
          let rec' (c : Cause) (tag : Word64) : Payload :=
            recPayload 0 tag h (portAx (g.portWord entry)) (portAy (g.portWord entry)) 0 31 c
          let open' (t : Token) : Token := openTok s l.sl (g.tagWorld t.tag) t
          match stationOut w rec' (heads.map open') with
          | none => s
          | some t => (s.putRegion ⟨h, m⟩ g2).stationSendAll h m w t fun _ => true

/-- A token joins the queue of a word's input, and the word acts if it can. -/
def State.stationTake (s : State) (q : WordAt) (input : Nat) (t : Token) : State :=
  match s.region? ⟨q.l.handle, q.m⟩ with
  | none => s
  | some g =>
    match g.stns[q.k]? with
    | none => s
    | some w =>
      let queues := w.queues.set input (w.queues.getD input [] ++ [t])
      let g1 := { g with stns := g.stns.set q.k { w with queues := queues } }
      let g2 := if t.counted then g1.count (.port (bindEntry w.bind)) t.tag 1 false else g1
      (s.putRegion ⟨q.l.handle, q.m⟩ g2).stationAct q.l.handle q.m q.k

/-- The port-table entry of a region that names a station. -/
def Region.stationEntry (g : Region) (station : Nat) : Nat :=
  ((List.range g.ports.length).find? fun i => portType (g.portWord i) == 6 && portIndex (g.portWord i) == station).getD 0

/-- A token at a station that no word takes becomes an error record at its colour's exit (R427, R428). -/
def State.stationReject (s : State) (h : Word32) (m station : Nat) (t : Token) : State :=
  match s.region? ⟨h, m⟩ with
  | none => s
  | some g =>
    let i := g.stationEntry station
    let z := portSender g m i 3
    let s1 := if t.counted then s.putRegion ⟨h, m⟩ (g.count (.port i) t.tag (-1) false) else s
    raiseToExit s1 ⟨h, m⟩ z.src z.prod z.ax z.ay z.slot 0 0 (mkCause 0xB 3) 0 t.tag

/-- May the station take a token: do the launches of the words that it reaches run, or its own where it reaches none? -/
def State.stationReady (s : State) (k : StnTok) : Bool :=
  let ws := s.wordsFor k.die k.station k.input k.tok.tag
  s.pkg == .running &&
    (if ws.isEmpty then (match s.launch? k.h with
        | some l => s.live l
        | none => true)
     else ws.all fun q => s.live q.l)

/-- STATION_INPUT: the oldest token at an input of a station goes to every word of its colour and context, each of which passes,
broadcasts or reduces; a side-band token, or one that reaches no word, becomes a record 0xB.03 (R427, R428). -/
def execStationInput (die station input : Nat) (s : State) : Host.Outcome State Fault Refusal :=
  match takeFirst (fun (k : StnTok) => k.die == die && k.station == station && k.input == input && s.stationReady k) s.stnToks with
  | none => .next s
  | some (k, rest) =>
    let s0 := { s with stnToks := rest }
    let ws := s.wordsFor die station input k.tok.tag
    .next (if ws.isEmpty || k.tok.kind == 1 then s0.stationReject k.h k.m station k.tok
      else
        let s1 := match s0.region? ⟨k.h, k.m⟩ with
          | some g => if k.tok.counted then s0.putRegion ⟨k.h, k.m⟩ (g.count (.port (g.stationEntry station)) k.tok.tag (-1) false) else s0
          | none => s0
        ws.foldl (fun s q => s.stationTake q input k.tok) s1)

end Sys2Proof.Machine
end

