-- ==== Sys2Proof/Machine/Link.lean ====
section
/-! DEFINITION. The receiving side of the Brimen ports (R429 to R433, R435): sequence numbers and acknowledgements, the flits of each
type, reassembly, retry and a port that goes down. -/

namespace Sys2Proof.Machine

/-! ## Fields of a flit (R429) -/

/-- FTYPE. -/
def flitType (f : BitVec 512) : Nat := (bitsAt f 508 4).toNat
/-- SEQ. -/
def flitSeq (f : BitVec 512) : BitVec 12 := bitsAt f 496 12
/-- ACK. -/
def flitAck (f : BitVec 512) : BitVec 12 := bitsAt f 484 12
/-- DEV. -/
def flitDev (f : BitVec 512) : BitVec 20 := bitsAt f 460 20
/-- BODY. -/
def flitBody (f : BitVec 512) : BitVec 352 := bitsAt f 96 352
/-- EXT. -/
def flitExt (f : BitVec 512) : BitVec 64 := bitsAt f 32 64
/-- Does the CRC hold? -/
def flitCrcOk (f : BitVec 512) : Bool := bitsAt f 0 32 == flitCrc (bitsAt f 32 480)
/-- Is an FTYPE reserved? -/
def reservedType (n : Nat) : Bool := n == 2 || decide (8 ≤ n)

/-! ## Link level (R431) -/

/-- A cumulative acknowledgement retires the flits up to its number; flits that waited behind 256 others are then sent. -/
def Brimen.acked (b : Brimen) (a : BitVec 12) (now : Nat) : Brimen :=
  match b.unacked.findIdx? fun f => flitSeq f == a with
  | none => b
  | some i =>
    let left := b.unacked.drop (i + 1)
    let room := 256 - left.length
    { b with unacked := left ++ b.waiting.take room, waiting := b.waiting.drop room, lastAck := now, tries := 0 }

/-- Does a port accept a flit: the package runs, the port is up, the CRC holds and SEQ is the next expected (R431)? -/
def State.accepts (s : State) (p : Nat) (f : BitVec 512) : Bool :=
  s.pkg == .running && !(s.port p).down && flitCrcOk f && flitSeq f == (s.port p).expect

/-- The state after the link level of a port has taken a flit (R431). (DEDUCED, log 45.) -/
def State.taken (s : State) (p : Nat) (f : BitVec 512) : State :=
  let b := (s.port p).acked (flitAck f) s.cycle
  s.putPort p { b with expect := b.expect + 1 }

/-- A flit of a type that a port accepts: delivered here, or forwarded without entering the fabric (R432). -/
def State.onFlit (s : State) (p type : Nat) (f : BitVec 512) (here : State → State) : State :=
  if s.accepts p f && flitType f == type then
    let s1 := s.taken p f
    if s.isMe (flitDev f) then here s1 else s1.sendToward (BitVec.ofNat 4 type) (flitDev f) (flitBody f) (flitExt f)
  else s

/-! ## Station tokens (R428, R433) -/

/-- A token that arrives at a chip port is input 1 of the port's station: it counts in the launch that owns the word, is captured
there, and takes no quota test. With no such word there is no launch, and the token is dropped. (DEDUCED, log 43.) -/
def State.chipToken (s : State) (p : Nat) (t : Token) : State :=
  match (s.wordsFor (p / 6) (p % 6) 1 t.tag).head? with
  | none => s
  | some q =>
    let entry := bindEntry q.w.bind
    let g := if t.counted then q.g.count (.port entry) t.tag 1 false else q.g
    let s1 := (s.putRegion ⟨q.l.handle, q.m⟩ g).capture q.l t entry 1 0
    { s1 with stnToks := s1.stnToks ++ [StnTok.mk (p / 6) (p % 6) 1 q.l.handle q.m t] }

/-- FLIT_STATION_TOKEN: a station-token flit is delivered to a chip-port station or forwarded (R433). -/
def execFlitStationToken (port : Nat) (flit : BitVec 512) (s : State) : Host.Outcome State Fault Refusal :=
  .next (s.onFlit port 1 flit fun s => s.chipToken port ⟨bitsAt flit 416 32, bitsAt flit 352 64, bitsAt flit 96 256, none⟩)

/-! ## Gallery traffic (R430, R435) -/

/-- The chip-port router of a port (R341). -/
def chipRouter (p : Nat) : Nat := 256 + p

/-- FLIT_GALLERY_INTEREST: an interest arrives from a package; the port's router acts as its entry router, with E its own cycle
count plus the remaining lifetime (R347, R435). -/
def execFlitGalleryInterest (port : Nat) (flit : BitVec 512) (s : State) : Host.Outcome State Fault Refusal :=
  .next (s.onFlit port 3 flit fun s =>
    let exp : Word32 := BitVec.ofNat 32 s.cycle + bitsAt flit 344 32
    let room := (bitsAt flit 312 32).toNat
    let m := GMsg.mk 0 (chipRouter port) (bitsAt flit 376 8) (bitsAt flit 384 64) (.device (bitsAt flit 292 20).toNat) 0 none
      (.interest exp room false [])
    match s.handle m exp room false [] with
    | some s1 => s1
    | none => { s with gheld := s.gheld ++ [m] })

/-- A partial tile of a port. -/
def State.reasm? (s : State) (p : Nat) (w : BitVec 8) (n : Word64) : Option Reasm :=
  s.reasm.find? fun r => r.port == p && r.world == w && r.name == n
/-- Remove a partial tile. -/
def State.dropReasm (s : State) (p : Nat) (w : BitVec 8) (n : Word64) : State :=
  { s with reasm := s.reasm.filter fun r => !(r.port == p && r.world == w && r.name == n) }
/-- Bytes of reassembly space in use at a port (R430). -/
def State.reasmUsed (s : State) (p : Nat) : Nat := (s.reasm.filter fun r => r.port == p).foldl (fun a r => a + r.size) 0

/-- The bytes of a complete tile (R430). -/
def Reasm.bytes (r : Reasm) (move : Nat) : List Byte :=
  (List.range r.size).map fun i =>
    match r.parts.find? fun q => q.1 == i / 32 * 32 with
    | some q => q.2.getD (i % 32) (Config.lostByte move i)
    | none => Config.lostByte move i

/-- Must a tile-data flit wait: is it the first of a tile that finds no room for the whole tile (R430)? -/
def State.tileWaits (s : State) (p : Nat) (f : BitVec 512) : Bool :=
  s.isMe (flitDev f) && (s.reasm? p (bitsAt f 120 8) (bitsAt f 128 64)).isNone &&
    decide (524288 < s.reasmUsed p + 32 * ((bitsAt f 109 11).toNat + 1)) && decide ((flitExt f).toNat < 32 * ((bitsAt f 109 11).toNat + 1))

/-- Place a tile-data flit; a complete tile is forwarded whole (R430, R435). -/
def State.placeTile (s : State) (p : Nat) (f : BitVec 512) : State :=
  let w : BitVec 8 := bitsAt f 120 8
  let n : Word64 := bitsAt f 128 64
  let size := 32 * ((bitsAt f 109 11).toNat + 1)
  let ext := (flitExt f).toNat
  let r := (s.reasm? p w n).getD ⟨p, w, n, size, []⟩
  let s1 := s.dropReasm p w n
  if r.size ≠ size ∨ size ≤ ext ∨ ext % 32 ≠ 0 then s1.dropFlit
  else
    let r1 := { r with parts := (ext, toBytes (bitsAt f 192 256) 32) :: r.parts }
    if r1.parts.length < size / 32 then { s1 with reasm := r1 :: s1.reasm }
    else s1.serve (chipRouter p) w n (r1.bytes s.moves)

/-- FLIT_TILE_DATA: a tile-data flit joins its tile in the port's reassembly space (R430); it waits in the port while there is no
room. -/
def execFlitTileData (port : Nat) (flit : BitVec 512) (s : State) : Host.Outcome State Fault Refusal :=
  .next (if s.tileWaits port flit then s else s.onFlit port 4 flit fun s => s.placeTile port flit)

/-- FLIT_GALLERY_ANSWER: a negative answer goes to the faces that wait for the name at the port's router (R351, R435). -/
def execFlitGalleryAnswer (port : Nat) (flit : BitVec 512) (s : State) : Host.Outcome State Fault Refusal :=
  .next (s.onFlit port 5 flit fun s =>
    match s.pit? (chipRouter port) (bitsAt flit 376 8) (bitsAt flit 384 64) with
    | none => s
    | some p => s.refusePit p (bitsAt flit 366 10))

/-- FLIT_MANAGEMENT: up to 44 bytes of an MCTP packet reach the management processor (R430). -/
def execFlitManagement (port : Nat) (flit : BitVec 512) (s : State) : Host.Outcome State Fault Refusal :=
  .next (s.onFlit port 6 flit fun s =>
    { s with mgmt := s.mgmt ++ [toBytes (flitBody flit) (min 44 (bitsAt flit 32 8).toNat)] })

/-- FLIT_ACKNOWLEDGE: an idle or acknowledge-only flit retires sent flits (R431). -/
def execFlitAcknowledge (port : Nat) (flit : BitVec 512) (s : State) : Host.Outcome State Fault Refusal :=
  .next (if s.accepts port flit && (flitType flit == 0 || flitType flit == 7) then s.taken port flit else s)

/-- DROPPED_FLIT: a flit with a failing CRC or an unexpected SEQ is dropped; one with a reserved FTYPE is dropped and counted
(R429, R431). -/
def execDroppedFlit (port : Nat) (flit : BitVec 512) (s : State) : Host.Outcome State Fault Refusal :=
  .next (if s.accepts port flit && reservedType (flitType flit) then (s.taken port flit).dropFlit else s)

/-! ## Retry (R431) -/

/-- Every word bound to a port's station sends a record 0xB.05 to each of its outputs other than 1 (R431).
(DEDUCED, log 45.) -/
def State.portRecords (s : State) (p : Nat) : State :=
  (s.stationWords (p / 6) (p % 6)).foldl (fun s q =>
    let i := bindEntry q.w.bind
    let tag := mkTag (stnCol q.w.word) (stnCtx q.w.word) 0
    let v := recPayload 0 tag q.l.handle (portAx (q.g.portWord i)) (portAy (q.g.portWord i)) 0 31 (mkCause 0xB 5)
    s.stationSendAll q.l.handle q.m q.w ⟨mkHdr 0 0 0 3 true 3 false false 0, tag, v, none⟩ fun j => j != 1) s

/-- A port goes down: what it buffers is lost, its partial tiles with it (R430, R431). -/
def State.portDown (s : State) (p : Nat) : State :=
  let s1 := s.putPort p { s.port p with unacked := [], waiting := [], down := true }
  { s1 with reasm := s1.reasm.filter fun r => r.port != p }.portRecords p

/-- LINK_RETRY_TIMEOUT: no acknowledgement for 4,096 cycles: the port sends again from the oldest flit, or goes down when it has
sent that flit eight times (R431). (DEDUCED, log 44.) -/
def execLinkRetryTimeout (port : Nat) (s : State) : Host.Outcome State Fault Refusal :=
  let b := s.port port
  .next (if s.pkg != .running || b.down || b.unacked.isEmpty || decide (s.cycle < b.lastAck + 4096) then s
    else if 7 ≤ b.tries then s.portDown port
    else s.putPort port { b with tries := b.tries + 1, lastAck := s.cycle })

end Sys2Proof.Machine
end

