-- ==== Sys2Proof/Machine/Hardware.lean ====
section
/-! DEFINITION. The package as a whole (R79, R371, R390, R391, R394, R438 to R440): hardware errors, the machine check, the package
freeze, reset and boot, throttling, and the entries of a replay. -/

namespace Sys2Proof.Machine

/-! ## Machine check and package freeze (R390, R391) -/

/-- Write PKG_MCREC: the record takes its number (R377, R390, R391). -/
def State.writeMcRec (s : State) (c : Cause) (resp : Nat) : State :=
  { s with mcRec := faultBits { bareFault s 0 c 0 0 with resp := resp } s.seqNo, seqNo := s.seqNo + 1 }

/-- A package machine check: every region stops, PKG_MCREC is written, and the EIID in PKG_MCMSI goes to every hart's interrupt
file; harts keep running (R391). (DEDUCED, log 46.) -/
def State.machineCheck (s : State) (c : Cause) : State :=
  let s1 := { s with pkg := .machineCheck }.writeMcRec c 3
  (List.range s.harts.length).foldl (fun s _ => s.sendMsi (s.reg 0x8020)) s1

/-- A package freeze: every clock stops, and PKG_MCREC takes a record 0xE.01 (R390). -/
def State.packageFreeze (s : State) : State := { s with pkg := .frozen }.writeMcRec (mkCause 14 1) Config.freezeResp

/-- PACKAGE_MACHINE_CHECK: for the causes 0xC.07 and 0xE.08 (R391). -/
def execPackageMachineCheck (code : Cause) (s : State) : Host.Outcome State Fault Refusal :=
  .next (if s.pkg == .running && (code == mkCause 12 7 || code == mkCause 14 8) then s.machineCheck code else s)

/-- FRZ_N_ASSERT: the pin held low for at least 8 cycles freezes the package (R390). -/
def execFrzNAssert (cycles : Nat) (s : State) : Host.Outcome State Fault Refusal :=
  .next (if s.clocked && decide (8 ≤ cycles) then s.packageFreeze else s)

/-- MCTP_FREEZE: the management freeze command acts as FRZ_N (R440). -/
def execMctpFreeze (s : State) : Host.Outcome State Fault Refusal := .next (if s.clocked then s.packageFreeze else s)

/-! ## Hardware errors (R79, R371) -/

/-- A cause of class 12 at a place of a region freezes it. -/
def State.holdError (s : State) (p : Site) (c : Cause) (slot : Nat) (tag : Word64) (dead : Bool) : State :=
  match s.launch? p.r.h with
  | none => s
  | some l => if s.live l then s.putLaunch { l.hold ⟨c, p.r.m, p.x, p.y, slot, 0, tag, 0, s.cycle⟩ with hwDead := l.hwDead || dead } else s

/-- The attachment site of an edge tile or a port, which its records name (R373). -/
def State.portSite (s : State) (r : Rid) (port : Nat) : Option Site :=
  ((s.region? r).filter fun g => decide (port < g.ports.length)).map fun g => ⟨r, portAx (g.portWord port), portAy (g.portWord port)⟩

/-- An uncorrectable word of the instruction selected for issue: its matched set stays in the ready queue, and the region freezes
(R79). -/
def State.wordError (s : State) (p : Site) : State :=
  match s.region? p.r with
  | none => s
  | some g =>
    match g.elem? p.x p.y with
    | none => s
    | some e =>
      match e.ready, s.launch? p.r.h with
      | set :: _, some l =>
        let e1 := { e with badWords := (32 * set.ctx + set.slot) :: e.badWords.filter (· != 32 * set.ctx + set.slot) }
        let tag := (set.toks.head?.map Token.tag).getD 0
        if s.live l then (s.putRegion p.r (g.putElem e1)).holdError p (mkCause 12 1) set.slot tag false else s
      | _, _ => s

/-- The cause of an uncorrectable read of a memory tile (R371). -/
def readCause : Cause := mkCause 12 3

/-- Does a request read its tile's data: MTLD, MTTSB or KVXLAT? -/
def Request.readsTile (q : Request) : Bool := q.op == .mtld || q.op == .mttsb || q.op == .kvxlat

/-- The element whose request the banks of a tile would serve next for a client, with the bank, when it is a read that can be made. -/
def Region.readTurn (g : Region) (t : Tile) (client now : Nat) : Option (Nat × Elem × Request) :=
  (List.range 32).findSome? fun b => (g.bankTurn t b).bind fun q =>
    if q.1 = client ∧ q.2.2.readsTile ∧ t.idle b now ∧ (bankCause g t q.2.2).isNone then some (b, q.2) else none

/-- An element's read of a tile fails: its result is the record, and a FIFO's entry is gone. -/
def State.elementReadError (s : State) (r : Rid) (l : Launch) (g : Region) (t : Tile) (client : Nat) : State :=
  match (s.tileView l g).readTurn t client s.cycle with
  | none => s
  | some (b, e, q) =>
    let t1 := t.served b client s.cycle
    let t2 := if q.op = .mtld ∧ modeOf (t.part q.part) = 2 then t1.popFifo q.part else t1
    answerRecord (s.putRegion r ((g.popOut e.x e.y).putTile t2)) r (siteSender r.m q.x q.y 0 q.slot) (q.reply r.m)
      readCause 0

/-- A generator's read of a tile fails: an access of a local nest emits the record, and a store of a nest fails with its FIFO entry. -/
def State.genReadError (s : State) (r : Rid) (g : Region) (t : Tile) (n : Nat) : State :=
  let k := t.gen n
  match k.nest, k.bind with
  | some v, some b =>
    let t1 := t.nestOn n (some readCause)
    if nestLen k.desc ≤ v.next then s
    else if b.kind = 0 then
      let t2 := t.nestOn n none
      (s.putRegion r (g.putTile t2)).nestEmit r (g.putTile t2) t2 n v.req v.next (nestLen k.desc) (.error readCause)
    else if b.kind = 1 ∨ (t.fifo b.part).isEmpty then s
    else s.putRegion r (g.putTile (t1.popFifo b.part))
  | _, _ => s

/-- A copy channel's read of a tile fails: its outgoing COPY stops with the record. -/
def State.copyReadError (s : State) (r : Rid) (t : Tile) (ch : Nat) : State :=
  if (t.chan ch).cur.any fun x => x.acc.req.out && x.answer.isNone && x.acc.stage != .frozen then s.pieceFail r t ch readCause else s

/-- An uncorrectable read of a memory tile: a record in place of the result of the next read of a client (R371).
(DEDUCED, log 46.) -/
def State.readError (s : State) (p : Site) (client : Nat) : State :=
  match s.launch? p.r.h, s.region? p.r with
  | some l, some g =>
    match g.tile? p.x p.y with
    | none => s
    | some t =>
      if !s.live l then s
      else if 6 ≤ client then s.elementReadError p.r l g t client
      else if l.draining then s
      else if 2 ≤ client then s.genReadError p.r g t (client - 2)
      else s.copyReadError p.r t client
  | _, _ => s

/-- A line stays poisoned until a store writes all of it (R371). -/
def State.poisonLine (s : State) (pa : Nat) (c : Cause) : State :=
  if inHbm pa then { s with poisoned := (lineOf pa, c) :: s.poisoned.filter fun q => q.1 != lineOf pa } else s

/-- A corrected error is counted; when the count crosses a multiple of 2^16, a record 0xC.06 is written (R79, R371). -/
def State.corrected (s : State) (p : Site) : State :=
  match s.launch? p.r.h, s.region? p.r with
  | some l, some g =>
    let n := (g.hwerr + 1) % 2 ^ 64
    let s1 := s.putRegion p.r { g with hwerr := n }
    if n % 65536 = 0 then s1.deliver (regionFault s l g l.world (mkCause 12 6) 0 0 0) else s1
  | _, _ => s

/-- HARDWARE_ERROR: an error of class 12 is detected and handled by its code (R371). -/
def execHardwareError (code : BitVec 6) (at' : ErrPlace) (s : State) : Host.Outcome State Fault Refusal :=
  .next (if s.pkg != .running then s
    else
      match code.toNat, at' with
      | 1, .element p => s.wordError p
      | 2, .element p | 2, .tile p => s.holdError p (mkCause 12 2) 31 0 true
      | 2, .port r n => ((s.portSite r n).map fun p => s.holdError p (mkCause 12 2) 31 0 true).getD s
      | 3, .tileRead p client => s.readError p client
      | 4, .line pa => s.poisonLine pa (mkCause 12 4)
      | 5, .line pa => s.poisonLine pa (mkCause 12 5)
      | 6, .element p | 6, .tile p => s.corrected p
      | 6, .port r n => ((s.portSite r n).map s.corrected).getD s
      | 7, .shared => s.machineCheck (mkCause 12 7)
      | _, _ => s)

/-! ## Reset and boot (R438, R440) -/

/-- Does a component of a flash slot pass: its key is the vendor's, its header verifies, and its version is not below the fused minimum
of its place (R438)? -/
def componentOk (n : Nat) (c : Component) : Bool :=
  Config.shake256 c.key == Config.vendorHash && Config.dsaVerify c.key c.header c.sig && decide (Config.minVersion n ≤ c.version)

/-- Does a flash slot pass (R438)? -/
def slotOk (f : FlashSlot) : Bool := componentOk 0 f.firmware && componentOk 1 f.monitor && componentOk 2 f.eftan

/-- The measurements of the DICE layers 0 to 3 when the package boots from a slot: the boot ROM, the firmware, the monitor and Eftan
(R406, R438). A component is its header and its code. (DESIGN CHOICE, log 47.) -/
def slotDice (f : FlashSlot) : List (BitVec 512) :=
  Config.shake256 Config.bootRom :: [f.firmware, f.monitor, f.eftan].map fun c => Config.shake256 (c.header ++ c.code)

/-- The package boots from its flash: from slot A, or from slot B if A fails, with each component measured; if both fail it stays
in reset and reports that (R438). The schedule is the model's own and goes on. -/
def State.boot (s : State) (a b : FlashSlot) : State :=
  let s0 := { State.reset with sched := s.sched, moves := s.moves, freshId := s.freshId, flash := (a, b) }
  if slotOk a then { s0 with dice := slotDice a }
  else if slotOk b then { s0 with dice := slotDice b }
  else { s0 with pkg := .offline, booted := false }

/-- PACKAGE_RESET: the module boots from what its two flash slots hold (R438). (DESIGN CHOICE, log 47.) -/
def execPackageReset (a b : FlashSlot) (s : State) : Host.Outcome State Fault Refusal := .next (s.boot a b)

/-- MCTP_RESET: the management reset command resets the package (R440). -/
def execMctpReset (s : State) : Host.Outcome State Fault Refusal := .next (s.boot s.flash.1 s.flash.2)

/-! ## Power and temperature (R439) -/

/-- PKG_PWR and PKG_TEMP as they are now. (DESIGN CHOICE, log 48.) -/
def State.telemetry (s : State) (power temp : Nat) : State :=
  (s.setReg 0x8110 (BitVec.ofNat 64 power)).setReg 0x8118 (BitVec.ofNat 64 temp)

/-- Is the averaged power above the cap, or the temperature above the throttle point? -/
def State.overLimit (s : State) (power temp : Nat) : Bool :=
  decide ((bitsAt (s.reg 0x8120) 0 16).toNat < power ∨ Config.throttlePoint < temp)

/-- THROTTLE_ENTER: the fabric starts to skip issue cycles, with one record 0xE.07 to world 0 (R439). -/
def execThrottleEnter (power temp : Nat) (s : State) : Host.Outcome State Fault Refusal :=
  .next (if s.pkg != .running || s.throttled || !s.overLimit power temp then s
    else ({ s with throttled := true }.telemetry power temp).deliver (bareFault s 0 (mkCause 14 7) 0 0))

/-- THROTTLE_EXIT: power and temperature are back within their limits, and the fabric skips no more cycles (R439). -/
def execThrottleExit (power temp : Nat) (s : State) : Host.Outcome State Fault Refusal :=
  .next (if s.pkg != .running || !s.throttled || s.overLimit power temp then s
    else { s with throttled := false }.telemetry power temp)

/-- THERMAL_TRIP: a temperature above the trip point raises a package machine check 0xE.08 (R439). -/
def execThermalTrip (temp : Nat) (s : State) : Host.Outcome State Fault Refusal :=
  .next (if s.pkg == .running && decide (Config.tripPoint < temp) then
      (s.setReg 0x8118 (BitVec.ofNat 64 temp)).machineCheck (mkCause 14 8)
    else s)

/-! ## Replay (R394) -/

/-- A replay ends. -/
def State.endReplay (s : State) (h : Word32) : State :=
  let s1 := { s with replays := s.replays.filter fun r => r.target != h }
  match s1.launch? h with
  | some l => s1.putLaunch { l with replay := false }
  | none => s1

/-- A replay goes on to its next entry, or ends. -/
def State.nextReplay (s : State) (r : Replay) : State :=
  if r.pos + 1 = r.stop then s.endReplay r.target
  else { s with replays := s.replays.map fun q => if q.target == r.target then { q with pos := r.pos + 1 } else q }

/-- An entry of a capture ring, checked and decrypted: bytes 0 to 111 in clear; none when its tag fails (R393). -/
def openCapture (key : BitVec 256) (w : BitVec 8) (bs : List Byte) : Option (List Byte) :=
  let body := bs.take 120
  let no : Word64 := ofBytes 64 (body.drop 112)
  if Config.gmac64 key body == ofBytes 64 (bs.drop 120) then
    some (xorStream (fun b => Config.aes256 key (captureBlock w no b)) (body.take 112))
  else none

/-- Admit a replayed token at a port of the target, when its quota and its queue allow; none while it must wait. -/
def State.replayAdmit (s : State) (l : Launch) (port : Nat) (t : Token) : Option State :=
  match l.members[0]? with
  | none => none
  | some g =>
    match g.ports[port]? with
    | none => some s
    | some p =>
      if portType p.word ≠ 3 then some s
      else if p.closed || l.purging (portCol p.word) || !l.underQuota (portCol p.word) || decide (16 ≤ p.queue.length) then none
      else some (s.admits l g port p t)

/-- REPLAY_ENTRY: the next entry of a replay is checked, decrypted and, where the captured launch's entry port took it, admitted at
the target's port; an entry that fails its tag stops the replay with a record 0xE.06, and one in a held line is waited for (R261, R394). (DEDUCED, log 49.) -/
def execReplayEntry (h : Word32) (s : State) : Host.Outcome State Fault Refusal :=
  match s.replays.find? fun r => r.target == h, s.launch? h with
  | some r, some l =>
    match s.ring? l.world with
    | none => .next s
    | some (ring, n) =>
      let at' := ring + 128 + 128 * (r.pos % n)
      if !s.live l || l.draining || s.areaHeld at' 128 then .next s
      else
        let s := s.peek at' 128
        match openCapture (s.captureKey l.world) l.world (readBytes s.mem at' 128) with
        | none =>
          let s1 := s.endReplay h
          .next (match l.members[0]? with
            | some g => s1.deliver (regionFault s l g l.world (mkCause 14 6) 0 0 0)
            | none => s1)
        | some bs =>
          let byte (i : Nat) : Nat := (bs.getD i 0).toNat
          if byte 77 = 0 ∧ (ofBytes 32 ((bs.drop 72).take 4) : Word32) = r.captured then
            match s.replayAdmit l (byte 76) (imageToken bs) with
            | some s1 => .next (s1.nextReplay r)
            | none => .next s
          else .next (s.nextReplay r)
  | _, _ => .next s

end Sys2Proof.Machine
end

