-- ==== Sys2Proof/Machine/Integer.lean ====
section
/-! DEFINITION. The integer instructions, 0x040 to 0x066 (R86 to R98). -/

namespace Sys2Proof.Machine

/-- ADD: lane sum (R86). -/
def execAdd (f : Fields) (s : State) : Host.Outcome State Fault Refusal :=
  fireData f s fun x => intResult f x fun i => ia f x i + ib f x i

/-- SUB: lane difference (R86). -/
def execSub (f : Fields) (s : State) : Host.Outcome State Fault Refusal :=
  fireData f s fun x => intResult f x fun i => ia f x i - ib f x i

/-- MUL: lane product (R86). -/
def execMul (f : Fields) (s : State) : Host.Outcome State Fault Refusal :=
  fireData f s fun x => intResult f x fun i => ia f x i * ib f x i

/-- MULHI: upper half of the lane product (R86). -/
def execMulhi (f : Fields) (s : State) : Host.Outcome State Fault Refusal :=
  fireData f s fun x => intResult f x fun i => Int.fdiv (ia f x i * ib f x i) ((2 : Int) ^ etWidth f.et)

/-- MIN: smaller lane (R86). -/
def execMin (f : Fields) (s : State) : Host.Outcome State Fault Refusal :=
  fireData f s fun x => intResult f x fun i => if ia f x i < ib f x i then ia f x i else ib f x i

/-- MAX: larger lane (R86). -/
def execMax (f : Fields) (s : State) : Host.Outcome State Fault Refusal :=
  fireData f s fun x => intResult f x fun i => if ia f x i < ib f x i then ib f x i else ia f x i

/-- ABS: lane magnitude (R86). -/
def execAbs (f : Fields) (s : State) : Host.Outcome State Fault Refusal :=
  fireData f s fun x => intResult f x fun i => ((ia f x i).natAbs : Int)

/-- NEG: lane negation (R86). -/
def execNeg (f : Fields) (s : State) : Host.Outcome State Fault Refusal :=
  fireData f s fun x => intResult f x fun i => -ia f x i

/-- MAD: a·b + c, fitted once (R86, R87). -/
def execMad (f : Fields) (s : State) : Host.Outcome State Fault Refusal :=
  fireMad f s fun x => intResult f x fun i => ia f x i * ib f x i + ic f x i

/-- ADDS: the sum, and its range flags to DST1 (R88). -/
def execAdds (f : Fields) (s : State) : Host.Outcome State Fault Refusal :=
  firePair f s fun x =>
    (intResult f x fun i => ia f x i + ib f x i, rangeFlags f x fun i => ia f x i + ib f x i)

/-- SUBS: the difference, and its range flags to DST1 (R88). -/
def execSubs (f : Fields) (s : State) : Host.Outcome State Fault Refusal :=
  firePair f s fun x =>
    (intResult f x fun i => ia f x i - ib f x i, rangeFlags f x fun i => ia f x i - ib f x i)

/-- DIV: the quotient, and the divide-by-zero predicate to DST1 (R36, R89). -/
def execDiv (f : Fields) (s : State) : Host.Outcome State Fault Refusal :=
  firePair f s fun x =>
    (laneResult f x fun i => wrapTo (etWidth f.et) (divLane f.et f.sat (ia f x i) (ib f x i)), zeroDivFlags f x)

/-- REM: the remainder, and the divide-by-zero predicate to DST1 (R36, R89). -/
def execRem (f : Fields) (s : State) : Host.Outcome State Fault Refusal :=
  firePair f s fun x =>
    (laneResult f x fun i => wrapTo (etWidth f.et) (remLane f.et (ia f x i) (ib f x i)), zeroDivFlags f x)

/-- AND of the 256 payload bits (R90). -/
def execAnd (f : Fields) (s : State) : Host.Outcome State Fault Refusal :=
  fireData f s fun x => bitResult f x (x.a &&& x.b)

/-- OR of the 256 payload bits (R90). -/
def execOr (f : Fields) (s : State) : Host.Outcome State Fault Refusal :=
  fireData f s fun x => bitResult f x (x.a ||| x.b)

/-- XOR of the 256 payload bits (R90). -/
def execXor (f : Fields) (s : State) : Host.Outcome State Fault Refusal :=
  fireData f s fun x => bitResult f x (x.a ^^^ x.b)

/-- ANDN of the 256 payload bits (R90). -/
def execAndn (f : Fields) (s : State) : Host.Outcome State Fault Refusal :=
  fireData f s fun x => bitResult f x (x.a &&& ~~~x.b)

/-- NOT of the 256 payload bits (R90). -/
def execNot (f : Fields) (s : State) : Host.Outcome State Fault Refusal :=
  fireData f s fun x => bitResult f x (~~~x.a)

/-- SHL (R91). -/
def execShl (f : Fields) (s : State) : Host.Outcome State Fault Refusal :=
  fireData f s fun x => laneResult f x fun i => shlLane f.et f.sat (ia f x i) (ub f x i)

/-- SHR (R91). -/
def execShr (f : Fields) (s : State) : Host.Outcome State Fault Refusal :=
  fireData f s fun x => laneResult f x fun i => shrLane (etWidth f.et) (ua f x i) (ub f x i)

/-- SAR (R91). -/
def execSar (f : Fields) (s : State) : Host.Outcome State Fault Refusal :=
  fireData f s fun x => laneResult f x fun i => sarLane (etWidth f.et) (ua f x i) (ub f x i)

/-- ROTL (R91). -/
def execRotl (f : Fields) (s : State) : Host.Outcome State Fault Refusal :=
  fireData f s fun x => laneResult f x fun i => rotlLane (etWidth f.et) (ua f x i) (ub f x i)

/-- CLZ (R92). -/
def execClz (f : Fields) (s : State) : Host.Outcome State Fault Refusal :=
  fireData f s fun x => laneResult f x fun i => clzLane (etWidth f.et) (ua f x i)

/-- POPC (R92). -/
def execPopc (f : Fields) (s : State) : Host.Outcome State Fault Refusal :=
  fireData f s fun x => laneResult f x fun i => popcLane (etWidth f.et) (ua f x i)

/-- CMPEQ (R93). -/
def execCmpeq (f : Fields) (s : State) : Host.Outcome State Fault Refusal :=
  fireData f s fun x => predResult f x fun i => ua f x i == ub f x i

/-- CMPNE (R93). -/
def execCmpne (f : Fields) (s : State) : Host.Outcome State Fault Refusal :=
  fireData f s fun x => predResult f x fun i => ua f x i != ub f x i

/-- CMPLT; MOD[0] reads I64 lanes unsigned (R93). -/
def execCmplt (f : Fields) (s : State) : Host.Outcome State Fault Refusal :=
  fireData f s fun x => predResult f x fun i =>
    if bitAt f.mod 0 then decide (ua f x i < ub f x i) else decide (ia f x i < ib f x i)

/-- CMPLE; MOD[0] reads I64 lanes unsigned (R93). -/
def execCmple (f : Fields) (s : State) : Host.Outcome State Fault Refusal :=
  fireData f s fun x => predResult f x fun i =>
    if bitAt f.mod 0 then decide (ua f x i ≤ ub f x i) else decide (ia f x i ≤ ib f x i)

/-- SEL: a[i] where the predicate is true, else b[i] (R94). -/
def execSel (f : Fields) (s : State) : Host.Outcome State Fault Refusal :=
  fireData f s fun x =>
    laneResult f { x with pOn := false } fun i => if predLane (etWidth f.et) f.pinv x.p i then ua f x i else ub f x i

/-- BCAST: lane b[0] mod n of a in every lane (R94). -/
def execBcast (f : Fields) (s : State) : Host.Outcome State Fault Refusal :=
  fireData f s fun x => laneResult f x fun _ => ua f x (ub f x 0 % etLanes f.et)

/-- LANE: b[0] in lane XMOD[5:0], a elsewhere (R94). -/
def execLane (f : Fields) (s : State) : Host.Outcome State Fault Refusal :=
  fireData f s fun x => laneResult f x fun i => if i = (bitsAt f.xmod 0 6).toNat then ub f x 0 else ua f x i

/-- SHUF: lane b[i] mod n of a (R94). -/
def execShuf (f : Fields) (s : State) : Host.Outcome State Fault Refusal :=
  fireData f s fun x => laneResult f x fun i => ua f x (ub f x i % etLanes f.et)

/-- PACK (R95). -/
def execPack (f : Fields) (s : State) : Host.Outcome State Fault Refusal :=
  fireData f s (packResult f)

/-- UNPK (R96). -/
def execUnpk (f : Fields) (s : State) : Host.Outcome State Fault Refusal :=
  fireData f s (unpkResult f)

/-- SUMR: the exact sum of all lanes, fitted once (R97). -/
def execSumr (f : Fields) (s : State) : Host.Outcome State Fault Refusal :=
  fireData f s fun x => lane0Int f (sumInt (intLanes f x))

/-- MAXR: the largest lane (R97). -/
def execMaxr (f : Fields) (s : State) : Host.Outcome State Fault Refusal :=
  fireData f s fun x => lane0Int f (maxInt (ia f x 0) (intLanes f x))

/-- MINR: the smallest lane (R97). -/
def execMinr (f : Fields) (s : State) : Host.Outcome State Fault Refusal :=
  fireData f s fun x => lane0Int f (minInt (ia f x 0) (intLanes f x))

/-- INDEX: the lowest lane of the largest or smallest value (R97). -/
def execIndex (f : Fields) (s : State) : Host.Outcome State Fault Refusal :=
  fireData f s (indexResult f)

/-- BITTST: bit b[i] mod w of a[i] (R98). -/
def execBittst (f : Fields) (s : State) : Host.Outcome State Fault Refusal :=
  fireData f s fun x => predResult f x fun i => (ua f x i).testBit (ub f x i % etWidth f.et)

end Sys2Proof.Machine
end

