-- ==== Sys2Proof/Machine/Trust.lean ====
section
/-! DEFINITION. The trust block's commands (R405 to R412): CREATE, DESTROY, EXTEND, EVIDENCE, EXPORT, IMPORT, RELEASE, and what is
no command. Its ciphers, signatures and hashes are Config's opaque functions. -/

namespace Sys2Proof.Machine

/-! ## Commands in their mailboxes (R407, R408) -/

/-- A command as the trust block finds it: its mailbox's world, who gave it, the word stored in TB_CMD. -/
structure TbCmd where
  world : BitVec 8
  a : Accessor
  v : Word64
  deriving DecidableEq, Repr

/-- OP of a command. -/
def TbCmd.op (c : TbCmd) : Nat := (bitsAt c.v 0 8).toNat
/-- The physical address of its buffer. -/
def TbCmd.buf (c : TbCmd) : Nat := (bitsAt c.v 12 40).toNat * 4096

/-- How much of its buffer a command reaches: the input, and the output for EVIDENCE, EXPORT and RELEASE (R407, R408). -/
def TbCmd.reach (c : TbCmd) : Nat := if c.op == 4 || c.op == 5 || c.op == 7 then 0x2000 else 0x800

/-- The oldest command, while the clock runs; one whose buffer meets a held line waits, without a timeout (R261). -/
def State.tbHead (s : State) : Option TbCmd :=
  if s.clocked then (s.tbQueue.head?.map fun q => (⟨q.1, q.2.1, q.2.2⟩ : TbCmd)).filter fun c => !s.areaHeld c.buf c.reach else none

/-- Input bytes of a command. -/
def State.tbIn (s : State) (c : TbCmd) (off n : Nat) : List Byte := readBytes s.mem (c.buf + off) n
/-- An input number of a command. -/
def State.tbNum (s : State) (c : TbCmd) (off n : Nat) : Nat := bytesToNat (s.tbIn c off n)

/-- Does a command have a reserved OP, field or length (R408)? (DEDUCED, log 50.) -/
def State.tbBad (s : State) (c : TbCmd) : Bool :=
  bitsAt c.v 52 12 != 0 || bitsAt c.v 8 4 != 0 || !inHbm (c.buf + 8191) || c.op == 0 || decide (7 < c.op) ||
    (c.op == 1 && decide (4 ≤ s.tbNum c 1 1)) ||
    (c.op == 7 && (s.tbNum c 0x40 4 != 1088 || s.tbNum c 0x44 4 % 8 != 0 || decide (s.tbNum c 0x44 4 < 16 ∨ 264 < s.tbNum c 0x44 4)))

/-- The command is done: TB_STAT takes its status with BUSY clear (R407). -/
def State.tbDone (s : State) (c : TbCmd) (status : Nat) : State :=
  { s with tbQueue := s.tbQueue.tail }.setReg (0xB008 + 16 * c.world.toNat) (BitVec.ofNat 64 status)

/-- Was a command given by a hart of its mailbox's own world (R408)? (DEDUCED, log 50.) -/
def TbCmd.own (c : TbCmd) : Bool := c.a.hart && c.a.world == c.world

/-- Run the oldest command when it is of an OP and well formed, its input read at the home slices (R261); one that its giver may not give ends with NOPRIV. -/
def State.tbRun (s : State) (op : Nat) (may : TbCmd → Bool) (run : State → TbCmd → State) : State :=
  match s.tbHead with
  | none => s
  | some c => if c.op ≠ op ∨ s.tbBad c then s else if may c then run (s.peek c.buf 0x800) c else s.tbDone c 3

/-! ## Worlds: CREATE, DESTROY, EXTEND -/

/-- The world that a command of Eftan names. -/
def State.tbWorld (s : State) (c : TbCmd) : BitVec 8 := BitVec.ofNat 8 (s.tbNum c 0 1)
/-- WRLD_CFG's offset for a world. -/
def cfgOff (w : BitVec 8) : Nat := 0xA000 + 16 * w.toNat
/-- Does a world exist (R398)? -/
def State.worldV (s : State) (w : BitVec 8) : Bool := bitAt (s.wcfg w) 63

/-- TB_CREATE: keys are made, the measurement and the counter are zero, WRLD_CFG is written (R408). -/
def execTbCreate (s : State) : Host.Outcome State Fault Refusal :=
  .next (s.tbRun 1 (fun c => c.a.trust) fun s c =>
    let w := s.tbWorld c
    if s.worldV w then s.tbDone c 7
    else
      let n := s.freshId
      let flags := s.tbNum c 1 1
      let cfg : Word64 := BitVec.ofNat 64 (2 ^ 63 + (if flags % 2 = 1 then 2 ^ 62 else 0) + (if flags / 2 % 2 = 1 then 2 ^ 61 else 0))
      let s1 := { s with freshId := n + 3 }.putKeys ⟨w, Config.random256 n, Config.random256 (n + 1), Config.random256 (n + 2), 0, 0, none⟩
      ((s1.setReg (cfgOff w) cfg).bumpLayout).tbDone c 0)

/-- TB_DESTROY: keys, counter and measurement are erased and WRLD_CFG is zero, unless a handle names a launch of the world (R408). -/
def execTbDestroy (s : State) : Host.Outcome State Fault Refusal :=
  .next (s.tbRun 2 (fun c => c.a.trust) fun s c =>
    let w := s.tbWorld c
    if s.launches.any fun l => l.world == w then s.tbDone c 8
    else ({ s with keys := s.keys.filter fun k => k.world != w }.setReg (cfgOff w) 0).bumpLayout.tbDone c 0)

/-- TB_EXTEND: MEAS := SHAKE256(MEAS ‖ data) (R408). -/
def execTbExtend (s : State) : Host.Outcome State Fault Refusal :=
  .next (s.tbRun 3 (fun c => c.a.trust) fun s c =>
    let w := s.tbWorld c
    if !s.worldV w then s.tbDone c 6
    else
      let k := s.keysOf w
      (s.putKeys { k with meas := Config.shake256 (toBytes k.meas 64 ++ s.tbIn c 0x40 64) }).bumpLayout.tbDone c 0)

/-! ## EVIDENCE (R409) -/

/-- Bytes cut or filled with zeros to a length. -/
def fitBytes (n : Nat) (bs : List Byte) : List Byte := (bs ++ List.replicate n 0).take n

/-- The RUNNING launches. -/
def State.runningLaunches (s : State) : List Launch := s.launches.filter fun l => l.state == .running

/-- The colour entries of a world and the held-range declarations of its colours in every running launch, as bytes.
(DEDUCED, log 50.) -/
def State.layoutBytes (s : State) (w : BitVec 8) : List Byte :=
  s.runningLaunches.flatMap fun l =>
    let mine (g : Region) (c : Nat) : Bool := colV (g.col c) && colWorld (g.col c) == w
    l.members.flatMap (fun g => ((List.range 64).filter (mine g)).flatMap fun c => toBytes (g.col c) 32) ++
      (l.held.filter fun r => (l.members[r.member]?).any fun g => mine g r.col).flatMap HeldRange.bytes

/-- Does a running MULTIW launch host a colour of a world? -/
def State.multiColours (s : State) (w : BitVec 8) : Bool :=
  s.runningLaunches.any fun l => l.members.any fun g => g.multiw && g.coltab.any fun e => colV e && colWorld e == w

/-- The first 0x680 bytes of evidence, which the alias key signs (R409). (DEDUCED, log 50.) -/
def State.evidenceBody (s : State) (w : BitVec 8) (nonce : List Byte) (priv : BitVec 256) : List Byte :=
  let flags := (if bitAt (s.wcfg w) 62 then 1 else 0) + (if s.multiColours w then 2 else 0)
  leBytes 4 0x57584556 ++ leBytes 2 1 ++ [BitVec.ofNat 8 flags, w] ++ toBytes s.laygen 8 ++ leBytes 8 s.cycle ++ fitBytes 32 nonce ++
    leBytes 8 0 ++ fitBytes 256 (s.dice.flatMap fun d => toBytes d 64) ++ toBytes (s.keysOf w).meas 64 ++
    toBytes (Config.shake256 (s.layoutBytes w)) 64 ++ fitBytes 1184 (Config.kemPublic priv) ++ List.replicate 32 0

/-- May this accessor give EVIDENCE and EXPORT: a hart of the world, or a trusted accessor (R408)? -/
def TbCmd.ownOrTrusted (c : TbCmd) : Bool := c.own || c.a.trust

/-- The secret of a DICE layer: SHAKE256 of the one below, the device secret under layer 0, and of its own measurement (R406). -/
def layerSecret (dice : List (BitVec 512)) : Nat → BitVec 512
  | 0 => Config.shake256 (toBytes Config.deviceSecret 32 ++ toBytes (dice.getD 0 0) 64)
  | n + 1 => Config.shake256 (toBytes (layerSecret dice n) 64 ++ toBytes (dice.getD (n + 1) 0) 64)

/-- The secret of a layer of the package: layer 0 gives the device identity key, layer 3 the alias key (R406). -/
def State.layerSecret (s : State) (n : Nat) : BitVec 512 := Sys2Proof.Machine.layerSecret s.dice n

/-- TB_EVIDENCE: signed evidence with a fresh key pair, whose private key the trust block keeps with the nonce (R409). -/
def execTbEvidence (s : State) : Host.Outcome State Fault Refusal :=
  .next (s.tbRun 4 TbCmd.ownOrTrusted fun s c =>
    let nonce := s.tbIn c 0x20 32
    let priv := Config.random256 s.freshId
    let body := s.evidenceBody c.world nonce priv
    let out := body ++ fitBytes 3309 (Config.dsaSign (s.layerSecret 3) body) ++ List.replicate 19 0
    let k := s.keysOf c.world
    let s1 := { s with freshId := s.freshId + 1 }.putKeys { k with evidence := some (ofBytes 256 nonce, priv) }
    (s1.poke (c.buf + 0x800) out).tbDone c 0)

/-! ## EXPORT, IMPORT (R410) -/

/-- The seal root: SHAKE256 of the fused device secret (R406). -/
def sealRoot : BitVec 512 := Config.shake256 (toBytes Config.deviceSecret 32)

/-- The sealing key of a blob: SHAKE256 of the seal root, the measurement and the policy hash (R406). -/
def sealingKey (meas : BitVec 512) (policy : List Byte) : BitVec 256 :=
  bitsAt (Config.shake256 (toBytes sealRoot 64 ++ toBytes meas 64 ++ policy)) 0 256

/-- The certificate of the alias key under the device identity key (R406). -/
def State.aliasCert (s : State) : List Byte := Config.dsaSign (s.layerSecret 0) (Config.dsaPublic (s.layerSecret 3))

/-- The first eight bytes of a blob (R410). -/
def blobHeader (w : BitVec 8) : List Byte := leBytes 4 0x57584B42 ++ leBytes 2 1 ++ [0, w]

/-- TB_EXPORT: a blob with the world's keys wrapped under its sealing key (R410). -/
def execTbExport (s : State) : Host.Outcome State Fault Refusal :=
  .next (s.tbRun 5 TbCmd.ownOrTrusted fun s c =>
    let policy := s.tbIn c 0x40 64
    let k := s.keysOf c.world
    let wrap := Config.keyWrap (sealingKey k.meas policy) (toBytes k.fabric 32 ++ toBytes k.page 32 ++ toBytes k.capture 32)
    let blob := blobHeader c.world ++ List.replicate 56 0 ++ policy ++ fitBytes 104 wrap ++ List.replicate 24 0
    (s.poke (c.buf + 0x800) blob).tbDone c 0)

/-- The keys in a blob for a world (R410); none where the blob is another world's or its check fails. -/
def State.blobKeys (s : State) (w : BitVec 8) (blob : List Byte) : Option (List Byte) :=
  if blob.take 8 = blobHeader w then
    Config.keyUnwrap (sealingKey (s.keysOf w).meas ((blob.drop 0x40).take 64)) ((blob.drop 0x80).take 104)
  else none

/-- TB_IMPORT: a blob's keys become the world's keys, in the layout that the command names (R410, R412). -/
def execTbImport (s : State) : Host.Outcome State Fault Refusal :=
  .next (s.tbRun 6 TbCmd.own fun s c =>
    if s.tbNum c 8 8 ≠ s.laygen.toNat then s.tbDone c 4
    else
      match s.blobKeys c.world (s.tbIn c 0x100 256) with
      | none => s.tbDone c 5
      | some ks =>
        let k := s.keysOf c.world
        let s1 := s.putKeys { k with fabric := ofBytes 256 (ks.take 32), page := ofBytes 256 ((ks.drop 32).take 32),
                                     capture := ofBytes 256 ((ks.drop 64).take 32) }
        s1.bumpLayout.tbDone c 0)

/-! ## RELEASE (R411) -/

/-- The secret in a RELEASE under the private key of the evidence (R411). -/
def State.released (s : State) (c : TbCmd) (priv : BitVec 256) : Option (List Byte) :=
  let key : BitVec 256 := bitsAt (Config.shake256 (Config.kemDecaps priv (s.tbIn c 0x100 1088) ++ s.tbIn c 0x20 32)) 0 256
  (Config.keyUnwrap key (s.tbIn c 0x540 (s.tbNum c 0x44 4))).map (fitBytes (s.tbNum c 0x44 4 - 8))

/-- TB_RELEASE: the tenant's secret is unwrapped with the private key of the evidence that carried the nonce, which is then discarded,
in the layout that the command names (R409, R411, R412). -/
def execTbRelease (s : State) : Host.Outcome State Fault Refusal :=
  .next (s.tbRun 7 TbCmd.own fun s c =>
    let k := s.keysOf c.world
    if s.tbNum c 8 8 ≠ s.laygen.toNat then s.tbDone c 4
    else
      match k.evidence with
      | none => s.tbDone c 1
      | some (nonce, priv) =>
        if ofBytes 256 (s.tbIn c 0x20 32) ≠ nonce then s.tbDone c 1
        else
          let s1 := s.putKeys { k with evidence := none }
          match s.released c priv with
          | none => s1.tbDone c 5
          | some bs => (s1.poke (c.buf + 0x800) bs).tbDone c 0)

/-- TB_BADCMD: a command with a reserved OP, field or length ends with BADCMD (R408). -/
def execTbBadcmd (s : State) : Host.Outcome State Fault Refusal :=
  .next (match s.tbHead with
    | none => s
    | some c => if s.tbBad c then s.tbDone c 2 else s)

end Sys2Proof.Machine
end

