-- ==== Sys2Proof/Machine/Dispatch.lean ====
section
/-! DEFINITION. Which meaning each instruction has: one arm per constructor, in table order. -/

namespace Sys2Proof.Machine

/-- The effect of one instruction. -/
def exec (i : Instr) (s : State) : Host.Outcome State Fault Refusal :=
  match i with
  | .nop f => Sys2Proof.Machine.execNop f s
  | .const f => Sys2Proof.Machine.execConst f s
  | .mov f => Sys2Proof.Machine.execMov f s
  | .sink f => Sys2Proof.Machine.execSink f s
  | .steer f => Sys2Proof.Machine.execSteer f s
  | .gate f => Sys2Proof.Machine.execGate f s
  | .merge f => Sys2Proof.Machine.execMerge f s
  | .pick f => Sys2Proof.Machine.execPick f s
  | .lenter f => Sys2Proof.Machine.execLenter f s
  | .lexit f => Sys2Proof.Machine.execLexit f s
  | .wadv f => Sys2Proof.Machine.execWadv f s
  | .tagset f => Sys2Proof.Machine.execTagset f s
  | .tagget f => Sys2Proof.Machine.execTagget f s
  | .alloc f => Sys2Proof.Machine.execAlloc f s
  | .release f => Sys2Proof.Machine.execRelease f s
  | .call f => Sys2Proof.Machine.execCall f s
  | .ret f => Sys2Proof.Machine.execRet f s
  | .count f => Sys2Proof.Machine.execCount f s
  | .ired f => Sys2Proof.Machine.execIred f s
  | .fred f => Sys2Proof.Machine.execFred f s
  | .pset f => Sys2Proof.Machine.execPset f s
  | .pnot f => Sys2Proof.Machine.execPnot f s
  | .pand f => Sys2Proof.Machine.execPand f s
  | .por f => Sys2Proof.Machine.execPor f s
  | .hold f => Sys2Proof.Machine.execHold f s
  | .reads f => Sys2Proof.Machine.execReads f s
  | .delay f => Sys2Proof.Machine.execDelay f s
  | .repeatTok f => Sys2Proof.Machine.execRepeatTok f s
  | .add f => Sys2Proof.Machine.execAdd f s
  | .sub f => Sys2Proof.Machine.execSub f s
  | .adds f => Sys2Proof.Machine.execAdds f s
  | .subs f => Sys2Proof.Machine.execSubs f s
  | .mul f => Sys2Proof.Machine.execMul f s
  | .mulhi f => Sys2Proof.Machine.execMulhi f s
  | .mad f => Sys2Proof.Machine.execMad f s
  | .div f => Sys2Proof.Machine.execDiv f s
  | .rem f => Sys2Proof.Machine.execRem f s
  | .min f => Sys2Proof.Machine.execMin f s
  | .max f => Sys2Proof.Machine.execMax f s
  | .abs f => Sys2Proof.Machine.execAbs f s
  | .neg f => Sys2Proof.Machine.execNeg f s
  | .and f => Sys2Proof.Machine.execAnd f s
  | .or f => Sys2Proof.Machine.execOr f s
  | .xor f => Sys2Proof.Machine.execXor f s
  | .andn f => Sys2Proof.Machine.execAndn f s
  | .not f => Sys2Proof.Machine.execNot f s
  | .shl f => Sys2Proof.Machine.execShl f s
  | .shr f => Sys2Proof.Machine.execShr f s
  | .sar f => Sys2Proof.Machine.execSar f s
  | .rotl f => Sys2Proof.Machine.execRotl f s
  | .clz f => Sys2Proof.Machine.execClz f s
  | .popc f => Sys2Proof.Machine.execPopc f s
  | .cmpeq f => Sys2Proof.Machine.execCmpeq f s
  | .cmpne f => Sys2Proof.Machine.execCmpne f s
  | .cmplt f => Sys2Proof.Machine.execCmplt f s
  | .cmple f => Sys2Proof.Machine.execCmple f s
  | .sel f => Sys2Proof.Machine.execSel f s
  | .bcast f => Sys2Proof.Machine.execBcast f s
  | .lane f => Sys2Proof.Machine.execLane f s
  | .shuf f => Sys2Proof.Machine.execShuf f s
  | .pack f => Sys2Proof.Machine.execPack f s
  | .unpk f => Sys2Proof.Machine.execUnpk f s
  | .sumr f => Sys2Proof.Machine.execSumr f s
  | .maxr f => Sys2Proof.Machine.execMaxr f s
  | .minr f => Sys2Proof.Machine.execMinr f s
  | .index f => Sys2Proof.Machine.execIndex f s
  | .bittst f => Sys2Proof.Machine.execBittst f s
  | .fadd f => Sys2Proof.Machine.execFadd f s
  | .fsub f => Sys2Proof.Machine.execFsub f s
  | .fmul f => Sys2Proof.Machine.execFmul f s
  | .ffma f => Sys2Proof.Machine.execFfma f s
  | .fmin f => Sys2Proof.Machine.execFmin f s
  | .fmax f => Sys2Proof.Machine.execFmax f s
  | .fabs f => Sys2Proof.Machine.execFabs f s
  | .fneg f => Sys2Proof.Machine.execFneg f s
  | .fcmpeq f => Sys2Proof.Machine.execFcmpeq f s
  | .fcmplt f => Sys2Proof.Machine.execFcmplt f s
  | .fcmple f => Sys2Proof.Machine.execFcmple f s
  | .fcmpun f => Sys2Proof.Machine.execFcmpun f s
  | .frcp f => Sys2Proof.Machine.execFrcp f s
  | .frsq f => Sys2Proof.Machine.execFrsq f s
  | .fexp2 f => Sys2Proof.Machine.execFexp2 f s
  | .flog2 f => Sys2Proof.Machine.execFlog2 f s
  | .ftanh f => Sys2Proof.Machine.execFtanh f s
  | .fsqrt f => Sys2Proof.Machine.execFsqrt f s
  | .fdiv f => Sys2Proof.Machine.execFdiv f s
  | .fsumr f => Sys2Proof.Machine.execFsumr f s
  | .fmaxr f => Sys2Proof.Machine.execFmaxr f s
  | .fcvt f => Sys2Proof.Machine.execFcvt f s
  | .icvt f => Sys2Proof.Machine.execIcvt f s
  | .fcvti f => Sys2Proof.Machine.execFcvti f s
  | .qnt f => Sys2Proof.Machine.execQnt f s
  | .dqnt f => Sys2Proof.Machine.execDqnt f s
  | .hads f => Sys2Proof.Machine.execHads f s
  | .hadx f => Sys2Proof.Machine.execHadx f s
  | .fscale f => Sys2Proof.Machine.execFscale f s
  | .fresc f => Sys2Proof.Machine.execFresc f s
  | .launch f => Sys2Proof.Machine.execLaunch f s
  | .ctok f => Sys2Proof.Machine.execCtok f s
  | .census f => Sys2Proof.Machine.execCensus f s
  | .purge f => Sys2Proof.Machine.execPurge f s
  | .quota f => Sys2Proof.Machine.execQuota f s
  | .colget f => Sys2Proof.Machine.execColget f s
  | .colset f => Sys2Proof.Machine.execColset f s
  | .spanend f => Sys2Proof.Machine.execSpanend f s
  | .ctxnext f => Sys2Proof.Machine.execCtxnext f s
  | .yield f => Sys2Proof.Machine.execYield f s
  | .horizon f => Sys2Proof.Machine.execHorizon f s
  | .ld f => Sys2Proof.Machine.execLd f s
  | .st f => Sys2Proof.Machine.execSt f s
  | .ldv f => Sys2Proof.Machine.execLdv f s
  | .cmst f => Sys2Proof.Machine.execCmst f s
  | .atadd f => Sys2Proof.Machine.execAtadd f s
  | .atmin f => Sys2Proof.Machine.execAtmin f s
  | .atmax f => Sys2Proof.Machine.execAtmax f s
  | .atand f => Sys2Proof.Machine.execAtand f s
  | .ator f => Sys2Proof.Machine.execAtor f s
  | .atxor f => Sys2Proof.Machine.execAtxor f s
  | .atswp f => Sys2Proof.Machine.execAtswp f s
  | .atcas f => Sys2Proof.Machine.execAtcas f s
  | .attsb f => Sys2Proof.Machine.execAttsb f s
  | .mtld f => Sys2Proof.Machine.execMtld f s
  | .mtst f => Sys2Proof.Machine.execMtst f s
  | .mttsb f => Sys2Proof.Machine.execMttsb f s
  | .agset f => Sys2Proof.Machine.execAgset f s
  | .aggo f => Sys2Proof.Machine.execAggo f s
  | .copy f => Sys2Proof.Machine.execCopy f s
  | .cpwait f => Sys2Proof.Machine.execCpwait f s
  | .cpptr f => Sys2Proof.Machine.execCpptr f s
  | .order f => Sys2Proof.Machine.execOrder f s
  | .ownpass f => Sys2Proof.Machine.execOwnpass f s
  | .pin f => Sys2Proof.Machine.execPin f s
  | .unpin f => Sys2Proof.Machine.execUnpin f s
  | .pref f => Sys2Proof.Machine.execPref f s
  | .mfence f => Sys2Proof.Machine.execMfence f s
  | .mma f => Sys2Proof.Machine.execMma f s
  | .mzero f => Sys2Proof.Machine.execMzero f s
  | .mdrain f => Sys2Proof.Machine.execMdrain f s
  | .mscale f => Sys2Proof.Machine.execMscale f s
  | .mcode f => Sys2Proof.Machine.execMcode f s
  | .mepi f => Sys2Proof.Machine.execMepi f s
  | .mswap f => Sys2Proof.Machine.execMswap f s
  | .kvpack f => Sys2Proof.Machine.execKvpack f s
  | .kvxlat f => Sys2Proof.Machine.execKvxlat f s
  | .massacc f => Sys2Proof.Machine.execMassacc f s
  | .kvevict f => Sys2Proof.Machine.execKvevict f s
  | .kvseqCreate f => Sys2Proof.Machine.execKvseqCreate f s
  | .kvseqAttach f => Sys2Proof.Machine.execKvseqAttach f s
  | .kvseqDetach f => Sys2Proof.Machine.execKvseqDetach f s
  | .kvapp f => Sys2Proof.Machine.execKvapp f s
  | .kvstat f => Sys2Proof.Machine.execKvstat f s
  | .kvdrop f => Sys2Proof.Machine.execKvdrop f s
  | .ndecl f => Sys2Proof.Machine.execNdecl f s
  | .nask f => Sys2Proof.Machine.execNask f s
  | .nann f => Sys2Proof.Machine.execNann f s
  | .ndropDecl f => Sys2Proof.Machine.execNdropDecl f s
  | .ndropOwn f => Sys2Proof.Machine.execNdropOwn f s
  | .nstat f => Sys2Proof.Machine.execNstat f s
  | .trap f => Sys2Proof.Machine.execTrap f s
  | .brk f => Sys2Proof.Machine.execBrk f s
  | .fault f => Sys2Proof.Machine.execFault f s
  | .mark f => Sys2Proof.Machine.execMark f s
  | .wxLaunch rd rs1 => Sys2Proof.Machine.execWxLaunch rd rs1 s
  | .wxPushtok rd rs1 rs2 => Sys2Proof.Machine.execWxPushtok rd rs1 rs2 s
  | .wxPulltok rd rs1 rs2 => Sys2Proof.Machine.execWxPulltok rd rs1 rs2 s
  | .wxCensus rd rs1 => Sys2Proof.Machine.execWxCensus rd rs1 s
  | .wxPurge rd rs1 => Sys2Proof.Machine.execWxPurge rd rs1 s
  | .wxSpanwait rd rs1 => Sys2Proof.Machine.execWxSpanwait rd rs1 s
  | .wxSummary rd rs1 => Sys2Proof.Machine.execWxSummary rd rs1 s
  | .wxFreeze rd rs1 => Sys2Proof.Machine.execWxFreeze rd rs1 s
  | .wxResume rd rs1 => Sys2Proof.Machine.execWxResume rd rs1 s
  | .tokenArrival p src => Sys2Proof.Machine.execTokenArrival p src s
  | .readyQueueEntry p => Sys2Proof.Machine.execReadyQueueEntry p s
  | .outputTokenSend p => Sys2Proof.Machine.execOutputTokenSend p s
  | .entryPortInject r ax ay => Sys2Proof.Machine.execEntryPortInject r ax ay s
  | .exitPortAccept r src port => Sys2Proof.Machine.execExitPortAccept r src port s
  | .sweepEnd r late => Sys2Proof.Machine.execSweepEnd r late s
  | .stalledColour r col => Sys2Proof.Machine.execStalledColour r col s
  | .purgeComplete h col => Sys2Proof.Machine.execPurgeComplete h col s
  | .contextRetire r ctx => Sys2Proof.Machine.execContextRetire r ctx s
  | .autoClose h => Sys2Proof.Machine.execAutoClose h s
  | .regionRetire h => Sys2Proof.Machine.execRegionRetire h s
  | .loadComplete h => Sys2Proof.Machine.execLoadComplete h s
  | .ctxnextLoadComplete r ctx => Sys2Proof.Machine.execCtxnextLoadComplete r ctx s
  | .spanCommit h => Sys2Proof.Machine.execSpanCommit h s
  | .heldAccessTimeout id => Sys2Proof.Machine.execHeldAccessTimeout id s
  | .memoryRequestAccept r id => Sys2Proof.Machine.execMemoryRequestAccept r id s
  | .chainPerform r id => Sys2Proof.Machine.execChainPerform r id s
  | .pageTableWalk r id => Sys2Proof.Machine.execPageTableWalk r id s
  | .homeSliceAccess r id => Sys2Proof.Machine.execHomeSliceAccess r id s
  | .cmstGroupSettle r id => Sys2Proof.Machine.execCmstGroupSettle r id s
  | .windowFill r tile win => Sys2Proof.Machine.execWindowFill r tile win s
  | .windowWriteback r tile win => Sys2Proof.Machine.execWindowWriteback r tile win s
  | .generatorAccess p gen => Sys2Proof.Machine.execGeneratorAccess p gen s
  | .aggoNestEnd p gen => Sys2Proof.Machine.execAggoNestEnd p gen s
  | .bankAccess p bank => Sys2Proof.Machine.execBankAccess p bank s
  | .copyTransferStart p ch => Sys2Proof.Machine.execCopyTransferStart p ch s
  | .copyPiece p ch => Sys2Proof.Machine.execCopyPiece p ch s
  | .copyDone p ch => Sys2Proof.Machine.execCopyDone p ch s
  | .cpwaitRelease p ch => Sys2Proof.Machine.execCpwaitRelease p ch s
  | .mfenceComplete p => Sys2Proof.Machine.execMfenceComplete p s
  | .ownpassComplete p => Sys2Proof.Machine.execOwnpassComplete p s
  | .streamTokenStaging p src => Sys2Proof.Machine.execStreamTokenStaging p src s
  | .mmaKgroup p row col => Sys2Proof.Machine.execMmaKgroup p row col s
  | .mmaPassComplete p => Sys2Proof.Machine.execMmaPassComplete p s
  | .mdrainComplete p => Sys2Proof.Machine.execMdrainComplete p s
  | .kvevictCompaction slice seq => Sys2Proof.Machine.execKvevictCompaction slice seq s
  | .interestArrival msg => Sys2Proof.Machine.execInterestArrival msg s
  | .interestRetry router => Sys2Proof.Machine.execInterestRetry router s
  | .interestRefresh msg => Sys2Proof.Machine.execInterestRefresh msg s
  | .faceExpiry router entry face => Sys2Proof.Machine.execFaceExpiry router entry face s
  | .tileArrival msg => Sys2Proof.Machine.execTileArrival msg s
  | .negativeAnswerArrival msg => Sys2Proof.Machine.execNegativeAnswerArrival msg s
  | .answerDelivery p ch => Sys2Proof.Machine.execAnswerDelivery p ch s
  | .stationInput die station input => Sys2Proof.Machine.execStationInput die station input s
  | .flitStationToken port flit => Sys2Proof.Machine.execFlitStationToken port flit s
  | .flitGalleryInterest port flit => Sys2Proof.Machine.execFlitGalleryInterest port flit s
  | .flitTileData port flit => Sys2Proof.Machine.execFlitTileData port flit s
  | .flitGalleryAnswer port flit => Sys2Proof.Machine.execFlitGalleryAnswer port flit s
  | .flitManagement port flit => Sys2Proof.Machine.execFlitManagement port flit s
  | .flitAcknowledge port flit => Sys2Proof.Machine.execFlitAcknowledge port flit s
  | .linkRetryTimeout port => Sys2Proof.Machine.execLinkRetryTimeout port s
  | .regionFreeze h => Sys2Proof.Machine.execRegionFreeze h s
  | .snapshotScan h => Sys2Proof.Machine.execSnapshotScan h s
  | .preemptDrain h => Sys2Proof.Machine.execPreemptDrain h s
  | .drainTimeout h => Sys2Proof.Machine.execDrainTimeout h s
  | .regionRestore h => Sys2Proof.Machine.execRegionRestore h s
  | .sealAdvance h => Sys2Proof.Machine.execSealAdvance h s
  | .hardwareError code at' => Sys2Proof.Machine.execHardwareError code at' s
  | .packageMachineCheck code => Sys2Proof.Machine.execPackageMachineCheck code s
  | .frzNAssert cycles => Sys2Proof.Machine.execFrzNAssert cycles s
  | .packageReset a b => Sys2Proof.Machine.execPackageReset a b s
  | .throttleEnter power temp => Sys2Proof.Machine.execThrottleEnter power temp s
  | .thermalTrip temp => Sys2Proof.Machine.execThermalTrip temp s
  | .hartMemoryAccess hart pa op => Sys2Proof.Machine.execHartMemoryAccess hart pa op s
  | .hostAccess pa op => Sys2Proof.Machine.execHostAccess pa op s
  | .replayEntry h => Sys2Proof.Machine.execReplayEntry h s
  | .wxvworldWrite hart value => Sys2Proof.Machine.execWxvworldWrite hart value s
  | .regionPageForeignAccess a pa op => Sys2Proof.Machine.execRegionPageForeignAccess a pa op s
  | .registerWrite a pa size value => Sys2Proof.Machine.execRegisterWrite a pa size value s
  | .throttleExit power temp => Sys2Proof.Machine.execThrottleExit power temp s
  | .droppedFlit port flit => Sys2Proof.Machine.execDroppedFlit port flit s
  | .illegalInstructionException w => Sys2Proof.Machine.execIllegalInstructionException w s
  | .wxworldWrite hart value => Sys2Proof.Machine.execWxworldWrite hart value s
  | .placementDecision => Sys2Proof.Machine.execPlacementDecision s
  | .mctpFreeze => Sys2Proof.Machine.execMctpFreeze s
  | .mctpReset => Sys2Proof.Machine.execMctpReset s
  | .replayStart => Sys2Proof.Machine.execReplayStart s
  | .pkgReleaseSave => Sys2Proof.Machine.execPkgReleaseSave s
  | .pkgReleaseDiscard => Sys2Proof.Machine.execPkgReleaseDiscard s
  | .xltInvPage => Sys2Proof.Machine.execXltInvPage s
  | .xltInvWorld => Sys2Proof.Machine.execXltInvWorld s
  | .xltInvAll => Sys2Proof.Machine.execXltInvAll s
  | .galCfgWrite => Sys2Proof.Machine.execGalCfgWrite s
  | .wrldSnapszWrite => Sys2Proof.Machine.execWrldSnapszWrite s
  | .pkgDevidWrite => Sys2Proof.Machine.execPkgDevidWrite s
  | .tbCreate => Sys2Proof.Machine.execTbCreate s
  | .tbDestroy => Sys2Proof.Machine.execTbDestroy s
  | .tbExtend => Sys2Proof.Machine.execTbExtend s
  | .tbEvidence => Sys2Proof.Machine.execTbEvidence s
  | .tbExport => Sys2Proof.Machine.execTbExport s
  | .tbImport => Sys2Proof.Machine.execTbImport s
  | .tbRelease => Sys2Proof.Machine.execTbRelease s
  | .tbBadcmd => Sys2Proof.Machine.execTbBadcmd s

end Sys2Proof.Machine
end

