-- ==== Sys2Proof/Machine/Riscv.lean ====
section
/-! DEFINITION. The base instructions of a control core (R1, R264, R269, R399): RV64 with the M and A extensions, the control and status
registers, and the privileged instructions with the hypervisor extension. The spec names them and describes none; they are taken from the
RISC-V specifications (PRESUMED, log 60). A hart executes in program order, and each of its accesses is performed before the next
(R264). -/

namespace Sys2Proof.Machine

/-! ## Fields of a base word -/

/-- rd. -/
def rvRd (w : Word32) : BitVec 5 := bitsAt w 7 5
/-- rs1. -/
def rvRs1 (w : Word32) : BitVec 5 := bitsAt w 15 5
/-- rs2. -/
def rvRs2 (w : Word32) : BitVec 5 := bitsAt w 20 5
/-- funct3. -/
def rvF3 (w : Word32) : Nat := (bitsAt w 12 3).toNat
/-- funct7. -/
def rvF7 (w : Word32) : Nat := (bitsAt w 25 7).toNat
/-- The I-type immediate. -/
def rvImmI (w : Word32) : Word64 := (bitsAt w 20 12).signExtend 64
/-- The S-type immediate. -/
def rvImmS (w : Word32) : Word64 := (bitsAt w 25 7 ++ bitsAt w 7 5).signExtend 64
/-- The B-type immediate. -/
def rvImmB (w : Word32) : Word64 := (bitsAt w 31 1 ++ bitsAt w 7 1 ++ bitsAt w 25 6 ++ bitsAt w 8 4 ++ (0 : BitVec 1)).signExtend 64
/-- The U-type immediate. -/
def rvImmU (w : Word32) : Word64 := (bitsAt w 12 20 ++ (0 : BitVec 12)).signExtend 64
/-- The J-type immediate. -/
def rvImmJ (w : Word32) : Word64 := (bitsAt w 31 1 ++ bitsAt w 12 8 ++ bitsAt w 20 1 ++ bitsAt w 21 10 ++ (0 : BitVec 1)).signExtend 64

/-! ## Arithmetic -/

/-- The result of an integer operation on 64 bits; `alt` is bit 30 of the word. -/
def rvAlu (f3 : Nat) (alt : Bool) (a b : Word64) : Word64 :=
  match f3 with
  | 0 => if alt then a - b else a + b
  | 1 => a <<< (b.toNat % 64)
  | 2 => if a.slt b then 1 else 0
  | 3 => if a.ult b then 1 else 0
  | 4 => a ^^^ b
  | 5 => if alt then a.sshiftRight (b.toNat % 64) else a >>> (b.toNat % 64)
  | 6 => a ||| b
  | _ => a &&& b

/-- The same on the low 32 bits, sign-extended. -/
def rvAluW (f3 : Nat) (alt : Bool) (a b : Word32) : Word64 :=
  (match f3 with
  | 0 => if alt then a - b else a + b
  | 1 => a <<< (b.toNat % 32)
  | _ => if alt then a.sshiftRight (b.toNat % 32) else a >>> (b.toNat % 32)).signExtend 64

/-- Signed and unsigned products, quotients and remainders of n-bit operands; a division by zero gives all ones and the dividend. -/
def rvMulDiv (n f3 : Nat) (a b : BitVec n) : Int :=
  let ua : Int := a.toNat
  let ub : Int := b.toNat
  match f3 with
  | 0 => a.toInt * b.toInt
  | 1 => a.toInt * b.toInt / 2 ^ n
  | 2 => a.toInt * ub / 2 ^ n
  | 3 => ua * ub / 2 ^ n
  | 4 => if b = 0 then -1 else a.toInt.tdiv b.toInt
  | 5 => if b = 0 then -1 else ua / ub
  | 6 => if b = 0 then a.toInt else a.toInt.tmod b.toInt
  | _ => if b = 0 then ua else ua % ub

/-- Is a branch taken; none for a code that no branch has. -/
def rvTaken (f3 : Nat) (a b : Word64) : Option Bool :=
  match f3 with
  | 0 => some (a == b)
  | 1 => some (a != b)
  | 4 => some (a.slt b)
  | 5 => some (!a.slt b)
  | 6 => some (a.ult b)
  | 7 => some (!a.ult b)
  | _ => none

/-! ## Control and status registers -/

/-- The mode of a privilege level, 0 user, 1 supervisor, 3 machine, with or without virtualisation; the reserved level keeps a mode. -/
def rvMode (old : Mode) (level : Nat) (virt : Bool) : Mode :=
  match level, virt with
  | 0, false => .u
  | 0, true => .vu
  | 1, false => .hs
  | 1, true => .vs
  | 3, _ => .m
  | _, _ => old

/-- The privilege level of a mode. -/
def Mode.level : Mode → Nat
  | .u | .vu => 0
  | .hs | .vs => 1
  | .m => 3

/-- Is a mode virtualised? -/
def Mode.virt : Mode → Bool
  | .vs | .vu => true
  | _ => false

/-- Bit i of a word, from a Bool. -/
def flagAt (i : Nat) (b : Bool) : Word64 := if b then BitVec.ofNat 64 (2 ^ i) else 0

/-- mstatus: the trap registers' fields, the kept fields 22:17, 14:13 and 10:9, and UXL and SXL, which read 2. -/
def Hart.mstatus (k : Hart) : Word64 :=
  flagAt 1 k.strap.ie ||| flagAt 3 k.mtrap.ie ||| flagAt 5 k.strap.pie ||| flagAt 7 k.mtrap.pie ||| flagAt 8 (k.strap.pp.level == 1) |||
    BitVec.ofNat 64 (2 ^ 11 * k.mtrap.pp.level) ||| (k.kept 0x300 &&& 0x7E6600) ||| 0xA00000000 ||| flagAt 39 k.mtrap.pp.virt

/-- A write of mstatus. -/
def Hart.setMstatus (k : Hart) (v : Word64) : Hart :=
  { k with
    strap := { k.strap with ie := bitAt v 1, pie := bitAt v 5, pp := rvMode k.strap.pp (bitsAt v 8 1).toNat k.strap.pp.virt }
    mtrap := { k.mtrap with ie := bitAt v 3, pie := bitAt v 7, pp := rvMode k.mtrap.pp (bitsAt v 11 2).toNat (bitAt v 39) }
    csr := setKey 0x300 (v &&& 0x7E6600) k.csr }

/-- vsstatus. -/
def Hart.vsstatus (k : Hart) : Word64 :=
  flagAt 1 k.vstrap.ie ||| flagAt 5 k.vstrap.pie ||| flagAt 8 (k.vstrap.pp.level == 1) ||| (k.kept 0x200 &&& 0xC6600) ||| 0x200000000

/-- A write of vsstatus. -/
def Hart.setVsstatus (k : Hart) (v : Word64) : Hart :=
  { k with
    vstrap := { k.vstrap with ie := bitAt v 1, pie := bitAt v 5, pp := rvMode k.vstrap.pp (bitsAt v 8 1).toNat true }
    csr := setKey 0x200 (v &&& 0xC6600) k.csr }

/-- hstatus: SPV is the virtualisation of the mode that SRET returns to. -/
def Hart.hstatus (k : Hart) : Word64 := (k.kept 0x600 &&& 0x7003F300) ||| flagAt 7 k.strap.pp.virt ||| 0x200000000

/-- A write of hstatus. -/
def Hart.setHstatus (k : Hart) (v : Word64) : Hart :=
  { k with strap := { k.strap with pp := rvMode k.strap.pp k.strap.pp.level (bitAt v 7) }, csr := setKey 0x600 (v &&& 0x7003F300) k.csr }

/-- The control and status registers that hold what is written to them, with the bits that can be written. -/
def csrMask (n : Nat) : Option Word64 :=
  match n with
  | 0x003 => some 0xFF
  | 0x303 | 0x304 | 0x344 | 0x603 | 0x604 | 0x644 | 0x645 | 0x204 | 0x244 => some 0x3FFF
  | 0x106 | 0x306 | 0x606 => some 0xFFFFFFFF
  | 0x008 | 0x009 | 0x00A => some 0x7F
  | 0x140 | 0x240 | 0x340 | 0x10A | 0x30A | 0x60A | 0x605 | 0x607 | 0x643 | 0x64A | 0x34A | 0x34B => some 0xFFFFFFFFFFFFFFFF
  | _ => none

/-- A register of a trap level: tvec, epc, cause or tval by the low bits of its number. -/
def TrapRegs.csr (t : TrapRegs) (n : Nat) : Option Word64 :=
  match n with
  | 0x05 => some t.tvec
  | 0x41 => some t.epc
  | 0x42 => some t.cause
  | 0x43 => some t.tval
  | _ => none

/-- A write of one. -/
def TrapRegs.setCsr (t : TrapRegs) (n : Nat) (v : Word64) : Option TrapRegs :=
  match n with
  | 0x05 => some { t with tvec := v &&& ~~~2 }
  | 0x41 => some { t with epc := v &&& ~~~1 }
  | 0x42 => some { t with cause := v }
  | 0x43 => some { t with tval := v }
  | _ => none

/-- The value of a control and status register of hart h; none for one that is not modelled. -/
def State.csrRead (s : State) (h : Nat) (k : Hart) (n : Nat) : Option Word64 :=
  match n with
  | 0x001 => some (k.kept 0x003 &&& 0x1F)
  | 0x002 => some (k.kept 0x003 >>> 5)
  | 0x100 => some (k.mstatus &&& 0x3000C6722)
  | 0x104 => some (k.kept 0x304 &&& k.kept 0x303)
  | 0x144 => some (k.kept 0x344 &&& k.kept 0x303)
  | 0x180 | 0x280 | 0x680 => some (k.kept n)
  | 0x200 => some k.vsstatus
  | 0x300 => some k.mstatus
  | 0x301 => some 0x80000000003411AD
  | 0x302 => some k.medeleg
  | 0x600 => some k.hstatus
  | 0x602 => some k.hedeleg
  | 0x7C0 => some k.wxvworld
  | 0xC00 => some (BitVec.ofNat 64 s.cycle)
  | 0xC20 | 0xC21 => some (k.kept n)
  | 0xC22 => some 16
  | 0xCC0 => some k.wxworld
  | 0xF11 | 0xF12 | 0xF13 | 0xF15 => some 0
  | 0xF14 => some (BitVec.ofNat 64 h)
  | _ =>
    if (csrMask n).isSome then some (k.kept n)
    else match n / 256 with
      | 1 => k.strap.csr (n % 256)
      | 2 => k.vstrap.csr (n % 256)
      | 3 => k.mtrap.csr (n % 256)
      | _ => none

/-- A translation register after a write: one whose MODE is not supported keeps its value. -/
def Hart.setAtp (k : Hart) (n : Nat) (v : Word64) : Hart :=
  if bitsAt v 60 4 == 0 || (svLevels v).isSome then { k with csr := setKey n v k.csr } else k

/-- A hart after a write of a control and status register; none for one that is not modelled. -/
def Hart.csrWrite (k : Hart) (n : Nat) (v : Word64) : Option Hart :=
  match n with
  | 0x001 => some { k with csr := setKey 0x003 (setBits (k.kept 0x003) 0 (bitsAt v 0 5)) k.csr }
  | 0x002 => some { k with csr := setKey 0x003 (setBits (k.kept 0x003) 5 (bitsAt v 0 3)) k.csr }
  | 0x100 => some (k.setMstatus ((k.mstatus &&& ~~~(0xC6722 : Word64)) ||| (v &&& 0xC6722)))
  | 0x104 => some { k with csr := setKey 0x304 ((k.kept 0x304 &&& ~~~(k.kept 0x303)) ||| (v &&& k.kept 0x303)) k.csr }
  | 0x144 => some { k with csr := setKey 0x344 ((k.kept 0x344 &&& ~~~(k.kept 0x303)) ||| (v &&& k.kept 0x303)) k.csr }
  | 0x180 | 0x280 | 0x680 => some (k.setAtp n v)
  | 0x200 => some (k.setVsstatus v)
  | 0x300 => some (k.setMstatus v)
  | 0x301 => some k
  | 0x302 => some { k with medeleg := v &&& 0xF0B7FF }
  | 0x600 => some (k.setHstatus v)
  | 0x602 => some { k with hedeleg := v &&& 0xB1FF }
  | _ =>
    match csrMask n with
    | some m => some { k with csr := setKey n (v &&& m) k.csr }
    | none =>
      match n / 256 with
      | 1 => (k.strap.setCsr (n % 256) v).map fun t => { k with strap := t }
      | 2 => (k.vstrap.setCsr (n % 256) v).map fun t => { k with vstrap := t }
      | 3 => (k.mtrap.setCsr (n % 256) v).map fun t => { k with mtrap := t }
      | _ => none

/-- The number under which a mode reaches a supervisor register: in VS-mode its VS copy. -/
def csrNumber (mode : Mode) (n : Nat) : Nat :=
  if mode == .vs && (n == 0x100 || n == 0x104 || n == 0x105 || (0x140 ≤ n && n ≤ 0x144) || n == 0x180) then n + 0x100 else n

/-- Is the floating-point unit off for a hart: FS of mstatus, and of vsstatus when virtualised? -/
def Hart.fpOff (k : Hart) : Bool :=
  bitsAt (k.kept 0x300) 13 2 == 0 || (k.mode.virt && bitsAt (k.kept 0x200) 13 2 == 0)

/-- The exception that an access of a control and status register takes, 2 or 22; none when it may be made. R202 and R399 are of this
form: 0xCC0 is read by every mode and written by none, 0x7C0 is M-mode's. -/
def Hart.csrFault (k : Hart) (n : Nat) (write : Bool) : Option Nat :=
  let need := n / 256 % 4
  if write && n / 1024 == 3 then some 2
  else if need == 3 && k.mode != .m then some 2
  else if need == 2 && k.mode.virt then some 22
  else if need == 2 && k.mode == .u then some 2
  else if need == 1 && k.mode == .vu then some 22
  else if need == 1 && k.mode == .u then some 2
  else if (n == 0x180 || n == 0x680) && k.mode == .hs && bitAt (k.kept 0x300) 20 then some 2
  else if n == 0x180 && k.mode == .vs && bitAt (k.kept 0x600) 20 then some 22
  else if n ≤ 3 && k.fpOff then some 2
  else none

/-! ## Instructions -/

/-- A hart of the state changes. -/
def State.onHart (s : State) (h : Nat) (f : Hart → Hart) : State :=
  match s.hart? h with
  | some k => s.putHart h (f k)
  | none => s

/-- A hart goes on at an address with rd written. -/
def State.hartJump (s : State) (h : Nat) (rd : BitVec 5) (v dest : Word64) : State := (s.hartDone h rd v).onHart h fun k => { k with pc := dest }

/-- An instruction of Zicsr: read, then write what `f` makes of the old value. One that only reads does not write. -/
def State.rvCsr (s : State) (h : Nat) (k : Hart) (w : Word32) (write : Bool) (f : Word64 → Word64) : Option State :=
  let n := (bitsAt w 20 12).toNat
  match k.csrFault n write with
  | some c => some (s.hartTrap h c (w.setWidth 64))
  | none =>
    let at' := csrNumber k.mode n
    match s.csrRead h k at' with
    | none => none
    | some old =>
      if !write then some (s.hartDone h (rvRd w) old)
      else if at' = 0x7C0 then some ((s.setVworld h (f old)).hartDone h (rvRd w) old)
      else (k.csrWrite at' (f old)).map fun q => (s.putHart h q).hartDone h (rvRd w) old

/-- A load: rd takes what `f` makes of the bytes. -/
def State.rvLoad (s : State) (h : Nat) (k : Hart) (rd : BitVec 5) (va : Word64) (n : Nat) (f : Word64 → Word64) : State :=
  match s.hartLoad h k (s.hartPa k .load) va.toNat n 1 with
  | .error t => t
  | .ok (t, bs) => t.hartDone h rd (f (ofBytes 64 bs))

/-- A store of the low n bytes of a value. -/
def State.rvStore (s : State) (h : Nat) (k : Hart) (va : Word64) (n : Nat) (v : Word64) : State :=
  match s.hartStore h k (s.hartPa k .store) va.toNat 1 (toBytes v n) with
  | .error t => t
  | .ok t => t.hartDone h 0 0

/-- A word of n bytes sign-extended. -/
def rvSext (n : Nat) (v : Word64) : Word64 := BitVec.ofInt 64 (toSigned (8 * n) (v.toNat % 2 ^ (8 * n)))

/-- Load-reserved: the line and its stamp are kept (R247). -/
def State.rvLr (s : State) (h : Nat) (k : Hart) (w : Word32) (n : Nat) : State :=
  let va := k.reg (rvRs1 w)
  match s.hartLoad h k (s.hartPa k .load) va.toNat n n with
  | .error t => t
  | .ok (t, bs) =>
    match s.hartPa k .load va.toNat with
    | .error _ => t
    | .ok pa => (t.hartDone h (rvRd w) (rvSext n (ofBytes 64 bs))).onHart h fun q => { q with resv := some (lineOf pa, t.stampOf pa) }

/-- Store-conditional: it stores and gives 0 while the reserved line is as it was, and gives 1 otherwise. -/
def State.rvSc (s : State) (h : Nat) (k : Hart) (w : Word32) (n : Nat) : State :=
  let va := k.reg (rvRs1 w)
  let free (t : State) : State := t.onHart h fun q => { q with resv := none }
  if va.toNat % n ≠ 0 then s.hartTrap h 6 va
  else
    match s.hartPa k .store va.toNat with
    | .error c => s.hartTrap h c va
    | .ok pa =>
      if k.resv != some (lineOf pa, s.stampOf pa) then free (s.hartDone h (rvRd w) 1)
      else
        match s.hartStore h k .ok pa n (toBytes (k.reg (rvRs2 w)) n) with
        | .error t => t
        | .ok t => free (t.hartDone h (rvRd w) 0)

/-- The operation of an atomic's funct5. -/
def rvAmoOp (f5 : Nat) : Option AmoOp :=
  match f5 with
  | 0 => some .add
  | 1 => some .swap
  | 4 => some .xor
  | 8 => some .or
  | 12 => some .and
  | 16 => some .min
  | 20 => some .max
  | 24 => some .minu
  | 28 => some .maxu
  | _ => none

/-- The A extension, of n bytes. -/
def State.rvAtomic (s : State) (h : Nat) (k : Hart) (w : Word32) (n : Nat) : Option State :=
  let f5 := (bitsAt w 27 5).toNat
  if f5 = 2 then if rvRs2 w = 0 then some (s.rvLr h k w n) else none
  else if f5 = 3 then some (s.rvSc h k w n)
  else (rvAmoOp f5).map fun op =>
    match s.hartAmo h k (s.hartPa k .store) (k.reg (rvRs1 w)).toNat n op (k.reg (rvRs2 w)) with
    | .error t => t
    | .ok (t, old) => t.hartDone h (rvRd w) (rvSext n old)

/-- MRET and SRET: MPRV goes off when the hart leaves M-mode. -/
def Hart.ret (k : Hart) (level : Mode) : Hart :=
  let q := { k with mode := level }.trapReturn
  if q.mode == .m then q else { q with csr := setKey 0x300 (q.kept 0x300 &&& ~~~(0x20000 : Word64)) q.csr }

/-- The privileged instructions: ECALL, EBREAK, SRET, MRET, WFI and the fences of translation, of which a hart here keeps no entries. -/
def State.rvSystem (s : State) (h : Nat) (k : Hart) (w : Word32) : Option State :=
  let trap (c : Nat) : Option State := some (s.hartTrap h c (w.setWidth 64))
  let nop : Option State := some (s.hartDone h 0 0)
  let bad : Nat := if k.mode.virt then 22 else 2
  if w = 0x00000073 then some (s.hartTrap h (match k.mode with | .u | .vu => 8 | .hs => 9 | .vs => 10 | .m => 11) 0)
  else if w = 0x00100073 then some (s.hartTrap h 3 k.pc)
  else if w = 0x10200073 then
    if k.mode == .u || k.mode == .vu || (k.mode == .hs && bitAt (k.kept 0x300) 22) || (k.mode == .vs && bitAt (k.kept 0x600) 22) then trap bad
    else some (s.putHart h (k.ret (if k.mode == .m then .hs else k.mode)))
  else if w = 0x30200073 then if k.mode == .m then some (s.putHart h (k.ret .m)) else trap 2
  else if w = 0x10500073 then
    if k.mode != .m && bitAt (k.kept 0x300) 21 then trap 2
    else if k.mode.virt && bitAt (k.kept 0x600) 21 then trap 22 else nop
  else if rvRd w ≠ 0 then none
  else match rvF7 w with
    | 0x09 | 0x0B =>
      if k.mode == .u || k.mode == .vu || (k.mode == .hs && bitAt (k.kept 0x300) 20) || (k.mode == .vs && bitAt (k.kept 0x600) 20) then trap bad
      else nop
    | 0x11 | 0x13 | 0x31 | 0x33 => if k.mode == .m || k.mode == .hs then nop else trap bad
    | 0x0C => if w = 0x18000073 ∨ w = 0x18100073 then (if k.mode == .u || k.mode == .vu then trap bad else nop) else none
    | _ => none

/-- The moves between memory, the integer and the floating-point registers: FLW, FLD, FSW, FSD, FMV.X.W, FMV.X.D, FMV.W.X, FMV.D.X. -/
def State.rvFloatMove (s : State) (h : Nat) (k : Hart) (w : Word32) (op : Nat) : Option State :=
  let box (n : Nat) (v : Word64) : Word64 := if n = 4 then v ||| 0xFFFFFFFF00000000 else v
  let fr (r : BitVec 5) : Word64 := k.f.getD r.toNat 0
  let put (t : State) (v : Word64) : State := t.onHart h fun q =>
    { q with f := q.f.set (rvRd w).toNat v, csr := setKey 0x300 (q.kept 0x300 ||| 0x6000) q.csr }
  let size : Option Nat := match rvF3 w with
    | 2 => some 4
    | 3 => some 8
    | _ => none
  let off (t : Option State) : Option State := if k.fpOff then some (s.hartTrap h 2 (w.setWidth 64)) else t
  match op with
  | 0x07 => size.bind fun n => off (some (
      match s.hartLoad h k (s.hartPa k .load) (k.reg (rvRs1 w) + rvImmI w).toNat n 1 with
      | .error t => t
      | .ok (t, bs) => put (t.hartDone h 0 0) (box n (ofBytes 64 bs))))
  | 0x27 => size.bind fun n => off (some (s.rvStore h k (k.reg (rvRs1 w) + rvImmS w) n (fr (rvRs2 w))))
  | _ =>
    if rvRs2 w ≠ 0 ∨ rvF3 w ≠ 0 then none
    else match rvF7 w with
      | 0x70 => off (some (s.hartDone h (rvRd w) (rvSext 4 (fr (rvRs1 w)))))
      | 0x71 => off (some (s.hartDone h (rvRd w) (fr (rvRs1 w))))
      | 0x78 => off (some (put (s.hartDone h 0 0) (box 4 ((bitsAt (k.reg (rvRs1 w)) 0 32).setWidth 64))))
      | 0x79 => off (some (put (s.hartDone h 0 0) (k.reg (rvRs1 w))))
      | _ => none

/-- The instruction word at an address of a hart: its physical addresses by halves, or the code of the exception that its fetch takes
(1 access fault, 12 or 20 of translation). -/
def State.fetchPa (s : State) (k : Hart) (pc : Nat) : Except Nat (Nat × Nat) :=
  match s.hartPa k .fetch pc, s.hartPa k .fetch (pc + 2) with
  | .ok a, .ok b =>
    if !inHbm (a + 1) || !inHbm (b + 1) || (s.poison? a 2).isSome || (s.poison? b 2).isSome then .error 1 else .ok (a, b)
  | .error c, _ => .error c
  | _, .error c => .error c

/-- A base instruction of hart h: the state after it, or none for one that is not modelled. (PRESUMED, log 60.) -/
def State.riscv (s : State) (h : Nat) (k : Hart) (w : Word32) : Option State :=
  let a := k.reg (rvRs1 w)
  let b := k.reg (rvRs2 w)
  let f3 := rvF3 w
  let f7 := rvF7 w
  let done (v : Word64) : Option State := some (s.hartDone h (rvRd w) v)
  let lo (v : Word64) : Word32 := bitsAt v 0 32
  let op := (bitsAt w 0 7).toNat
  match op with
  | 0x37 => done (rvImmU w)
  | 0x17 => done (k.pc + rvImmU w)
  | 0x6F => some (s.hartJump h (rvRd w) (k.pc + 4) (k.pc + rvImmJ w))
  | 0x67 => if f3 = 0 then some (s.hartJump h (rvRd w) (k.pc + 4) ((a + rvImmI w) &&& ~~~1)) else none
  | 0x63 => (rvTaken f3 a b).map fun t => if t then s.hartJump h 0 0 (k.pc + rvImmB w) else s.hartDone h 0 0
  | 0x03 =>
    if f3 = 7 then none
    else some (s.rvLoad h k (rvRd w) (a + rvImmI w) (2 ^ (f3 % 4)) fun v => if f3 < 4 then rvSext (2 ^ f3) v else v)
  | 0x23 => if f3 ≤ 3 then some (s.rvStore h k (a + rvImmS w) (2 ^ f3) b) else none
  | 0x13 =>
    if f3 = 1 ∧ f7 / 2 ≠ 0 ∨ f3 = 5 ∧ f7 / 2 ≠ 0 ∧ f7 / 2 ≠ 16 then none
    else done (rvAlu f3 (f3 == 5 && f7 / 2 == 16) a (rvImmI w))
  | 0x1B =>
    if f3 = 0 then done (rvAluW 0 false (lo a) (lo (rvImmI w)))
    else if (f3 = 1 ∧ f7 = 0) ∨ (f3 = 5 ∧ (f7 = 0 ∨ f7 = 32)) then done (rvAluW f3 (f7 == 32) (lo a) (lo (rvImmI w)))
    else none
  | 0x33 =>
    if f7 = 1 then done (BitVec.ofInt 64 (rvMulDiv 64 f3 a b))
    else if f7 = 0 ∨ (f7 = 32 ∧ (f3 = 0 ∨ f3 = 5)) then done (rvAlu f3 (f7 == 32) a b)
    else none
  | 0x3B =>
    if f7 = 1 ∧ (f3 = 0 ∨ 4 ≤ f3) then done ((BitVec.ofInt 32 (rvMulDiv 32 f3 (lo a) (lo b))).signExtend 64)
    else if (f7 = 0 ∧ (f3 = 0 ∨ f3 = 1 ∨ f3 = 5)) ∨ (f7 = 32 ∧ (f3 = 0 ∨ f3 = 5)) then done (rvAluW f3 (f7 == 32) (lo a) (lo b))
    else none
  | 0x0F => if f3 ≤ 1 then some (s.hartDone h 0 0) else none
  | 0x2F => if f3 = 2 then s.rvAtomic h k w 4 else if f3 = 3 then s.rvAtomic h k w 8 else none
  | 0x73 =>
    let z : Word64 := (rvRs1 w).setWidth 64
    match f3 with
    | 0 => s.rvSystem h k w
    | 1 => s.rvCsr h k w true fun _ => a
    | 2 => s.rvCsr h k w (rvRs1 w != 0) fun old => old ||| a
    | 3 => s.rvCsr h k w (rvRs1 w != 0) fun old => old &&& ~~~a
    | 5 => s.rvCsr h k w true fun _ => z
    | 6 => s.rvCsr h k w (rvRs1 w != 0) fun old => old ||| z
    | 7 => s.rvCsr h k w (rvRs1 w != 0) fun old => old &&& ~~~z
    | _ => none
  | 0x07 | 0x27 | 0x53 => s.rvFloatMove h k w op
  | _ => none

end Sys2Proof.Machine
end

