-- ==== Sys2Proof/Machine/Fetch.lean ====
section
/-! DEFINITION. What a step does before and after it executes an instruction: the schedule's next move (R155, R156, R263),
the word that an element or a hart executes (R23, R24, R53, R72), and the mark of activity that a drain watches (R385). -/

namespace Sys2Proof.Machine

/-- What a move comes to: nothing to do, a state already reached, a base instruction of a hart, or an instruction to
execute in a state. -/
inductive Plan where
  | idle
  | done (s : State)
  | base (w : Word32)
  | run (i : Instr) (s : State)

/-- The next move and the schedule after it. An empty schedule leaves the choice to the free values.
(DESIGN CHOICE, log 1.) -/
def State.nextMove (s : State) : Move × List Move :=
  match s.sched with
  | m :: rest => (m, rest)
  | [] => (freeMove s.moves, [])

/-- The state in which a move happens: the clock has advanced, and the move is taken from the schedule. -/
def State.begin (s : State) : State :=
  let m := s.nextMove
  { s with sched := m.2, moves := s.moves + 1, cycle := if s.clocked then s.cycle + m.1.adv else s.cycle, focus := .none, bus := none }

/-- Does a wait on a FIFO hold an element's issue: a push or pop that must wait heads its output (R249)?
(DEDUCED, log 7.) -/
def State.fifoHold (s : State) (l : Launch) (g : Region) (e : Elem) : Bool :=
  match (e.out.head?).map (OutItem.clear s l g) with
  | some (.tile q) =>
    let n := neighbour e.x e.y q.dir
    (g.tile? n.1 n.2).any fun t => (bankCause g t q).isNone && t.blocked q
  | _ => false

/-- The instruction at the head of an element's ready queue, when the element may issue it in this cycle (R23, R24): the
set completed in an earlier cycle, the element has not issued in this one, no wait on a FIFO holds its issue (R249), and its
word is no bad one (R79). -/
def State.issueWord (s : State) (p : Site) : Option SlotWord :=
  match s.launch? p.r.h, s.region? p.r with
  | some l, some g =>
    match g.elem? p.x p.y with
    | none => none
    | some e =>
      match e.ready with
      | [] => none
      | set :: _ =>
        if s.live l && decide (set.done < s.cycle ∧ e.lastIssue ≠ s.cycle) && !s.fifoHold l g e &&
            !e.badWords.contains (32 * set.ctx + set.slot) then e.slotWord? set.ctx set.slot else none
  | _, _ => none

/-- Issue at an element. -/
def State.planIssue (s : State) (p : Site) : Plan :=
  match s.issueWord p with
  | none => .idle
  | some w =>
    match decodeSlot w with
    | .ok i => .run i { s with focus := .elem p }
    | .error _ => .idle

/-- Execute at a hart: the word at its pc, translated (log 60). A misaligned pc and a failing fetch take their exceptions; a line that
another agent holds makes the fetch wait (R269). A word of 16 zero bits is illegal; other compressed words are refused. (PRESUMED,
log 60.) -/
def State.planHart (s : State) (h : Nat) : Plan :=
  match s.hart? h with
  | none => .idle
  | some k =>
    if k.waiting || k.blocked || !s.clocked then .idle
    else if k.pc.toNat % 2 ≠ 0 then .done (s.hartTrap h 0 k.pc)
    else
      match s.fetchPa k k.pc.toNat with
      | .error c => .done (s.hartTrap h c k.pc)
      | .ok (a, b) =>
        if [a, b].any fun pa => s.lineForeign (lineOf pa) none || s.engineHolds (lineOf pa) then .idle
        else
          let w : Word32 := ofBytes 32 (readBytes s.mem a 2 ++ readBytes s.mem b 2)
          if bitsAt w 0 16 = 0 then .done (s.hartTrap h 2 0)
          else if bitsAt w 0 2 ≠ 3 then .base (w &&& 0xFFFF)
          else
            match decodeWx w with
            | .ok i => .run i { s with focus := .hart h }
            | .error _ =>
              match s.riscv h k w with
              | some t => .done t
              | none => .base w

/-- Is an instruction an event, which no element issues and no hart executes? -/
def Instr.isEvent (i : Instr) : Bool := i.split.isNone && (encodeWx i).isNone

/-- What a move comes to. -/
def State.plan (s : State) (a : Act) : Plan :=
  match a with
  | .issue p => s.planIssue p
  | .hart h => s.planHart h
  | .event i => if Instr.isEvent i then .run i s else .idle
  | .store a pa size value => if onPage pa then .run (s.storeInstr ⟨a, pa, size, value⟩) { s with bus := some ⟨a, pa, size, value⟩ } else .idle
  | .releaseHart h =>
    match s.hart? h with
    | some k => .done (s.putHart h { k with waiting := false })
    | none => .idle

/-- Does a region show an issue, a link transfer, a memory reply (R385) or a k-group (R298)? -/
def Region.active (a b : Region) : Bool := a.elems != b.elems || a.links != b.links || a.accs != b.accs || a.sheets != b.sheets

/-- After a step: note the cycle of the last activity of each region that drains. -/
def noteActivity (before after : State) : State :=
  { after with
    focus := .none
    bus := none
    launches := after.launches.map fun l =>
      if l.drainFrom.isNone then l
      else
        match before.launch? l.handle with
        | none => l
        | some k => { l with members := l.members.zipIdx.map fun q =>
            match k.members[q.2]? with
            | some g => if g.active q.1 then { q.1 with quietFor := after.cycle } else q.1
            | none => q.1 } }

/-- Did a producer whose counter is at its end try to seal in a step (R405)? -/
def State.sealHit (s : State) : Bool := s.launches.any fun l => l.sl.hit

/-- The state before a step in which a producer whose counter is at its end tried to seal: the step does not happen, and its launch waits
for an advance of the seal generation (R405). (DEDUCED, log 42.) -/
def State.stalled (before after : State) : State :=
  { before with launches := before.launches.map fun l =>
      if (after.launch? l.handle).any fun k => k.sl.hit then { l with sl := { l.sl with atMax := true } } else l }

/-- What a step leaves, from the state in which its instruction ran and the one that it gave. -/
def afterStep (before after : State) : State := if after.sealHit then before.stalled after else noteActivity before after

/-! ## Placing one instruction for the next step -/

/-- Put a control-core word at the pc of hart 0, which runs next. -/
def State.placeHartWord (s : State) (w : Word32) : State :=
  let k := (s.hart? 0).getD (.reset true)
  let pc : Word64 := if k.pc.toNat % 4 = 0 ∧ inHbm (k.pc.toNat + 3) then k.pc else 0
  { s.putHart 0 { k.drop with pc := pc, mode := .m, waiting := false } with
    mem := writeBytes s.mem pc.toNat (toBytes w 4), sched := [⟨0, .hart 0⟩], pkg := .running }

/-- A token with tag and payload 0 for a side of slot 0. -/
def zeroToken (side : Nat) : Token := ⟨mkHdr 0 0 0 (BitVec.ofNat 2 side) true 0 false true 0, 0, 0, none⟩

/-- The matched set that a slot word waits for: a token on each side of its arity, the members of a KVPACK, or the exit
token of a reduction. -/
def zeroSet (w : SlotWord) : ReadySet :=
  let f := decodeFields w
  let set := setOf 0 0 ((sidesOf f.ar).map fun n => (n, zeroToken n)) 0 none
  match opOf (bitsAt w 119 9) f.xmod with
  | some .kvpack => { set with l := none, members := List.replicate 8 (zeroToken 0) }
  | some .ired | some .fred => { set with l := none, r := some (zeroToken 1), red := some 0 }
  | _ => set

/-- A 1 × 1 region on die 0 whose element holds a slot word in slot 0 of context 0 and the set that issues it. -/
def slotRegion (w : SlotWord) : Region :=
  let i : Img := ⟨⟨0, []⟩, [], setBits (setBits (setBits (0 : BitVec 512) 48 (1 : BitVec 8)) 56 (1 : BitVec 8)) 64 (1 : BitVec 8)⟩
  let g := buildRegion i 0 [] [] [setBits (setBits (0 : BitVec 256) 255 (1 : BitVec 1)) 229 (31 : BitVec 5)] []
  { g with elems := [{ Elem.empty 0 0 with slots := [(0, w)], ready := [zeroSet w] }] }

/-- Put a slot word in a running 1 × 1 region of its own, whose element issues it next. (DESIGN CHOICE, log 6.) -/
def State.placeSlotWord (s : State) (w : SlotWord) : State :=
  let h := s.nextHandle
  let l := { newLaunch 0 h [slotRegion w] [] s.orderNo with state := .running }
  { s with launches := l :: s.launches.filter (fun k => k.handle != h), sched := [⟨1, .issue ⟨⟨h, 0⟩, 0, 0⟩⟩], pkg := .running }

end Sys2Proof.Machine
end

