-- ==== Sys2Proof/Machine/Step.lean ====
section
/-! DEFINITION. One step of the machine: the schedule's next move, the instruction that it runs, and the state after. -/

namespace Sys2Proof.Machine

/-- One step. -/
def step (s : State) : Host.Outcome State Fault Refusal :=
  match s.begin.plan s.nextMove.1.act with
  | .idle => .next s.begin
  | .done t => .next (afterStep s.begin t)
  | .base w => .refused (.riscvBase w)
  | .run i t =>
    match exec i t with
    | .next u => .next (afterStep s.begin u)
    | .fault r => .fault r
    | .refused r => .refused r

/-- The state with an instruction word stored where `step` fetches its next instruction. -/
def State.withFetchWord (s : State) (nbits w : Nat) : State :=
  if nbits ≤ 32 then s.placeHartWord (BitVec.ofNat 32 w) else s.placeSlotWord (BitVec.ofNat 128 w)

end Sys2Proof.Machine
end

