-- ==== Sys2Proof/Safety.lean ====
section
/-! DEFINITION. What a safe run is, the invariants that the claims name, and the words in which the claims are stated. -/

namespace Sys2Proof.Machine

/-- Does a run of n steps end neither in a fault nor in a refusal? -/
def runsSafely : Nat → State → Prop
  | 0, _ => True
  | n + 1, s => ∃ t, step s = .next t ∧ runsSafely n t

/-- The memory keeps its canonical form: one list of pairs for one memory. -/
def State.memOk (s : State) : Prop := Memory.wf s.mem = true

/-! ## An instruction issues -/

/-- An element issues the instruction whose fields are f, and c is what it sees: its output queue has room for n more entries
(R24), a recolouring is no refused one (R179), and no advance of a seal generation is due (R405). -/
structure Issues (f : Fields) (s : State) (c : Ctx) (n : Nat) : Prop where
  here : s.ctx? f = some c
  room : c.e.out.length + n ≤ 4
  colour : c.recolourRefused = false
  epoch : c.needsAdvance = false

/-- The operands are data or side-band tokens: nothing raised (R20, R22), no control token (R16), no error record (R27), no
bubble (R26). -/
structure Ctx.Plain (c : Ctx) : Prop where
  raise : c.set.raise = none
  control : ∀ t ∈ c.set.toks, t.kind ≠ 2
  record : ∀ t ∈ c.set.toks, t.kind ≠ 3
  bubble : ∀ t ∈ c.set.toks, t.pred = true

/-- The state u with what an issue does to its element at its end (R23 to R25, R180): the element e' in place with the ready
queue `left`, the tokens es and the requests rs at the end of its output queue, sealed where the world seals (R403), the
tokens `used` and what is sent counted. -/
def Ctx.sentIn (c : Ctx) (u : State) (e' : Elem) (left : List ReadySet) (used : List Token) (es : List Emit)
    (rs : List OutItem) : State :=
  match u.launch? c.p.r.h, u.region? c.p.r with
  | some l, some g =>
    let z := if l.sl.granted = some (c.p.r.m, c.p.x, c.p.y) then { l.sl with granted := none } else l.sl
    let k := pushEmits u g (prodId c.p.r.m c.p.x c.p.y 0) es z
    let q := pushReqs u g (prodId c.p.r.m c.p.x c.p.y 0) rs k.2
    let e := { e' with out := e'.out ++ k.1 ++ q.1, ready := left, lastIssue := u.cycle }
    let g1 := censusOfIssue (g.putElem e) (.site c.p.x c.p.y) used es rs.length c.tag
    u.putLaunch { l with members := l.members.set c.p.r.m g1, sl := q.2 }
  | _, _ => u

/-- The state u with one issue at its end: its operands consumed, its set gone from the ready queue. -/
def Ctx.issuedIn (c : Ctx) (u : State) (e' : Elem) (es : List Emit) (rs : List OutItem) : State :=
  c.sentIn u e' e'.ready.tail c.set.toks es rs

/-- The state after an issue of an instruction that keeps its set for another issue (R132). -/
def Ctx.partIssued (c : Ctx) (e' : Elem) (es : List Emit) : State := c.sentIn c.s e' e'.ready [] es []

/-- The state after an issue that only sends and changes its element. -/
def Ctx.issued (c : Ctx) (e' : Elem) (es : List Emit) : State := c.issuedIn c.s e' es []

/-- One data token with the payload v for every valid destination (R25, R82). -/
def Ctx.toAll (c : Ctx) (v : Payload) : List Emit := (dests c.f).map fun d => c.data d v

/-- The result u for DST0 and the result v for DST1, where valid (R82). -/
def Ctx.toBoth (c : Ctx) (u v : Payload) : List Emit :=
  (if c.f.dst0.v then [c.data c.f.dst0 u] else []) ++ (if c.f.dst1.v then [c.data c.f.dst1 v] else [])

/-- An instruction completes with one payload for its destinations, whose lanes are given. -/
def Computes (i : Instr) (f : Fields) (s : State) (c : Ctx) (lane : Nat → Nat) : Prop :=
  ∃ v, exec i s = .next (c.issued c.e (c.toAll v)) ∧ ∀ k < etLanes f.et, laneU (etWidth f.et) v k = lane k

/-- An instruction completes with one payload for its destinations, which has a number in lane 0 and zero elsewhere. -/
def Reduces (i : Instr) (f : Fields) (s : State) (c : Ctx) (n : Nat) : Prop :=
  exec i s = .next (c.issued c.e (c.toAll (BitVec.ofNat 256 n))) ∧ n < 2 ^ etWidth f.et

/-- An instruction completes with two payloads, whose lanes are given. -/
def ComputesBoth (i : Instr) (f : Fields) (s : State) (c : Ctx) (lane0 lane1 : Nat → Nat) : Prop :=
  ∃ u v, exec i s = .next (c.issued c.e (c.toBoth u v)) ∧
    (∀ k < etLanes f.et, laneU (etWidth f.et) u k = lane0 k) ∧ ∀ k < etLanes f.et, laneU (etWidth f.et) v k = lane1 k

/-- Lane k of a result: g k where the lane computes, else the left operand's lane (R81). -/
def dataLane (f : Fields) (x : Opnds) (g : Nat → Nat) (k : Nat) : Nat :=
  if x.pOn = true ∧ predLane (etWidth f.et) f.pinv x.p k = false then laneU (etWidth f.et) x.a k else g k

/-- Lane k of a predicate: 1 where the lane computes and g k holds, else 0 (R81, R83). -/
def flagLane (f : Fields) (x : Opnds) (g : Nat → Prop) [∀ k, Decidable (g k)] (k : Nat) : Nat :=
  if x.pOn = true ∧ predLane (etWidth f.et) f.pinv x.p k = false then 0 else if g k then 1 else 0

/-- An exact integer in a lane (R35): clamped to the type's range under SAT, modulo 2^w without. -/
def fitted (f : Fields) (x : Int) : Nat :=
  let w := etWidth f.et
  if f.sat then ((if x < etMin f.et then etMin f.et else if x > etMax f.et then etMax f.et else x) % 2 ^ w).toNat
  else (x % 2 ^ w).toNat

/-! ## Floating-point lanes -/

/-- The rational number that a finite value is; NaN and the infinities are none. -/
def XVal.is : XVal → ℚ → Prop
  | .zero _, q => q = 0
  | .num n d, q => n ≠ 0 ∧ 0 < d ∧ q = n / d
  | _, _ => False

/-- A code is the number q, or a zero where q is 0, rounded once to the instruction's type in its mode (R40, R42). -/
def Rounded (f : Fields) (q : ℚ) (code : Nat) : Prop := ∃ v : XVal, v.is q ∧ code = fround f.et f.rnd f.sat v

/-- The value of lane k of a payload. -/
def floatLane (f : Fields) (p : Payload) (k : Nat) : XVal := fdecode f.et (laneU (etWidth f.et) p k)

/-- The canonical NaN of the instruction's type (R38). -/
def nanCode (f : Fields) : Nat := (fmtOf f.et).nan
/-- The infinity of a sign. -/
def infOf (f : Fields) (neg : Bool) : Nat := (if neg then 2 ^ (etWidth f.et - 1) else 0) + (fmtOf f.et).maxCode + 1
/-- The zero of a sign. -/
def zeroOf (f : Fields) (neg : Bool) : Nat := if neg then 2 ^ (etWidth f.et - 1) else 0
/-- 1 or −1. -/
def oneOf (f : Fields) (neg : Bool) : Nat := zeroOf f neg + (fmtOf f.et).bias * 2 ^ (fmtOf f.et).m

/-- An instruction completes with one payload; `out` says what each lane that computes is, the other lanes are the left
operand's (R81). -/
def FloatLanes (i : Instr) (f : Fields) (s : State) (c : Ctx) (x : Opnds) (out : Nat → Nat → Prop) : Prop :=
  ∃ v, exec i s = .next (c.issued c.e (c.toAll v)) ∧ ∀ k < etLanes f.et,
    if laneOn f x k then out k (laneU (etWidth f.et) v k) else laneU (etWidth f.et) v k = laneU (etWidth f.et) x.a k

/-- An instruction completes with one predicate payload; `out` says what each lane that computes is, the other lanes are 0
(R81). -/
def FloatFlags (i : Instr) (f : Fields) (s : State) (c : Ctx) (x : Opnds) (out : Nat → Nat → Prop) : Prop :=
  ∃ v, exec i s = .next (c.issued c.e (c.toAll v)) ∧ ∀ k < etLanes f.et,
    if laneOn f x k then out k (laneU (etWidth f.et) v k) else laneU (etWidth f.et) v k = 0

/-- A result of two operands: the canonical NaN when one is NaN, the number that `op` gives, rounded once, when both are
finite. -/
def FloatOp (f : Fields) (x : Opnds) (op : ℚ → ℚ → ℚ) (k r : Nat) : Prop :=
  ((floatLane f x.a k = .nan ∨ floatLane f x.b k = .nan) → r = nanCode f) ∧
    ∀ p q, (floatLane f x.a k).is p → (floatLane f x.b k).is q → Rounded f (op p q) r

/-- Does a conversion write result lane j (R107)? -/
def convWrites (ns nr q j : Nat) : Bool := if nr > ns then decide (q * ns ≤ j ∧ j < q * ns + ns) else true
/-- The source lane of result lane j (R107). -/
def convFrom (ns nr q j : Nat) : Nat := if nr > ns then j - q * ns else if nr < ns then q * nr + j else j
/-- How many lanes a conversion writes up to result lane j, j included (R107). -/
def convRank (ns nr q j : Nat) : Nat := (if nr > ns then j - q * ns else j) + 1
/-- The generator after n lanes (R44). -/
def xsAfter (f : Fields) (xs : Word32) (n : Nat) : Word32 := if f.rnd = 4 then xsStep^[n] xs else xs

/-- A conversion completes: the generator has stepped once for each lane written in mode 4 (R44), lane j is what `code` gives
for its source lane and the generator's value, a lane not written is 0 (R107). -/
def Converts (i : Instr) (f : Fields) (s : State) (c : Ctx) (code : Nat → Nat → Word32 → Nat) : Prop :=
  let ns := etLanes (etOfCode (bitsAt f.mod 0 4))
  let nr := etLanes f.et
  let q := (bitsAt f.xmod 0 3).toNat
  ∃ v, exec i s = .next (c.issued { c.e with xs := xsAfter f c.e.xs (min ns nr) } (c.toAll v)) ∧ ∀ j < nr,
    laneU (etWidth f.et) v j =
      if convWrites ns nr q j then code j (convFrom ns nr q j) (xsAfter f c.e.xs (convRank ns nr q j)) else 0

/-! ## Families of the fabric instructions -/

/-- The instructions that send one token to every valid destination when their operands are ordinary, conversions apart. -/
def sendsOneEach : Op → Bool
  | .const | .mov | .lenter | .lexit | .wadv | .tagget | .alloc | .order | .pset | .pnot | .pand | .por | .add | .sub | .adds
  | .subs | .mul | .mulhi | .mad | .div | .rem | .min | .max | .abs | .neg | .and | .or | .xor | .andn | .not | .shl | .shr
  | .sar | .rotl | .clz | .popc | .cmpeq | .cmpne | .cmplt | .cmple | .sel | .bcast | .lane | .shuf | .pack | .unpk | .sumr
  | .maxr | .minr | .index | .bittst | .fadd | .fsub | .fmul | .ffma | .fmin | .fmax | .fabs | .fneg | .fcmpeq | .fcmplt
  | .fcmple | .fcmpun | .frcp | .frsq | .fexp2 | .flog2 | .ftanh | .fsqrt | .fdiv | .fsumr | .fmaxr | .hads | .hadx | .fscale
  | .fresc => true
  | _ => false

/-- The conversions, which may step the stochastic generator (R44). -/
def isConversion : Op → Bool
  | .fcvt | .icvt | .fcvti | .qnt | .dqnt => true
  | _ => false

/-- The instructions whose request goes to a memory-port tile (R221, R240). -/
def asksMemoryPort : Op → Bool
  | .ld | .st | .ldv | .cmst | .atadd | .atmin | .atmax | .atand | .ator | .atxor | .atswp | .atcas | .attsb | .pin | .unpin
  | .pref | .copy | .massacc | .kvevict | .kvseqCreate | .kvseqAttach | .kvseqDetach | .kvapp | .kvstat | .kvdrop | .ndecl
  | .nask | .nann | .ndropDecl | .ndropOwn | .nstat => true
  | _ => false

/-- The instructions whose request goes to a neighbouring memory tile (R249, R320). -/
def asksTile : Op → Bool
  | .mtld | .mtst | .mttsb | .kvxlat => true
  | _ => false

/-- The instructions that change nothing beyond their element at their issue: they send tokens or one request. -/
def isLocal (o : Op) : Bool :=
  sendsOneEach o || isConversion o || asksMemoryPort o || asksTile o ||
    match o with
    | .nop | .sink | .steer | .gate | .merge | .pick | .tagset | .release | .call | .count | .ired | .fred | .hold | .reads
    | .delay | .repeatTok | .census | .colget | .cpptr | .mscale | .mcode | .mepi | .kvpack => true
    | _ => false

/-- The instructions that give error records, control tokens and bubbles the standard treatment (R16, R26, R27). -/
def treatsStandard (o : Op) : Bool :=
  sendsOneEach o || isConversion o || asksTile o ||
    match o with
    | .nop | .sink | .steer | .gate | .pick | .tagset | .count | .hold | .reads | .delay | .launch | .ctok | .census | .purge
    | .quota | .colget | .colset | .spanend | .ctxnext | .yield | .horizon | .agset | .aggo | .cpwait | .cpptr | .ownpass
    | .mfence | .mzero | .mdrain | .mswap | .trap | .brk | .fault | .mark => true
    | _ => false

/-- The instructions that write a state register (R115, R131, R137, R138). -/
def writesState : Op → Bool
  | .sink | .count | .hold | .reads | .delay => true
  | _ => false

/-- What an issue at an element may change when the instruction is a local one, and nothing else: the element's output queue,
which only grows at its end, its ready queue, the cycle of its last issue, and what `o` writes (a state register, the stochastic
generator, REPEAT's place); its region's census deltas; its launch's sealing counters. -/
structure Ctx.OnlyIssues (c : Ctx) (o : Op) (s t : State) : Prop where
  package : { t with launches := s.launches } = s
  launches : ∀ h, h ≠ c.p.r.h → t.launch? h = s.launch? h
  here : ∃ l g e, t.launch? c.p.r.h = some l ∧ l.members[c.p.r.m]? = some g ∧ g.elem? c.p.x c.p.y = some e ∧
    { l with members := c.l.members, sl := c.l.sl } = c.l ∧
    (∀ m, m ≠ c.p.r.m → l.members[m]? = c.l.members[m]?) ∧
    { g with elems := c.g.elems, deltas := c.g.deltas } = c.g ∧
    (∀ x y, (x, y) ≠ (c.p.x, c.p.y) → g.elem? x y = c.g.elem? x y) ∧
    { e with
        out := c.e.out
        ready := c.e.ready
        lastIssue := c.e.lastIssue
        st := c.e.st
        xs := c.e.xs
        repPos := c.e.repPos } = c.e ∧
    (∃ new, e.out = c.e.out ++ new) ∧ (e.ready = c.e.ready ∨ e.ready = c.e.ready.tail) ∧
    (writesState o = false → e.st = c.e.st) ∧ (isConversion o = false → e.xs = c.e.xs) ∧
    (o ≠ .repeatTok → e.repPos = c.e.repPos)

/-! ## A region that runs -/

/-- A region of a launch that is RUNNING, in a package that runs (R168, R390, R391). -/
structure Runs (s : State) (r : Rid) (l : Launch) (g : Region) : Prop where
  launch : s.launch? r.h = some l
  member : l.members[r.m]? = some g
  state : l.state = .running
  package : s.pkg = .running

/-- No line is held and no access waits at one (R267 to R270, R326). -/
structure Unheld (s : State) : Prop where
  lines : s.heldLines = []
  engine : s.kvHolds = []
  waits : ∀ line, s.waitsAt line = []
  ranges : ∀ l ∈ s.launches, l.held = []

/-- The stored registers of the package page are as they were, but for the slices' SLC_BYPASS, which accesses to HBM may advance (R232). -/
def SameRegs (s t : State) : Prop := ∀ off, (off < 0x2000 ∨ 0x2800 ≤ off) → t.reg off = s.reg off

/-! ## Harts -/

/-- A hart executes an instruction. -/
structure ExecutesAt (s : State) (h : Nat) (k : Hart) : Prop where
  focus : s.focus = .hart h
  hart : s.hart? h = some k

/-- The state after a hart's instruction that answers with a status and a value above it: rd holds them, the pc is at the next word and
the hart neither is blocked nor keeps any part of the instruction (R73, R204). -/
def State.answered (s : State) (h : Nat) (k : Hart) (rd : BitVec 5) (code above : Nat) : State :=
  s.putHart h { k.setReg rd (BitVec.ofNat 64 (above + code)) with pc := k.pc + 4, blocked := false, part := none, scan := none }

/-- May a hart name a launch: is it trusted, or the launch of its world (R202)? -/
def Hart.Names (k : Hart) (l : Launch) : Prop := k.accessor.trust = true ∨ l.world = k.accessor.world

end Sys2Proof.Machine
end

