-- ==== Sys2Proof/Certificates/Slice0/Obligations.lean ====
section
/-! DEFINITION. The statements for the provers, one definition each. A statement says under which conditions on the state and
the operands an instruction answers a next state, and what that state holds. -/

open Sys2Proof Sys2Proof.Machine

/-! ## Encodings (R52 to R59, R67, R72 to R74) -/

/-- Decoding the bytes of a well-formed instruction gives it back, with every operand at every value its encoding takes: the 162
fabric rows (R52, R53) and the nine Xwenxus rows (R72, R73). -/
def Obligations.DecodeOfEncodeIsTheInstruction : Prop :=
  ∀ i : Instr, i.wf = true → ((encodeSlot i).isSome = true ∨ ((encodeWx i).isSome = true ∧ ∀ w, i ≠ .illegalInstructionException w)) →
    decode (encode i) = .ok i

/-- Every word that the decoder takes has one meaning: encoding it gives the word back, and a slot word's instruction is well formed.
A slot word is refused exactly where its opcode and XMOD name no row, with cause 0x1.01, or it breaks a check, with the lowest
of the causes (R54, R77); a control-core word exactly where it lies outside custom-0 (R72, R74). -/
def Obligations.EncodeOfDecodeIsTheWord : Prop :=
  (∀ w i, decodeSlot w = .ok i → encodeSlot i = some w ∧ i.wf = true) ∧
  (∀ w i, decodeWx w = .ok i → encodeWx i = some w) ∧
  (∀ w, opOf (bitsAt w 119 9) (bitsAt w 0 10) = none → decodeSlot w = .error (.slot (mkCause 1 1))) ∧
  (∀ w o, opOf (bitsAt w 119 9) (bitsAt w 0 10) = some o → wordChecks o (decodeFields w) ≠ [] →
    ∃ c ∈ wordChecks o (decodeFields w), decodeSlot w = .error (.slot c) ∧ ∀ d ∈ wordChecks o (decodeFields w), c.toNat ≤ d.toNat) ∧
  (∀ w, bitsAt w 0 7 ≠ 0x0B → decodeWx w = .error (.riscv w)) ∧
  ∀ w, bitsAt w 0 7 = 0x0B → (∃ i, decodeWx w = .ok i ∧ (i = .illegalInstructionException w ↔
    ¬ (bitsAt w 25 7 = 0 ∧ (bitsAt w 12 3 = 1 ∨ bitsAt w 12 3 = 2 ∨ bitsAt w 20 5 = 0) ∨
      bitsAt w 25 7 = 1 ∧ bitsAt w 12 3 = 7 ∧ bitsAt w 20 5 = 0)))

/-- Words written out from the tables of R52, R59 and R72 decode to the instructions they stand for: an ADD.I32, WX.LAUNCH a0, a1 and
WX.PUSHTOK a0, a1, a2. -/
def Obligations.WordsFromTheTablesDecode : Prop :=
  (∃ f, decodeSlot 0x2022C240001000000008200E00000000 = .ok (.add f) ∧ f.et = .i32 ∧ f.ar = .monadic ∧ f.dst0.v = true ∧ f.dst1.v = false) ∧
  decodeWx 0x0005850B = .ok (.wxLaunch 10 11) ∧ decodeWx 0x00C5950B = .ok (.wxPushtok 10 11 12)

/-! ## The step and reset (R23, R72, R438) -/

/-- A step runs the instruction that stands where its move fetches: the slot word of the oldest completed set of an element that may issue
(R23, R24, R53), the word at the pc of a hart (R72; its translation is the model's, log 60), the event itself, the row of a store at a
register page. Around it the step takes the move from the schedule, lets its cycles pass and says which agent runs. Afterwards it
notes what has moved in a launch that drains (R385), which changes no more than `quietFor`; or, where a producer's counter was at its
end, it leaves the state as it was but for the launches that wait for an advance of their seal generation (R405; log 42). -/
def Obligations.StepRunsTheDecodedInstruction : Prop :=
  ∀ (s : State), let b := s.begin
    let ran (i : Instr) (u : State) : Prop := step s = match exec i u with
      | .next t => .next (afterStep b t)
      | .fault r => .fault r
      | .refused r => .refused r
    b.sched = s.nextMove.2 ∧ b.moves = s.moves + 1 ∧ b.focus = .none ∧ b.bus = none ∧
    (s.clocked = true → b.cycle = s.cycle + s.nextMove.1.adv) ∧ (s.clocked = false → b.cycle = s.cycle) ∧
    { b with sched := s.sched, moves := s.moves, focus := s.focus, bus := s.bus, cycle := s.cycle } = s ∧
    (∀ p l g e set rest w i, s.nextMove.1.act = .issue p → b.launch? p.r.h = some l → b.live l = true → b.region? p.r = some g →
      g.elem? p.x p.y = some e → e.ready = set :: rest → set.done < b.cycle → e.lastIssue ≠ b.cycle → b.fifoHold l g e = false →
      (32 * set.ctx + set.slot) ∉ e.badWords → e.slotWord? set.ctx set.slot = some w → decodeSlot w = .ok i →
      ran i { b with focus := .elem p }) ∧
    (∀ h k p q i, s.nextMove.1.act = .hart h → b.hart? h = some k → k.waiting = false → k.blocked = false → b.clocked = true →
      k.pc.toNat % 2 = 0 → b.fetchPa k k.pc.toNat = .ok (p, q) →
      (∀ a ∈ [p, q], b.lineForeign (lineOf a) none = false ∧ b.engineHolds (lineOf a) = false) →
      decodeWx (ofBytes 32 (readBytes b.mem p 2 ++ readBytes b.mem q 2)) = .ok i → ran i { b with focus := .hart h }) ∧
    (∀ (k : Hart) pc, k.mode = .m → pc + 3 < 2 ^ 40 → b.poisoned = [] → b.fetchPa k pc = .ok (pc, pc + 2)) ∧
    (∀ i, s.nextMove.1.act = .event i → i.split = none → encodeWx i = none → ran i b) ∧
    (∀ a pa size value, s.nextMove.1.act = .store a pa size value → onPage pa = true →
      ran (b.storeInstr ⟨a, pa, size, value⟩) { b with bus := some ⟨a, pa, size, value⟩ }) ∧
    (∀ t : State, (∀ l ∈ t.launches, l.sl.hit = false) → afterStep b t = noteActivity b t) ∧
    (∀ t : State, (∃ l ∈ t.launches, l.sl.hit = true) → ∃ ls, afterStep b t = { b with launches := ls } ∧
      ls.map (fun l => { l with sl := { l.sl with atMax := false } }) =
        b.launches.map fun l => { l with sl := { l.sl with atMax := false } }) ∧
    ∀ t : State, { noteActivity b t with launches := t.launches, focus := t.focus, bus := t.bus } = t ∧
      ((∀ l ∈ t.launches, l.drainFrom = none) → (noteActivity b t).launches = t.launches) ∧
      (noteActivity b t).launches.map (fun l => { l with members := [] }) = t.launches.map fun l => { l with members := [] }

/-- After reset no launch is queued, resident or saved, every launch queue is disabled, only world 0 exists, and hart 0 of die 0 executes
in M-mode while the other harts wait (R438). -/
def Obligations.ResetLeavesTheMonitorRunning : Prop :=
  State.reset.launches = [] ∧ (∀ n < 64, lqEn (State.reset.reg (8 * n)) = false) ∧
  (∀ w : BitVec 8, bitAt (State.reset.wcfg w) 63 = true ↔ w = 0) ∧
  ∃ k, State.reset.hart? 0 = some k ∧ k.mode = .m ∧ k.waiting = false ∧
    ∀ h k', 0 < h → State.reset.hart? h = some k' → k'.waiting = true

/-- The reset memory has the canonical form (the form is the model's own, log 2). -/
def Obligations.ResetMemoryIsCanonical : Prop := State.reset.memOk ∧ ∀ a, cellRead State.reset.mem a = cellRead [] a

/-- Every step keeps the canonical form of memory: strictly rising addresses, and no entry that equals what an unlisted address reads as
(the form is the model's own, log 2). -/
def Obligations.StepKeepsMemoryCanonical : Prop := ∀ s t : State, s.memOk → step s = .next t → t.memOk


/-! ## Integer instructions (R35, R36, R81 to R98) -/

/-- ADD, SUB, MUL, MULHI, MIN, MAX, ABS, NEG and MAD complete on ordinary operands: the exact result of each lane fitted into
the lane (R35, R86, R87), under AR 3 only where the lane is predicated true (R81), one token to every destination (R82). ADDS and SUBS send
the fitted sum or difference to DST0, and to DST1 the lanes whose exact value lies outside the range
(R88). DIV and REM send the quotient toward zero and the remainder with the dividend's sign, with every case of the table of
R36, and to DST1 the lanes whose divisor is zero (R36, R89). A lane predicated false is 0 in the flags. -/
def Obligations.IntegerLanesAreExactThenFitted : Prop :=
  (∀ (f : Fields) (s : State) (c : Ctx), Issues f s c (dests f).length → c.Plain →
      let x := operands c.e f c.set none
      let y := operands c.e f c.set (some (bitsAt f.xmod 0 3))
      let lane (v : Nat → Int) : Nat → Nat := dataLane f x fun k => fitted f (v k)
      Computes (.add f) f s c (lane fun k => ia f x k + ib f x k) ∧
      Computes (.sub f) f s c (lane fun k => ia f x k - ib f x k) ∧
      Computes (.mul f) f s c (lane fun k => ia f x k * ib f x k) ∧
      Computes (.mulhi f) f s c (lane fun k => ia f x k * ib f x k / 2 ^ etWidth f.et) ∧
      Computes (.min f) f s c (lane fun k => min (ia f x k) (ib f x k)) ∧
      Computes (.max f) f s c (lane fun k => max (ia f x k) (ib f x k)) ∧
      Computes (.abs f) f s c (lane fun k => |ia f x k|) ∧
      Computes (.neg f) f s c (lane fun k => -ia f x k) ∧
      Computes (.mad f) f s c (dataLane f y fun k => fitted f (ia f y k * ib f y k + ic f y k))) ∧
  (∀ (f : Fields) (s : State) (c : Ctx), Issues f s c (dests f).length → c.Plain →
      let x := operands c.e f c.set none
      let w := etWidth f.et
      let outside (v : Int) : Prop := v < etMin f.et ∨ etMax f.et < v
      let low (v : Int) : Nat := (v % 2 ^ w).toNat
      ComputesBoth (.adds f) f s c (dataLane f x fun k => fitted f (ia f x k + ib f x k))
        (flagLane f x fun k => outside (ia f x k + ib f x k)) ∧
      ComputesBoth (.subs f) f s c (dataLane f x fun k => fitted f (ia f x k - ib f x k))
        (flagLane f x fun k => outside (ia f x k - ib f x k)) ∧
      ComputesBoth (.div f) f s c
        (dataLane f x fun k => low (
          if ib f x k = 0 then (if etSigned f.et ∧ ia f x k < 0 then etMin f.et else etMax f.et)
          else if etSigned f.et ∧ ia f x k = etMin f.et ∧ ib f x k = -1 then (if f.sat then etMax f.et else etMin f.et)
          else (ia f x k).tdiv (ib f x k)))
        (flagLane f x fun k => ib f x k = 0) ∧
      ComputesBoth (.rem f) f s c
        (dataLane f x fun k => low (
          if ib f x k = 0 then ia f x k
          else if etSigned f.et ∧ ia f x k = etMin f.et ∧ ib f x k = -1 then 0
          else (ia f x k).tmod (ib f x k)))
        (flagLane f x fun k => ib f x k = 0))

/-- AND, OR, XOR, ANDN and NOT act on the payload bits (R90); the shifts take their count from b read unsigned, with the
value that R91 gives a count of the width or more; CLZ and POPC count (R92). -/
def Obligations.BitwiseAndShiftLanes : Prop :=
  ∀ (f : Fields) (s : State) (c : Ctx), Issues f s c (dests f).length → c.Plain →
    let x := operands c.e f c.set none
    let w := etWidth f.et
    let bits (v : Payload) : Nat → Nat := dataLane f x fun k => laneU w v k
    let word (k : Nat) : BitVec w := BitVec.ofNat w (ua f x k)
    Computes (.and f) f s c (bits (x.a &&& x.b)) ∧
    Computes (.or f) f s c (bits (x.a ||| x.b)) ∧
    Computes (.xor f) f s c (bits (x.a ^^^ x.b)) ∧
    Computes (.andn f) f s c (bits (x.a &&& ~~~x.b)) ∧
    Computes (.not f) f s c (bits (~~~x.a)) ∧
    Computes (.shl f) f s c (dataLane f x fun k => fitted f (ia f x k * 2 ^ ub f x k)) ∧
    Computes (.shr f) f s c (dataLane f x fun k => if ub f x k < w then ua f x k / 2 ^ ub f x k else 0) ∧
    Computes (.sar f) f s c (dataLane f x fun k => ((word k).sshiftRight (ub f x k)).toNat) ∧
    Computes (.rotl f) f s c (dataLane f x fun k => ((word k).rotateLeft (ub f x k)).toNat) ∧
    Computes (.clz f) f s c (dataLane f x fun k => w - (ua f x k).size) ∧
    Computes (.popc f) f s c (dataLane f x fun k => (List.range w).countP fun j => (ua f x k).testBit j)

/-- The compares, BITTST, PSET, PNOT, PAND and POR send the predicate of R83: lane k is 1 exactly where the table's condition
holds and the lane is not predicated false (R81, R93, R98, R136). CMPLT and CMPLE read lanes unsigned under MOD[0]. -/
def Obligations.PredicateLanes : Prop :=
  ∀ (f : Fields) (s : State) (c : Ctx), Issues f s c (dests f).length → c.Plain →
    let x := operands c.e f c.set none
    let w := etWidth f.et
    let u := bitAt f.mod 0 = true
    Computes (.cmpeq f) f s c (flagLane f x fun k => ia f x k = ib f x k) ∧
    Computes (.cmpne f) f s c (flagLane f x fun k => ia f x k ≠ ib f x k) ∧
    Computes (.cmplt f) f s c (flagLane f x fun k => if u then ua f x k < ub f x k else ia f x k < ib f x k) ∧
    Computes (.cmple f) f s c (flagLane f x fun k => if u then ua f x k ≤ ub f x k else ia f x k ≤ ib f x k) ∧
    Computes (.bittst f) f s c (flagLane f x fun k => (ua f x k).testBit (ub f x k % w)) ∧
    Computes (.pset f) f s c (flagLane f x fun k =>
      if etIsFloat f.et then ua f x k ≠ 0 ∧ ua f x k ≠ 2 ^ (w - 1) else ua f x k ≠ 0) ∧
    Computes (.pnot f) f s c (flagLane f x fun k => ua f x k % 2 = 0) ∧
    Computes (.pand f) f s c (flagLane f x fun k => ua f x k % 2 = 1 ∧ predLane w f.pinv x.b k = true) ∧
    Computes (.por f) f s c (flagLane f x fun k => ua f x k % 2 = 1 ∨ predLane w f.pinv x.b k = true)

/-- The lane-moving instructions copy lanes bit for bit (R94); PACK narrows two tokens into one (R95) and UNPK widens half of
one, sign-extended for an I source and zero-extended for an N source (R96). The across-lane instructions put their result in lane 0 and
zero in every other lane (R97): the exact sum of all lanes,
fitted once; the largest and the smallest lane; the lowest lane number that holds the largest or, under MOD[0], the smallest
value (INDEX accepts no type narrower than 8 bits). -/
def Obligations.LaneMovesAndAcrossLaneResults : Prop :=
  (∀ (f : Fields) (s : State) (c : Ctx), Issues f s c (dests f).length → c.Plain →
      let x := operands c.e f c.set none
      let w := etWidth f.et
      let n := etLanes f.et
      let src := etOfCode (bitsAt f.mod 0 4)
      Computes (.sel f) f s c (fun k => if predLane w f.pinv x.p k then laneU w x.a k else laneU w x.b k) ∧
      Computes (.bcast f) f s c (dataLane f x fun _ => laneU w x.a (laneU w x.b 0 % n)) ∧
      Computes (.lane f) f s c (dataLane f x fun k =>
        if k = (bitsAt f.xmod 0 6).toNat then laneU w x.b 0 else laneU w x.a k) ∧
      Computes (.shuf f) f s c (dataLane f x fun k => laneU w x.a (laneU w x.b k % n)) ∧
      Computes (.pack f) f s c (dataLane f x fun k =>
        fitted f (if k < n / 2 then laneInt src x.a k else laneInt src x.b (k - n / 2))) ∧
      Computes (.unpk f) f s c (dataLane f x fun k =>
        (laneInt src x.a ((bitsAt f.xmod 0 1).toNat * n + k) % 2 ^ w).toNat)) ∧
  (∀ (f : Fields) (s : State) (c : Ctx), Issues f s c (dests f).length → c.Plain →
      let x := operands c.e f c.set none
      let v := ia f x
      let n := etLanes f.et
      Reduces (.sumr f) f s c (fitted f (∑ k ∈ Finset.range n, v k)) ∧
      (∃ k < n, (∀ j < n, v j ≤ v k) ∧ Reduces (.maxr f) f s c (laneU (etWidth f.et) x.a k)) ∧
      (∃ k < n, (∀ j < n, v k ≤ v j) ∧ Reduces (.minr f) f s c (laneU (etWidth f.et) x.a k)) ∧
      (8 ≤ etWidth f.et → ∃ k < n, (∀ j < n, if bitAt f.mod 0 then v k ≤ v j else v j ≤ v k) ∧ (∀ j < k, v j ≠ v k) ∧
        Reduces (.index f) f s c k))


/-! ## Floating-point and conversion instructions (R37 to R45, R50, R99 to R113) -/

/-- FADD, FSUB, FMUL, FFMA, FDIV, FSQRT and FSCALE complete. A NaN operand gives the canonical NaN (R38); of finite operands
each lane is the exact result rounded once (R40, R99, R102, R105): FFMA rounds the product and the sum together, FSQRT gives the
root of a square, NaN below zero and −0 for −0, FSCALE multiplies by the power of two that b names. -/
def Obligations.FloatLanesRoundTheExactResultOnce : Prop :=
  ∀ (f : Fields) (s : State) (c : Ctx), Issues f s c (dests f).length → c.Plain → etIsFloat f.et = true →
    let x := operands c.e f c.set none
    let y := operands c.e f c.set (some (bitsAt f.xmod 0 3))
    let w := etWidth f.et
    FloatLanes (.fadd f) f s c x (FloatOp f x fun p q => p + q) ∧
    FloatLanes (.fsub f) f s c x (FloatOp f x fun p q => p - q) ∧
    FloatLanes (.fmul f) f s c x (FloatOp f x fun p q => p * q) ∧
    FloatLanes (.fdiv f) f s c x (fun k r =>
      ((floatLane f x.a k = .nan ∨ floatLane f x.b k = .nan) → r = nanCode f) ∧
      ∀ p q, (floatLane f x.a k).is p → (floatLane f x.b k).is q → q ≠ 0 → Rounded f (p / q) r) ∧
    FloatLanes (.ffma f) f s c y (fun k r =>
      ((floatLane f y.a k = .nan ∨ floatLane f y.b k = .nan ∨ floatLane f y.c k = .nan) → r = nanCode f) ∧
      ∀ p q t, (floatLane f y.a k).is p → (floatLane f y.b k).is q → (floatLane f y.c k).is t → Rounded f (p * q + t) r) ∧
    FloatLanes (.fsqrt f) f s c x (fun k r =>
      (floatLane f x.a k = .nan → r = nanCode f) ∧ (∀ p < 0, (floatLane f x.a k).is p → r = nanCode f) ∧
      (∀ b, floatLane f x.a k = .zero b → r = zeroOf f b) ∧
      ∀ p ≥ 0, (floatLane f x.a k).is (p * p) → Rounded f p r) ∧
    FloatLanes (.fscale f) f s c x (fun k r =>
      (floatLane f x.a k = .nan → r = nanCode f) ∧
      ∀ p, (floatLane f x.a k).is p → |toSigned w (ub f x k)| ≤ 2000 → Rounded f (p * 2 ^ toSigned w (ub f x k)) r)

/-- FMIN and FMAX return the smaller and the larger lane, the other operand where one is NaN, −0 below +0 (R38, R100); FABS and
FNEG clear and invert the sign, and return the canonical NaN for a NaN (R100). None of them rounds. The floating compares: 0 where a lane
is NaN, the comparison of the numbers where both are finite, so +0 and −0 are equal;
FCMPUN is 1 exactly where a lane is NaN (R101). -/
def Obligations.FloatSelectionsAndCompares : Prop :=
  (∀ (f : Fields) (s : State) (c : Ctx), Issues f s c (dests f).length → c.Plain → etIsFloat f.et = true →
      let x := operands c.e f c.set none
      let w := etWidth f.et
      let select (less : ℚ → ℚ → Prop) (zero : Nat → Nat → Nat) (k r : Nat) : Prop :=
        let a := floatLane f x.a k
        let b := floatLane f x.b k
        (a = .nan → b = .nan → r = nanCode f) ∧ (a = .nan → b ≠ .nan → r = ub f x k) ∧
        (a ≠ .nan → b = .nan → r = ua f x k) ∧
        (∀ p q, a.is p → b.is q → (less p q → r = ua f x k) ∧ (less q p → r = ub f x k)) ∧
        (a.is 0 → b.is 0 → r = zero (ua f x k) (ub f x k))
      FloatLanes (.fmin f) f s c x (select (fun p q => p < q) fun a b => max a b) ∧
      FloatLanes (.fmax f) f s c x (select (fun p q => q < p) fun a b => min a b) ∧
      FloatLanes (.fabs f) f s c x (fun k r =>
        (floatLane f x.a k = .nan → r = nanCode f) ∧ (floatLane f x.a k ≠ .nan → r = ua f x k % 2 ^ (w - 1))) ∧
      FloatLanes (.fneg f) f s c x (fun k r =>
        (floatLane f x.a k = .nan → r = nanCode f) ∧ (floatLane f x.a k ≠ .nan → r = (ua f x k + 2 ^ (w - 1)) % 2 ^ w))) ∧
  (∀ (f : Fields) (s : State) (c : Ctx), Issues f s c (dests f).length → c.Plain → etIsFloat f.et = true →
      let x := operands c.e f c.set none
      let nan (k : Nat) : Prop := floatLane f x.a k = .nan ∨ floatLane f x.b k = .nan
      let flag (holds : ℚ → ℚ → Prop) (k r : Nat) : Prop :=
        (nan k → r = 0) ∧ ∀ p q, (floatLane f x.a k).is p → (floatLane f x.b k).is q → (r = 1 ∧ holds p q ∨ r = 0 ∧ ¬ holds p q)
      FloatFlags (.fcmpeq f) f s c x (flag fun p q => p = q) ∧
      FloatFlags (.fcmplt f) f s c x (flag fun p q => p < q) ∧
      FloatFlags (.fcmple f) f s c x (flag fun p q => p ≤ q) ∧
      FloatFlags (.fcmpun f) f s c x (fun k r => r = 1 ∧ nan k ∨ r = 0 ∧ ¬ nan k))

/-- FRCP, FRSQ, FEXP2, FLOG2 and FTANH complete, with the results that R103 gives the special operands exactly, on both of their
types. -/
def Obligations.ApproximateFunctionsAtSpecialOperands : Prop :=
  ∀ (f : Fields) (s : State) (c : Ctx), Issues f s c (dests f).length → c.Plain → f.et = .bf16 ∨ f.et = .f32 →
    let x := operands c.e f c.set none
    let at' (zero inf : Bool → Nat) (below : Option Nat) (k r : Nat) : Prop :=
      (floatLane f x.a k = .nan → r = nanCode f) ∧ (∀ b, floatLane f x.a k = .zero b → r = zero b) ∧
      (∀ b, floatLane f x.a k = .inf b → r = inf b) ∧
      ∀ v, below = some v → ∀ p < 0, (floatLane f x.a k).is p → r = v
    let nan := nanCode f
    FloatLanes (.frcp f) f s c x (at' (infOf f) (zeroOf f) none) ∧
    FloatLanes (.frsq f) f s c x (at' (infOf f) (fun b => if b then nan else zeroOf f false) (some nan)) ∧
    FloatLanes (.fexp2 f) f s c x (at' (fun _ => oneOf f false) (fun b => if b then zeroOf f false else infOf f false) none) ∧
    FloatLanes (.flog2 f) f s c x (at' (fun _ => infOf f true) (fun b => if b then nan else infOf f false) (some nan)) ∧
    FloatLanes (.ftanh f) f s c x (at' (zeroOf f) (oneOf f) none)

/-- FSUMR and FMAXR combine the lanes by the tree of R50 and put the result in lane 0 (R104); HADX sends the lane sums to DST0
and the lane differences to DST1 (R113); FRESC sends the maximum to DST0 and the factor to DST1, 1.0 where the running maximum
stays (R106); HADS applies the stages of its mask in ascending order (R112). -/
def Obligations.FloatTreesAndButterflies : Prop :=
  ∀ (f : Fields) (s : State) (c : Ctx), Issues f s c (dests f).length → c.Plain →
    let x := operands c.e f c.set none
    let l (k : Nat) : Nat := ua f x k
    let n := etLanes f.et
    let add := faddCode f.et f.rnd f.sat
    let sub (a b : Nat) : Nat := fround f.et f.rnd f.sat ((fdecode f.et a).add (f.rnd == 2) (fdecode f.et b).neg)
    let mx := fminmax f.et true
    let four (g : Nat → Nat → Nat) (o : Nat) : Nat := g (g (l o) (l (o + 1))) (g (l (o + 2)) (l (o + 3)))
    let tree (g : Nat → Nat → Nat) : Nat :=
      if n = 8 then g (four g 0) (four g 4) else g (g (four g 0) (four g 4)) (g (four g 8) (four g 12))
    let only (v : Nat) : List Emit := c.toAll (BitVec.ofNat 256 v)
    (n = 8 ∨ n = 16 → exec (.fsumr f) s = .next (c.issued c.e (only (tree add))) ∧
      exec (.fmaxr f) s = .next (c.issued c.e (only (tree mx)))) ∧
    (etIsFloat f.et = true → ∃ u v, exec (.hadx f) s = .next (c.issued c.e (c.toBoth u v)) ∧ ∀ k < n, laneOn f x k = true →
      FloatOp f x (fun p q => p + q) k (laneU (etWidth f.et) u k) ∧ FloatOp f x (fun p q => p - q) k (laneU (etWidth f.et) v k)) ∧
    (f.et = .f32 → ∃ u v, exec (.fresc f) s = .next (c.issued c.e (c.toBoth u v)) ∧ ∀ k < n, laneOn f x k = true →
      laneU 32 u k = mx (l k) (ub f x k) ∧
      (floatLane f x.a k = .nan ∨ floatLane f x.b k = .nan → laneU 32 v k = nanCode f) ∧
      ∀ p q, (floatLane f x.a k).is p → (floatLane f x.b k).is q → q ≤ p → laneU 32 v k = 0x3F800000) ∧
    ∃ (v : Payload) (st : Nat → Nat → Nat), exec (.hads f) s = .next (c.issued c.e (c.toAll v)) ∧
      (∀ k < n, st 0 k = l k) ∧ (∀ k < n, laneU (etWidth f.et) v k = st 4 k % 2 ^ etWidth f.et) ∧
      ∀ b < 4, ∀ k < n, st (b + 1) k =
        if bitAt f.xmod b = true then
          (if k / 2 ^ b % 2 = 0 then add (st b k) (if k + 2 ^ b < n then st b (k + 2 ^ b) else 0) else sub (st b (k - 2 ^ b)) (st b k))
        else st b k

/-- FCVT, ICVT, FCVTI, QNT and DQNT write the lanes of R107, each rounded once (R108, R111), with the scale of the lane's group
(R110), the codebook of LUT4 (R46) and one step of the generator for each lane written in mode 4 (R44). -/
def Obligations.ConversionLanes : Prop :=
  ∀ (f : Fields) (s : State) (c : Ctx), Issues f s c (dests f).length → c.Plain →
    let x := operands c.e f c.set none
    let w := etWidth f.et
    let src := etOfCode (bitsAt f.mod 0 4)
    let group (j : Nat) : Nat := match (bitsAt f.xmod 4 2).toNat with
      | 0 => 0
      | 1 => j / 16
      | _ => j / 32
    let scale (j : Nat) : XVal :=
      if bitAt f.xmod 3 = true then fdecode .bf16 (laneU 16 x.b (group j)) else e8m0 (laneU 8 x.b (group j))
    let float (xs : Word32) (v : XVal) : Nat := froundX f.et f.rnd f.sat true xs v % 2 ^ w
    let either (xs : Word32) (v : XVal) : Nat := if etIsFloat f.et = true then float xs v else iroundX f.et f.rnd xs v
    let lane (i : Nat) : Nat := laneU (etWidth src) x.a i
    Converts (.fcvt f) f s c (fun _ i xs => float xs (fdecode src (lane i))) ∧
    Converts (.icvt f) f s c (fun _ i xs => float xs (.ofInt (laneInt src x.a i))) ∧
    Converts (.fcvti f) f s c (fun _ i xs => iroundX f.et f.rnd xs (fdecode src (lane i))) ∧
    Converts (.qnt f) f s c (fun j i xs => either xs ((fdecode src (lane i)).div (scale j))) ∧
    Converts (.dqnt f) f s c (fun _ i xs => either xs (XVal.mul
      (if src = .lut4 then fdecode .bf16 (laneU 16 c.e.lat.cbk (lane i))
       else if etIsFloat src = true then fdecode src (lane i) else .ofInt (laneInt src x.a i)) (scale i)))

/-! ## Flow, tag and reduction instructions (R17, R18, R115 to R138) -/

/-- NOP consumes and sends nothing (R115); CONST, MOV, LENTER, LEXIT, WADV, ALLOC and ORDER send a unchanged with the tag after
the tag operation (R116, R121, R125, R256); TAGGET sends the part of the matched tag that SEL names in lane 0 (R124). -/
def Obligations.FlowPassesItsOperand : Prop :=
  ∀ (f : Fields) (s : State) (c : Ctx), Issues f s c (dests f).length → c.Plain →
    let a := (operands c.e f c.set none).a
    let t := c.tag
    let passed : List Emit := (dests f).map fun d => ⟨d, tagOp c.g.tagw f t, true, 0, c.set.leftLast, 0, a⟩
    let part : Nat := match (bitsAt f.xmod 4 3).toNat with
      | 0 => getField c.g.tagw (bitsAt f.xmod 0 4).toNat t
      | 1 => t.toNat % 2 ^ 55
      | 2 => t.toNat / 2 ^ 58
      | 3 => t.toNat / 2 ^ 55 % 8
      | _ => t.toNat
    exec (.nop f) s = .next (c.issued c.e []) ∧
    exec (.const f) s = .next (c.issued c.e passed) ∧ exec (.mov f) s = .next (c.issued c.e passed) ∧
    exec (.lenter f) s = .next (c.issued c.e passed) ∧ exec (.lexit f) s = .next (c.issued c.e passed) ∧
    exec (.wadv f) s = .next (c.issued c.e passed) ∧ exec (.alloc f) s = .next (c.issued c.e passed) ∧
    exec (.order f) s = .next (c.issued c.e passed) ∧
    exec (.tagget f) s = .next (c.issued c.e (c.toAll (BitVec.ofNat 256 part)))

/-- The tag operations (R18) on a tag whose declared fields fit in PATH (R17): TOP 1 and 2 set field f to 0, TOP 3 advances it
modulo its size, and both leave every other field, COL and CTX; TOP 4 sets CTX, TOP 5 sets COL, and both leave PATH. -/
def Obligations.TagOperationsChangeOnePart : Prop :=
  ∀ (tagw : List Nat) (f : Fields) (t : Word64), (tagw.foldl (· + ·) 0) ≤ 55 → (bitsAt f.mod 0 4).toNat < tagw.length →
    let k := (bitsAt f.mod 0 4).toNat
    let u := tagOp tagw f t
    let w := tagw.getD k 0
    ((f.top = 1 ∨ f.top = 2) → getField tagw k u = 0) ∧
    (f.top = 3 → getField tagw k u = (getField tagw k t + 1) % 2 ^ w) ∧
    ((f.top = 1 ∨ f.top = 2 ∨ f.top = 3) → tagCol u = tagCol t ∧ tagCtx u = tagCtx t ∧
      ∀ j < tagw.length, j ≠ k → getField tagw j u = getField tagw j t) ∧
    (f.top = 4 → tagCtx u = (bitsAt f.mod 0 3).toNat ∧ tagCol u = tagCol t ∧ u.toNat % 2 ^ 55 = t.toNat % 2 ^ 55) ∧
    (f.top = 5 → tagCol u = (bitsAt f.mod 0 6).toNat ∧ tagCtx u = tagCtx t ∧ u.toNat % 2 ^ 55 = t.toNat % 2 ^ 55) ∧
    (f.top = 0 → u = t)

/-- STEER sends a to DST0 when lane 0 of the predicate is true and to DST1 when it is false (R117); GATE sends a, or a bubble
where it is false (R118); PICK sends the whole token that p chooses (R120); MERGE passes the one true token of two, a bubble for
two bubbles, and 0x2.0C for two true ones (R119); TAGSET replaces a field or PATH by b[0], with 0x2.01 where it does not fit
(R123). -/
def Obligations.FlowChoices : Prop :=
  ∀ (f : Fields) (s : State) (c : Ctx), Issues f s c (dests f).length → c.set.raise = none →
    (∀ t ∈ c.set.toks, t.kind ≠ 2 ∧ t.kind ≠ 3) →
    let x := operands c.e f c.set none
    let true0 (p : Payload) : Prop := predLane (etWidth f.et) f.pinv p 0 = true
    let sent (d : Dst) (m : Emit) : List Emit := if d.v then [m] else []
    let toks (pred last : Bool) (v : Payload) : List Emit := (dests f).map fun d => ⟨d, c.tagOut, pred, 0, last, 0, v⟩
    (c.Plain → (true0 x.b → exec (.steer f) s = .next (c.issued c.e (sent f.dst0 (c.data f.dst0 x.a)))) ∧
      (¬ true0 x.b → exec (.steer f) s = .next (c.issued c.e (sent f.dst1 (c.data f.dst1 x.a)))) ∧
      (true0 x.b → exec (.gate f) s = .next (c.issued c.e (toks true c.set.leftLast x.a))) ∧
      (¬ true0 x.b → exec (.gate f) s = .next (c.issued c.e (toks false c.set.leftLast 0)))) ∧
    (∀ a b, c.set.l = some a → c.set.r = some b →
      (c.Plain → exec (.pick f) s = .next (c.issued c.e (if predLane (etWidth f.et) f.pinv x.p 0 = true then toks true a.last a.pay
        else toks true b.last b.pay))) ∧
      (a.pred = true → b.pred = false → exec (.merge f) s = .next (c.issued c.e (toks true a.last a.pay))) ∧
      (a.pred = false → b.pred = true → exec (.merge f) s = .next (c.issued c.e (toks true b.last b.pay))) ∧
      (a.pred = false → b.pred = false → exec (.merge f) s = .next (c.issued c.e (toks false (a.last || b.last) 0))) ∧
      (a.pred = true → b.pred = true →
        exec (.merge f) s = .next (c.issued c.e ((dests f).map (c.recordTo (mkCause 2 0xC) 0 0 0 c.tagOut))))) ∧
    (c.Plain →
      let v := laneU (etWidth f.et) x.b 0
      let k := (bitsAt f.xmod 0 4).toNat
      let width := if bitAt f.xmod 4 then 55 else fieldW c.g.tagw k
      let t := if bitAt f.xmod 4 then setBits c.tag 0 (BitVec.ofNat 55 v) else setField c.g.tagw k v c.tag
      (v < 2 ^ width → exec (.tagset f) s = .next (c.issued c.e ((dests f).map fun d => ⟨d, t, true, 0, c.set.leftLast, 0, x.a⟩))) ∧
      (2 ^ width ≤ v → exec (.tagset f) s = .next (c.issued c.e ((dests f).map (c.recordTo (mkCause 2 1) 0 0 0 c.tagOut)))))

/-- What the instructions with a state register write and send. SINK consumes, and under CNT counts in bits 31:0, which it sends
and clears on LAST (R115); COUNT sends lane j and adds b[0], or returns it to 0 on LAST (R131); HOLD writes a, under AR 2 only
the lanes whose predicate is true (R137); READS sends the register, and clears it under CLR (R137); DELAY sends what it was given
D firings ago (R138). -/
def Obligations.StateRegisterInstructions : Prop :=
  ∀ (f : Fields) (s : State) (c : Ctx), Issues f s c (dests f).length → c.Plain →
    let x := operands c.e f c.set none
    let w := etWidth f.et
    let n := f.ssel.toNat
    let st := c.e.sreg c.set.ctx n
    let set (v : Payload) : Elem := c.e.setSreg c.set.ctx n v
    let count := st.toNat % 2 ^ 32 + 1
    (bitAt f.xmod 0 = false → exec (.sink f) s = .next (c.issued c.e [])) ∧
    (bitAt f.xmod 0 = true → c.set.leftLast = false →
      ∃ v, exec (.sink f) s = .next (c.issued (set v) []) ∧ v.toNat % 2 ^ 32 = count % 2 ^ 32 ∧ v.toNat / 2 ^ 32 = st.toNat / 2 ^ 32) ∧
    (bitAt f.xmod 0 = true → c.set.leftLast = true →
      ∃ v, exec (.sink f) s = .next (c.issued (set v) (if f.dst0.v then
        [⟨f.dst0, c.tagOut, true, 0, true, 0, BitVec.ofNat 256 (count % 2 ^ 32)⟩] else [])) ∧
        v.toNat % 2 ^ 32 = 0 ∧ v.toNat / 2 ^ 32 = st.toNat / 2 ^ 32) ∧
    (let j := (bitsAt f.xmod 0 3).toNat
     j < etLanes f.et →
     ∃ v, exec (.count f) s = .next (c.issued (set v) (c.toAll (BitVec.ofNat 256 (laneU w st j)))) ∧
       ∀ k < etLanes f.et, laneU w v k = if k = j then (if c.set.leftLast then 0 else (laneU w st j + laneU w x.b 0) % 2 ^ w)
         else laneU w st k) ∧
    (f.ar ≠ .dyadic → exec (.hold f) s = .next (c.issued (set x.a) (c.toAll x.a))) ∧
    (f.ar = .dyadic → ∃ v, exec (.hold f) s = .next (c.issued (set v) (c.toAll x.a)) ∧
      ∀ k < etLanes f.et, laneU w v k = if predLane w f.pinv x.b k = true then laneU w x.a k else laneU w st k) ∧
    exec (.reads f) s = .next (c.issued (if bitAt f.xmod 0 then set 0 else c.e) (c.toAll st)) ∧
    ∃ e' : Elem, { e' with st := c.e.st } = c.e ∧
      exec (.delay f) s = .next (c.issued e' (c.toAll (c.e.sreg c.set.ctx (n + (bitsAt f.xmod 0 2).toNat)))) ∧
      e'.sreg c.set.ctx n = x.a ∧
      ∀ d < (bitsAt f.xmod 0 2).toNat, e'.sreg c.set.ctx (n + d + 1) = c.e.sreg c.set.ctx (n + d)

/-- CALL sends its token to DST0 with field f set to the frame that its arrival took (R128); RET finds the valid frame record
that field f names, clears its V, and sends its operand to the continuation in the record with the saved tag (R129, R130);
RELEASE sends a to DST0 and a release token to DST1 (R127). -/
def Obligations.CallReturnRelease : Prop :=
  ∀ (f : Fields) (s : State) (c : Ctx), Issues f s c 2 → c.Plain →
    let x := operands c.e f c.set none
    let k := (bitsAt f.xmod 0 4).toNat
    let sent (d : Dst) (m : Emit) : List Emit := if d.v then [m] else []
    (∀ m, c.set.frame = some m → exec (.call f) s = .next (c.issued c.e
      (sent f.dst0 ⟨f.dst0, setField c.g.tagw k m c.tag, true, 0, c.set.leftLast, 0, x.a⟩))) ∧
    (∀ (t : Tile) (pool : Word64),
      let d := neighbour c.p.x c.p.y (bitsAt f.xmod 4 2).toNat
      let m := getField c.g.tagw k c.tag
      let r := t.frame pool m
      c.g.tile? d.1 d.2 = some t → t.pool? = some pool → m < poolFrames pool → bitAt r 95 = true → t.frameWaits = [] →
      exec (.ret f) s = .next (c.issuedIn (s.putRegion c.p.r (c.g.putTile
          { t with bytes := writeBytes t.bytes (modeBase pool + 16 * m) (toBytes (setBits r 95 (0 : BitVec 1)) 16) })) c.e
        [⟨⟨true, BitVec.ofInt 7 ((bitsAt r 88 7).toNat - (c.p.x : Int)), BitVec.ofInt 6 ((bitsAt r 82 6).toNat - (c.p.y : Int)),
          bitsAt r 77 5, bitsAt r 75 2⟩, bitsAt r 0 64, true, 0, c.set.leftLast, 0, x.a⟩] [])) ∧
    exec (.release f) s = .next (c.issued c.e (sent f.dst0 (c.data f.dst0 x.a) ++
      [⟨f.dst1, c.tagOut, true, 2, c.set.leftLast, 1, 0⟩]))

/-- IRED and FRED send the value that their instance has reached, with the tag and LAST of its exit token, or the error record that it
has taken, with the exit token's tag too (R133, R135). REPEAT sends copy i with field f set to i at its issue i, keeps its set until the last copy, and then sends the number of copies to DST1
(R132); a number above 65,536 or above the field's size gives 0x2.02. -/
def Obligations.ReduceAndRepeat : Prop :=
  (∀ (f : Fields) (s : State) (c : Ctx) (e t : Token), Issues f s c (dests f).length → c.set.raise = none → c.set.l = some t →
    c.set.r = some e → c.atExit.recolourRefused = false → c.atExit.needsAdvance = false →
    let out : List Emit := (dests f).map fun d => ⟨d, tagOp c.g.tagw f e.tag, true, 3, e.last, BitVec.ofNat 3 t.sub, t.pay⟩
    exec (.ired f) s = .next (c.issued c.e out) ∧ exec (.fred f) s = .next (c.issued c.e out)) ∧
  ∀ (f : Fields) (s : State) (c : Ctx), Issues f s c (dests f).length → c.Plain →
    let x := operands c.e f c.set none
    let k := (bitsAt f.xmod 0 4).toNat
    let n := laneU (etWidth f.et) x.b 0
    let i := c.e.repPos
    let sent (d : Dst) (m : Emit) : List Emit := if d.v then [m] else []
    let copy : List Emit := sent f.dst0 ⟨f.dst0, setField c.g.tagw k i c.tag, true, 0, decide (i + 1 = n), 0, x.a⟩
    let total : List Emit := sent f.dst1 ⟨f.dst1, c.tag, true, 0, true, 0, BitVec.ofNat 256 n⟩
    (∀ e v, c.set.l = none → c.set.r = some e → c.set.red = some v →
      let out : List Emit := (dests f).map fun d => ⟨d, tagOp c.g.tagw f e.tag, true, 0, e.last, 0, v⟩
      exec (.ired f) s = .next (c.issued c.e out) ∧ exec (.fred f) s = .next (c.issued c.e out)) ∧
    (n ≤ 65536 → n ≤ 2 ^ fieldW c.g.tagw k →
      (i + 1 < n → exec (.repeatTok f) s = .next (c.partIssued { c.e with repPos := i + 1 } copy)) ∧
      (i + 1 = n → exec (.repeatTok f) s = .next (c.issued { c.e with repPos := 0 } (copy ++ total))) ∧
      (n = 0 → exec (.repeatTok f) s = .next (c.issued { c.e with repPos := 0 } total))) ∧
    ((65536 < n ∨ 2 ^ fieldW c.g.tagw k < n) →
      exec (.repeatTok f) s = .next (c.issued c.e ((dests f).map (c.recordTo (mkCause 2 2) 0 0 0 c.tagOut))))

/-! ## What every issue shares (R16, R20, R24, R26, R27, R179, R240, R405) -/

/-- In place of an instruction's result: the record of a cause found when its operands arrived (R20, R22); else an error-record
operand of the lowest side, forwarded with its payload (R27); else the record 0x1.11 of a control token, naming the side of the
first one (R16; that side is the model's reading, log 12); else a bubble under BUB and nothing without it (R26). -/
def Obligations.ErrorsControlTokensAndBubblesReplaceTheResult : Prop :=
  ∀ (o : Op) (f : Fields) (s : State) (c : Ctx), treatsStandard o = true → Issues f s c (dests f).length →
    let i := Instr.ofOp o f
    let done (es : List Emit) : Prop := exec i s = .next (c.issued c.e es)
    let first (k : Nat) : Option Token := c.set.toks.find? fun t => t.kind == k
    (∀ cause side, c.set.raise = some (cause, side) → done ((dests f).map (c.recordTo cause 0 side 0 c.tagOut))) ∧
    (c.set.raise = none →
      (∀ t, first 3 = some t →
        done ((dests f).map fun d => ⟨d, c.tagOut, true, 3, c.set.leftLast, BitVec.ofNat 3 t.sub, t.pay⟩)) ∧
      (∀ t, first 3 = none → first 2 = some t → done ((dests f).map (c.recordTo (mkCause 1 0x11) 0 t.side 0 c.tagOut))) ∧
      (first 3 = none → first 2 = none → (∃ t ∈ c.set.toks, t.pred = false) →
        done (if f.bub then (dests f).map (fun d => ⟨d, c.tagOut, false, 0, c.set.leftLast, 0, 0⟩) else [])))

/-- An instruction that sends one token to every destination stalls, with every operand where it is, while its output queue
lacks room (R24); waits for an advance of the seal generation where one is due (R405); and sends the record 0x4.06 with the
matched tag in place of its results where its recolouring is refused (R179). -/
def Obligations.AnIssueWaitsForRoomAndForTheSealGeneration : Prop :=
  ∀ (o : Op) (f : Fields) (s : State) (c : Ctx), sendsOneEach o = true → s.ctx? f = some c → c.Plain →
    let i := Instr.ofOp o f
    let room : Prop := c.e.out.length + (dests f).length ≤ 4
    (¬ room → exec i s = .next s) ∧
    (room → c.needsAdvance = true → ∃ l, exec i s = .next (s.putLaunch l) ∧
      { l with sl := { l.sl with waiting := c.l.sl.waiting } } = c.l ∧ l.sl.waiting.isSome = true) ∧
    (room → c.needsAdvance = false → c.recolourRefused = true →
      exec i s = .next (c.issued c.e ((dests f).map (c.recordTo (mkCause 4 6) 0 0 0 c.tag))))

/-- The frame of an issue: a local instruction, on any operands, changes its element's queues and last issue, the register that
it writes, its region's census deltas and its launch's sealing counters, and nothing else in the package; in particular every
byte of memory, every other element, tile and hart and every special register is as before. -/
def Obligations.AnIssueChangesOnlyItsElement : Prop :=
  ∀ (o : Op) (f : Fields) (s t : State) (c : Ctx), isLocal o = true → s.ctx? f = some c → exec (Instr.ofOp o f) s = .next t →
    c.OnlyIssues o s t

/-- An instruction that reaches memory sends one request through its output queue: to a memory-port tile, with its fields, site,
tag, operands and base register, its operands sealed on their way where the world seals (R221, R240, R403), or to a neighbouring memory tile (R249, R320). On a bubble the
first kind sends its request under BUB and is consumed without (R240). -/
def Obligations.MemoryInstructionsSendOneRequest : Prop :=
  ∀ (o : Op) (f : Fields) (s : State) (c : Ctx), Issues f s c 1 → c.set.raise = none →
    (∀ t ∈ c.set.toks, t.kind ≠ 2 ∧ t.kind ≠ 3) →
    let pay (t : Option Token) : Payload := (t.map Token.pay).getD 0
    let bubble : Prop := ∃ t ∈ c.set.toks, t.pred = false
    let q : Request := ⟨o, f, c.p.x, c.p.y, c.set.slot, c.tag, c.set.leftLast, c.set.bubbly, pay c.set.l, pay c.set.r, pay c.set.p,
      c.e.kreg c.set.ctx f.ksel.toNat, []⟩
    (asksMemoryPort o = true → (¬ bubble ∨ f.bub = true) →
      exec (Instr.ofOp o f) s = .next (c.issuedIn c.s c.e [] [.global q])) ∧
    (asksMemoryPort o = true → bubble → f.bub = false → exec (Instr.ofOp o f) s = .next (c.issued c.e [])) ∧
    (asksTile o = true → ¬ bubble → exec (Instr.ofOp o f) s = .next (c.issuedIn c.s c.e [] [.tile q]))

/-! ## Region instructions (R197 to R201) -/

/-- CENSUS, COLGET and CTOK check their colours: NOTFOUND for an unused one, NOPRIV for one of another world than the token's, in a PRIV
launch too, as none of the three is privileged (R198; log 34). CENSUS reads the census as of the last sweep, COLGET the entry,
CTOK closes or reopens one entry port or all; QUOTA, HORIZON and COLSET replace exactly their fields of a used entry and advance
the layout generation (R198, R199); YIELD passes a and marks the region. -/
def Obligations.ColourTableInstructions : Prop :=
  ∀ (f : Fields) (s : State) (c : Ctx), Issues f s c (dests f).length → c.Plain →
    let a := (operands c.e f c.set none).a
    let col := (bitsAt f.imm 0 6).toNat
    let e := c.g.coltab.getD col 0
    let check (k : Nat) : Nat :=
      let q := c.g.coltab.getD k 0
      if colV q = false then 11 else if colWorld q ≠ c.g.tagWorld c.tag then 10 else 0
    let replied (i : Instr) (v : Nat) : Prop := exec i s = .next (c.issued c.e (c.toAll (BitVec.ofNat 256 v)))
    let recoloured (i : Instr) (e' : BitVec 256) (v : Nat) : Prop := exec i s = .next (c.issuedIn
      (s.putRegion c.p.r { c.g with coltab := c.g.coltab.set col e' }).bumpLayout c.e (c.toAll (BitVec.ofNat 256 v)) [])
    let named (i : Nat) : Bool :=
      portType (c.g.portWord i) == 3 && ((bitsAt f.imm 0 5).toNat == 31 || i == (bitsAt f.imm 0 5).toNat)
    let all := bitAt f.imm 9
    let cx := (bitsAt f.imm 6 3).toNat
    let quiet : Prop := if all then ∀ k < 8, (64 * k + col) ∈ c.g.quiet else (64 * cx + col) ∈ c.g.quiet
    (check col ≠ 0 → replied (.census f) (check col) ∧ replied (.colget f) 0) ∧
    (check col = 0 → exec (.colget f) s = .next (c.issued c.e (c.toAll e)) ∧
      ∃ q st pu : Nat, replied (.census f) (2 ^ 8 * q + 2 ^ 9 * st + 2 ^ 10 * pu +
          2 ^ 32 * (if all then c.g.censSum col else c.g.cens cx col).toNat + 2 ^ 64 * c.g.sweeps.toNat) ∧
        (quiet → q = 1) ∧ (¬ quiet → q = 0) ∧ (col ∈ c.g.stalled → st = 1) ∧ (col ∉ c.g.stalled → st = 0) ∧
        ((∃ p ∈ c.l.purges, p.col = col) → pu = 1) ∧ ((∀ p ∈ c.l.purges, p.col ≠ col) → pu = 0)) ∧
    (∀ i < c.g.ports.length, named i = true → check (portCol (c.g.portWord i)) ≠ 0 →
      (∀ j < i, named j = true → check (portCol (c.g.portWord j)) = 0) → replied (.ctok f) (check (portCol (c.g.portWord i)))) ∧
    ((∀ i < c.g.ports.length, named i = true → check (portCol (c.g.portWord i)) = 0) → ∃ ps : List Port,
      exec (.ctok f) s = .next (c.issuedIn (s.putRegion c.p.r { c.g with ports := ps }) c.e (c.toAll 0) []) ∧
      ∀ i, ps[i]? = (c.g.ports[i]?).map fun p => if named i then { p with closed := !bitAt f.mod 0 } else p) ∧
    (colV e = false → replied (.quota f) 11 ∧ replied (.horizon f) 11 ∧ replied (.colset f) 11) ∧
    (colV e = true →
      (∃ e', recoloured (.quota f) e' (2 ^ 32 * colQuota e) ∧ colQuota e' = a.toNat % 2 ^ 32 ∧
        ∀ n, (n < 192 ∨ 224 ≤ n) → e'.getLsbD n = e.getLsbD n) ∧
      (∃ e', recoloured (.horizon f) e' 0 ∧ colHzn e' = (bitsAt f.imm 6 5).toNat ∧ colAutop e' = bitAt f.imm 11 ∧
        ∀ n, (n < 249 ∨ n = 255) → e'.getLsbD n = e.getLsbD n) ∧
      ∃ e' : BitVec 256,
        (let m (k : Nat) : Prop := bitAt f.xmod k = true
         ∀ n < 256, e'.getLsbD n =
          if (m 0 ∧ n = 254) ∨ (m 1 ∧ 249 ≤ n ∧ n < 254) ∨ (m 2 ∧ 234 ≤ n ∧ n < 241) ∨ (m 3 ∧ 192 ≤ n ∧ n < 224) ∨ (m 4 ∧ n < 128)
          then a.getLsbD n else e.getLsbD n) ∧
        ((colourOk (c.g.ports.map Port.image) col e' = false ∨ (c.g.multiw = true ∧ colWsize e' = 0)) → replied (.colset f) 9) ∧
        (colourOk (c.g.ports.map Port.image) col e' = true → (c.g.multiw = false ∨ colWsize e' ≠ 0) → recoloured (.colset f) e' 0)) ∧
    exec (.yield f) s = .next (c.issuedIn (s.putRegion c.p.r { c.g with yielded := true }) c.e (c.toAll a) [])

/-- LAUNCH submits the record in b and a and replies with the status and the handle (R198); PURGE of a used colour starts a purge
or joins the one that runs, and its reply waits (R187, R198); SPANEND reports the commit of the
span that its operand's arrival closed: its reply waits for that span, and is sent at once where the span has committed (R193, R198,
R271; a set that no arrival brought closes the open span, log 36); CTXNEXT of a configuration that loads
queues its load, a running context named for it draining, and one that does not is answered with status 8 (R173, R198). A reply that waits
counts at the region controller. -/
def Obligations.RegionControllerInstructions : Prop :=
  ∀ (f : Fields) (s : State) (c : Ctx), Issues f s c (dests f).length → c.Plain →
    let x := operands c.e f c.set none
    let col := (bitsAt f.imm 0 6).toNat
    let q : Reply := ⟨c.p.r.m, c.p.x, c.p.y, c.set.slot, f, c.tag, c.set.leftLast⟩
    let waiting (g : Region) : Region := g.count .ctrl c.tag 1 false
    let l1 : Launch := { c.l with members := c.l.members.set c.p.r.m (waiting c.g) }
    let done (i : Instr) (u : State) : Prop := exec i s = .next (c.issuedIn u c.e [] [])
    let refused (u : State) : State := answerAll (u.putRegion c.p.r (waiting c.g)) c.p.r (ctrlSender c.p.r.m) q 8
    (let r := (s.putLaunch l1).submit (x.b ++ x.a) (c.g.tagWorld c.tag) c.l.priv
     done (.launch f) (answerAll r.1 c.p.r (ctrlSender c.p.r.m) q (BitVec.ofNat 256 (2 ^ 32 * r.2.2.toNat + r.2.1.toNat)))) ∧
    (colV (c.g.coltab.getD col 0) = false → exec (.purge f) s = .next (c.issued c.e (c.toAll 11))) ∧
    (colV (c.g.coltab.getD col 0) = true → (∀ p ∈ c.l.purges, p.col ≠ col) →
      done (.purge f) (s.putLaunch { l1 with purges := c.l.purges ++ [⟨col, [.reply q]⟩] })) ∧
    (colV (c.g.coltab.getD col 0) = true → (∃ p ∈ c.l.purges, p.col = col) →
      done (.purge f) (s.putLaunch { l1 with
        purges := c.l.purges.map fun p => if p.col = col then { p with waiters := p.waiters ++ [.reply q] } else p })) ∧
    (let mine (d : SpanDue) : Prop := d.m = c.p.r.m ∧ d.x = c.p.x ∧ d.y = c.p.y ∧ d.slot = c.set.slot ∧ d.tag = c.tag
     (∀ d pre post, c.l.spanDue = pre ++ d :: post → mine d → (∀ e ∈ pre, ¬ mine e) →
       (c.l.committed ≤ d.span →
         done (.spanend f) (s.putLaunch { l1 with spanDue := pre ++ post, spanReplies := c.l.spanReplies ++ [(d.span, q)] })) ∧
       (d.span < c.l.committed →
         exec (.spanend f) s = .next (c.issuedIn (s.putLaunch { c.l with spanDue := pre ++ post }) c.e
           (c.toAll (BitVec.ofNat 256 (2 ^ 64 * (c.p.r.h ++ BitVec.ofNat 32 d.span : Word64).toNat))) []))) ∧
     ((∀ d ∈ c.l.spanDue, ¬ mine d) → c.l.committed ≤ c.l.openSpan →
       done (.spanend f) (s.putLaunch { l1 with
         spanReplies := c.l.spanReplies ++ [(c.l.openSpan, q)]
         openSpan := c.l.openSpan + 1
         closedSpans := c.l.openSpan + 1 }))) ∧
    let addr : Word64 := bitsAt x.a 0 64
    (∀ g hs, loadImage s c.l.world addr.toNat c.l.priv none [] (some c.g) = .ok g hs →
      ∃ (n : Nat) (cs : List CtxState) (d : Option Nat),
        done (.ctxnext f) (s.putRegion c.p.r (waiting { c.g with ctx := cs, ctxReqs := c.g.ctxReqs ++ [⟨addr, d, n, g.elems, none, q⟩] })) ∧
        (bitAt f.mod 3 = false → cs = c.g.ctx ∧ d = none) ∧
        (bitAt f.mod 3 = true → d = some (bitsAt f.mod 0 3).toNat ∧
          (c.g.ctx.getD (bitsAt f.mod 0 3).toNat .free = .running → cs = c.g.ctx.set (bitsAt f.mod 0 3).toNat .draining) ∧
          (c.g.ctx.getD (bitsAt f.mod 0 3).toNat .free ≠ .running → cs = c.g.ctx))) ∧
    (∀ e, loadImage s c.l.world addr.toNat c.l.priv none [] (some c.g) = .bad e →
      done (.ctxnext f) (refused (s.deliver (rejectRecord s c.l.world e)))) ∧
    (∀ cause va, loadImage s c.l.world addr.toNat c.l.priv none [] (some c.g) = .unread cause va →
      done (.ctxnext f) (refused (s.deliver (bareFault s c.l.world cause 0 (BitVec.ofNat 64 va)))))

/-! ## Generators, channels and waits (R251 to R257) -/

/-- AGSET configures an idle generator without waiting requests: its nest, base and binding, answered at once; with KIND 1 or 2 it binds a
window of the memory-port tile that no other running stream holds, empty, and with OWN it claims a registry entry that no other
generator owns, giving 0x5.0A where one does and waiting where the window is taken (R251, R253). AGGO starts the nest of an idle
generator whose binding is fit, its window empty; without a fit binding it gives 0x5.0D (R252). A generator that runs a nest keeps
both waiting. Where no tile stands in direction DIR both give 0x5.0D. -/
def Obligations.GeneratorInstructions : Prop :=
  ∀ (f : Fields) (s : State) (c : Ctx), Issues f s c (dests f).length → c.Plain →
    let n := (bitsAt f.xmod 2 2).toNat
    let d := neighbour c.p.x c.p.y (bitsAt f.xmod 0 2).toNat
    let counted (g : Region) : Region := g.count (.site c.p.x c.p.y) c.tag 1 true
    let done (i : Instr) (u : State) : Prop := exec i s = .next (c.issuedIn u c.e [] [])
    let noTile (i : Instr) : Prop := exec i s = .next (c.issued c.e ((dests f).map (c.recordTo (mkCause 5 0xD) 0 0 0 c.tagOut)))
    (c.g.tile? d.1 d.2 = none → noTile (.agset f) ∧ noTile (.aggo f)) ∧
    ∀ t, c.g.tile? d.1 d.2 = some t → n < t.gens.length → (c.g.tiles.map fun u => (u.x, u.y)).Nodup →
      (∀ u ∈ c.g.tiles, ∀ j ∈ u.gens, j.queue = []) →
      let k := t.gen n
      let waits (i : Instr) (q : Request) : Prop :=
        done i (s.putRegion c.p.r (counted (c.g.putTile (t.putGen n { k with queue := [q] }))))
      (k.nest.isSome = true → waits (.agset f) (c.request .agset) ∧ waits (.aggo f) (c.request .aggo)) ∧
      (k.nest = none →
        (let q := c.request .agset
         let z := elementSender c.p.r.m q
         let bound : Region := (c.g.unbind t.x t.y n).putTile
           (t.putGen n { k with desc := q.a, base := bitsAt q.k 0 64, bind := some q })
         let kind := (bitsAt f.xmod 4 2).toNat
         let win := (bitsAt f.imm 0 3).toNat
         let ent := (bitsAt f.imm 12 4).toNat
         let own := bitAt f.imm 11
         let tile := c.g.portTile (bitsAt f.imm 4 4).toNat
         let taken := s.windowTaken c.p.r c.g.die tile win t.x t.y n
         let owned := s.entryTaken c.p.r c.g.die tile ent t.x t.y n
         let m1 : MPort := (bound.mport tile).putWindow ⟨s.freshId, win, t.x, t.y, n, kind == 2, 0, 0, [], none, []⟩
         let m2 : MPort := { m1 with registry := c.g.claim t q :: m1.registry.filter fun e => e.ent != ent }
         (kind = 0 → done (.agset f) (answerAll (s.putRegion c.p.r (counted bound)) c.p.r z (q.reply c.p.r.m) 0)) ∧
         (kind ≠ 0 → taken = true → waits (.agset f) q) ∧
         (kind ≠ 0 → taken = false → own = true → owned = true →
           done (.agset f) (answerRecord (s.putRegion c.p.r (counted c.g)) c.p.r z (q.reply c.p.r.m) (mkCause 5 0xA) 0)) ∧
         (kind ≠ 0 → taken = false → (own = true → owned = false) →
           done (.agset f) (answerAll
             (({ s with freshId := s.freshId + 1 }.putRegion c.p.r (counted (bound.putMport (if own then m2 else m1)))).loseWindow
               c.p.r c.g.die tile win) c.p.r z (q.reply c.p.r.m) 0))) ∧
        (let q := c.request .aggo
         let z := elementSender c.p.r.m q
         let failed : Prop :=
           done (.aggo f) (answerRecord (s.putRegion c.p.r (counted c.g)) c.p.r z (q.reply c.p.r.m) (mkCause 5 0xD) 0)
         (k.bind = none → failed) ∧
         ∀ b, k.bind = some b →
           (c.g.genReady t n b = false → failed) ∧
           (c.g.genReady t n b = true →
             let running : Region := c.g.putTile (t.putGen n { k with nest := some ⟨q, 0, none⟩ })
             done (.aggo f) (s.putRegion c.p.r (counted (match c.g.genWindow t n b with
               | some w => running.putWindow (c.g.portTile b.port) { w with head := 0, tail := 0, units := [], wait := none, pages := [] }
               | none => running))))))

/-- CPWAIT sends its operand once the channel's current transfer number is past the operand's, in the 2^31 numbers after it, or equals
it with WPTR at or above the operand's bytes, and waits at the channel until then; CPPTR sends WPTR and the current number (R255). MFENCE
waits for the accesses of its context and colour that the region has accepted and not performed (R257); OWNPASS waits, or gives
0x5.0D for an empty registry entry (R253). Waiting at the channel and at the element is the model's reading (log 7). -/
def Obligations.WaitingInstructions : Prop :=
  ∀ (f : Fields) (s : State) (c : Ctx), Issues f s c (dests f).length → c.Plain →
    let d := neighbour c.p.x c.p.y (bitsAt f.xmod 0 2).toNat
    let ch := (bitsAt f.xmod 2 1).toNat
    let noTile (i : Instr) : Prop := exec i s = .next (c.issued c.e ((dests f).map (c.recordTo (mkCause 5 0xD) 0 0 0 c.tagOut)))
    let counted (g : Region) : Region := g.count (.site c.p.x c.p.y) c.tag 1 true
    let awaits (i : Instr) (a : Access) : Prop :=
      exec i s = .next (c.issuedIn { s.putRegion c.p.r { counted c.g with accs := c.g.accs ++ [{ a with id := s.freshId }] } with
        freshId := s.freshId + 1 } c.e [] [])
    (c.g.tile? d.1 d.2 = none → noTile (.cpwait f) ∧ noTile (.cpptr f)) ∧
    (∀ t, c.g.tile? d.1 d.2 = some t →
      let k := t.chan ch
      let q := c.request .cpwait
      let ahead := (k.num - bitsAt q.a 32 32).toNat
      let met : Prop := (0 < ahead ∧ ahead ≤ 2 ^ 31) ∨ (ahead = 0 ∧ q.a.toNat % 2 ^ 32 ≤ k.wptr)
      (met → exec (.cpwait f) s = .next (c.issued c.e (c.toAll q.a))) ∧
      (¬ met → exec (.cpwait f) s = .next (c.issuedIn
        (s.putRegion c.p.r (counted (c.g.putTile (t.putChan ch { k with waits := k.waits ++ [q] })))) c.e [] [])) ∧
      ∃ v, exec (.cpptr f) s = .next (c.issued c.e (c.toAll v)) ∧ laneU 32 v 0 = k.wptr % 2 ^ 32 ∧ laneU 32 v 1 = k.num.toNat) ∧
    (∃ ids, awaits (.mfence f) ⟨0, c.request .mfence, 0, .settled, s.cycle, c.l.openSpan, 0, [], ids, 0, false⟩ ∧
      ∀ a ∈ c.g.accs, a.stage ≠ .net → a.req.op ≠ .mfence → a.req.op ≠ .ownpass → tagKey a.req.tag = tagKey c.tag → a.id ∈ ids) ∧
    let q := c.request .ownpass
    let entry := s.regEntry c.g.die (c.g.portTile q.port) (bitsAt f.imm 0 4).toNat
    (entry = none → noTile (.ownpass f)) ∧
    (entry.isSome = true →
      awaits (.ownpass f) ⟨0, q, c.g.portTile q.port, .settled, s.cycle, c.l.openSpan, 0, [], [], 0, false⟩)

/-! ## Matrix sheets and attention pages at their issue (R291, R296, R300 to R303, R319) -/

/-- MMA at a corner begins its pass: its claimed streams run, and a pass of the active bank with every element at its beginning joins the
sheet's operations (R291, R296). MDRAIN and MZERO join them too, MZERO taking effect at once, with its done token, where no
earlier operation uses its bank and the bank is not another's (R297, R300, R301). MSWAP exchanges the active bank and sends
zero (R300). MSCALE, MCODE and MEPI send a as a side-band token of their SUB (R303). -/
def Obligations.MatrixInstructionsAtIssue : Prop :=
  ∀ (f : Fields) (s : State) (c : Ctx), Issues f s c (dests f).length → c.Plain →
    let q : Reply := ⟨c.p.r.m, c.p.x, c.p.y, c.set.slot, f, c.tag, c.set.leftLast⟩
    let counted (g : Region) : Region := g.count (.site c.p.x c.p.y) c.tag 1 true
    let sent (sub : BitVec 3) : List Emit := (dests f).map fun d => ⟨d, c.tagOut, true, 1, false, sub, (operands c.e f c.set none).a⟩
    (∀ h, c.g.sheet? c.p.x c.p.y = some h →
      (∃ h2 p, exec (.mma f) s = .next (c.issuedIn (s.putRegion c.p.r (counted (c.g.putSheet h2))) c.e [] []) ∧
        h2.ops = h.ops ++ [.pass p] ∧ { h2 with ops := h.ops, streams := h.streams } = h ∧ p.bank = h.act ∧ p.foreign = false ∧
        p.prog = List.replicate (h.rs * h.cs) ⟨0, 0, 0, 0⟩ ∧ p.reply = { q with last := true } ∧
        ∀ k ∈ p.inputs, k.toks = 0 ∧ k.ended = false ∧ k.items = [] ∧
          ∃ m ∈ h.streams, m.row = k.row ∧ m.idx = k.idx ∧ m.buf = k.buf ∧ m.tag = c.tag ∧ m.stage = .claimed) ∧
      exec (.mswap f) s = .next (c.issuedIn (s.putRegion c.p.r (c.g.putSheet { h with act := 1 - h.act })) c.e (c.toAll 0) []) ∧
      (let bank := if bitAt f.xmod 0 then 1 - h.act else h.act
       let ops (o : Op) : List SheetOp := h.ops ++ [.bank ⟨o, q, bank, none⟩]
       let at' (h' : Sheet) : State := s.putRegion c.p.r (counted (c.g.putSheet h'))
       (∀ b : BankOp, .bank b ∈ h.ops → b.op ≠ .mzero) →
       exec (.mdrain f) s = .next (c.issuedIn (at' { h with ops := ops .mdrain }) c.e [] []) ∧
       ((∃ k ∈ h.ops, k.bank' = bank) →
         exec (.mzero f) s = .next (c.issuedIn (at' { h with ops := ops .mzero }) c.e [] [])) ∧
       ((∀ k ∈ h.ops, k.bank' ≠ bank) → (h.bankState bank).owner = none → (h.x = c.p.x ∧ h.y = c.p.y) →
         exec (.mzero f) s = .next (c.issuedIn (answerAll ((at' { h with ops := ops .mzero }).putRegion c.p.r
            (counted (c.g.putSheet (h.zeroBank bank)))) c.p.r (h.sender c.p.r.m q.slot) q 0) c.e [] [])))) ∧
    exec (.mscale f) s = .next (c.issued c.e (sent (if bitAt f.xmod 0 then 1 else 0))) ∧
    exec (.mcode f) s = .next (c.issued c.e (sent 2)) ∧
    exec (.mepi f) s = .next (c.issued c.e (sent (if bitAt f.xmod 0 then 4 else 3)))

/-- KVPACK quantises one head vector of 128 BF16 components, lane i mod 16 of member ⌊i/16⌋ (R319): a component that is no number
gives scale 0x7FC0 and codes 0; else the scale is a seventh of the largest magnitude rounded up to BF16, and each code is the
exact quotient rounded to the nearest integer, ties to even, clamped to −7 to 7. The codes go to DST0 in two tokens of 64 I4
lanes, the scale to DST1, field f of their tags set to 0, 1 and 0. -/
def Obligations.KvpackQuantisesAHeadVector : Prop :=
  ∀ (f : Fields) (s : State) (c : Ctx), Issues f s c 3 → c.Plain → c.set.l = none → c.set.members.length = 8 →
    let k := (bitsAt f.xmod 0 4).toNat
    let code (i : Nat) : Nat := laneU 16 (((c.set.members[i / 16]?).map Token.pay).getD 0) (i % 16)
    let x (i : Nat) : XVal := fdecode .bf16 (code i)
    let sent (d : Dst) (h : Nat) (last : Bool) (v : Payload) : List Emit :=
      if d.v then [⟨d, setField c.g.tagw k h c.tag, true, 0, last, 0, v⟩] else []
    let packs (q : Nat → ℤ) (scale : Nat) : Prop := ∃ u v,
      exec (.kvpack f) s = .next (c.issued c.e (sent f.dst0 0 false u ++ sent f.dst0 1 true v ++
        sent f.dst1 0 true (BitVec.ofNat 256 scale))) ∧
      ∀ i < 64, (laneU 4 u i : ℤ) = q i % 16 ∧ (laneU 4 v i : ℤ) = q (64 + i) % 16
    ((∃ i < 128, ∀ p, ¬ (x i).is p) → packs (fun _ => 0) 0x7FC0) ∧
    ∀ v : Nat → ℚ, (∀ i < 128, (x i).is (v i)) → ∃ (q : Nat → ℤ) (scale : Nat) (m : ℚ) (w : XVal), packs q scale ∧
      (∃ i < 128, m = |v i|) ∧ (∀ i < 128, |v i| ≤ m) ∧ w.is (m / 7) ∧ scale = fround .bf16 3 false w ∧
      (m = 0 → ∀ i < 128, q i = 0) ∧
      (m ≠ 0 → ∃ sc : ℚ, (fdecode .bf16 scale).is sc ∧ ∀ i < 128, ∃ r : ℤ, |v i / sc - r| ≤ 1 / 2 ∧
        (|v i / sc - r| = 1 / 2 → Even r) ∧ q i = max (-7) (min 7 r))

/-! ## Fault records and system instructions (R374 to R376, R396) -/

/-- A fault record takes the next SEQ. Without a fault page it counts in PKG_LOSTREC (R374). With one, it goes to the index HEAD mod 63,
and HEAD advances modulo 63·2^26, while HEAD − TAIL is below 63; else LOST advances; nothing else of HBM changes but the four
bytes of the interrupt word, which holds the EIID at the end and goes out when V is set (R375). Where a line that it reaches is held the
record waits, with its SEQ (R261). A fault record holds its cause, SEQ, V, its
world, handle, extra word, tag and cycle at the places of R376. -/
def Obligations.FaultRecordsReachTheFaultPage : Prop :=
  (∀ (s : State) (r : FaultRec), s.memOk →
      let t := s.deliver r
      let fpg := s.reg (0x5000 + 16 * r.world.toNat)
      let msi := s.reg (0x5008 + 16 * r.world.toNat)
      let page := (bitsAt fpg 12 40).toNat * 4096
      let word := (bitsAt msi 2 50).toNat * 4
      let still (a : Nat) : Prop := bitAt msi 0 = true → inHbm word = true → a < word ∨ word + 4 ≤ a
      let head := readNat s.mem page 4
      let tail := readNat s.mem (page + 4) 4
      let room : Prop := ((head : ℤ) - tail) % 4227858432 < 63
      let at' := page + 64 + 64 * (head % 63)
      t.seqNo = s.seqNo + 1 ∧
      (bitAt fpg 0 = false → t.lostRec = s.lostRec + 1 ∧ t.mem = s.mem ∧ t.msis = s.msis) ∧
      (s.heldLines = [] → s.kvHolds = [] → s.sysWaits = [] → s.faultWaits r.world page = false) ∧
      (bitAt fpg 0 = true → s.faultWaits r.world page = true → t.lostRec = s.lostRec ∧ t.mem = s.mem ∧ t.msis = s.msis ∧
        t.sysWaits = s.sysWaits ++ [.fault r.world (faultBits r s.seqNo)]) ∧
      (bitAt fpg 0 = true → s.faultWaits r.world page = false → t.lostRec = s.lostRec ∧
        (bitAt msi 0 = true → t.msis = s.msis ++ [(word, (bitsAt msi 52 11).toNat)]) ∧ (bitAt msi 0 = false → t.msis = s.msis) ∧
        (bitAt msi 0 = true → inHbm word = true → readNat t.mem word 4 = (bitsAt msi 52 11).toNat) ∧
        (room → (∀ i < 64, still (at' + i) → cellRead t.mem (at' + i) = bitsAt (faultBits r s.seqNo) (8 * i) 8) ∧
          ((∀ i < 4, still (page + i)) → readNat t.mem page 4 = (head + 1) % 4227858432) ∧
          ∀ a, still a → (a < page ∨ page + 4 ≤ a) → (a < at' ∨ at' + 64 ≤ a) → cellRead t.mem a = cellRead s.mem a) ∧
        (¬ room → ((∀ i < 4, still (page + 8 + i)) → readNat t.mem (page + 8) 4 = (readNat s.mem (page + 8) 4 + 1) % 2 ^ 32) ∧
          ∀ a, still a → (a < page + 8 ∨ page + 12 ≤ a) → cellRead t.mem a = cellRead s.mem a))) ∧
  (∀ (r : FaultRec) (seq : Word32),
      let b := faultBits r seq
      bitsAt b 0 10 = r.cause ∧ bitsAt b 10 32 = seq ∧ bitAt b 63 = true ∧ (bitsAt b 61 2).toNat = r.resp % 4 ∧
      bitsAt b 88 32 = r.handle ∧ bitsAt b 120 8 = r.world ∧ (bitsAt b 86 2).toNat = r.die % 4 ∧ (bitsAt b 79 7).toNat = r.x % 128 ∧
      (bitsAt b 73 6).toNat = r.y % 64 ∧ (bitsAt b 143 7).toNat = r.ax % 128 ∧ (bitsAt b 137 6).toNat = r.ay % 64 ∧
      (bitsAt b 150 5).toNat = r.slot % 32 ∧ (bitsAt b 155 2).toNat = r.side % 4 ∧ (bitsAt b 157 3).toNat = r.ctx % 8 ∧
      (bitsAt b 160 6).toNat = r.col % 64 ∧ bitsAt b 192 64 = r.tag ∧ bitsAt b 256 64 = r.extra ∧
      (bitsAt b 320 64).toNat = r.cycle % 2 ^ 64 ∧ bitsAt b 384 128 = 0 ∧ bitsAt b 42 19 = 0 ∧ bitsAt b 64 9 = 0 ∧
      bitsAt b 128 9 = 0 ∧ bitsAt b 166 26 = 0)

/-- TRAP writes a fault record 0xD.01 with its code and the low bits of a, and passes a; BRK holds a in its element as a freeze cause
0xD.02 of its own; FAULT sends an error record of class 0xD with SUB 1 and the low bits of a, under REC the fault record too; MARK
captures a where the launch has CAPT set, and passes a (R396). -/
def Obligations.SystemInstructions : Prop :=
  ∀ (f : Fields) (s : State) (c : Ctx), Issues f s c (dests f).length → c.Plain →
    let a := (operands c.e f c.set none).a
    let code : BitVec 16 := bitsAt f.imm 0 16
    let record (k : Cause) (x : Word64) : FaultRec := ⟨k, 0, c.g.tagWorld c.tag, c.l.handle, c.g.die, c.g.x0 + c.p.x, c.g.y0 + c.p.y,
      c.p.x, c.p.y, c.set.slot, 0, tagCtx c.tag, tagCol c.tag, c.tag, x, s.cycle⟩
    let k := mkCause 13 (bitsAt f.imm 0 6).toNat
    let errs : List Emit := (dests f).map fun d => ⟨d, c.tagOut, true, 3, c.set.leftLast, 1,
      recPayload (bitsAt a 0 64) c.tag c.l.handle c.p.x c.p.y 0 c.set.slot k⟩
    exec (.trap f) s = .next (c.issuedIn (s.deliver (record (mkCause 13 1) (code ++ bitsAt a 0 48))) c.e (c.toAll a) []) ∧
    (∃ (l' : Launch) (e' : Elem), exec (.brk f) s = .next (c.issuedIn (s.putLaunch l') e' [] []) ∧
      { l' with members := c.l.members, causes := c.l.causes } = c.l ∧ { e' with held := c.e.held } = c.e ∧
      e'.held = c.e.held ++ c.e.ready.take 1 ∧
      l'.causes = c.l.causes ++ [⟨mkCause 13 2, c.p.r.m, c.p.x, c.p.y, c.set.slot, 0, c.tag, code.setWidth 64, s.cycle⟩]) ∧
    (bitAt f.xmod 0 = false → exec (.fault f) s = .next (c.issued c.e errs)) ∧
    (bitAt f.xmod 0 = true → exec (.fault f) s = .next (c.issuedIn (s.deliver (record k (bitsAt a 0 64))) c.e errs [])) ∧
    (c.l.capt = false → exec (.mark f) s = .next (c.issued c.e (c.toAll a))) ∧
    (∀ t, c.set.l = some t → exec (.mark f) s = .next (c.issuedIn (s.capture c.l t 0 2 code) c.e (c.toAll a) []))

/-! ## Harts: registers, exceptions, returns (R74, R202, R399) -/

/-- x0 reads zero and a write to it is discarded; any other register reads what was last written to it, and a write leaves the rest of
the hart alone (R73). Taking an exception saves the pc, the cause, the value, the mode and the interrupt enable in the trap
registers of the level that it goes to and starts that level's handler, and gives up what the hart's instruction had on its way; the
return from it brings pc, mode and interrupt enable back. The trap registers are RISC-V's (the model's presumption, log 5). -/
def Obligations.HartRegistersAndTraps : Prop :=
  ∀ k : Hart, k.x.length = 31 →
    (∀ r : BitVec 5, k.reg 0 = 0 ∧ ∀ v, k.setReg 0 v = k ∧ (r ≠ 0 → (k.setReg r v).reg r = v) ∧
      (∀ q, q ≠ r → (k.setReg r v).reg q = k.reg q) ∧ { k.setReg r v with x := k.x } = k) ∧
    ∀ (code : Nat) (tval : Word64),
      let t := k.trap code tval
      let saved (old new : TrapRegs) (target : Mode) : Prop := t.mode = target ∧ t.pc = (old.tvec &&& ~~~3) ∧
        new = { old with
          epc := k.pc
          cause := BitVec.ofNat 64 code
          tval := tval
          pp := k.mode
          pie := old.ie
          ie := false }
      t.x = k.x ∧ t.f = k.f ∧ t.v = k.v ∧ t.csr = k.csr ∧ t.wxvworld = k.wxvworld ∧
      t.mem = none ∧ t.part = none ∧ t.scan = none ∧ t.blocked = false ∧ t.trapReturn.pc = k.pc ∧ t.trapReturn.mode = k.mode ∧
      ((k.mode = .m ∨ bitAt k.medeleg code = false) → saved k.mtrap t.mtrap .m ∧ t.strap = k.strap ∧ t.vstrap = k.vstrap ∧
        t.trapReturn.mtrap.ie = k.mtrap.ie) ∧
      (k.mode ≠ .m → bitAt k.medeleg code = true → (k.mode = .hs ∨ k.mode = .u ∨ bitAt k.hedeleg code = false) →
        saved k.strap t.strap .hs ∧ t.mtrap = k.mtrap ∧ t.vstrap = k.vstrap ∧ t.trapReturn.strap.ie = k.strap.ie) ∧
      ((k.mode = .vs ∨ k.mode = .vu) → bitAt k.medeleg code = true → bitAt k.hedeleg code = true →
        saved k.vstrap t.vstrap .vs ∧ t.mtrap = k.mtrap ∧ t.strap = k.strap ∧ t.trapReturn.vstrap.ie = k.vstrap.ie)

/-- A custom-0 word outside the table and a write of wxworld raise the illegal-instruction exception, code 2, at the hart that executes
it, and so do the privileged Xwenxus instructions in U-mode and VU-mode (R74, R202). A write of wxvworld from M-mode sets it to
an existing world and advances the layout generation; in any other mode it is the exception (R399). -/
def Obligations.IllegalInstructionsAndWorldRegisters : Prop :=
  ∀ (s : State) (h : Nat) (k : Hart), s.hart? h = some k →
    let traps (i : Instr) (tval : Word64) : Prop := exec i s = .next (s.putHart h (k.trap 2 tval))
    (s.focus = .hart h → (∀ w, traps (.illegalInstructionException w) (w.setWidth 64)) ∧
      ((k.mode = .u ∨ k.mode = .vu) → ∀ rd rs1,
        traps (.wxLaunch rd rs1) ((encodeR 0 0 rs1 0 rd).setWidth 64) ∧ traps (.wxPurge rd rs1) ((encodeR 0 0 rs1 4 rd).setWidth 64) ∧
        traps (.wxSummary rd rs1) ((encodeR 0 0 rs1 6 rd).setWidth 64) ∧ traps (.wxFreeze rd rs1) ((encodeR 0 0 rs1 7 rd).setWidth 64) ∧
        traps (.wxResume rd rs1) ((encodeR 1 0 rs1 7 rd).setWidth 64))) ∧
    (k.waiting = false → k.blocked = false → s.clocked = true →
      (∀ v, traps (.wxworldWrite h v) 0) ∧
      (k.mode ≠ .m → ∀ v, traps (.wxvworldWrite h v) 0) ∧
      (k.mode = .m → ∀ v, bitAt (s.wcfg (bitsAt v 0 8)) 63 = true →
        exec (.wxvworldWrite h v) s = .next { s.putHart h { k with wxvworld := (bitsAt v 0 8).setWidth 64 } with laygen := s.laygen + 1 }))

/-- A hart's load or store of 1, 2, 4 or 8 bytes in HBM, aligned or not, goes on by 32-byte pieces, one a step, `got` the bytes that
earlier pieces have done (R262): where no line is held and none that it reads is poisoned, a piece of a load takes its bytes and leaves
memory alone, a piece of a store writes exactly its bytes, least significant first, and the last piece ends the access (R263). An atomic
is one step and gives the old value; in a declared held range it takes code 7 and a record 0x6.02 (R248, R269). An unmapped address is
access fault 5 or 7 and a line that another agent holds makes the hart wait (R269; the exception codes are RISC-V's, logs 5 and 60). The
host attach does the same by pieces of 8 bytes without a trace of a load (R436, R445). -/
def Obligations.HartAndHostAccesses : Prop :=
  ∀ (s : State), s.clocked = true →
    (∀ (h pa n : Nat) (k : Hart) (v : Word64), s.hart? h = some k → k.waiting = false → k.scan = none →
      (n = 1 ∨ n = 2 ∨ n = 4 ∨ n = 8) → (∀ b ∈ s.busWaits, b.hart ≠ some h) →
      let run (op : BusOp) (t : State) : Prop := exec (.hartMemoryAccess h pa op) s = .next t
      let fresh : Prop := k.blocked = false ∧ k.part = none
      let begun (op : BusOp) (store : Bool) (got : List Byte) : Prop :=
        fresh ∧ got = [] ∨ k.blocked = true ∧ k.mem = some (pa, op) ∧ k.part = some ⟨pa, n, store, got⟩ ∧ got.length < n
      let pieces (op : BusOp) (store : Bool) (all : List Byte) (u : State) (mdr : Word64) : Prop :=
        if all.length < n then run op (u.putHart h { k with part := some ⟨pa, n, store, all⟩, blocked := true, mem := some (pa, op) })
        else run op (u.putHart h { k.drop with mdr := mdr })
      let free : Prop := s.heldLines = [] ∧ s.kvHolds = [] ∧ s.busWaits = [] ∧ ∀ line, s.waitsAt line = []
      (pa / 2 ^ 40 ∉ [0, 0x800, 0x900] → fresh → run (.load n) (s.putHart h (k.trap 5 (BitVec.ofNat 64 pa))) ∧
        run (.store n v) (s.putHart h (k.trap 7 (BitVec.ofNat 64 pa)))) ∧
      (pa + n ≤ 2 ^ 40 → free →
        (∀ got, begun (.load n) false got →
          let a := pa + got.length
          let m := min (n - got.length) (32 - a % 32)
          let all := got ++ readBytes s.mem a m
          s.poison? a m = none → pieces (.load n) false all (s.peek a m) (ofBytes 64 all) ∧ (s.peek a m).mem = s.mem) ∧
        (∀ j, begun (.store n v) true ((toBytes v n).take j) → j ≤ n →
          let a := pa + j
          let m := min (n - j) (32 - a % 32)
          let bs := ((toBytes v n).drop j).take m
          pieces (.store n v) true ((toBytes v n).take (j + m)) (s.poke a bs) k.mdr ∧
          (Memory.wf s.mem = true → readBytes (s.poke a bs).mem a m = bs ∧
            ∀ q, (q < a ∨ a + m ≤ q) → cellRead (s.poke a bs).mem q = cellRead s.mem q))) ∧
      (pa % n = 0 → pa + n ≤ 2 ^ 40 → fresh → ∀ op : AmoOp,
        let old : Word64 := ofBytes 64 (readBytes s.mem pa n)
        (free → s.lineDeclared (pa / 128) = false → s.poison? pa n = none →
          run (.amo n op v) ((s.poke pa (toBytes (amoResult op n old v) n)).putHart h { k.drop with mdr := old })) ∧
        (s.lineDeclared (pa / 128) = true → run (.amo n op v) ((s.putHart h (k.trap 7 (BitVec.ofNat 64 pa))).deliver
          (bareFault s k.accessor.world (mkCause 6 2) h (BitVec.ofNat 64 pa))))) ∧
      ((∃ q ∈ s.heldLines, q.line = pa / 128) → pa + n ≤ 2 ^ 40 → s.kvHolds = [] → s.busWaits = [] → fresh →
        run (.load n) { s.putHart h { k with blocked := true, mem := some (pa, .load n) } with
          busWaits := [⟨s.freshId, some h, pa, 128 * (pa / 128), .load (min n (32 - pa % 32)), s.cycle⟩]
          freshId := s.freshId + 1 })) ∧
    (Config.hostAttached = true → s.heldLines = [] → s.kvHolds = [] → s.busWaits = [] → (∀ line, s.waitsAt line = []) →
      ∀ (pa d : Nat) (op : HostOp), d < hostSize op → pa + hostSize op ≤ 2 ^ 40 →
        let mine (p : Nat × HostOp × Nat) : Bool := p.1 == pa && p.2.1 == op
        (s.hostParts.find? mine = none ∧ d = 0 ∨ s.hostParts.find? mine = some (pa, op, d)) →
        let rest := s.hostParts.filter fun p => !mine p
        let after (t : State) : Prop := exec (.hostAccess pa op) s =
          .next { t with hostParts := if d + 8 < hostSize op then rest ++ [(pa, op, d + 8)] else rest }
        (∀ n, op = .load n → after (s.peek (pa + d) (min 8 (n - d)))) ∧
        ∀ bs, op = .store bs → after (s.poke (pa + d) ((bs.drop d).take 8)))

/-! ## Xwenxus instructions (R196, R203 to R206) -/

/-- WX.CENSUS, WX.PURGE, WX.SPANWAIT, WX.FREEZE and WX.RESUME test their conditions in the order written and answer or wait (R204): an unknown
handle NOTFOUND, another world's launch NOPRIV, reserved bits BADREC, a launch in the wrong state NOTRUN. A purge and a freeze
block the hart until they end; SPANWAIT keeps the hart at its instruction until the span has committed. An unused colour or context
is NOTFOUND before NOPRIV (the model's reading, log 33). -/
def Obligations.XwenxusConditions : Prop :=
  ∀ (s : State) (h : Nat) (k : Hart) (rd rs1 : BitVec 5), ExecutesAt s h k → k.mode ≠ .u → k.mode ≠ .vu →
    let v := k.reg rs1
    let hd : Word32 := bitsAt v 32 32
    let col := (bitsAt v 0 6).toNat
    let cx := (bitsAt v 16 3).toNat
    let low : BitVec 32 := bitsAt v 0 32
    let gives (i : Instr) (code above : Nat) : Prop := exec i s = .next (s.answered h k rd code above)
    let mayName (l : Launch) : Prop := k.Names l
    let five (code : Nat) : Prop := gives (.wxCensus rd rs1) code 0 ∧ gives (.wxPurge rd rs1) code 0 ∧ gives (.wxSpanwait rd rs1) code 0 ∧
      gives (.wxFreeze rd rs1) code 0 ∧ gives (.wxResume rd rs1) code 0
    (s.launch? hd = none → five 11) ∧
    ∀ l g, s.launch? hd = some l → l.members[0]? = some g →
      let used : Prop := colV (g.col col) = true ∧ (bitAt v 19 = true ∨ bitAt g.ctxmask cx = true)
      let clean : Prop := bitsAt v 20 12 = 0 ∧ bitsAt v 6 10 = 0
      (¬ used → gives (.wxCensus rd rs1) 11 0) ∧ (colV (g.col col) = false → gives (.wxPurge rd rs1) 11 0) ∧
      (used → ¬ mayName l → five 10) ∧
      (used → mayName l → ¬ clean → gives (.wxCensus rd rs1) 9 0 ∧ gives (.wxPurge rd rs1) 9 0) ∧
      (used → mayName l → clean →
        (l.state = .queued ∨ l.state = .placing ∨ l.state = .loading → gives (.wxCensus rd rs1) 4 0) ∧
        (l.state ≠ .queued → l.state ≠ .placing → l.state ≠ .loading →
          ∃ q st pu : Nat, gives (.wxCensus rd rs1) 0 (2 ^ 8 * q + 2 ^ 9 * st + 2 ^ 10 * pu + 2 ^ 32 * (l.census cx col (bitAt v 19)).toNat) ∧
            q ≤ 1 ∧ ((∃ g' ∈ l.members, col ∈ g'.stalled) → st = 1) ∧ ((∀ g' ∈ l.members, col ∉ g'.stalled) → st = 0) ∧
            ((∃ p ∈ l.purges, p.col = col) → pu = 1) ∧ ((∀ p ∈ l.purges, p.col ≠ col) → pu = 0)) ∧
        (bitAt v 19 = true → gives (.wxPurge rd rs1) 9 0) ∧
        (bitAt v 19 = false → l.state ≠ .running → gives (.wxPurge rd rs1) 4 0) ∧
        (bitAt v 19 = false → l.state = .running → (∀ p ∈ l.purges, p.col ≠ col) → exec (.wxPurge rd rs1) s =
          .next ((s.putLaunch { l with purges := l.purges ++ [⟨col, [.hart h rd]⟩] }).putHart h { k with blocked := true }))) ∧
      (mayName l → (low.toNat < l.committed → gives (.wxSpanwait rd rs1) 0 0) ∧
        (l.committed ≤ low.toNat → exec (.wxSpanwait rd rs1) s = .next s) ∧
        (low ≠ 0 → gives (.wxFreeze rd rs1) 9 0 ∧ gives (.wxResume rd rs1) 9 0) ∧
        (low = 0 → (l.state = .frozen → gives (.wxFreeze rd rs1) 0 0) ∧
          (l.state ≠ .running → l.state ≠ .frozen → gives (.wxFreeze rd rs1) 4 0) ∧
          (l.state = .running → exec (.wxFreeze rd rs1) s = .next ((s.putLaunch { l with
            freezeReq := true
            freezeWaiters := l.freezeWaiters ++ [(h, rd)] }).putHart h { k with blocked := true })) ∧
          (l.state = .running → gives (.wxResume rd rs1) 0 0) ∧
          (l.state = .frozen → l.hwDead = true → gives (.wxResume rd rs1) 4 0) ∧
          (l.state = .frozen → l.hwDead = false → exec (.wxResume rd rs1) s = .next ((s.resume l).answered h k rd 0 0))))

/-- WX.LAUNCH submits the record at rs1 (R196, R204): a record with reserved bits set is BADREC, an untrusted hart's PRIV or foreign world
NOPRIV, a queue that is not enabled for the world and priority REFUSED, an image that cannot be read or does not load REJECTED with
its fault record, and so is a launch of a sealed world whose seal generations are used up (R405); else the launch is queued under a fresh handle, which rd receives with status 0. -/
def Obligations.LaunchSubmission : Prop :=
  ∀ (s t : State) (h : Nat) (k : Hart) (rd rs1 : BitVec 5) (bs : List Byte), ExecutesAt s h k → k.mode ≠ .u → k.mode ≠ .vu →
    s.hartLoad h k (s.hartPa k .load) (k.reg rs1).toNat 64 64 = .ok (t, bs) →
    let r : BitVec 512 := ofBytes 512 bs
    let w : BitVec 8 := bitsAt r 136 8
    let lq := t.reg (8 * (bitsAt r 128 6).toNat)
    let open' : Prop := lqEn lq = true ∧ lqWorld lq = w ∧ (bitsAt r 134 2).toNat ≤ lqPrio lq
    let allowed : Prop := k.accessor.trust = true ∨ (bitAt r 149 = false ∧ w = k.accessor.world)
    let gives (u : State) (code above : Nat) : Prop := exec (.wxLaunch rd rs1) s = .next (u.hartDone h rd (BitVec.ofNat 64 (above + code)))
    (recordOk r = false → gives t 9 0) ∧ (recordOk r = true → ¬ allowed → gives t 10 0) ∧
    (recordOk r = true → allowed → ¬ open' → gives t 7 0) ∧
    (recordOk r = true → allowed → open' → bitsAt r 64 64 = 0 →
      (∀ cause va, loadLaunch t w (bitsAt r 0 64).toNat (bitAt r 149) none (recOverrides r) = .unread cause va →
        gives (t.deliver (bareFault t w cause 0 (BitVec.ofNat 64 va))) 8 0) ∧
      (∀ e, loadLaunch t w (bitsAt r 0 64).toNat (bitAt r 149) none (recOverrides r) = .bad e → gives (t.deliver (rejectRecord t w e)) 8 0) ∧
      (∀ ms held, loadLaunch t w (bitsAt r 0 64).toNat (bitAt r 149) none (recOverrides r) = .ok ms held →
        (t.sealedWorld w = true → t.genx w = true → gives t 8 0) ∧ ((t.sealedWorld w && t.genx w) = false →
        ∃ u n l, gives u 0 (2 ^ 32 * n.toNat) ∧ u.launch? n = some l ∧ l.state = .queued ∧ l.world = w ∧ l.members = ms ∧ l.held = held ∧
          l.queue = (bitsAt r 128 6).toNat ∧ l.prio = (bitsAt r 134 2).toNat ∧ l.priv = bitAt r 149)))

/-- WX.PUSHTOK tests its conditions in the order written (R204): an empty entry or one that is no entry port NOTFOUND, another world's
launch NOPRIV, an image or a port handle that is not clean BADREC, a closed port or a launch past its run CLOSED, a launch that is not
RUNNING NOTRUN, a purge of the colour 3, the quota 1, a full queue 2; a token that passes takes the port's colour and joins the queue, which
the census counts and the colour's admissions with it, and ends its pair's quiescence in every member (R177, R183, R203, R424). A close request closes the port. -/
def Obligations.TokenPush : Prop :=
  ∀ (s t : State) (h : Nat) (k : Hart) (rd rs1 rs2 : BitVec 5) (bs : List Byte) (l : Launch) (g : Region) (p : Port), ExecutesAt s h k →
    s.hartLoad h k (s.hartPa k .load) (k.reg rs1).toNat 64 64 = .ok (t, bs) →
    let v := k.reg rs2
    let i := (bitsAt v 0 5).toNat
    let tok := imageToken bs
    let col := portCol p.word
    let gives (u : State) (code : Nat) : Prop := exec (.wxPushtok rd rs1 rs2) s = .next (u.hartDone h rd (BitVec.ofNat 64 code))
    (t.launch? (bitsAt v 32 32) = none → gives t 11) ∧
    (t.launch? (bitsAt v 32 32) = some l → l.members[0]? = some g →
      (g.ports[i]? = none → gives t 11) ∧
      (g.ports[i]? = some p →
        let world := colWorld (g.col col)
        let mayName : Prop := k.Names l ∧
          (t.sealedWorld world = true → k.accessor.world = world)
        let fit : Prop := bitsAt v 5 27 = 0 ∧ pushOk g p.word tok bs = true
        let done : Prop := l.state = .retired ∨ l.state = .committed ∨ p.closed = true
        let close : Prop := tok.kind = 2 ∧ tok.sub = 7
        (portType p.word ≠ 3 → gives t 11) ∧
        (portType p.word = 3 → (¬ mayName → gives t 10) ∧ (mayName → (¬ fit → gives t 9) ∧ (fit → (done → gives t 5) ∧
          (¬ done → (l.state ≠ .running ∨ l.drainFrom.isSome = true → gives t 4) ∧ (l.state = .running → l.drainFrom = none →
            (close → gives (t.putLaunch (l.put 0 (g.putPort i { p with closed := true }))) 0) ∧
            (¬ close → ((∃ q ∈ l.purges, q.col = col) → gives t 3) ∧ ((∀ q ∈ l.purges, q.col ≠ col) →
              (l.underQuota col = false → gives t 1) ∧ (l.underQuota col = true →
                (16 ≤ p.queue.length → gives t 2) ∧ (p.queue.length < 16 → l.replay = false → l.capt = false → t.sealedWorld world = false →
                  let u := { tok with tag := setBits tok.tag 58 (BitVec.ofNat 6 col) }
                  let q := (g.putPort i { p with queue := p.queue ++ [u] }).count (.port i) u.tag (if u.kind = 1 then 0 else 1) false
                  let ms := l.members.set 0 { q with admits := setKey col (g.adm col + 1) g.admits }
                  gives (t.putLaunch { l with
                    members := ms.map fun m => { m with
                      quiet := m.quiet.filter (· != tagKey u.tag)
                      zeroLast := m.zeroLast.filter (· != tagKey u.tag) }
                    admitted := true }) 0)))))))))))

/-- WX.PULLTOK writes the image of the oldest token of an exit queue, payload, tag, header and zeros, and removes it; rd receives how many
remain (R178, R203, R205). An empty queue gives 6. WX.SUMMARY starts, waits until a sweep of each running launch that it covers has
ended, and writes the record of the hart's world at a 4 KiB boundary, its first 32 bytes last, with CHANGED set where the layout
generation is not the one at the start; rd receives the length; an untrusted hart whose world has no launch gets NOPRIV (R204, R388,
R389; the parts in which it does so are the model's, log 20). -/
def Obligations.TokenPullAndSummary : Prop :=
  ∀ (s : State) (h : Nat) (k : Hart) (rd rs1 rs2 : BitVec 5), ExecutesAt s h k →
    let v := k.reg rs2
    let i := (bitsAt v 0 5).toNat
    (∀ l g p, s.launch? (bitsAt v 32 32) = some l → l.members[0]? = some g → g.ports[i]? = some p → portType p.word = 4 →
      k.Names l → s.sealedWorld (colWorld (g.col (portCol p.word))) = false → bitsAt v 5 27 = 0 → l.state = .running →
      (p.queue = [] → exec (.wxPulltok rd rs1 rs2) s = .next (s.answered h k rd 6 0)) ∧
      (∀ tok rest u, p.queue = tok :: rest →
        s.hartStore h k (s.hartPa k .store) (k.reg rs1).toNat 64 (toBytes tok.pay 32 ++ toBytes tok.tag 8 ++ toBytes tok.hdr 4 ++ List.replicate 20 0) = .ok u →
        exec (.wxPulltok rd rs1 rs2) s = .next ((u.putLaunch (l.put 0 (g.putPort i { p with queue := rest }))).hartDone h rd
          (BitVec.ofNat 64 (2 ^ 8 * rest.length))))) ∧
    let a := k.accessor
    let covers (l : Launch) : Prop := a.trust = true ∨ l.world = a.world
    let at' := (k.reg rs1).toNat
    let goes (t : State) : Prop := exec (.wxSummary rd rs1) s = .next t
    let scanning (c : SumScan) : State := s.putHart h { k with scan := some c }
    (k.mode ≠ .u → k.mode ≠ .vu →
      (k.scan = none → a.trust = false → (∀ l ∈ s.launches, l.world ≠ a.world) → goes (s.answered h k rd 10 0)) ∧
      (k.scan = none → (a.trust = true ∨ ∃ l ∈ s.launches, l.world = a.world) →
        (at' % 4096 ≠ 0 → goes (s.putHart h (k.trap 6 (k.reg rs1)))) ∧
        (at' % 4096 = 0 → goes (scanning ⟨s.laygen, s.cycle, [], none, false⟩))) ∧
      ∀ c, k.scan = some c →
        (c.body = none → (∀ l ∈ s.launches, covers l → l.state = .running → ∃ b ∈ c.blocks, b.1 = l.handle) →
          goes (scanning { c with body := some (s.summary a c) })) ∧
        (c.body = none → (∃ l ∈ s.launches, covers l ∧ l.state = .running ∧ ∀ b ∈ c.blocks, b.1 ≠ l.handle) → goes s) ∧
        ∀ bs u, c.body = some bs →
          (c.tail = false → s.hartStore h k (s.hartPa k .store) (at' + 32) 1 (bs.drop 32) = .ok u → goes (u.setScan h { c with tail := true })) ∧
          (c.tail = true → s.hartStore h k (s.hartPa k .store) at' 1 (s.summaryHead c bs) = .ok u →
            goes (u.hartDone h rd (BitVec.ofNat 64 (2 ^ 32 * bs.length))))) ∧
    (∀ c, ∃ rest, s.summary a c = leBytes 4 0x57585355 ++ leBytes 2 1 ++ rest) ∧
    ∀ (c : SumScan) (bs : List Byte), 32 ≤ bs.length → bitAt (bs.getD 6 0) 0 = false →
      (s.summaryHead c bs).length = 32 ∧ (bitAt ((s.summaryHead c bs).getD 6 0) 0 = true ↔ s.laygen ≠ c.gen) ∧
        ∀ i < 32, i ≠ 6 → (s.summaryHead c bs).getD i 0 = bs.getD i 0

/-! ## The steps of the fabric (R22 to R24, R61, R155, R177, R178) -/

/-- The oldest token of a source enters its element: an operand that needs no partner completes its set, an operand whose partner waits
matches it by its full tag, one without waits (R22); a codebook token loads its latch (R289); a SPANEND's operand closes the open span
(R198, R271). A completed set takes its place in the ready queue (R23). The head of an output queue goes to the site or exit port that its header names, a request to its memory
port (R24, R61). An entry port's token enters the fabric (R177), an exit port takes a token of its colour, and one of another colour
whose EXIT is 31 goes to the fault page with 0x4.07 (R178). -/
def Obligations.TokensMoveAlongTheirPath : Prop :=
  ∀ (s : State) (r : Rid) (l : Launch) (g : Region), Runs s r l g →
    (∀ x y e, g.elem? x y = some e →
      (∀ k rest, g.links = k :: rest → k.port = none → k.x = x → k.y = y → e.blockedTo ≤ s.cycle → g.sheets = [] →
        (∀ q ∈ l.causes, q.cause ≠ mkCause 3 2) →
        let t := k.tok
        let ctx := tagCtx t.tag
        let g0 : Region := { g with
          links := rest
          deltas := g.deltas ++ [⟨.site x y, tagKey t.tag, 0, true, false⟩] }
        let alone : ReadySet := ReadySet.mk ctx t.slot (some t) none none [] s.cycle none none none
        let enters (e' : Elem) : Prop := exec (.tokenArrival ⟨r, x, y⟩ k.src) s = .next (s.putRegion r (g0.putElem e'))
        (t.kind = 1 → t.sub = 2 → t.sl = none → enters { e with lat := { e.lat with cbk := t.pay } }) ∧
        (∀ w o, t.kind ≠ 1 → e.slotWord? ctx t.slot = some w → opOf (bitsAt w 119 9) (decodeFields w).xmod = some o →
          o ∉ [.alloc, .ired, .fred, .kvpack, .call] →
          let ar := (decodeFields w).ar
          ((ar = .trigger ∨ ar = .monadic) → t.side = 0 → o = .spanend → t.kind = 0 → t.pred = true →
            exec (.tokenArrival ⟨r, x, y⟩ k.src) s = .next (s.putLaunch { l with
              members := l.members.set r.m (g0.putElem (e.complete s.cycle alone))
              openSpan := l.openSpan + 1
              closedSpans := l.openSpan + 1
              spanDue := l.spanDue ++ [⟨r.m, x, y, t.slot, t.tag, l.openSpan⟩] })) ∧
          (o ≠ .spanend →
          ((ar = .trigger ∨ ar = .monadic) → t.side = 0 → enters (e.complete s.cycle alone)) ∧
          (ar = .dyadic → t.side = 0 → (e.store = [] → ∀ b, placeFor g0 e t.tag = some b →
              enters { e with store := [⟨t.slot, 0, t, b, .operand⟩] }) ∧
            (∀ u rest', e.store = ⟨t.slot, 1, u, false, .operand⟩ :: rest' → u.tag = t.tag →
              enters (({ e with store := rest' } : Elem).complete s.cycle
                (ReadySet.mk ctx t.slot (some t) (some u) none [] s.cycle none none none))))))) ∧
      (∀ set rest, e.pend = set :: rest → e.ready.length < 8 → set.done ≤ s.cycle →
        exec (.readyQueueEntry ⟨r, x, y⟩) s = .next (s.putRegion r (g.putElem { e with pend := rest, ready := insertSet set e.kept e.ready }))) ∧
      (∀ t rest, e.out = .tok t :: rest →
        let sent (k : Link) : Prop := exec (.outputTokenSend ⟨r, x, y⟩) s = .next (s.putRegion r { g.putElem { e with out := rest } with
          links := g.links ++ [k] })
        (t.side ≠ 3 → sent ⟨.site x y, ((x : Int) + t.dx).toNat, ((y : Int) + t.dy).toNat, none, t⟩) ∧
        (∀ p, t.side = 3 → t.slot ≠ 31 → g.ports[t.slot]? = some p → portType p.word = 4 → sent ⟨.site x y, 0, 0, some t.slot, t⟩)) ∧
      (∀ q rest, e.out = .global q :: rest → exec (.outputTokenSend ⟨r, x, y⟩) s = .next
        ({ s with freshId := s.freshId + 1 }.putRegion r { g.putElem { e with out := rest } with
          accs := g.accs ++ [Access.mk s.freshId q (g.portTile (bitsAt q.f.imm 4 4).toNat) .net 0 0 0 [] [] 0 false] }))) ∧
    (∀ i p t rest, g.ports[i]? = some p → i < 31 → portType p.word = 3 → p.queue = t :: rest → t.side ≠ 3 →
      (∀ j q, j ≠ i → g.ports[j]? = some q → q.queue = []) →
      let ax := portAx p.word
      let ay := portAy p.word
      ∃ turns, exec (.entryPortInject r ax ay) s = .next (s.putRegion r { g.putPort i { p with queue := rest } with
        turns := turns
        links := g.links ++ [⟨.port i, ((ax : Int) + t.dx).toNat, ((ay : Int) + t.dy).toNat, none, t⟩] })) ∧
    (∀ i p k rest, g.links = k :: rest → k.port = some i → g.ports[i]? = some p →
      let d : Int := if k.tok.kind = 1 then 0 else -1
      let g1 : Region := { g with links := rest }
      (portCol p.word = tagCol k.tok.tag → p.queue.length < 16 → exec (.exitPortAccept r k.src i) s = .next (s.putRegion r
        ((g1.putPort i { p with queue := p.queue ++ [openTok s l.sl (g.tagWorld k.tok.tag) k.tok] }).count (.port i) k.tok.tag d false))) ∧
      (portCol p.word ≠ tagCol k.tok.tag → colExit (g.col (tagCol k.tok.tag)) = 31 → i ≠ 31 → exec (.exitPortAccept r k.src i) s = .next
        ((s.putRegion r (g1.count (.port i) k.tok.tag d false)).deliver
          (siteFault s l g (g.tagWorld k.tok.tag) (mkCause 4 7) 0 (portAx p.word) (portAy p.word) 31 0 k.tok.tag 0))))

/-! ## The region controller (R172 to R174, R180 to R188) -/

/-- A sweep of 2(W + H) + 32 cycles ends: the census gains the sum of the participants' deltas, the admissions are in it, a pair is
quiescent that was, or whose census was zero at both sweeps with no ACT between, and the stall counter of a live colour that fired
nothing grows by the sweep's length (R181 to R183, R186). A colour past its horizon is stalled, recorded with 0x4.03 and purged
under AUTOP (R186). A drained context becomes free and its slots empty (R172), the entry ports of an auto-closing launch close when
all is quiescent (R174), and a closed, quiescent launch retires with its exit tokens in its result store (R174, R205). -/
def Obligations.SweepsStallsAndRetirement : Prop :=
  ∀ (s : State) (r : Rid) (l : Launch) (g : Region), Runs s r l g →
    let quietAll : Prop := ∀ g' ∈ l.members, ∀ k < 512, k ∈ g'.quiet
    (g.due = [] → g.sweepStart + (2 * (g.w + g.h) + 32) ≤ s.cycle → ∃ t g', exec (.sweepEnd r []) s = .next t ∧ t.region? r = some g' ∧
      g'.deltas = [] ∧ g'.admits = [] ∧ g'.sweeps = g.sweeps + 1 ∧ g'.elems = g.elems ∧ g'.links = g.links ∧ t.mem = s.mem ∧
      (∀ k, lookupD 0 k g'.census = lookupD 0 k g.census + BitVec.ofInt 32 (deltaSum g.deltas k)) ∧
      (∀ k < 512, k ∈ g'.quiet ↔ lookupD 0 k g'.census = 0 ∧
        (k ∈ g.quiet ∨ k ∈ g.zeroLast ∧ ∀ d ∈ g.deltas, d.key % 64 = k % 64 → d.act = false)) ∧
      ∀ c < 64, lookupD 0 c g'.stall = if (∃ d ∈ g.deltas, d.key % 64 = c ∧ d.fire = true) ∨ g'.censSum c = 0 then 0
        else lookupD 0 c g.stall + (2 * (g.w + g.h) + 32)) ∧
    (∀ col : BitVec 6, col.toNat ∈ g.due → (∀ p ∈ l.purges, p.col ≠ col.toNat) →
      let c := col.toNat
      let l1 := l.put r.m { g with due := g.due.filter (· != c), stalled := g.stalled ++ [c] }
      exec (.stalledColour r col) s = .next
        ((s.putLaunch (if colAutop (g.col c) then { l1 with purges := l.purges ++ [⟨c, []⟩] } else l1)).deliver
          { regionFault s l g (colWorld (g.col c)) (mkCause 4 3) 1 0 0 with col := c })) ∧
    (∀ ctx : BitVec 3, g.ctx.getD ctx.toNat .free = .draining → (∀ g' ∈ l.members, ∀ k < 64, (64 * ctx.toNat + k) ∈ g'.quiet) →
      exec (.contextRetire r ctx) s = .next (s.putRegion r { g with
        ctx := g.ctx.set ctx.toNat .free
        ctxCfg := g.ctxCfg.set ctx.toNat 0
        elems := g.elems.map fun e => { e with slots := e.slots.filter fun q => q.1 / 32 != ctx.toNat } })) ∧
    (quietAll → l.autoc = true → l.admitted = true →
      exec (.autoClose r.h) s = .next (s.putLaunch { l with members := l.members.map fun g' => g'.setClosed true })) ∧
    (quietAll → l.purges = [] → (∀ g' ∈ l.members, ∀ p ∈ g'.ports, portType p.word = 3 → p.closed = true) →
      exec (.regionRetire r.h) s = .next (s.retire l l.exitTokens) ∧ ∃ l', (s.retire l l.exitTokens).launch? r.h = some l' ∧
        l'.state = .retired ∧ l'.closedSpans = l.openSpan + 1 ∧ l'.results = l.exitTokens ∧
        (∀ g' ∈ l'.members, ∀ p ∈ g'.ports, p.queue = [] ∧ p.closed = true) ∧ (s.retire l l.exitTokens).laygen = s.laygen + 1)

/-- At its end a purge of a colour has discarded every token of it in every member, wherever it waited, its requests that had not left
their memory port, and what its instructions had allocated; the replies of the others are dropped; the colour's census and admissions
are zero and no pair of it is quiescent (R187). Bank operations that waited behind a discarded one act (R297). The record 0x4.05 with the
number n of the discarded tokens goes to the fault page where EXIT is 31 and else toward the EXIT port (R188); then every hart and every
PURGE of another colour that waits receives n (R198, R204). -/
def Obligations.PurgesEmptyTheirColour : Prop :=
  ∀ (s : State) (h : Word32) (l : Launch) (g : Region) (col : BitVec 6) (p : Purge), Runs s ⟨h, 0⟩ l g →
    let c := col.toNat
    l.purges.find? (fun q => q.col == c) = some p →
    let n := l.members.foldl (fun a g => a + g.doomed c) (countIf (fun k => k.h == h && k.tok.of c) s.stnToks)
    (∃ (u : State) (l' : Launch),
      (let v := l.rids.foldl State.settleSheets u
       exec (.purgeComplete h col) s = .next (p.waiters.foldl (fun t w => t.answerPurge h c n w) (v.purgeRecord h c n))) ∧
      u.launch? h = some l' ∧ u.mem = s.mem ∧ (∀ q ∈ l'.purges, q.col ≠ c) ∧
      ∀ g' ∈ l'.members, (∀ k ∈ g'.links, tagCol k.tok.tag ≠ c) ∧ (∀ q ∈ g'.ports, ∀ k ∈ q.queue, tagCol k.tag ≠ c) ∧
        (∀ e ∈ g'.elems, (∀ n ∈ e.store, tagCol n.tok.tag ≠ c) ∧ (∀ t, .tok t ∈ e.out → tagCol t.tag ≠ c)) ∧
        (∀ a ∈ g'.accs, tagCol a.req.tag = c → a.mute = true ∧ a.left = true) ∧ (∀ k ∈ g'.quiet, k % 64 ≠ c) ∧
        (∀ k, k % 64 = c → lookupD 0 k g'.census = 0) ∧ lookupD 0 c g'.admits = 0) ∧
    (∀ (u : State) (l2 : Launch) (g2 : Region), u.launch? h = some l2 → l2.members[0]? = some g2 →
      (colExit (g2.col c) = 31 → u.purgeRecord h c n =
        u.deliver (regionFault u l2 g2 (colWorld (g2.col c)) (mkCause 4 5) 0 (mkTag c 0 0) (BitVec.ofNat 64 n))) ∧
      (colExit (g2.col c) ≠ 31 → u.purgeRecord h c n = raiseToExit u ⟨h, 0⟩ .ctrl (prodId 0 0 0 5) 0x7F 0x3F 31 0 2 (mkCause 4 5)
        (BitVec.ofNat 64 n) (mkTag c 0 0))) ∧
    (∀ (u : State) (q : Reply), tagCol q.tag ≠ c →
      u.answerPurge h c n (.reply q) = answerAll u ⟨h, q.m⟩ (ctrlSender q.m) q (BitVec.ofNat 256 (2 ^ 32 * n))) ∧
    ∀ (u : State) (i : Nat) (k : Hart) (rd : BitVec 5), u.hart? i = some k → k.blocked = true →
      u.answerPurge h c n (.hart i rd) = u.answered i k rd 0 (2 ^ 32 * n)

/-- The queue's head that fits is placed: it enters LOADING with its members in place and the layout generation advances; one that does
not fit fails once more and stays queued (R168 to R170). A launch whose patterns are
in place RUNS (R160, R193). A CTXNEXT that waits for a context finds it free, loads it and is answered with the context (R173, R200).
A closed span whose stores are performed commits: its held ranges and lines are released, and a retired launch whose spans have
all committed is COMMITTED (R193, R271). -/
def Obligations.PlacementLoadingAndSpans : Prop :=
  ∀ (s : State) (l : Launch), s.pkg = .running →
    (s.launches = [l] → 0 < s.placeDue → l.state = .queued → l.queue < 64 → s.reserved = [] → s.sealedWorld l.world = false → l.scanned = false →
      (∀ ms, fitLaunch [l] [l] l = some ms → ∃ t l', exec .placementDecision s = .next t ∧ t.launches = [l'] ∧ l'.state = .loading ∧ l'.fails = 0 ∧
        l'.members = ms.map (fun g => { g with yielded := false }) ∧ l'.handle = l.handle ∧ t.laygen = s.laygen + 1 ∧ t.placeDue = s.placeDue - 1 ∧
        t.mem = s.mem) ∧
      (fitLaunch [l] [l] l = none → l.fails < 15 → ∃ t l', exec .placementDecision s = .next t ∧ t.launches = [l'] ∧ l'.state = .queued ∧ l'.fails = l.fails + 1 ∧
        l'.members = l.members.map (fun g => { g with yielded := false }) ∧ t.reserved = [] ∧ t.placeDue = s.placeDue - 1 ∧ t.laygen = s.laygen)) ∧
    (∀ h, s.launch? h = some l → l.state = .loading → l.scanned = false → exec (.loadComplete h) s = .next (s.putLaunch { l with
      state := .running
      members := l.members.map fun g => { g with sweepStart := s.cycle } })) ∧
    (∀ r g q rest, Runs s r l g → g.ctxReqs = q :: rest → q.ctx < 8 → g.ctx.getD q.ctx .free = .free → s.sealedWorld l.world = false →
      exec (.ctxnextLoadComplete r (BitVec.ofNat 3 q.ctx)) s = .next (answerAll
        (s.putLaunch (l.put r.m { g.withCtx q.ctx q.addr q.elems with ctxReqs := rest })).bumpLayout r (ctrlSender r.m) q.reply
        (BitVec.ofNat 256 (256 * q.ctx)))) ∧
    (∀ h, s.launch? h = some l → l.committed < l.closedSpans → (∀ g ∈ l.members, g.accs = [] ∧ g.mports = [] ∧ g.tiles = []) → s.routes = [] →
      l.spanReplies = [] → s.sysWaits = [] → ∃ t, exec (.spanCommit h) s = .next t ∧
        t.heldLines = s.heldLines.filter (fun k => !(k.r.h == h && k.span == l.committed)) ∧ t.mem = s.mem ∧
        t.launch? h = some { l with
          committed := l.committed + 1
          held := l.held.map fun q => if q.active = some l.committed then { q with active := none } else q
          state := if l.state = .retired ∧ l.committed + 1 = l.closedSpans then .committed else l.state })

/-! ## Global accesses (R221, R224 to R228, R235, R239 to R246, R248, R263, R269) -/

/-- A memory port takes the oldest request of an element while fewer than 64 wait at its tile, opens it, and fixes its span and what it must
follow; its arrival sets ACT (R180, R220, R241, R243, R271, R403). An access in chain 15 starts at once: a misaligned offset gives 0x5.08, one outside the colour's window 0x5.03, and else
its virtual address is WBASE plus the offset (R221, R239). In another chain, a number of its wave already done, or a second opener, gives 0x5.09
(R242). MFENCE sends its operand on once none of the accesses it waits for is left, and discards the read windows of its context and colour
(R245, R257). OWNPASS names the new owner of its registry entry once the old one's write windows are empty, and is answered (R253). -/
def Obligations.AccessesReachTheirPortAndFencesComplete : Prop :=
  (∀ (s : State) (r : Rid) (l : Launch) (g : Region) (a : Access), Runs s r l g → g.acc? a.id = some a →
      (∀ rest, g.accs = a :: rest → (∀ b ∈ rest, b.id ≠ a.id) → a.stage = .net → s.hasRoom g.die a.tile = true →
        exec (.memoryRequestAccept r a.id) s = .next (s.putRegion r { g with
          accs := rest ++ [{ a with
            req := openReq s l.sl (g.tagWorld a.req.tag) a.req
            stage := .waiting
            at' := s.cycle
            span := l.openSpan
            before := if bitAt a.req.f.mod 1 then g.pendingIds (tagKey a.req.tag) else [] }]
          deltas := g.deltas ++ [⟨.port (bitsAt a.req.f.imm 4 4).toNat, tagKey a.req.tag, 0, true, false⟩] })) ∧
      (a.stage = .waiting → a.before = [] → a.req.bubble = false →
        let runs (t : State) : Prop := exec (.chainPerform r a.id) s = .next t
        let chain := (bitsAt a.req.f.imm 0 4).toNat
        let oseq := (bitsAt a.req.f.imm 16 8).toNat
        let pseq := (bitsAt a.req.f.imm 24 8).toNat
        let off := a.req.offset
        let e := g.col (tagCol a.req.tag)
        (chain = 15 → (a.req.op = .ld ∨ a.req.op = .st ∨ a.req.op = .ldv ∨ a.req.op = .cmst ∨ isAtomic a.req.op = true) →
          (off % a.req.len ≠ 0 → runs (s.perform r a (.record (mkCause 5 8)))) ∧
          (off % a.req.len = 0 → colWsize e ≠ 0 → colWsize e < off + a.req.len → runs (s.perform r a (.record (mkCause 5 3)))) ∧
          (off % a.req.len = 0 → colWsize e ≠ 0 → off + a.req.len ≤ colWsize e → ∃ t, runs t ∧
            t.region? r = some (g.putAcc { a with
              stage := .translate
              va := (colWbase e + off) % 2 ^ 64
              pas := []
              tnum := 0 }) ∧ t.mem = s.mem)) ∧
        (∀ c, chain < 15 → c = (g.mport a.tile).chain chain (tagKey a.req.tag) → c.wave = some a.req.tag → (oseq ∈ c.done ∨ pseq = oseq) →
          (a.req.op = .ld ∨ a.req.op = .st) → runs ((s.putRegion r (g.dropAcc a.id)).answerAcc r a (.record (mkCause 5 9)))))) ∧
  (∀ (s : State) (r : Rid) (l : Launch) (g : Region) (a : Access) (rest : List Access), Runs s r l g → g.accs = a :: rest → a.stage = .settled →
      (∀ b ∈ rest, b.id ≠ a.id) →
      let p : Site := ⟨r, a.req.x, a.req.y⟩
      let q := a.req
      let z : Sender := ⟨.site q.x q.y, prodId r.m q.x q.y 0, q.x, q.y, q.slot⟩
      let back : Reply := ⟨r.m, q.x, q.y, q.slot, q.f, q.tag, q.last⟩
      (q.op = .mfence → (∀ i ∈ a.before, (∀ b ∈ g.accs, b.id ≠ i) ∧ (∀ m ∈ g.mports, ∀ w ∈ m.windows, ∀ u ∈ w.units, u.id ≠ i) ∧ ∀ x ∈ g.xfers, x.acc.id ≠ i) →
        exec (.mfenceComplete p) s = .next (answerAll (s.putRegion r (({ g with accs := rest } : Region).acquire (tagKey q.tag))) r z back q.a)) ∧
      (q.op = .ownpass → ∀ old e k, s.regEntry g.die a.tile (bitsAt q.f.imm 0 4).toNat = some (old, e) → s.region? old = some k →
        (∀ m ∈ k.mports, ∀ w ∈ m.windows, w.write = true → w.x = e.x → w.y = e.y → w.gen = e.gen → w.units = []) →
        let n := neighbour q.x q.y (bitsAt q.f.xmod 0 2).toNat
        let mine : RegEntry := { e with
          x := n.1
          y := n.2
          gen := (bitsAt q.f.xmod 2 2).toNat }
        ∃ t u : State, exec (.ownpassComplete p) s = .next t ∧ t = answerAll u r z back 0 ∧ u.mem = s.mem ∧ ∃ g', u.region? r = some g' ∧
          g'.accs = rest ∧ g'.elems = g.elems ∧
          (old = r → (g'.mport a.tile).registry = mine :: (g.mport a.tile).registry.filter (· != e)) ∧
          (old ≠ r → (g'.mport a.tile).registry = mine :: (g.mport a.tile).registry ∧ ∃ k', u.region? old = some k' ∧
            (k'.mport a.tile).registry = (k.mport a.tile).registry.filter (· != e))))

/-- The translation of an access: an entry of the world at its tile that holds the page gives the address and its permissions, an access
without the permission freezes its region with 0x5.02, and one without a table with 0x5.01; the access waits at its port until the
region resumes, and a poisoned table entry gives an error record (R224 to R228, R235, R371). A walk that reads a held line waits (R269). An access that has waited 2^16 cycles at a held line
ends with 0x6.03 (R269). -/
def Obligations.AccessesAreTranslated : Prop :=
  ∀ (s : State) (r : Rid) (l : Launch) (g : Region) (a : Access), Runs s r l g → g.acc? a.id = some a →
    let w := g.tagWorld a.req.tag
    let x := s.translate g.die w 0 a.va a.req.needs.1 a.req.needs.2
    let runs (t : State) : Prop := exec (.pageTableWalk r a.id) s = .next t
    (a.stage = .translate → (a.req.op = .ld ∨ a.req.op = .st ∨ a.req.op = .ldv ∨ isAtomic a.req.op = true) →
      (s.walkBehind x.reads = true → runs s) ∧
      (s.walkBehind x.reads = false → s.walkHeld x.reads = true → runs (s.putRegion r (g.putAcc { a with stage := .walk s.cycle }))) ∧
      (s.walkBehind x.reads = false → s.walkHeld x.reads = false →
        (∀ c, x.out = .error c → runs (if c = mkCause 5 5 ∨ c = mkCause 12 4 ∨ c = mkCause 12 5 then x.s.perform r a (.record c) else x.s.holdAcc r a c)) ∧
        ∀ pa, x.out = .ok pa → ∃ t, runs t ∧ t.mem = s.mem ∧ t.region? r = some (g.putAcc { a with stage := .slice, pas := [pa] })) ∧
      (∀ n, s.xlat.find? (fun n => n.hit g.die (xlatTile a.va) w 0 a.va) = some n → x.reads = [] ∧
        x.out = if (a.req.needs.1 = true → n.r = true) ∧ (a.req.needs.2 = true → n.w = true) then .ok (n.pa + a.va % 65536) else .error (mkCause 5 2)) ∧
      (s.xlat = [] → bitAt (s.reg (0x800 + 8 * w.toNat)) 0 = false → x.out = .error (mkCause 5 1) ∧ x.reads = [] ∧ x.s = s)) ∧
    (∀ c, ∃ t l', s.holdAcc r a c = t ∧ t.launch? r.h = some l' ∧ l'.state = .running ∧ (∃ k ∈ l'.causes, k.cause = c ∧ k.tag = a.req.tag) ∧
      l'.members[r.m]? = some (g.putAcc { a with stage := .frozen })) ∧
    (∀ since, a.stage = .held since → s.launches = [l] → l.members = [g] → s.busWaits = [] → since + 65536 ≤ s.cycle →
      exec (.heldAccessTimeout a.id) s = .next (s.perform r a (.record (mkCause 6 3))))

/-- An access is performed at its home slice (R263): a load gives the bytes at its address, a store writes exactly its bytes, an atomic
stores what its operation makes of the old value and gives the old value, or the bit it tested (R244, R248); a poisoned line gives
its error as a record, 0xC.04 or 0xC.05, with no byte stored (R371). Every other byte of memory stays as it was. A conditional store
whose stamps all match writes and gives 1, and else gives 0 and writes nothing (R246). -/
def Obligations.AccessesAtTheirHomeSlice : Prop :=
  ∀ (s : State) (r : Rid) (l : Launch) (g : Region) (a : Access) (pa : Nat), Runs s r l g → g.acc? a.id = some a → Unheld s →
    Memory.wf s.mem = true → a.pas = [pa] → pa + a.req.len ≤ 2 ^ 40 →
    let n := a.req.len
    let w := etWidth a.req.f.et
    let old := readNat s.mem pa n
    let v := laneU w a.req.a 0
    let int (k : Nat) : Int := if etSigned a.req.f.et then toSigned w k else k
    let served (i : Instr) (x : Ans) (stored : Option (List Byte)) : Prop := ∃ t u : State, exec i s = .next t ∧ t = u.perform r a x ∧ t.mem = u.mem ∧
      u.launches = s.launches ∧ SameRegs s u ∧ u.harts = s.harts ∧
      (∀ b, (b < pa ∨ pa + n ≤ b) → cellRead t.mem b = cellRead s.mem b) ∧ readBytes t.mem pa n = stored.getD (readBytes s.mem pa n)
    let home := served (.homeSliceAccess r a.id)
    (a.stage = .slice →
      (∀ c, s.poison? pa n = some c → (a.req.op = .ld ∨ isAtomic a.req.op = true) → home (.record c) none) ∧
      (s.poison? pa n = none →
        (a.req.op = .ld → home (.all (ofBytes 256 (readBytes s.mem pa n))) none) ∧
        (a.req.op = .ldv → home (.each [(a.req.f.dst0, ofBytes 256 (readBytes s.mem pa n)),
          (a.req.f.dst1, BitVec.ofNat 256 ((s.peek pa n).stampOf pa).toNat)]) none) ∧
        (∀ new : Nat, (a.req.op = .atadd ∧ etIsFloat a.req.f.et = false ∧ new = fitInt a.req.f.et a.req.f.sat (int old + int v) ∨
            a.req.op = .atmin ∧ new = (if int v < int old then v else old) ∨ a.req.op = .atmax ∧ new = (if int old < int v then v else old) ∨
            a.req.op = .atand ∧ new = old &&& v ∨ a.req.op = .ator ∧ new = old ||| v ∨ a.req.op = .atxor ∧ new = old ^^^ v ∨
            a.req.op = .atswp ∧ new = v ∨ a.req.op = .atcas ∧ new = if old = v then laneU w a.req.b 0 else old) →
          home (.all (BitVec.ofNat 256 old)) (some (toBytes (BitVec.ofNat (8 * n) new) n))) ∧
        (a.req.op = .attsb → home (.all (BitVec.ofNat 256 ((old / 2 ^ (v % 32)) % 2))) (some (toBytes (BitVec.ofNat (8 * n) (old ||| 2 ^ (v % 32))) n)))) ∧
      (a.req.op = .st → home (.all 0) (some (toBytes a.req.a n)))) ∧
    (a.stage = .settled → a.req.op = .cmst → g.accs = [a] → a.req.chain = 15 → a.req.last = true →
      served (.cmstGroupSettle r a.id) (.all (if s.stampOf pa = bitsAt a.req.b 0 64 then 1 else 0))
        (if s.stampOf pa = bitsAt a.req.b 0 64 then some (toBytes a.req.a n) else none))

/-! ## Generators, stream windows and banks (R209, R211, R216, R219, R249, R250, R252) -/

/-- A running nest makes its accesses in order. Access i is at the base plus each counter's start and count times its stride, innermost counter
first, modulo 2^64 (R216). A local read sends the 32 bytes of its tile, whose
banks serve it while they are free (R209), with field k of the tag set to i and LAST on the last; a
stream read takes the oldest bytes of its window; a store puts the oldest FIFO entry in its window. At its end the done token goes
to DST1 and the control count rises (R252). -/
def Obligations.NestsMakeTheirAccesses : Prop :=
  (∀ (d : Payload) (base i : Nat),
    let n (c : Nat) : Nat := cntCount d c
    let term (c j : Nat) : Int := ((cntStart d c + j % n c : Nat) : Int) * (bitsAt d (64 * c + 32) 32).toInt
    nestAddr d base i = (((base : Int) + (term 0 i + term 1 (i / n 0) + term 2 (i / n 0 / n 1) + term 3 (i / n 0 / n 1 / n 2))) % 2 ^ 64).toNat) ∧
  ∀ (s : State) (r : Rid) (l : Launch) (g : Region) (x y n : Nat) (t : Tile) (v : Nest) (b : Request), Runs s r l g → g.tile? x y = some t →
    l.drainFrom = none → (t.gen n).nest = some v → (t.gen n).bind = some b →
    let k := t.gen n
    let q := v.req
    let a := nestAddr k.desc k.base.toNat v.next
    let w := t.part b.part
    let len := nestLen k.desc
    let on (u : Tile) : Tile := u.putGen n { k with nest := some { v with next := v.next + 1 } }
    let at' := t.genReach b a
    let free : Prop := (s.tileView l g).banksFree t (2 + n) s.cycle at' 32 = true
    let used := t.servedAll (2 + n) s.cycle at' 32
    let sends (g1 : Region) (p : Payload) : Prop := exec (.generatorAccess ⟨r, x, y⟩ n) s = .next
      (sendFrom (s.putRegion r g1) r (.site x y) (prodId r.m x y (7 + n)) q.x q.y
        ⟨q.f.dst0, setField g.tagw q.nestField (v.next % 2 ^ fieldW g.tagw q.nestField) q.tag, true, 0, v.next + 1 == len, 0, p⟩)
    (v.next < len → v.fail = none → q.lane = false → q.f.dst0.v = true → g.multiw = false →
      (b.kind = 0 → free → a % 32 = 0 → a + 32 ≤ modeSize w → (modeOf w ≠ 3 → at' = modeBase w + a) ∧
        sends (g.putTile (on used)) (ofBytes 256 (readBytes t.bytes at' 32))) ∧
      (∀ win u rest, b.kind = 1 → g.genWindow t n b = some win → win.units = u :: rest → u.cause = none →
        sends ((g.putTile (on t)).putWindow (g.portTile b.port) { win with tail := win.tail + 32, units := rest }) u.pay) ∧
      (∀ win p rest va, b.kind = 2 → free → g.genWindow t n b = some win → win.head < win.tail + 65536 → t.fifo b.part = p :: rest → a % 32 = 0 →
        g.vaOf (tagCol q.tag) a 32 = .ok va → s.foreign r g.die (g.portTile b.port) (g.tagWorld q.tag) va t.x t.y n = false →
        exec (.generatorAccess ⟨r, x, y⟩ n) s = .next ({ s with freshId := s.freshId + 1 }.putRegion r
          ((g.putTile (on (used.popFifo b.part))).putWindow (g.portTile b.port) { win with
            head := win.head + 32
            units := win.units ++ [WUnit.mk s.freshId v.next va p none l.openSpan] })))) ∧
    (v.next = len → v.fail = none → b.kind = 0 → (∀ u ∈ g.tiles, ∀ j ∈ u.gens, j.queue = []) → n < t.gens.length →
      (g.tiles.map fun u => (u.x, u.y)).Nodup →
      exec (.aggoNestEnd ⟨r, x, y⟩ n) s = .next (answerAll
        (s.putRegion r (g.putTile (t.putGen n { k with nest := none, control := k.control + 1 }))) r
        ⟨.site x y, prodId r.m x y (7 + n), q.x, q.y, q.slot⟩
        { q.reply r.m with f := { q.f with dst0 := { q.f.dst0 with v := false } } } 0))

/-- In every state a fill and a write-back of a window answer a next state. A read window takes the next 32 bytes of its stream, in order, from
their home slice; a write window performs its oldest bytes there and drops them (R219). The memory-port tile keeps the stream's
translation (R217, R224). What is not in the colour's window, misaligned or not translated becomes the cause of those bytes (R221). -/
def Obligations.WindowsFillAndWriteBack : Prop :=
  (∀ (s : State) (r : Rid) (tile num : Nat), (∃ t, exec (.windowFill r tile num) s = .next t) ∧ ∃ t, exec (.windowWriteback r tile num) s = .next t) ∧
  ∀ (s : State) (r : Rid) (l : Launch) (g : Region) (tile num : Nat) (w : Window) (b q : Request) (k : Gen), Runs s r l g → Unheld s →
    Memory.wf s.mem = true → (g.mport tile).window? num = some w → g.windowNest w = some (b, q, k) → w.wait = none →
    let a := nestAddr k.desc k.base.toNat (w.head / 32)
    let world := g.tagWorld q.tag
    (w.write = false → l.drainFrom = none → w.head / 32 < nestLen k.desc → w.head < w.tail + 65536 →
      let filled (u : WUnit) (ps : List XEntry) : Region := g.putWindow tile { w with
        head := w.head + 32
        units := w.units ++ [u]
        pages := ps }
      (a % 32 ≠ 0 → ∃ t, exec (.windowFill r tile num) s = .next t ∧
        t.region? r = some (filled ⟨0, w.head / 32, a, 0, some (mkCause 5 8), 0⟩ w.pages) ∧ t.mem = s.mem) ∧
      (∀ va e pa, a % 32 = 0 → g.vaOf (tagCol q.tag) a 32 = .ok va → s.foreign r g.die tile world va w.x w.y w.gen = false →
        (s.streamPage g w b q va).entry = some e → (s.streamPage g w b q va).out = .ok pa → pa + 32 ≤ 2 ^ 40 → s.poison? pa 32 = none →
        ∃ t ps, exec (.windowFill r tile num) s = .next t ∧ ps.head? = some e ∧ ps.length ≤ 2 ∧
          t.region? r = some (filled ⟨0, w.head / 32, va, ofBytes 256 (readBytes s.mem pa 32), none, 0⟩ ps) ∧ t.mem = s.mem)) ∧
    (∀ u rest e pa, w.write = true → w.units = u :: rest → s.foreign r g.die tile world u.va w.x w.y w.gen = false →
      (s.streamPage g w b q u.va).entry = some e → (s.streamPage g w b q u.va).out = .ok pa → pa + 32 ≤ 2 ^ 40 →
      ∃ t g' ps, exec (.windowWriteback r tile num) s = .next t ∧ t.region? r = some g' ∧ ps.head? = some e ∧
        (g'.mport tile).window? num = some { w with
          tail := w.tail + 32
          units := rest
          pages := ps } ∧ readBytes t.mem pa 32 = toBytes u.pay 32 ∧
        (∀ c, (c < pa ∨ pa + 32 ≤ c) → cellRead t.mem c = cellRead s.mem c) ∧ g'.elems = g.elems ∧ SameRegs s t) ∧
    (∀ va e, w.page? b.psz va = some e → s.streamPage g w b q va = ⟨s, [], some e, e.give va (!w.write) w.write⟩) ∧
    (∀ va, w.page? b.psz va = none → s.streamPage g w b q va = s.translate g.die world b.psz va (!w.write) w.write)

/-- A bank that is idle in this cycle serves one request in one step (R209, R249): MTLD gives the bytes, or the oldest entry of a FIFO,
which it takes; MTST writes exactly its bytes, or a new FIFO entry, and sends zero, and with LAST ends the line of a line buffer, whose
oldest becomes the newest (R211); MTTSB gives the bit it sets and its operand; a request that fails its checks
gives its cause (R249). The request leaves its element's output queue and the round-robin order moves behind its client. -/
def Obligations.BanksServeTheirRequests : Prop :=
  ∀ (s : State) (r : Rid) (l : Launch) (g : Region) (x y bank c : Nat) (t : Tile) (e : Elem) (q : Request), Runs s r l g → g.tile? x y = some t →
    (s.tileView l g).bankTurn t bank = some (c, e, q) → (∀ k ∈ t.rr, k.bank = bank → k.cycle ≠ s.cycle) →
    let w := t.part q.part
    let off := q.tileOffset
    let par := modePar w
    let line := modeSize w / (par + 1)
    let newest := lookupD 0 q.part t.lines
    let a := modeBase w + if modeOf w = 3 then (newest + off / line) % (par + 1) * line + off % line else off
    let t1 : Tile := { t with rr := ⟨bank, c, s.cycle⟩ :: t.rr.filter fun k => k.bank != bank }
    let g1 := g.popOut e.x e.y
    let z : Sender := ⟨.site q.x q.y, prodId r.m q.x q.y 0, q.x, q.y, q.slot⟩
    let serves (t' : Tile) (out : List (Dst × Payload)) : Prop := exec (.bankAccess ⟨r, x, y⟩ bank) s = .next
      (answer (s.putRegion r (g1.putTile t')) r z (q.reply r.m) out)
    let all (v : Payload) : List (Dst × Payload) := (dests q.f).map fun d => (d, v)
    (∀ cause, bankCause g t q = some cause → exec (.bankAccess ⟨r, x, y⟩ bank) s = .next
      (answerRecord (s.putRegion r (g1.putTile t1)) r z (q.reply r.m) cause 0)) ∧
    (bankCause g t q = none →
      (q.op = .mtld → modeOf w ≠ 2 → serves t1 (all (ofBytes 256 (readBytes t.bytes a q.tileLen)))) ∧
      (∀ v rest, q.op = .mtld → modeOf w = 2 → t.fifo q.part = v :: rest → serves (t1.popFifo q.part) (all v) ∧ (t1.popFifo q.part).fifo q.part = rest) ∧
      (q.op = .mtst → modeOf w ≠ 2 → serves { t1 with
        bytes := writeBytes t.bytes a (toBytes q.a q.tileLen)
        lines := if modeOf w = 3 ∧ q.last = true then setKey q.part ((newest + par) % (par + 1)) t.lines else t.lines } (all 0)) ∧
      (q.op = .mtst → modeOf w = 2 → serves (t1.setFifo q.part (t.fifo q.part ++ [q.a])) (all 0)) ∧
      (q.op = .mttsb → serves { t1 with bytes := writeBytes t.bytes a (toBytes (BitVec.ofNat 32 (readNat t.bytes a 4 ||| 2 ^ (q.tileIndex % 32))) 4) }
        [(q.f.dst0, BitVec.ofNat 256 ((readNat t.bytes a 4 / 2 ^ (q.tileIndex % 32)) % 2)), (q.f.dst1, q.a)]))

/-! ## Copy channels (R218, R254, R255, R352) -/

/-- A channel takes its oldest queued transfer with WPTR 0; a COPY's pieces of 32 bytes move in order between memory and the tile, WPTR
rising with each, and only those bytes change, while the tile's banks are free for the channel (R209); at WPTR = n its done token goes to DST0, and a failed one's cause in its place
(R218, R254). A NASK's answer lands in 32-byte pieces, its length the done token, and a negative answer's cause is its record (R352).
A waiting CPWAIT whose operand is met goes on (R255). -/
def Obligations.CopyChannelsMoveTheirBytes : Prop :=
  ∀ (s : State) (r : Rid) (l : Launch) (g : Region) (x y ch : Nat) (t : Tile), Runs s r l g → g.tile? x y = some t → ch < t.chans.length →
    (g.tiles.map fun u => (u.x, u.y)).Nodup →
    let p : Site := ⟨r, x, y⟩
    let c := t.chan ch
    let chan (k : Chan) : Region := g.putTile (t.putChan ch k)
    (∀ k rest, c.cur = none → c.queue = k :: rest →
      exec (.copyTransferStart p ch) s = .next (s.putRegion r (chan { c with num := k.num, wptr := 0, cur := some k, queue := rest }))) ∧
    (∀ k, c.cur = some k →
      let q := k.acc.req
      let z := portSender g r.m q.port 1
      let back : Reply := { q.reply r.m with f := { q.f with dst1 := { q.f.dst1 with v := false } } }
      let ended : Region := chan { c with cur := none }
      (q.op = .copy → k.acc.mute = false →
        (∀ cause, k.answer = some (.cause cause) → exec (.copyDone p ch) s = .next (answerRecord (s.putRegion r (ended.chainDone k.acc)) r z back cause 0)) ∧
        (k.answer = none → c.wptr = q.amount → exec (.copyDone p ch) s = .next (answerAll (s.putRegion r (ended.chainDone k.acc)) r z back 0)) ∧
        (∀ va pa, k.answer = none → c.wptr < q.amount → l.drainFrom = none → q.ext = false → k.acc.stage = .slice → Unheld s → Memory.wf s.mem = true →
          g.vaOf (tagCol q.tag) ((q.offset + c.wptr) % 2 ^ 64) 32 = .ok va →
          (s.translate g.die (g.tagWorld q.tag) 0 va (!q.out) q.out).out = .ok pa → pa + 32 ≤ 2 ^ 40 →
          let at' := q.place (t.part q.copyPart) + c.wptr
          (s.tileView l g).banksFree t ch s.cycle at' 32 = true →
          let moved (bytes : List Host.Cell) : Region := g.putTile ((({ t with bytes := bytes } : Tile).servedAll ch s.cycle at' 32).putChan ch { c with
            wptr := c.wptr + 32
            cur := some { k with acc := { k.acc with stage := .slice, pas := [] } } })
          (q.out = true → ∃ u, exec (.copyPiece p ch) s = .next u ∧ u.region? r = some (moved t.bytes) ∧
            readBytes u.mem pa 32 = readBytes t.bytes at' 32 ∧ ∀ b, (b < pa ∨ pa + 32 ≤ b) → cellRead u.mem b = cellRead s.mem b) ∧
          (q.out = false → s.poison? pa 32 = none → ∃ u, exec (.copyPiece p ch) s = .next u ∧ u.mem = s.mem ∧
            u.region? r = some (moved (writeBytes t.bytes at' (readBytes s.mem pa 32)))))) ∧
      (q.op = .nask → k.acc.mute = false →
        (∀ cause, k.answer = some (.cause cause) → exec (.answerDelivery p ch) s = .next (answerRecord (s.putRegion r ended) r z back cause 0)) ∧
        (∀ bs, k.answer = some (.bytes bs) →
          let at' := q.place (t.part q.copyPart) + c.wptr
          (s.tileView l g).banksFree t ch s.cycle at' 32 = true →
          let t1 := ({ t with bytes := writeBytes t.bytes at' ((bs.drop c.wptr).take 32) } : Tile).servedAll ch s.cycle at' 32
          (c.wptr + 32 < bs.length → exec (.answerDelivery p ch) s = .next (s.putRegion r (g.putTile (t1.putChan ch { c with wptr := c.wptr + 32 })))) ∧
          (bs.length ≤ c.wptr + 32 → exec (.answerDelivery p ch) s = .next (answerAll
            (s.putRegion r (g.putTile (t1.putChan ch { c with wptr := c.wptr + 32, cur := none }))) r z back (BitVec.ofNat 256 bs.length)))))) ∧
    (∀ q rest, c.waits = q :: rest → c.meets q.a = true → exec (.cpwaitRelease p ch) s = .next
      (answerAll (s.putRegion r (chan { c with waits := rest })) r ⟨.site q.x q.y, prodId r.m q.x q.y 0, q.x, q.y, q.slot⟩ (q.reply r.m) q.a))

/-! ## Sheets and the compaction engine (R285 to R302, R326) -/

/-- A sheet at work. A token of a stream joins its buffer while that has room, and one of another tag fails the stream with 0x7.05
(R286). An element ahead of which its neighbours are adds the next k-group to the pass's bank: in I32 the sum of products,
wrapped or clamped, in F32 the exact sum times both scales, added with one rounding, and beside it the row sums (R292, R294); the
first group claims the bank (R297). Side-band tokens behind a pass's last data load the latches of the
elements that they pass (R289). A pass that every element has finished sends zero, its own cause, which poisons the bank, or
0x7.06 (R299). MDRAIN gives 0x7.06 for a foreign bank and the poison's cause for a poisoned one, and else pushes the columns'
entries while there is room, its done token after the last (R301, R302). -/
def Obligations.MatrixPassesAccumulateAndDrain : Prop :=
  ∀ (s : State) (r : Rid) (l : Launch) (g : Region) (x y : Nat) (h : Sheet), Runs s r l g → g.sheet? x y = some h →
    (∀ px py k rest row idx q, g.links = k :: rest → k.port = none → k.x = px → k.y = py →
      let t := k.tok
      let g0 : Region := { g with
        links := rest
        deltas := g.deltas ++ [Delta.mk (.site px py) (tagKey t.tag) 0 true false] }
      let w := g.feeder h row idx
      let runs (u : Region) : Prop := exec (.streamTokenStaging ⟨r, px, py⟩ k.src) s = .next (s.putRegion r u)
      g0.streamTok px py t = some (h, row, idx) → h.streams.find? (fun u => u.row == row && u.idx == idx && u.unfinished) = some q →
      (tagCol t.tag = tagCol q.tag → tagCtx t.tag = tagCtx q.tag →
        countIf (fun u => u.at' row idx q.buf) h.staged < modeSize w / (modePar w + 1) / 32 → runs (g0.putSheet { h with
          staged := h.staged ++ [Staged.mk row idx q.buf t]
          streams := h.streams.map fun u => if u.at' row idx q.buf then { u with unfinished := !(t.kind != 1 && t.last) } else u })) ∧
      ((tagCol t.tag ≠ tagCol q.tag ∨ tagCtx t.tag ≠ tagCtx q.tag) → t.counted = true →
        runs ((g0.putSheet (h.failStream q (mkCause 7 5))).count (.site px py) t.tag (-1) false))) ∧
    (∀ row col i ps e a b, h.passAt row col = some (i, ps) → g.sheetElem h row col = some e → row < h.rs → col < h.cs →
      h.opWaits i ps.bank = false → ps.foreign = false → ps.bank < 2 → h.banks.length = 2 →
      let f := ps.reply.f
      let A := mmaOperand f true
      let B := mmaOperand f false
      let G := passG f
      let at' (r c : Nat) : ElemProg := ps.prog.getD (r * h.cs + c) ⟨0, 0, 0, 0⟩
      let n := (at' row col).n
      row * h.cs + col < ps.prog.length → (h.elems.getD (row * h.cs + col) []).length = 2 → row * h.cs + col < h.elems.length →
      (col ≠ 0 → n < (at' row (col - 1)).n) → (row ≠ 0 → n < (at' (row - 1) col).n) →
      (row = 0 → col = 0 → n = 0 → (h.bankState ps.bank).owner = none) →
      (∀ k ∈ (ps.input true row).items ++ (ps.input false col).items, k.side = none) →
      (ps.input true row).items[n * G / A.k]? = some a → (ps.input false col).items[n * G / B.k]? = some b → a.pred = true → b.pred = true →
      ∃ h' q, exec (.mmaKgroup ⟨r, x, y⟩ row col) s = .next (s.putRegion r ((g.putSheet h').putElem e)) ∧
        h'.ops = h.ops.set i (.pass q) ∧ (q.prog.getD (row * h.cs + col) ⟨0, 0, 0, 0⟩).n = n + 1 ∧ q.fail = ps.fail ∧ q.bank = ps.bank ∧
        (row = 0 → col = 0 → n = 0 → (h'.bankState ps.bank).owner = some (tagCol ps.reply.tag, tagCtx ps.reply.tag)) ∧
        let cbk := if n * G % B.k = 0 then e.lat.cbk else (at' row col).cbk
        let av (i t : Nat) : XVal := sheetVal A.t 0 a.pay (16 * (n * G % A.k + t) + i)
        let bv (t j : Nat) : XVal := sheetVal B.t cbk b.pay (16 * (n * G % B.k + t) + j)
        let sa := scaleVal A.sc e.lat.scla e.lat.sclaFmt
        let sb := scaleVal B.sc e.lat.sclb e.lat.sclbFmt
        let old := h.bank row col ps.bank
        let new := h'.bank row col ps.bank
        (∀ i j, i < 16 → j < 16 →
          (f.et ≠ .f32 → new.acc.getD (16 * i + j) 0 = fitInt .i32 f.sat (toSigned 32 (old.acc.getD (16 * i + j) 0) +
            ((List.range G).map fun t => laneInt A.t a.pay (16 * (n * G % A.k + t) + i) * laneInt B.t b.pay (16 * (n * G % B.k + t) + j)).sum)) ∧
          (f.et = .f32 → new.acc.getD (16 * i + j) 0 = fround .f32 0 f.sat ((fdecode .f32 (old.acc.getD (16 * i + j) 0)).add false
            (((sa i).mul (sb j)).mul (sumX ((List.range G).map fun t => (av i t).mul (bv t j))))))) ∧
        ∀ i < 16, new.rs.getD i 0 = fround .f32 0 false ((fdecode .f32 (old.rs.getD i 0)).add false ((sa i).mul (sumX ((List.range G).map (av i)))))) ∧
    (∀ i ps, h.donePass = some (i, ps) → (∀ k ∈ ps.inputs, k.ended = true) → (ps.inputs.map fun k => (k.row, k.idx)).Nodup →
      let h1 : Sheet := { h with ops := h.ops.eraseIdx i }
      let k := h.bankState ps.bank
      let done (h' : Sheet) (u : State → State) : Prop :=
        exec (.mmaPassComplete ⟨r, x, y⟩) s = .next ((u (s.putRegion r ((g.putSheet h').loadRest h' ps))).settleOps r x y h1.ops.length)
      let z := h.sender r.m ps.reply.slot
      (ps.fail = none → ps.foreign = false → done h1 fun u => answerAll u r z ps.reply 0) ∧
      (ps.foreign = true → done h1 fun u => answerRecord u r z ps.reply (mkCause 7 6) 0) ∧
      (∀ c, ps.fail = some c → ps.foreign = false →
        done (h1.setState ps.bank { k with poison := some (k.poison.getD c) }) fun u => answerRecord u r z ps.reply c 0)) ∧
    (∀ i b, h.nextDrain = some (i, b) →
      let h1 : Sheet := { h with ops := h.ops.eraseIdx i }
      let cleared := if bitAt b.reply.f.xmod 2 then h1.zeroBank b.bank else h1
      let k := (h.bankState b.bank).poison
      let z := h.sender r.m b.reply.slot
      let done (u : State) : Prop := exec (.mdrainComplete ⟨r, x, y⟩) s = .next (u.settleOps r x y h.ops.length)
      (b.drain = none → h.foreignTo b = true → done (answerRecord (s.putRegion r (g.putSheet h1)) r z b.reply (mkCause 7 6) 0)) ∧
      (∀ c, b.drain = none → h.foreignTo b = false → k = some c → done (answerRecord (s.putRegion r (g.putSheet cleared)) r z b.reply c 0)) ∧
      (h.foreignTo b = false → k = none →
        let pushed := g.pushColumns h (bitsAt b.reply.f.xmod 3 3).toNat 0 (b.drain.getD (g.drainLists h b))
        (pushed.2.all List.isEmpty = true → done (answerAll (s.putRegion r (pushed.1.putSheet cleared)) r z b.reply 0)) ∧
        (pushed.2.all List.isEmpty = false → exec (.mdrainComplete ⟨r, x, y⟩) s = .next (s.putRegion r (pushed.1.putSheet { h with
          ops := h.ops.set i (.bank { b with drain := some pushed.2 }) })))))

/-- In every state an eviction's step answers a next state. The compaction engine's hold is in place: the hold goes, a sequence that is gone gives
0x8.02, a failing check its cause, and else the command is answered with the number of slots kept, the pages freed and the slots that
there were; writes that waited for its lines follow (R261). A slot is kept that is SINK or PINNED, lies within W of HIGH, or has at least
the mass T (R326). -/
def Obligations.CompactionKeepsItsSlots : Prop :=
  (∀ (s : State) (slice seq : Nat), ∃ t, exec (.kvevictCompaction slice seq) s = .next t) ∧
  ∀ (s : State) (slice seq : Nat) (k : KvHold), s.pkg = .running → s.kvHolds.find? (fun q => q.slice == slice && q.seq == seq) = some k →
    let a := ((s.region? k.r).bind fun g => g.acc? k.acc.id).getD k.acc
    let s0 : State := { s with kvHolds := s.kvHolds.filter (· != k) }
    let q := k.acc.req
    let entry := s.kvSeqs.find? fun e => e.pa == k.acc.pas.headD 0
    (entry = none → exec (.kvevictCompaction slice seq) s = .next (s0.perform k.r a (.record (mkCause 8 2))).serveSys) ∧
    (∀ e, entry = some e →
      (∀ c, s.eviction k.acc e = .error c → exec (.kvevictCompaction slice seq) s = .next (s0.perform k.r a (.record c)).serveSys) ∧
      (∀ x, s.eviction k.acc e = .ok x →
        let kept := (List.range x.live).filter fun j =>
          let w := (x.page (j / 128)).readNat s.mem (0x4200 + 8 * (j % 128)) 8
          decide (w / 8 % 2 = 1 ∨ w / 4 % 2 = 1 ∨ x.v.high s < ((w / 2 ^ 32 + (bitsAt q.a 96 32).toNat : Nat) : Int) ∨
            (bitsAt q.a 128 28).toNat ≤ w / 16 % 2 ^ 28)
        ∃ u : State, exec (.kvevictCompaction slice seq) s = .next (u.perform k.r a
            (.all (lane0 (kept.length + 2 ^ 32 * (x.npages - (kept.length + 127) / 128) + 2 ^ 96 * x.live)))).serveSys ∧
          u.kvHolds = s.kvHolds.filter (· != k) ∧ SameRegs s u ∧ u.harts = s.harts))

/-! ## The gallery (R344 to R351, R435) -/

/-- Interests, tiles and answers at their router. An entry router answers UNKNOWN, FOREIGN and TOOBIG; a router that holds the tile
sends it back; one that has an entry merges the interest; one without makes an entry and sends it on along the path; a full
table holds it (R347, R348). A refresh lengthens its face (R349), an expired face goes, with EXPIRED to its asker (R350). A tile
serves every face that has not expired, a negative answer goes to every such face, and the entry is free (R351). An entry whose 8
faces are in use takes another in an entry chained to it (R345). -/
def Obligations.GalleryMessagesAreHandled : Prop :=
  ∀ (s : State) (m : GMsg) (rest : List GMsg), s.pkg = .running →
    let w := m.world
    let n := m.name
    let r := m.router
    (s.gmsgs = m :: rest →
      let s1 : State := { s with gmsgs := rest }
      (∀ exp room probe trail, m.body = .interest exp room probe trail →
        let does (t : State) : Prop := exec (.interestArrival m.id) s = .next t
        (∀ q ax ay ch num, m.sender = .asker q ax ay ch num →
          let no (c : Nat) : Prop := does (s1.answerAsker q ax ay ch num (.cause (mkCause 9 c)))
          (s.routeOf n = none → s.extRoute w n = none → no 2) ∧
          (∀ e, s.routeOf n = some e → (e.world ≠ w → no 4) ∧ (e.world = w → room < e.size → no 6))) ∧
        (∀ k, m.sender = .router k →
          (∀ t, s.tileAt r w n = some t → does ((s1.touchTile t).sendTile r m.prod w n t.bytes m.sender trail)) ∧
          (s.tileAt r w n = none → probe = false →
            (s.expired exp = true → does (s1.sendNegative r m.prod w n (mkCause 9 1) m.sender trail)) ∧
            (s.expired exp = false → r ≠ m.prod →
              (∀ p front last, s.pit? r w n = some p → p.chain = front ++ [last] → later exp p.upexp = false →
                (last.length < 8 → does (s1.putPit { p with chain := front ++ [last ++ [Face.mk m.sender exp]] })) ∧
                (8 ≤ last.length → s.pitUse r < 1024 → does (s1.putPit { p with chain := p.chain ++ [[Face.mk m.sender exp]] })) ∧
                (8 ≤ last.length → 1024 ≤ s.pitUse r → does { s1 with gheld := s.gheld ++ [m] })) ∧
              (s.pit? r w n = none → s.pitUse r < 1024 → does { s1 with
                pits := s.pits ++ [Pit.mk r w n m.prod exp [[Face.mk m.sender exp]]]
                freshId := s.freshId + 1
                gmsgs := rest ++ [{ m with
                  id := s.freshId
                  router := nextRouter r m.prod
                  sender := .router r
                  body := .interest exp room false [] }] }) ∧
              (s.pit? r w n = none → 1024 ≤ s.pitUse r → does { s1 with gheld := s.gheld ++ [m] }))))) ∧
      (∀ exp, m.body = .refresh exp →
        let s2 : State := { s1 with gheld := s.gheld.map fun k => if k.refreshedBy m then k.extend exp else k }
        (s.pit? r w n = none → exec (.interestRefresh m.id) s = .next s2) ∧
        (∀ p, s.pit? r w n = some p → r = p.prod → exec (.interestRefresh m.id) s = .next (s2.putPit { p with
          chain := p.chain.map fun e => e.map fun f => if f.who = m.sender then { f with exp := exp } else f
          upexp := if later exp p.upexp then exp else p.upexp }))) ∧
      (∀ bs, m.body = .tile bs [] →
        let kept := if r = m.prod then s1 else s1.keepCopy r w n bs
        (s.pit? r w n = none → exec (.tileArrival m.id) s = .next kept) ∧
        (∀ p, s.pit? r w n = some p → exec (.tileArrival m.id) s = .next
          (p.faces.foldl (fun u f => if u.expired f.exp then u.expireFace f else u.sendTile r p.prod w n bs f.who []) (kept.dropPit p)))) ∧
      (∀ c p, m.body = .negative c [] → s.pit? r w n = some p → exec (.negativeAnswerArrival m.id) s = .next
        (p.faces.foldl (fun u f => if u.expired f.exp then u.expireFace f else u.sendNegative r p.prod w n c f.who []) (s1.dropPit p)))) ∧
    (∀ exp room probe trail k t, s.gheld = m :: rest → m.body = .interest exp room probe trail → m.sender = .router k → s.tileAt r w n = some t →
      exec (.interestRetry r) s = .next (({ s with gheld := rest }.touchTile t).sendTile r m.prod w n t.bytes m.sender trail)) ∧
    (∀ i j p f, (s.pits.filter fun p => p.router == r)[i]? = some p → p.faces[j]? = some f → s.expired f.exp = true →
      let q : Pit := { p with chain := p.chain.map fun e => e.filter fun k => k ≠ f }
      let left := if q.faces = [] then s.dropPit p else s.putPit q
      (∀ q ax ay ch num, f.who = .asker q ax ay ch num →
        exec (.faceExpiry r i j) s = .next (left.answerAsker q ax ay ch num (.cause (mkCause 9 1)))) ∧
      (∀ k, (f.who = .router k ∨ f.who = .device k) → exec (.faceExpiry r i j) s = .next left))

/-! ## Stations and Brimen ports (R427 to R433, R435) -/

/-- A token at a station that reaches no word becomes a record 0xB.03 at its colour's exit (R427); one that reaches a word of one input
that does not reduce goes to that word's outputs (R428); a reduction adds lane by lane. A port takes a flit with a good CRC and the
expected SEQ (R431): it retires what the flit acknowledges, and what is for another device goes on along its route (R432). Here a
station token joins its station's input, an interest without a route is answered UNKNOWN, a tile's first units wait for the others,
an answer goes to the faces, management bytes reach the processor (R430, R433, R435). A reserved type is counted (R429). A port
without an acknowledgement for 4,096 cycles sends again, seven times, and then is down (R431; the count of tries is log 44). -/
def Obligations.StationsAndPortsCarryTokens : Prop :=
  (∀ (a b : Payload) (i : Nat), i < 8 → laneU 32 (stationSum .i32 [a, b]) i = wrapTo 32 (laneInt .i32 a i + laneInt .i32 b i)) ∧
  (∀ (s : State) (k : StnTok) (rest : List StnTok) (l : Launch) (g : Region), s.stnToks = k :: rest → s.stationReady k = true →
    s.launch? k.h = some l → l.members[k.m]? = some g → s.pkg = .running →
    let runs (t : State) : Prop := exec (.stationInput k.die k.station k.input) s = .next t
    let words := s.wordsFor k.die k.station k.input k.tok.tag
    (words = [] → k.tok.counted = false →
      let z := portSender g k.m (g.stationEntry k.station) 3
      runs (raiseToExit { s with stnToks := rest } ⟨k.h, k.m⟩ z.src z.prod z.ax z.ay z.slot 0 0 (mkCause 0xB 3) 0 k.tok.tag)) ∧
    (∀ q w, words = [q] → q.l = l → q.m = k.m → g.stns[q.k]? = some w → stnSop w.word ≠ 1 → k.tok.kind ≠ 1 → k.input < 8 →
      (∀ j < 8, bitAt (stnInm w.word) j = true ↔ j = k.input) → w.queues = List.replicate 8 [] →
      ∃ u : State, runs (u.stationSendAll k.h k.m w (openTok s l.sl (g.tagWorld k.tok.tag) k.tok) fun _ => true) ∧ u.stnToks = rest ∧
        u.mem = s.mem ∧ ∃ g', u.region? ⟨k.h, k.m⟩ = some g' ∧ g'.stns = g.stns ∧ g'.links = g.links)) ∧
  (∀ (s : State) (p : Nat) (b : BitVec 480), s.pkg = .running → (s.port p).down = false → flitSeq (sealFlit b) = (s.port p).expect → p < s.brimen.length →
    let f := sealFlit b
    let old := s.port p
    let s1 := s.taken p f
    let w : BitVec 8 := bitsAt f 376 8
    let n : Word64 := bitsAt f 384 64
    ((s1.port p).expect = old.expect + 1 ∧
      (∀ a rest, old.unacked = a :: rest → flitSeq a = flitAck f → old.waiting = [] → (s1.port p).unacked = rest ∧ (s1.port p).tries = 0)) ∧
    (∀ i, (flitType f = 1 ∧ i = .flitStationToken p f ∨ flitType f = 3 ∧ i = .flitGalleryInterest p f ∨ flitType f = 5 ∧ i = .flitGalleryAnswer p f ∨
        flitType f = 6 ∧ i = .flitManagement p f ∨ flitType f = 4 ∧ i = .flitTileData p f) → s.isMe (flitDev f) = false →
      exec i s = .next (s1.sendToward (BitVec.ofNat 4 (flitType f)) (flitDev f) (flitBody f) (flitExt f))) ∧
    ((flitType f = 0 ∨ flitType f = 7) → exec (.flitAcknowledge p f) s = .next s1) ∧
    ((flitType f = 2 ∨ 8 ≤ flitType f) → exec (.droppedFlit p f) s = .next (s1.setReg 0x8108 (s.reg 0x8108 + 1))) ∧
    (s.isMe (flitDev f) = true →
      (∀ q words, flitType f = 1 → s.wordsFor (p / 6) (p % 6) 1 (bitsAt f 352 64) = q :: words →
        ∃ u : State, exec (.flitStationToken p f) s = .next u ∧
          u.stnToks = s.stnToks ++ [StnTok.mk (p / 6) (p % 6) 1 q.l.handle q.m ⟨bitsAt f 416 32, bitsAt f 352 64, bitsAt f 96 256, none⟩]) ∧
      (flitType f = 3 → s.routeOf n = none → exec (.flitGalleryInterest p f) s = .next
        (s1.sendNegative (256 + p) (256 + p) w n (mkCause 9 2) (.device (bitsAt f 292 20).toNat) [])) ∧
      (flitType f = 4 → let v : BitVec 8 := bitsAt f 120 8
        let nm : Word64 := bitsAt f 128 64
        let size := 32 * ((bitsAt f 109 11).toNat + 1)
        s.reasm? p v nm = none → s.reasmUsed p + size ≤ 524288 → (flitExt f).toNat < size → (flitExt f).toNat % 32 = 0 → 32 < size →
        exec (.flitTileData p f) s = .next { s1 with
          reasm := ⟨p, v, nm, size, [((flitExt f).toNat, toBytes (bitsAt f 192 256) 32)]⟩ :: s.reasm }) ∧
      (∀ e, flitType f = 5 → s.pit? (256 + p) w n = some e → exec (.flitGalleryAnswer p f) s = .next
        (e.faces.foldl (fun u k => if u.expired k.exp then u.expireFace k else
          u.sendNegative e.router e.prod e.world e.name (bitsAt f 366 10) k.who []) (s1.dropPit e))) ∧
      (flitType f = 6 → exec (.flitManagement p f) s = .next { s1 with
        mgmt := s.mgmt ++ [toBytes (flitBody f) (min 44 (bitsAt f 32 8).toNat)] }))) ∧
  (∀ (s : State) (p : Nat) (b : BitVec 512), flitCrcOk b = false → exec (.droppedFlit p b) s = .next s) ∧
  (∀ (s : State) (p : Nat), s.pkg = .running → (s.port p).down = false → (s.port p).unacked ≠ [] → (s.port p).lastAck + 4096 ≤ s.cycle →
    let b := s.port p
    (b.tries < 7 → exec (.linkRetryTimeout p) s = .next (s.putPort p { b with tries := b.tries + 1, lastAck := s.cycle })) ∧
    (7 ≤ b.tries → s.stationWords (p / 6) (p % 6) = [] → exec (.linkRetryTimeout p) s = .next
      { s.putPort p { b with unacked := [], waiting := [], down := true } with reasm := s.reasm.filter fun k => k.port != p }))

/-! ## Freezing, saving and restoring (R379 to R386, R405) -/

/-- A launch with a freeze cause, or asked to, is FROZEN once no purge runs, and the cause is recorded (R379). Its scan takes areas of its
world's pool; without room a record 0xE.02 (R380). PKG_RELEASE saves a FROZEN launch once it is scanned, and discards one where bit 32
is set, all its tokens with it (R382). A draining launch in which nothing has moved for 64 cycles is saved without its read-window
bytes (R385), and one that has not settled after 2^16 cycles gets the record 0xE.04 and is frozen, its sources still stopped (R386). A scan whose
area meets a held line waits (R261). A restore puts the members
back and the launch RUNS, or it stays SAVED with 0xE.05 (R383, R384). A seal generation advances once no token of the one before
is left, or its exhausted counter is recorded (R405). Sheets first finish what is on their lanes (R298). -/
def Obligations.LaunchesFreezeSaveAndRestore : Prop :=
  ∀ (s : State) (h : Word32) (l : Launch), s.pkg = .running → s.launch? h = some l →
    (l.state = .running → l.purges = [] →
      let frozen (by' : Option (Cause × Word32)) : State := s.putLaunch { l with
        state := .frozen
        causes := []
        freezeReq := false
        freezeWaiters := []
        drainFrom := none
        scanned := false
        scanTried := false
        members := l.members.map Region.finishLanes
        frozenBy := by' }
      (l.causes = [] → l.freezeReq = true → exec (.regionFreeze h) s = .next ((frozen l.frozenBy).wakeFreezers l 0)) ∧
      (∀ c g, l.causes = [c] → l.members[c.m]? = some g → let u := frozen (some (c.cause, s.seqNo))
        exec (.regionFreeze h) s = .next ((u.deliver { siteFault u l g (g.tagWorld c.tag) c.cause 2 c.x c.y c.slot c.side c.tag c.extra with
          cycle := c.cycle }).wakeFreezers l 0))) ∧
    (l.state = .frozen → l.scanned = false → l.scanTried = false →
      (∀ g, s.allocAreas l = none → l.members[0]? = some g → let u := s.putLaunch { l with scanTried := true }
        exec (.snapshotScan h) s = .next (u.deliver (regionFault u l g l.world (mkCause 14 2) 0 0 0))) ∧
      (∀ areas, s.allocAreas l = some areas → s.areasWait areas = true → exec (.snapshotScan h) s = .next s) ∧
      (∀ areas, s.allocAreas l = some areas → s.areasWait areas = false →
        let u := s.writeSnaps l 0 areas
        let l' : Launch := { l with scanned := true, areas := areas }
        (l.toSaved = false → exec (.snapshotScan h) s = .next (u.putLaunch l')) ∧
        (l.toSaved = true → exec (.snapshotScan h) s = .next (u.saveLaunch l')))) ∧
    (∀ b, s.bus = some b → b.a.trust = true → b.size = 8 → b.pa = 0x9000000008000 → bitsAt b.value 0 32 = h →
      (bitAt b.value 32 = false → l.state = .frozen → l.hwDead = false →
        (l.scanned = true → exec .pkgReleaseSave s = .next (s.saveLaunch l)) ∧
        (l.scanned = false → exec .pkgReleaseSave s = .next (s.putLaunch { l with toSaved := true }))) ∧
      (bitAt b.value 32 = true → l.state = .frozen ∨ l.state = .saved → ∃ t l', exec .pkgReleaseDiscard s = .next t ∧ t.launch? h = some l' ∧
        l'.state = .retired ∧ l'.closedSpans = l.openSpan + 1 ∧ l'.results = [] ∧ t.mem = s.mem ∧ (∀ k ∈ t.stnToks, k.h ≠ l.handle) ∧
        ∀ g ∈ l'.members, g.links = [] ∧ g.ctxReqs = [] ∧ (∀ e ∈ g.elems, e.store = [] ∧ e.ready = [] ∧ e.out = []) ∧ ∀ p ∈ g.ports, p.queue = [])) ∧
    (∀ from' areas, l.drainFrom = some from' → l.state = .running → l.purges = [] → l.causes = [] → l.frozenBy = none →
      (∀ g ∈ l.members, from' + 64 ≤ s.cycle ∧ g.quietFor + 64 ≤ s.cycle) → s.allocAreas l = some areas →
      s.areasWait areas = false →
      let l1 : Launch := { l with
        members := l.members.map fun g => { g.finishLanes with
          mports := g.finishLanes.mports.map fun m => { m with
            windows := m.windows.map fun w => if w.write then w else { w with head := w.tail, units := [], wait := none } } } }
      exec (.preemptDrain h) s = .next ((s.writeSnaps l1 1 areas).saveLaunch { l1 with areas := areas })) ∧
    (∀ from' g, l.drainFrom = some from' → l.state = .running → l.members[0]? = some g → from' + 65536 ≤ s.cycle → l.frozenBy = none →
      let u := s.putLaunch { l with freezeReq := true, frozenBy := some (mkCause 14 4, s.seqNo) }
      exec (.drainTimeout h) s = .next (u.deliver (regionFault s l g l.world (mkCause 14 4) 0 0 0))) ∧
    (l.state = .loading → l.scanned = true → s.areasWait l.areas = false →
      let u := l.areas.foldl (fun u a => u.peek a.1 a.2) s
      (∀ g, u.restored l (l.members.zip l.areas) = none → l.members[0]? = some g →
        exec (.regionRestore h) s = .next ((u.saveLaunch l).deliver (regionFault u l g l.world (mkCause 14 5) 0 0 0))) ∧
      (∀ ms, u.restored l (l.members.zip l.areas) = some ms → exec (.regionRestore h) s = .next
        (((u.putLaunch { l with
          state := .running
          members := ms
          scanned := false
          areas := []
          frozenBy := none }).rewriteViews h).releaseBrk h).bumpLayout)) ∧
    (l.state = .running → (l.sl.waiting ≠ none ∨ l.sl.atMax = true) → l.sl.prevClear = true → l.sl.spent = false →
      let u := (s.advanceSeal l).1
      (∀ z, (s.advanceSeal l).2 = some z →
        exec (.sealAdvance h) s = .next (u.putLaunch { l with sl := { z with granted := l.sl.waiting, waiting := none } })) ∧
      ((s.advanceSeal l).2 = none → exec (.sealAdvance h) s = .next ((u.putLaunch { l with sl := { l.sl with spent := true } }).sealSpent l)))

/-! ## Errors, the package, replay (R79, R371, R390, R391, R394, R438 to R440) -/

/-- Hardware errors by their code (R371): an uncorrectable slot word leaves its set in the ready queue and freezes the region (R79), a line
is poisoned, a corrected error is counted, a shared structure's error is a machine check, which stops every region and leaves the
harts (R391). FRZ_N held for 8 cycles, or the management command, freezes the package (R390, R440). Reset boots slot A, else slot B,
else stays in reset (R438). Throttling begins above the cap or the throttle point with a record 0xE.07, and ends below both; a
temperature above the trip point is a machine check 0xE.08 (R439). A replayed entry that fails its tag ends the replay with 0xE.06;
one that the captured launch's port took is admitted at the target (R394). -/
def Obligations.ErrorsAndThePackage : Prop :=
  ∀ (s : State), s.pkg = .running →
    let halts (i : Instr) (c : Cause) : Prop := ∃ t : State, exec i s = .next t ∧ t.pkg = .machineCheck ∧ t.seqNo = s.seqNo + 1 ∧
      t.mcRec = faultBits { bareFault s 0 c 0 0 with resp := 3 } s.seqNo ∧ t.launches = s.launches ∧ t.harts.length = s.harts.length
    let stops (i : Instr) : Prop := ∃ t : State, exec i s = .next t ∧ t.pkg = .frozen ∧ t.launches = s.launches ∧ t.mem = s.mem ∧ t.harts = s.harts
    (∀ r l g x y e set rest, Runs s r l g → g.elem? x y = some e → e.ready = set :: rest → l.causes = [] →
      ∃ t l' g', exec (.hardwareError 1 (.element ⟨r, x, y⟩)) s = .next t ∧ t.launch? r.h = some l' ∧ t.region? r = some g' ∧
        l'.causes = [⟨mkCause 12 1, r.m, x, y, set.slot, 0, (set.toks.head?.map Token.tag).getD 0, 0, s.cycle⟩] ∧
        g'.elem? x y = some { e with badWords := (32 * set.ctx + set.slot) :: e.badWords.filter (· != 32 * set.ctx + set.slot) }) ∧
    (∀ pa, inHbm pa = true → (∀ c, c = 4 ∨ c = 5 → exec (.hardwareError (BitVec.ofNat 6 c) (.line pa)) s = .next { s with
      poisoned := (lineOf pa, mkCause 12 c) :: s.poisoned.filter fun q => q.1 != lineOf pa })) ∧
    (∀ r l g x y, Runs s r l g → (g.hwerr + 1) % 65536 ≠ 0 → (∀ p, p = ErrPlace.element ⟨r, x, y⟩ ∨ p = .tile ⟨r, x, y⟩ ∨ (∃ n, n < g.ports.length ∧ p = .port r n) →
      exec (.hardwareError 6 p) s = .next (s.putRegion r { g with hwerr := (g.hwerr + 1) % 2 ^ 64 }))) ∧
    halts (.hardwareError 7 .shared) (mkCause 12 7) ∧ halts (.packageMachineCheck (mkCause 12 7)) (mkCause 12 7) ∧
    (∀ temp, Config.tripPoint < temp → halts (.thermalTrip temp) (mkCause 14 8)) ∧
    (∀ n, 8 ≤ n → stops (.frzNAssert n)) ∧ stops .mctpFreeze ∧
    (∀ a b : FlashSlot,
      let passes (n : Nat) (c : Component) : Prop :=
        Config.shake256 c.key = Config.vendorHash ∧ Config.dsaVerify c.key c.header c.sig = true ∧ Config.minVersion n ≤ c.version
      let good (f : FlashSlot) : Prop := passes 0 f.firmware ∧ passes 1 f.monitor ∧ passes 2 f.eftan
      let boots (f : FlashSlot) (t : State) : Prop := t.pkg = State.reset.pkg ∧ t.dice = [Config.shake256 Config.bootRom,
        Config.shake256 (f.firmware.header ++ f.firmware.code), Config.shake256 (f.monitor.header ++ f.monitor.code),
        Config.shake256 (f.eftan.header ++ f.eftan.code)]
      (∃ t, exec (.packageReset a b) s = .next t ∧ t.launches = [] ∧ t.mem = State.reset.mem ∧ t.regs = State.reset.regs ∧
        t.harts = State.reset.harts ∧ t.flash = (a, b) ∧ (good a → boots a t) ∧ (¬ good a → good b → boots b t) ∧
        (¬ good a → ¬ good b → t.pkg = .offline ∧ t.booted = false)) ∧ (s.flash = (a, b) → exec .mctpReset s = exec (.packageReset a b) s)) ∧
    (∀ power temp, let high := (bitsAt (s.reg 0x8120) 0 16).toNat < power ∨ Config.throttlePoint < temp
      let seen (u : State) : State := (u.setReg 0x8110 (BitVec.ofNat 64 power)).setReg 0x8118 (BitVec.ofNat 64 temp)
      (s.throttled = false → high → let u := seen { s with throttled := true }
        exec (.throttleEnter power temp) s = .next (u.deliver (bareFault s 0 (mkCause 14 7) 0 0))) ∧
      (s.throttled = true → ¬ high → exec (.throttleExit power temp) s = .next (seen { s with throttled := false }))) ∧
    (∀ h r rs l g ring n, s.replays = r :: rs → r.target = h → s.launch? h = some l → l.state = .running → l.drainFrom = none →
      l.members[0]? = some g → s.ring? l.world = some (ring, n) →
      let at' := ring + 128 + 128 * (r.pos % n)
      let u := s.peek at' 128
      let found := openCapture (s.captureKey l.world) l.world (readBytes s.mem at' 128)
      (s.areaHeld at' 128 = true → exec (.replayEntry h) s = .next s) ∧ (s.areaHeld at' 128 = false →
      (found = none → exec (.replayEntry h) s = .next ((u.endReplay h).deliver (regionFault u l g l.world (mkCause 14 6) 0 0 0))) ∧
      (∀ bs, found = some bs →
        let byte (i : Nat) : Nat := (bs.getD i 0).toNat
        (byte 77 ≠ 0 → exec (.replayEntry h) s = .next (u.nextReplay r)) ∧
        (∀ p, byte 77 = 0 → (ofBytes 32 ((bs.drop 72).take 4) : Word32) = r.captured → g.ports[byte 76]? = some p → portType p.word = 3 →
          p.closed = false → l.purging (portCol p.word) = false → l.underQuota (portCol p.word) = true → p.queue.length < 16 →
          exec (.replayEntry h) s = .next ((u.admits l g (byte 76) p (imageToken bs)).nextReplay r)))))

/-! ## Register pages (R230, R342, R380, R394, R401, R402, R407, R432, R445) -/

/-- A trusted store at a register of the package page. XLT_INV drops the entries of a page, of a world, or all, at the translation tiles and at the memory-port tiles, once the accesses that
used them have reached their slices (R224, R230). GAL_CFG sets a router's ways, WRLD_SNAPSZ lets scans without room try again, PKG_DEVID stands
unless station words or GLOB declarations do, PKG_REPLAY starts at TAIL (R342, R380, R394, R432). A store by another than a
trusted accessor is dropped with the record 0xA.03, its own mailbox apart (R402, R407); a foreign access to a region's page
gives 0xA.01, or is counted where the page is shared and the accessor trusted (R401). -/
def Obligations.RegisterPageStoresAct : Prop :=
  ∀ (s : State),
    (∀ b off, s.bus = some b → b.a.trust = true → b.size = 8 → b.pa = 0x9000000000000 + off →
      let v := b.value
      let scope := (bitsAt v 62 2).toNat
      let dropped (gone : XEntry → Bool) : State := { s with
        laygen := s.laygen + 1
        xlat := s.xlat.filter fun e => !gone e
        launches := s.launches.map fun l => { l with
          members := l.members.map fun g => { g with
            mports := g.mports.map fun m => { m with
              windows := m.windows.map fun w => { w with pages := w.pages.filter fun e => !gone e } } } } }
      let vpn := (bitsAt v 0 41).toNat
      (off = 0x1000 → s.onTheWay v = false →
        (scope = 0 → exec .xltInvPage s = .next (dropped fun e =>
          bitsAt v 54 8 == e.world && decide (e.vpn ≤ vpn ∧ vpn < e.vpn + 2 ^ (pszBits e.psz - 16)))) ∧
        (scope = 1 → exec .xltInvWorld s = .next (dropped fun e => bitsAt v 54 8 == e.world)) ∧
        (scope = 2 → exec .xltInvAll s = .next (dropped fun _ => true))) ∧
      (∀ r, r < 256 → off = 0x4000 + 8 * r →
        let ways := (bitsAt v 0 3).toNat
        (4 < ways → exec .galCfgWrite s = .next s) ∧
        (ways ≤ 4 → (∀ t ∈ s.gtiles, t.router = r → t.pinned = false) → ∃ t, exec .galCfgWrite s = .next t ∧
          t.regs = (s.setReg off (BitVec.ofNat 64 ways)).regs ∧ t.mem = s.mem ∧ storeUsed t.gtiles r ≤ 131072 * ways ∧
          ∀ k ∈ s.gtiles, k.router ≠ r → k ∈ t.gtiles)) ∧
      (∀ w : BitVec 8, off = 0x6008 + 16 * w.toNat → ∃ t, exec .wrldSnapszWrite s = .next t ∧
        t.regs = (s.setReg off (v &&& 0xFFFFFFFF)).regs ∧ t.mem = s.mem ∧
        t.launches = s.launches.map fun l => if l.world = w then { l with scanTried := false } else l) ∧
      (off = 0x8100 →
        (s.linkUse = true → exec .pkgDevidWrite s = .next s) ∧
        (s.linkUse = false → exec .pkgDevidWrite s = .next (s.setReg 0x8100 (v &&& 0x80000000000FFFFF)))) ∧
      (∀ t c ring n, off = 0x8008 → s.launch? (bitsAt v 0 32) = some t → s.launch? (bitsAt v 32 32) = some c → c.image = t.image → c.world = t.world →
        s.ring? t.world = some (ring, n) → t.state = .running → t.replay = false → readNat s.mem ring 8 ≠ readNat s.mem (ring + 8) 8 →
        exec .replayStart s = .next { s.putLaunch { t with replay := true } with
          replays := s.replays ++ [⟨t.handle, bitsAt v 32 32, readNat s.mem (ring + 8) 8, readNat s.mem ring 8⟩] })) ∧
    (∀ (a : Accessor) (off size : Nat) (v : Word64), off < 2 ^ 40 →
      let runs (t : State) : Prop := exec (.registerWrite a (0x9000000000000 + off) size v) s = .next t
      (a.trust = false → ownMailbox a off = false → runs (s.deliver (bareFault s a.world (mkCause 10 3) 0
        (a.world ++ b2b false ++ (0 : BitVec 3) ++ BitVec.ofNat 52 (0x9000000000000 + off))))) ∧
      (a.trust = true → size = 8 →
        (∀ w : BitVec 8, off = 0x800 + 8 * w.toNat → runs { s.setReg off v with laygen := s.laygen + 1 }) ∧
        (∀ q < 64, off = 8 * q → runs ((s.setReg off (v &&& 0xFFFC000000000000)).dueSince s)) ∧
        (off % 8 = 0 → readOnlyReg off = true → runs s)) ∧
      ((a.trust = true ∨ a.hart = true) → size = 8 → off = 0xB000 + 16 * a.world.toNat →
        (bitAt (s.reg (off + 8)) 63 = true → runs s) ∧
        (bitAt (s.reg (off + 8)) 63 = false → runs { (s.setReg off v).setReg (off + 8) 0x8000000000000000 with
          tbQueue := s.tbQueue ++ [(a.world, a, v)] }))) ∧
    (∀ (a : Accessor) (pa : Nat) (op : BusOp) (l : Launch) (g : Region), pa / 2 ^ 40 = 0x800 → s.pageRegion? pa = some (l, g) → a.world ≠ l.world →
      let runs (t : State) : Prop := exec (.regionPageForeignAccess a pa op) s = .next t
      let count := 0xA008 + 16 * l.world.toNat
      ((a.trust = false ∨ s.sharedPage l = false) → runs (s.deliver (regionFault s l g l.world (mkCause 10 1) 0 0
        (a.world ++ b2b a.trust ++ (0 : BitVec 3) ++ BitVec.ofNat 52 pa)))) ∧
      (a.trust = true → s.sharedPage l = true → runs (s.setReg count (s.reg count + 1))))

/-! ## The trust block (R407 to R412) -/

/-- The oldest command in the mailboxes; one whose buffer meets a held line waits (R261). A reserved OP, field or length ends with BADCMD; CREATE, DESTROY and EXTEND of another than a
trusted accessor with NOPRIV (R408). CREATE makes keys with MEAS and the counter zero and writes WRLD_CFG, DESTROY erases them unless a
handle names a launch of the world, EXTEND hashes its data into MEAS (R408). EVIDENCE writes 4,992 bytes and keeps its private key with
the nonce (R409). EXPORT wraps the world's keys, IMPORT and RELEASE unwrap in the layout that they name (R410 to R412). The ciphers,
hashes and random values are opaque. -/
def Obligations.TrustBlockCommands : Prop :=
  ∀ (s : State) (w : BitVec 8) (a : Accessor) (v : Word64) (rest : List (BitVec 8 × Accessor × Word64)),
    s.clocked = true → s.tbQueue = (w, a, v) :: rest →
    let c : TbCmd := ⟨w, a, v⟩
    let ends (u : State) (status : Nat) : State := { u with tbQueue := rest }.setReg (0xB008 + 16 * w.toNat) (BitVec.ofNat 64 status)
    let buf := (bitsAt v 12 40).toNat * 4096
    let byte (i : Nat) : Nat := bytesToNat (readBytes s.mem (buf + i) 1)
    let who : BitVec 8 := BitVec.ofNat 8 (byte 0)
    let op := (bitsAt v 0 8).toNat
    let own : Prop := a.hart = true ∧ a.world = w
    let s' := s.peek buf 0x800
    let held := s.areaHeld buf (if op = 4 ∨ op = 5 ∨ op = 7 then 0x2000 else 0x800)
    (held = true → ∀ i ∈ [Instr.tbCreate, .tbDestroy, .tbExtend, .tbEvidence, .tbExport, .tbImport, .tbRelease, .tbBadcmd], exec i s = .next s) ∧
    (held = false →
    (s.tbBad c = true → exec .tbBadcmd s = .next (ends s 2)) ∧
    ((op = 0 ∨ 7 < op) → s.tbBad c = true) ∧
    (s.tbBad c = false →
      (∀ i, (op = 1 ∧ i = .tbCreate ∨ op = 2 ∧ i = .tbDestroy ∨ op = 3 ∧ i = .tbExtend) → a.trust = false → exec i s = .next (ends s 3)) ∧
      (op = 1 → a.trust = true →
        (s.worldV who = true → exec .tbCreate s = .next (ends s' 7)) ∧
        (s.worldV who = false → ∃ u : State, exec .tbCreate s = .next (ends u 0) ∧ u.laygen = s.laygen + 1 ∧ u.mem = s.mem ∧
          (∃ k, u.keys.head? = some k ∧ k.world = who ∧ k.meas = 0 ∧ k.counter = 0 ∧ k.evidence = none) ∧
          u.regs = (s'.setReg (0xA000 + 16 * who.toNat) (BitVec.ofNat 64 (2 ^ 63 + (if byte 1 % 2 = 1 then 2 ^ 62 else 0) +
            (if byte 1 / 2 % 2 = 1 then 2 ^ 61 else 0)))).regs)) ∧
      (op = 2 → a.trust = true →
        ((∃ l ∈ s.launches, l.world = who) → exec .tbDestroy s = .next (ends s' 8)) ∧
        ((∀ l ∈ s.launches, l.world ≠ who) → ∃ u : State, exec .tbDestroy s = .next (ends u 0) ∧ (∀ k ∈ u.keys, k.world ≠ who) ∧
          u.regs = (s'.setReg (0xA000 + 16 * who.toNat) 0).regs ∧ u.mem = s.mem ∧ u.laygen = s.laygen + 1)) ∧
      (op = 3 → a.trust = true →
        (s.worldV who = false → exec .tbExtend s = .next (ends s' 6)) ∧
        (s.worldV who = true → ∃ u : State, exec .tbExtend s = .next (ends u 0) ∧
          (u.keysOf who).meas = Config.shake256 (toBytes (s.keysOf who).meas 64 ++ readBytes s.mem (buf + 0x40) 64) ∧
          (∀ x, x ≠ who → u.keysOf x = s.keysOf x) ∧ u.laygen = s.laygen + 1)) ∧
      (op = 4 → (own ∨ a.trust = true) → ∃ u : State, exec .tbEvidence s = .next (ends u 0) ∧
        (s.memOk → ∀ b, (b < buf + 0x800 ∨ buf + 0x800 + 4992 ≤ b) → cellRead u.mem b = cellRead s.mem b) ∧
        (u.keysOf w).meas = (s.keysOf w).meas ∧ ∃ key, (u.keysOf w).evidence = some (ofBytes 256 (readBytes s.mem (buf + 0x20) 32), key)) ∧
      (op = 5 → (own ∨ a.trust = true) → ∃ u : State, exec .tbExport s = .next (ends u 0) ∧ u.keys = s.keys ∧ u.laygen = s.laygen ∧
        (s.memOk → ∀ b, (b < buf + 0x800 ∨ buf + 0x800 + 256 ≤ b) → cellRead u.mem b = cellRead s.mem b)) ∧
      (op = 6 → own →
        let blob := readBytes s.mem (buf + 0x100) 256
        (bytesToNat (readBytes s.mem (buf + 8) 8) ≠ s.laygen.toNat → exec .tbImport s = .next (ends s' 4)) ∧
        (bytesToNat (readBytes s.mem (buf + 8) 8) = s.laygen.toNat →
          (s.blobKeys w blob = none → exec .tbImport s = .next (ends s' 5)) ∧
          (∀ ks, s.blobKeys w blob = some ks → ∃ u : State, exec .tbImport s = .next (ends u 0) ∧ u.laygen = s.laygen + 1 ∧
            (u.keysOf w).fabric = ofBytes 256 (ks.take 32) ∧ (u.keysOf w).meas = (s.keysOf w).meas))) ∧
      (op = 7 → own →
        let nonce : BitVec 256 := ofBytes 256 (readBytes s.mem (buf + 0x20) 32)
        (bytesToNat (readBytes s.mem (buf + 8) 8) ≠ s.laygen.toNat → exec .tbRelease s = .next (ends s' 4)) ∧
        (bytesToNat (readBytes s.mem (buf + 8) 8) = s.laygen.toNat →
          ((∀ key, (s.keysOf w).evidence ≠ some (nonce, key)) → exec .tbRelease s = .next (ends s' 1)) ∧
          (∀ key, (s.keysOf w).evidence = some (nonce, key) →
            let used := s'.putKeys { s.keysOf w with evidence := none }
            (s.released c key = none → exec .tbRelease s = .next (ends used 5)) ∧
            (∀ bs, s.released c key = some bs → exec .tbRelease s = .next (ends (used.poke (buf + 0x800) bs) 0)))))))
end

