-- ==== Sys2Proof/Laws/Fire.lean ====
section
/-! SUPPORT. What an issue can do, once for every fabric instruction: where it stops, where it stalls, and what its state is
when it completes (R16, R23 to R27, R179, R180, R405). -/

namespace Sys2Proof.Machine

/-- What an issuing instruction sees is in the state. -/
theorem ctx?_some {s : State} {f : Fields} {c : Ctx} (h : s.ctx? f = some c) :
    c.s = s ∧ c.f = f ∧ s.launch? c.p.r.h = some c.l ∧ c.l.members[c.p.r.m]? = some c.g ∧
      c.g.elem? c.p.x c.p.y = some c.e ∧ s.focus = .elem c.p := by
  unfold State.ctx? at h
  split at h <;> try contradiction
  rename_i p hp
  split at h <;> try contradiction
  rename_i l hl
  split at h <;> try contradiction
  rename_i g hg
  split at h <;> try contradiction
  rename_i e he
  split at h <;> try contradiction
  cases h
  exact ⟨rfl, rfl, hl, hg, he, hp⟩

/-- The matched tag is the set's, and the tag operation is applied to it. -/
theorem ctx?_tag {s : State} {f : Fields} {c : Ctx} (h : s.ctx? f = some c) : c.tag = c.set.tag ∧ c.tagOut = tagOp c.g.tagw f c.tag := by
  unfold State.ctx? at h
  split at h <;> try contradiction
  split at h <;> try contradiction
  split at h <;> try contradiction
  split at h <;> try contradiction
  split at h <;> try contradiction
  cases h
  exact ⟨rfl, rfl⟩

/-- A reduction whose set has no left operand has the exit token's tag already. -/
theorem atExit_self {s : State} {f : Fields} {c : Ctx} (h : s.ctx? f = some c) (hl : c.set.l = none) : c.atExit = c := by
  have hf := (ctx?_some h).2.1
  obtain ⟨h1, h2⟩ := ctx?_tag h
  unfold Ctx.atExit
  split
  · rfl
  · rename_i e he
    have ht : e.tag = c.tag := by rw [h1]; simp [ReadySet.tag, ReadySet.toks, hl, he]
    subst hf
    rw [ht, ← h2]

/-- The tags that an issuing instruction sees. -/
theorem ctx?_tags {s : State} {f : Fields} {c : Ctx} (h : s.ctx? f = some c) :
    c.tag = c.set.tag ∧ c.tagOut = tagOp c.g.tagw f c.tag := by
  unfold State.ctx? at h
  split at h <;> try contradiction
  split at h <;> try contradiction
  split at h <;> try contradiction
  split at h <;> try contradiction
  split at h <;> try contradiction
  cases h
  exact ⟨rfl, rfl⟩

theorem ctx?_setBub {s : State} {f : Fields} {c : Ctx} (h : s.ctx? f = some c) (f' : Fields) :
    s.ctx? f' = some { c with f := f', tagOut := tagOp c.g.tagw f' c.tag } := by
  unfold State.ctx? at h ⊢
  split at h <;> try contradiction
  split at h <;> try contradiction
  split at h <;> try contradiction
  split at h <;> try contradiction
  split at h <;> try contradiction
  cases h
  rfl

/-- A completed issue. -/
theorem Ctx.finish_issuedIn (c : Ctx) (x : Effect) (hroom : x.e.out.length + x.emits.length + x.reqs.length ≤ 4)
    (hcol : c.recolourRefused = false) (hep : c.needsAdvance = false) (hk : x.keep = false) :
    c.finish x = c.issuedIn x.s x.e x.emits x.reqs := by
  have h4 : ¬ (x.e.out.length + x.emits.length + x.reqs.length > 4) := by omega
  simp only [Ctx.finish, hcol, hep, hk, Bool.false_eq_true, if_false, h4, issuedIn, sentIn, State.region?]
  cases hl : x.s.launch? c.p.r.h with
  | none => rfl
  | some l =>
    cases hg : l.members[c.p.r.m]? with
    | none => simp [hg]
    | some g => simp [hg, Launch.put]

/-- An issue that keeps its set. -/
theorem Ctx.finish_partIssued (c : Ctx) (x : Effect) (hroom : x.e.out.length + x.emits.length + x.reqs.length ≤ 4)
    (hcol : c.recolourRefused = false) (hep : c.needsAdvance = false) (hk : x.keep = true) (hs : x.s = c.s) (hr : x.reqs = []) :
    c.finish x = c.partIssued x.e x.emits := by
  have h4 : ¬ (x.e.out.length + x.emits.length + ([] : List OutItem).length > 4) := by rw [hr] at hroom; omega
  simp only [Ctx.finish, hcol, hep, hk, hs, hr, Bool.false_eq_true, if_false, h4, partIssued, sentIn, State.region?, if_true]
  cases hl : c.s.launch? c.p.r.h with
  | none => rfl
  | some l =>
    cases hg : l.members[c.p.r.m]? with
    | none => simp [hg]
    | some g => simp [hg, Launch.put]

theorem ReadySet.record?_eq_none {r : ReadySet} (h : ∀ t ∈ r.toks, t.kind ≠ 3) : r.record? = none := by
  simpa [ReadySet.record?] using h

theorem ReadySet.control_eq_false {r : ReadySet} (h : ∀ t ∈ r.toks, t.kind ≠ 2) : r.control = false := by
  simpa [ReadySet.control] using h

theorem ReadySet.bubbly_eq_false {r : ReadySet} (h : ∀ t ∈ r.toks, t.pred = true) : r.bubbly = false := by
  simpa [ReadySet.bubbly] using h

/-- Ordinary operands reach the instruction itself. -/
theorem Ctx.standard_plain {c : Ctx} (hp : c.Plain) (own : Ctx → Effect) : c.standard own = own c := by
  simp [Ctx.standard, hp.raise, ReadySet.record?_eq_none hp.record, ReadySet.control_eq_false hp.control,
    ReadySet.bubbly_eq_false hp.bubble]

/-- An instruction on ordinary operands completes. -/
theorem fire_plain {f : Fields} {s : State} {c : Ctx} {n : Nat} (hi : Issues f s c n) (hp : c.Plain) (own : Ctx → Effect)
    (ho : (own c).e.out = c.e.out) (hn : (own c).emits.length + (own c).reqs.length ≤ n) (hk : (own c).keep = false) :
    fire f s own = .next (c.issuedIn (own c).s (own c).e (own c).emits (own c).reqs) := by
  have hr := hi.room
  simp only [fire, hi.here, Ctx.standard_plain hp]
  rw [Ctx.finish_issuedIn c _ (by rw [ho]; omega) hi.colour hi.epoch hk]

/-- An instruction that treats its operands itself completes. -/
theorem fireRaw_plain {f : Fields} {s : State} {c : Ctx} {n : Nat} (hi : Issues f s c n) (hr : c.set.raise = none)
    (own : Ctx → Effect) (ho : (own c).e.out = c.e.out) (hn : (own c).emits.length + (own c).reqs.length ≤ n)
    (hk : (own c).keep = false) :
    fireRaw f s own = .next (c.issuedIn (own c).s (own c).e (own c).emits (own c).reqs) := by
  have hroom := hi.room
  simp only [fireRaw, hi.here, hr]
  rw [Ctx.finish_issuedIn c _ (by rw [ho]; omega) hi.colour hi.epoch hk]

theorem Issues.s_eq {f : Fields} {s : State} {c : Ctx} {n : Nat} (hi : Issues f s c n) : c.s = s := (ctx?_some hi.here).1
theorem Issues.f_eq {f : Fields} {s : State} {c : Ctx} {n : Nat} (hi : Issues f s c n) : c.f = f := (ctx?_some hi.here).2.1

/-- One payload for every destination. -/
theorem fireData_plain {f : Fields} {s : State} {c : Ctx} (hi : Issues f s c (dests f).length) (hp : c.Plain)
    (g : Opnds → Payload) : fireData f s g = .next (c.issued c.e (c.toAll (g (operands c.e f c.set none)))) := by
  rw [fireData, fire_plain hi hp] <;> simp [Ctx.all, Ctx.sends, Ctx.issued, Ctx.toAll, hi.f_eq]

theorem fireMad_plain {f : Fields} {s : State} {c : Ctx} (hi : Issues f s c (dests f).length) (hp : c.Plain)
    (g : Opnds → Payload) :
    fireMad f s g = .next (c.issued c.e (c.toAll (g (operands c.e f c.set (some (bitsAt f.xmod 0 3)))))) := by
  rw [fireMad, fire_plain hi hp] <;> simp [Ctx.all, Ctx.sends, Ctx.issued, Ctx.toAll, hi.f_eq]

/-- The number of tokens of two results. -/
theorem Ctx.length_toBoth (c : Ctx) (u v : Payload) : (c.toBoth u v).length = (dests c.f).length := by
  cases h0 : c.f.dst0.v <;> cases h1 : c.f.dst1.v <;> simp [toBoth, dests, h0, h1]

theorem firePair_plain {f : Fields} {s : State} {c : Ctx} (hi : Issues f s c (dests f).length) (hp : c.Plain)
    (g : Opnds → Payload × Payload) :
    firePair f s g = .next (c.issued c.e (c.toBoth (g (operands c.e f c.set none)).1 (g (operands c.e f c.set none)).2)) := by
  have hl := c.length_toBoth (g (operands c.e f c.set none)).1 (g (operands c.e f c.set none)).2
  rw [Ctx.toBoth] at hl
  rw [firePair, fire_plain hi hp] <;> simp_all [Ctx.pair, Ctx.sends, Ctx.issued, Ctx.toBoth, hi.f_eq]

theorem fireConv_plain {f : Fields} {s : State} {c : Ctx} (hi : Issues f s c (dests f).length) (hp : c.Plain)
    (g : Opnds → Payload × Word32) :
    fireConv f s g = .next (c.issued { c.e with xs := (g (operands c.e f c.set none)).2 } (c.toAll (g (operands c.e f c.set none)).1)) := by
  rw [fireConv, fire_plain hi hp] <;> simp [Ctx.all, Ctx.sends, Ctx.issued, Ctx.toAll, hi.f_eq]

/-! ## Instructions that only send and change their element -/

section
variable {f : Fields} {s : State} {c : Ctx} {n : Nat}

theorem fire_sends (hi : Issues f s c n) (hp : c.Plain) (own : Ctx → Effect) (e' : Elem) (es : List Emit)
    (h : own c = ⟨c.s, e', es, [], false⟩) (ho : e'.out = c.e.out) (hn : es.length ≤ n) : fire f s own = .next (c.issued e' es) := by
  rw [fire_plain hi hp own (by rw [h]; exact ho) (by rw [h]; simpa using hn) (by rw [h]), h]; rfl

theorem fireRaw_sends (hi : Issues f s c n) (hr : c.set.raise = none) (own : Ctx → Effect) (e' : Elem) (es : List Emit)
    (h : own c = ⟨c.s, e', es, [], false⟩) (ho : e'.out = c.e.out) (hn : es.length ≤ n) : fireRaw f s own = .next (c.issued e' es) := by
  rw [fireRaw_plain hi hr own (by rw [h]; exact ho) (by rw [h]; simpa using hn) (by rw [h]), h]; rfl
end

theorem dst0_le (f : Fields) (m : Emit) : (if f.dst0.v then [m] else []).length ≤ (dests f).length := by
  cases h0 : f.dst0.v <;> cases h1 : f.dst1.v <;> simp [dests, h0, h1]
theorem dst1_le (f : Fields) (m : Emit) : (if f.dst1.v then [m] else []).length ≤ (dests f).length := by
  cases h0 : f.dst0.v <;> cases h1 : f.dst1.v <;> simp [dests, h0, h1]

end Sys2Proof.Machine
end

