-- ==== Sys2Proof/Laws/Lanes.lean ====
section
/-! SUPPORT. Lanes: what reading a lane of a packed payload gives, and that the lanes of a type fill a payload (R33, R34). -/

namespace Sys2Proof.Machine

theorem packNat_lt (w : Nat) (ls : List Nat) : packNat w ls < 2 ^ (w * ls.length) := by
  induction ls with
  | nil => simp [packNat]
  | cons v vs ih =>
    have h1 : v % 2 ^ w < 2 ^ w := Nat.mod_lt _ (Nat.two_pow_pos w)
    have h2 : 2 ^ w * (packNat w vs + 1) ≤ 2 ^ w * 2 ^ (w * vs.length) := Nat.mul_le_mul_left _ ih
    have h3 : 2 ^ (w * (vs.length + 1)) = 2 ^ w * 2 ^ (w * vs.length) := by
      rw [Nat.mul_add, Nat.mul_one, Nat.pow_add, Nat.mul_comm]
    simp only [packNat, List.length_cons, h3]
    rw [Nat.mul_add, Nat.mul_one] at h2
    omega

/-- Lane i of the packed number. -/
theorem packNat_lane (w : Nat) (ls : List Nat) (i : Nat) (h : i < ls.length) :
    packNat w ls >>> (w * i) % 2 ^ w = ls[i] % 2 ^ w := by
  induction ls generalizing i with
  | nil => simp at h
  | cons v vs ih =>
    cases i with
    | zero => simp [packNat, Nat.add_mul_mod_self_left]
    | succ i =>
      have hs : packNat w (v :: vs) >>> (w * (i + 1)) = packNat w vs >>> (w * i) := by
        rw [Nat.mul_add, Nat.mul_one, Nat.add_comm (w * i) w, Nat.shiftRight_add]
        congr 1
        rw [Nat.shiftRight_eq_div_pow, packNat, Nat.add_mul_div_left _ _ (Nat.two_pow_pos w),
          Nat.div_eq_of_lt (Nat.mod_lt _ (Nat.two_pow_pos w)), Nat.zero_add]
      rw [hs, List.getElem_cons_succ]
      exact ih i (by simpa using h)

/-- A lane of a packed payload, when the lanes fit in it. -/
theorem laneU_packLanes (w : Nat) (ls : List Nat) (i : Nat) (h : i < ls.length) (hw : w * ls.length ≤ 256) :
    laneU w (packLanes w ls) i = ls[i] % 2 ^ w := by
  have hlt : packNat w ls < 2 ^ 256 := lt_of_lt_of_le (packNat_lt w ls) (Nat.pow_le_pow_right (by omega) hw)
  rw [laneU, packLanes, BitVec.toNat_ofNat, Nat.mod_eq_of_lt hlt, packNat_lane w ls i h]

/-- The lanes of a type fill the payload. -/
theorem etWidth_mul_etLanes (t : ET) : etWidth t * etLanes t = 256 := by cases t <;> rfl

theorem etWidth_pos (t : ET) : 0 < etWidth t := by cases t <;> decide
theorem etLanes_pos (t : ET) : 0 < etLanes t := by cases t <;> decide

theorem laneU_lt (w : Nat) (p : Payload) (i : Nat) : laneU w p i < 2 ^ w := Nat.mod_lt _ (Nat.two_pow_pos w)

/-- Lane i of a payload packed from a function on the lanes of a type. -/
theorem laneU_packLanes_range (t : ET) (g : Nat → Nat) (i : Nat) (h : i < etLanes t) :
    laneU (etWidth t) (packLanes (etWidth t) ((List.range (etLanes t)).map g)) i = g i % 2 ^ etWidth t := by
  rw [laneU_packLanes _ _ _ (by simpa using h) (by simp [etWidth_mul_etLanes])]
  simp

/-- Lane i of a data result (R81). -/
theorem laneU_laneResult (f : Fields) (x : Opnds) (g : Nat → Nat) (i : Nat) (h : i < etLanes f.et) :
    laneU (etWidth f.et) (laneResult f x g) i = if laneOn f x i then g i % 2 ^ etWidth f.et else laneU (etWidth f.et) x.a i := by
  rw [laneResult, laneU_packLanes_range _ _ _ h]
  split
  · rfl
  · exact Nat.mod_eq_of_lt (laneU_lt _ _ _)

/-- Lane i of a predicate result (R81, R83). -/
theorem laneU_predResult (f : Fields) (x : Opnds) (g : Nat → Bool) (i : Nat) (h : i < etLanes f.et) :
    laneU (etWidth f.et) (predResult f x g) i = if laneOn f x i && g i then 1 else 0 := by
  rw [predResult, laneU_packLanes_range _ _ _ h]
  have : 1 < 2 ^ etWidth f.et := Nat.one_lt_two_pow (by have := etWidth_pos f.et; omega)
  split
  · exact Nat.mod_eq_of_lt this
  · rfl

theorem wrapTo_lt (w : Nat) (x : Int) : wrapTo w x < 2 ^ w := by
  have hp : (0 : Int) < 2 ^ w := by positivity
  have h1 := Int.emod_lt_of_pos x hp
  have h0 := Int.emod_nonneg x (ne_of_gt hp)
  have : ((x % 2 ^ w).toNat : Int) < ((2 ^ w : Nat) : Int) := by
    rw [Int.toNat_of_nonneg h0]; push_cast; exact h1
  exact_mod_cast this

/-- The payload with one number in lane 0: lane 0 and the others. -/
theorem laneU_lane0 (t : ET) (v i : Nat) (hv : v < 2 ^ etWidth t) :
    laneU (etWidth t) (lane0 v) i = if i = 0 then v else 0 := by
  have hw : etWidth t ≤ 256 := by cases t <;> decide
  have h256 : v < 2 ^ 256 := lt_of_lt_of_le hv (Nat.pow_le_pow_right (by omega) hw)
  rw [laneU, lane0, BitVec.toNat_ofNat, Nat.mod_eq_of_lt h256]
  split
  · subst_vars; simpa using Nat.mod_eq_of_lt hv
  · rename_i hi
    have : etWidth t ≤ etWidth t * i := Nat.le_mul_of_pos_right _ (Nat.pos_of_ne_zero hi)
    rw [Nat.shiftRight_eq_div_pow, Nat.div_eq_of_lt (lt_of_lt_of_le hv (Nat.pow_le_pow_right (by omega) this)), Nat.zero_mod]

end Sys2Proof.Machine
end

