-- ==== Sys2Proof/Laws/Compute.lean ====
section
/-! SUPPORT. From what an instruction computes to the lanes of what it sends (R35, R81 to R83). -/

namespace Sys2Proof.Machine

theorem laneOn_false_iff (f : Fields) (x : Opnds) (k : Nat) :
    (x.pOn = true ∧ predLane (etWidth f.et) f.pinv x.p k = false) ↔ laneOn f x k = false := by
  simp [laneOn]

theorem laneU_laneResult' (f : Fields) (x : Opnds) (g : Nat → Nat) (k : Nat) (h : k < etLanes f.et)
    (hg : g k < 2 ^ etWidth f.et) :
    laneU (etWidth f.et) (laneResult f x g) k = dataLane f x g k := by
  rw [laneU_laneResult _ _ _ _ h, dataLane, Nat.mod_eq_of_lt hg]
  simp only [laneOn_false_iff]
  cases laneOn f x k <;> simp

theorem fitInt_eq_fitted (f : Fields) (v : Int) : fitInt f.et f.sat v = fitted f v := by
  simp only [fitInt, fitted, wrapTo, clampTo, gt_iff_lt]
  split <;> rfl

theorem fitted_lt (f : Fields) (v : Int) : fitted f v < 2 ^ etWidth f.et := by
  rw [← fitInt_eq_fitted]; exact wrapTo_lt _ _

theorem laneU_intResult (f : Fields) (x : Opnds) (g : Nat → Int) (k : Nat) (hk : k < etLanes f.et) :
    laneU (etWidth f.et) (intResult f x g) k = dataLane f x (fun k => fitted f (g k)) k := by
  rw [intResult, laneU_laneResult' _ _ _ _ hk (by rw [fitInt_eq_fitted]; exact fitted_lt _ _)]
  simp [dataLane, fitInt_eq_fitted]

theorem laneU_predResult' (f : Fields) (x : Opnds) (g : Nat → Bool) (h : Nat → Prop) [∀ k, Decidable (h k)] (k : Nat) (hk : k < etLanes f.et)
    (e : g k = true ↔ h k) : laneU (etWidth f.et) (predResult f x g) k = flagLane f x h k := by
  rw [laneU_predResult _ _ _ _ hk, flagLane]
  simp only [laneOn_false_iff]
  by_cases hh : h k
  · cases laneOn f x k <;> simp [hh, e.2 hh]
  · have : g k = false := by cases hg : g k; rfl; exact absurd (e.1 hg) hh
    cases laneOn f x k <;> simp [hh, this]

section
variable {i : Instr} {f : Fields} {s : State} {c : Ctx}

theorem computes_data (hi : Issues f s c (dests f).length) (hp : c.Plain)
    (g : Opnds → Payload) (he : exec i s = fireData f s g) (x : Opnds) (hx : operands c.e f c.set none = x) (lane : Nat → Nat)
    (hl : ∀ k < etLanes f.et, laneU (etWidth f.et) (g x) k = lane k) : Computes i f s c lane :=
  ⟨g x, by rw [he, fireData_plain hi hp, hx], hl⟩

theorem computes_int (hi : Issues f s c (dests f).length) (hp : c.Plain)
    (g : Opnds → Nat → Int) (he : exec i s = fireData f s fun x => intResult f x (g x)) (x : Opnds) (hx : operands c.e f c.set none = x) :
    Computes i f s c (dataLane f x fun k => fitted f (g x k)) :=
  computes_data hi hp _ he x hx _ fun k hk => laneU_intResult f x (g x) k hk

theorem computes_mad (hi : Issues f s c (dests f).length) (hp : c.Plain)
    (g : Opnds → Nat → Int) (he : exec i s = fireMad f s fun x => intResult f x (g x)) (x : Opnds)
    (hx : operands c.e f c.set (some (bitsAt f.xmod 0 3)) = x) :
    Computes i f s c (dataLane f x fun k => fitted f (g x k)) :=
  ⟨intResult f x (g x), by rw [he, fireMad_plain hi hp, hx], fun k hk => laneU_intResult f x (g x) k hk⟩

theorem computes_both (hi : Issues f s c (dests f).length) (hp : c.Plain)
    (g : Opnds → Payload × Payload) (he : exec i s = firePair f s g) (x : Opnds) (hx : operands c.e f c.set none = x) (l0 l1 : Nat → Nat)
    (h0 : ∀ k < etLanes f.et, laneU (etWidth f.et) (g x).1 k = l0 k)
    (h1 : ∀ k < etLanes f.et, laneU (etWidth f.et) (g x).2 k = l1 k) : ComputesBoth i f s c l0 l1 :=
  ⟨(g x).1, (g x).2, by rw [he, firePair_plain hi hp, hx], h0, h1⟩
end

theorem laneInt_zero (t : ET) (p : Payload) (k : Nat) : laneInt t p k = 0 ↔ laneU (etWidth t) p k = 0 := by
  have h := laneU_lt (etWidth t) p k
  have h2 := Nat.two_pow_pos (etWidth t - 1)
  unfold laneInt toSigned
  split
  · split
    · simp
    · have : (laneU (etWidth t) p k : Int) < ((2 ^ etWidth t : Nat) : Int) := by exact_mod_cast h
      push_cast at this; omega
  · simp

end Sys2Proof.Machine
end

