-- ==== Sys2Proof/Laws/Encoding.lean ====
section
/-! SUPPORT. The fields of an encoded slot word, and the bytes of a word (R34, R52, R53, R59). -/

open Sys2Proof Sys2Proof.Machine

/-- Two conditionals agree where their conditions and branches do. -/
theorem ite_step {α : Type} {p q : Prop} [Decidable p] [Decidable q] {a b c d : α} (h : p ↔ q) (ha : q → a = c) (hb : ¬ q → b = d) :
    (if p then a else b) = if q then c else d := by
  by_cases hq : q
  · rw [if_pos hq, if_pos (h.mpr hq), ha hq]
  · rw [if_neg hq, if_neg (mt h.mp hq), hb hq]
/-- The bit of a Bool. -/
theorem getLsbD_b2b (b : Bool) : (b2b b).getLsbD 0 = b := by cases b <;> rfl

/-- The bit of a Bool, at 0. -/
theorem b2b_at {b : Bool} {n : Nat} (h : n = 0) : (b2b b).getLsbD n = b := h ▸ getLsbD_b2b b

/-- The bits of an encoded slot word (R52). -/
theorem encodeFields_bit (opc : BitVec 9) (f : Fields) (i : Nat) : (encodeFields opc f).getLsbD i =
   if i < 10 then f.xmod.getLsbD i else if i < 31 then (encodeDst f.dst1).getLsbD (i - 10) else if i < 52 then (encodeDst f.dst0).getLsbD (i - 31)
   else if i < 84 then f.imm.getLsbD (i - 52) else if i < 92 then f.mod.getLsbD (i - 84) else if i < 93 then f.ord else if i < 94 then f.bub else if i < 95 then f.pinv else if i < 96 then f.sat
   else if i < 99 then f.rnd.getLsbD (i - 96) else if i < 101 then f.ssel.getLsbD (i - 99) else if i < 104 then f.ksel.getLsbD (i - 101) else if i < 107 then f.rsrc.getLsbD (i - 104)
   else if i < 110 then f.lsrc.getLsbD (i - 107) else if i < 113 then f.top.getLsbD (i - 110) else if i < 115 then (arCode f.ar).getLsbD (i - 113) else if i < 119 then (etCode f.et).getLsbD (i - 115)
   else opc.getLsbD (i - 119) := by
  have h : (encodeFields opc f).getLsbD i = BitVec.getLsbD (w := 9+4+2+3+3+3+3+2+3+1+1+1+1+8+32+21+21+10) (opc ++ etCode f.et ++ arCode f.ar ++ f.top ++ f.lsrc ++ f.rsrc ++ f.ksel ++ f.ssel ++ f.rnd ++
    b2b f.sat ++ b2b f.pinv ++ b2b f.bub ++ b2b f.ord ++ f.mod ++ f.imm ++
    encodeDst f.dst0 ++ encodeDst f.dst1 ++ f.xmod) i := rfl
  rw [h]
  simp only [BitVec.getLsbD_append]
  iterate 17
    refine ite_step ?_ (fun h => ?_) (fun _ => ?_)
    · omega
    · first
        | with_reducible rfl
        | exact congrArg (BitVec.getLsbD _) (by omega)
        | exact b2b_at (by omega)
  exact congrArg (BitVec.getLsbD _) (by omega)

/-- The bits of an encoded destination (R59). -/
theorem encodeDst_bit (d : Dst) (i : Nat) : (encodeDst d).getLsbD i =
    if i < 2 then d.side.getLsbD i else if i < 7 then d.slot.getLsbD (i - 2) else if i < 13 then d.dy.getLsbD (i - 7)
    else if i < 20 then d.dx.getLsbD (i - 13) else (b2b d.v).getLsbD (i - 20) := by
  have h : (encodeDst d).getLsbD i = BitVec.getLsbD (w := 1 + 7 + 6 + 5 + 2) (b2b d.v ++ d.dx ++ d.dy ++ d.slot ++ d.side) i := rfl
  rw [h]
  simp only [BitVec.getLsbD_append]
  iterate 4
    refine ite_step ?_ (fun h => ?_) (fun _ => ?_)
    · omega
    · exact congrArg (BitVec.getLsbD _) (by omega)
  exact congrArg (BitVec.getLsbD _) (by omega)

/-- A field of a word is what its bits are. -/
theorem bitsAt_eq {n len : Nat} {w : BitVec n} {lo : Nat} {v : BitVec len} (h : ∀ i < len, w.getLsbD (lo + i) = v.getLsbD i) :
    bitsAt w lo len = v := by
  ext i hi
  simp only [bitsAt, BitVec.getElem_extractLsb']
  rw [h i hi, BitVec.getLsbD_eq_getElem]

/-- Decoding an encoded destination gives it back. -/
theorem decodeDst_encodeDst (d : Dst) : decodeDst (encodeDst d) = d := by
  have hv : bitAt (encodeDst d) 20 = d.v := by
    rw [bitAt, encodeDst_bit]; exact getLsbD_b2b d.v
  have h1 : bitsAt (encodeDst d) 13 7 = d.dx := bitsAt_eq fun i hi => by
    rw [encodeDst_bit]
    iterate 3 rw [if_neg (by omega)]
    rw [if_pos (by omega)]
    exact congrArg (BitVec.getLsbD _) (by omega)
  have h2 : bitsAt (encodeDst d) 7 6 = d.dy := bitsAt_eq fun i hi => by
    rw [encodeDst_bit, if_neg (by omega), if_neg (by omega), if_pos (by omega)]
    exact congrArg (BitVec.getLsbD _) (by omega)
  have h3 : bitsAt (encodeDst d) 2 5 = d.slot := bitsAt_eq fun i hi => by
    rw [encodeDst_bit, if_neg (by omega), if_pos (by omega)]
    exact congrArg (BitVec.getLsbD _) (by omega)
  have h4 : bitsAt (encodeDst d) 0 2 = d.side := bitsAt_eq fun i hi => by
    rw [encodeDst_bit, if_pos (by omega)]
    exact congrArg (BitVec.getLsbD _) (by omega)
  rw [decodeDst, hv, h1, h2, h3, h4]

/-- The element type of an encoded one. -/
theorem etOfCode_etCode (t : ET) : etOfCode (etCode t) = t := by cases t <;> rfl
/-- The arity of an encoded one. -/
theorem arOfCode_arCode (a : Arity) : arOfCode (arCode a) = a := by cases a <;> rfl
/-- The code of a decoded element type. -/
theorem etCode_etOfCode (c : BitVec 4) : etCode (etOfCode c) = c := by
  revert c; decide
/-- The code of a decoded arity. -/
theorem arCode_arOfCode (c : BitVec 2) : arCode (arOfCode c) = c := by
  revert c; decide

/-- OPC of an encoded word. -/
@[simp] theorem encodeFields_opc (opc : BitVec 9) (f : Fields) : bitsAt (encodeFields opc f) 119 9 = opc := bitsAt_eq fun i hi => by
  rw [encodeFields_bit]
  iterate 17 rw [if_neg (by omega)]
  exact congrArg (BitVec.getLsbD _) (by omega)

/-- ET of an encoded word. -/
@[simp] theorem encodeFields_et (opc : BitVec 9) (f : Fields) : bitsAt (encodeFields opc f) 115 4 = etCode f.et := bitsAt_eq fun i hi => by
  rw [encodeFields_bit]
  iterate 16 rw [if_neg (by omega)]
  rw [if_pos (by omega)]
  exact congrArg (BitVec.getLsbD _) (by omega)

/-- AR of an encoded word. -/
@[simp] theorem encodeFields_ar (opc : BitVec 9) (f : Fields) : bitsAt (encodeFields opc f) 113 2 = arCode f.ar := bitsAt_eq fun i hi => by
  rw [encodeFields_bit]
  iterate 15 rw [if_neg (by omega)]
  rw [if_pos (by omega)]
  exact congrArg (BitVec.getLsbD _) (by omega)

/-- TOP of an encoded word. -/
@[simp] theorem encodeFields_top (opc : BitVec 9) (f : Fields) : bitsAt (encodeFields opc f) 110 3 = f.top := bitsAt_eq fun i hi => by
  rw [encodeFields_bit]
  iterate 14 rw [if_neg (by omega)]
  rw [if_pos (by omega)]
  exact congrArg (BitVec.getLsbD _) (by omega)

/-- LSRC of an encoded word. -/
@[simp] theorem encodeFields_lsrc (opc : BitVec 9) (f : Fields) : bitsAt (encodeFields opc f) 107 3 = f.lsrc := bitsAt_eq fun i hi => by
  rw [encodeFields_bit]
  iterate 13 rw [if_neg (by omega)]
  rw [if_pos (by omega)]
  exact congrArg (BitVec.getLsbD _) (by omega)

/-- RSRC of an encoded word. -/
@[simp] theorem encodeFields_rsrc (opc : BitVec 9) (f : Fields) : bitsAt (encodeFields opc f) 104 3 = f.rsrc := bitsAt_eq fun i hi => by
  rw [encodeFields_bit]
  iterate 12 rw [if_neg (by omega)]
  rw [if_pos (by omega)]
  exact congrArg (BitVec.getLsbD _) (by omega)

/-- KSEL of an encoded word. -/
@[simp] theorem encodeFields_ksel (opc : BitVec 9) (f : Fields) : bitsAt (encodeFields opc f) 101 3 = f.ksel := bitsAt_eq fun i hi => by
  rw [encodeFields_bit]
  iterate 11 rw [if_neg (by omega)]
  rw [if_pos (by omega)]
  exact congrArg (BitVec.getLsbD _) (by omega)

/-- SSEL of an encoded word. -/
@[simp] theorem encodeFields_ssel (opc : BitVec 9) (f : Fields) : bitsAt (encodeFields opc f) 99 2 = f.ssel := bitsAt_eq fun i hi => by
  rw [encodeFields_bit]
  iterate 10 rw [if_neg (by omega)]
  rw [if_pos (by omega)]
  exact congrArg (BitVec.getLsbD _) (by omega)

/-- RND of an encoded word. -/
@[simp] theorem encodeFields_rnd (opc : BitVec 9) (f : Fields) : bitsAt (encodeFields opc f) 96 3 = f.rnd := bitsAt_eq fun i hi => by
  rw [encodeFields_bit]
  iterate 9 rw [if_neg (by omega)]
  rw [if_pos (by omega)]
  exact congrArg (BitVec.getLsbD _) (by omega)

/-- SAT of an encoded word. -/
@[simp] theorem encodeFields_sat (opc : BitVec 9) (f : Fields) : bitAt (encodeFields opc f) 95 = f.sat := by
  rw [bitAt, encodeFields_bit]
  rfl

/-- PINV of an encoded word. -/
@[simp] theorem encodeFields_pinv (opc : BitVec 9) (f : Fields) : bitAt (encodeFields opc f) 94 = f.pinv := by
  rw [bitAt, encodeFields_bit]
  rfl

/-- BUB of an encoded word. -/
@[simp] theorem encodeFields_bub (opc : BitVec 9) (f : Fields) : bitAt (encodeFields opc f) 93 = f.bub := by
  rw [bitAt, encodeFields_bit]
  rfl

/-- ORD of an encoded word. -/
@[simp] theorem encodeFields_ord (opc : BitVec 9) (f : Fields) : bitAt (encodeFields opc f) 92 = f.ord := by
  rw [bitAt, encodeFields_bit]
  rfl

/-- MOD of an encoded word. -/
@[simp] theorem encodeFields_mod (opc : BitVec 9) (f : Fields) : bitsAt (encodeFields opc f) 84 8 = f.mod := bitsAt_eq fun i hi => by
  rw [encodeFields_bit]
  iterate 4 rw [if_neg (by omega)]
  rw [if_pos (by omega)]
  exact congrArg (BitVec.getLsbD _) (by omega)

/-- IMM of an encoded word. -/
@[simp] theorem encodeFields_imm (opc : BitVec 9) (f : Fields) : bitsAt (encodeFields opc f) 52 32 = f.imm := bitsAt_eq fun i hi => by
  rw [encodeFields_bit]
  iterate 3 rw [if_neg (by omega)]
  rw [if_pos (by omega)]
  exact congrArg (BitVec.getLsbD _) (by omega)

/-- DST0 of an encoded word. -/
@[simp] theorem encodeFields_dst0 (opc : BitVec 9) (f : Fields) : bitsAt (encodeFields opc f) 31 21 = encodeDst f.dst0 := bitsAt_eq fun i hi => by
  rw [encodeFields_bit, if_neg (by omega), if_neg (by omega), if_pos (by omega)]
  exact congrArg (BitVec.getLsbD _) (by omega)

/-- DST1 of an encoded word. -/
@[simp] theorem encodeFields_dst1 (opc : BitVec 9) (f : Fields) : bitsAt (encodeFields opc f) 10 21 = encodeDst f.dst1 := bitsAt_eq fun i hi => by
  rw [encodeFields_bit, if_neg (by omega), if_pos (by omega)]
  exact congrArg (BitVec.getLsbD _) (by omega)

/-- XMOD of an encoded word. -/
@[simp] theorem encodeFields_xmod (opc : BitVec 9) (f : Fields) : bitsAt (encodeFields opc f) 0 10 = f.xmod := bitsAt_eq fun i hi => by
  rw [encodeFields_bit, if_pos (by omega)]
  exact congrArg (BitVec.getLsbD _) (by omega)

/-- Decoding the fields of an encoded word gives them back. -/
theorem decodeFields_encodeFields (opc : BitVec 9) (f : Fields) : decodeFields (encodeFields opc f) = f := by
  simp only [decodeFields, encodeFields_et, encodeFields_ar, encodeFields_top, encodeFields_lsrc, encodeFields_rsrc, encodeFields_ksel,
    encodeFields_ssel, encodeFields_rnd, encodeFields_sat, encodeFields_pinv, encodeFields_bub, encodeFields_ord, encodeFields_mod,
    encodeFields_imm, encodeFields_dst0, encodeFields_dst1, encodeFields_xmod, decodeDst_encodeDst, etOfCode_etCode, arOfCode_arCode]

/-- Byte j of a word as a number. -/
theorem byteAt_toNat {n : Nat} (w : BitVec n) (j : Nat) : (byteAt w j).toNat = w.toNat / 2 ^ (8 * j) % 256 := by
  simp [byteAt, bitsAt, BitVec.extractLsb'_toNat, Nat.shiftRight_eq_div_pow]

/-- The number that k bytes of a word from byte o on make. -/
theorem bytesToNat_map {n : Nat} (w : BitVec n) : ∀ k o, bytesToNat ((List.range k).map fun j => byteAt w (j + o)) = w.toNat / 2 ^ (8 * o) % 2 ^ (8 * k) := by
  intro k
  induction k with
  | zero => intro o; simp [bytesToNat, Nat.mod_one]
  | succ k ih =>
    intro o
    rw [List.range_succ_eq_map, List.map_cons, List.map_map, bytesToNat, byteAt_toNat]
    have e : ((fun j => byteAt w (j + o)) ∘ Nat.succ) = fun j => byteAt w (j + (o + 1)) := by
      funext j; simp only [Function.comp, Nat.succ_eq_add_one]; congr 1; omega
    rw [e, ih, Nat.zero_add, show 8 * (o + 1) = 8 * o + 8 by omega, Nat.pow_add, ← Nat.div_div_eq_div_mul, show 8 * (k + 1) = 8 + 8 * k by omega, Nat.pow_add]
    exact (Nat.mod_mul (x := w.toNat / 2 ^ (8 * o)) (a := 2 ^ 8) (b := 2 ^ (8 * k))).symm

/-- The word of the bytes of a word (R34). -/
theorem ofBytes_toBytes {n k : Nat} (w : BitVec n) (h : n = 8 * k) : ofBytes n (toBytes w k) = w := by
  have := bytesToNat_map w k 0
  apply BitVec.eq_of_toNat_eq
  rw [ofBytes, toBytes, BitVec.toNat_ofNat]
  simp only [Nat.add_zero, Nat.mul_zero, Nat.pow_zero, Nat.div_one] at this
  rw [show (List.range k).map (byteAt w) = (List.range k).map (fun j => byteAt w j) from rfl, this, ← h, Nat.mod_mod, Nat.mod_eq_of_lt w.isLt]

/-- A bit of a field is a bit of its word. -/
theorem bitsAt_bit {n len lo i : Nat} {w : BitVec n} (h : lo ≤ i ∧ i < lo + len) : (bitsAt w lo len).getLsbD (i - lo) = w.getLsbD i := by
  simp only [bitsAt, BitVec.getLsbD_extractLsb']
  rw [decide_eq_true (by omega), Bool.true_and]; congr 1; omega

/-- A bit of the lowest field. -/
theorem bitsAt_bit0 {n len i : Nat} {w : BitVec n} (h : i < len) : (bitsAt w 0 len).getLsbD i = w.getLsbD i :=
  bitsAt_bit (lo := 0) ⟨Nat.zero_le _, by omega⟩

/-- Both branches of a conditional are one value. -/
theorem ite_elim {α : Type} {p : Prop} [Decidable p] {a b v : α} (h1 : p → a = v) (h2 : ¬ p → b = v) : (if p then a else b) = v := by
  by_cases h : p
  · rw [if_pos h, h1 h]
  · rw [if_neg h, h2 h]

/-- Encoding a decoded destination gives its bits back. -/
theorem encodeDst_decodeDst (w : BitVec 21) : encodeDst (decodeDst w) = w := by
  apply BitVec.eq_of_getLsbD_eq
  intro i hi
  rw [encodeDst_bit]
  refine ite_elim (fun h => ?_) (fun h => ?_)
  · exact bitsAt_bit0 (by omega)
  refine ite_elim (fun h => ?_) (fun h => ?_)
  · exact bitsAt_bit (by omega)
  refine ite_elim (fun h => ?_) (fun h => ?_)
  · exact bitsAt_bit (by omega)
  refine ite_elim (fun h => ?_) (fun h => ?_)
  · exact bitsAt_bit (by omega)
  rw [b2b_at (by omega), show i = 20 by omega]; rfl

/-- Encoding the decoded fields of a slot word gives the word back. -/
theorem encodeFields_decodeFields (w : SlotWord) : encodeFields (bitsAt w 119 9) (decodeFields w) = w := by
  apply BitVec.eq_of_getLsbD_eq
  intro i hi
  rw [encodeFields_bit]
  refine ite_elim (fun h => ?_) (fun h => ?_)
  · exact bitsAt_bit0 (by omega)
  refine ite_elim (fun h => ?_) (fun h => ?_)
  · exact (congrArg (fun d => BitVec.getLsbD d _) (encodeDst_decodeDst (bitsAt w 10 21))).trans (bitsAt_bit (by omega))
  refine ite_elim (fun h => ?_) (fun h => ?_)
  · exact (congrArg (fun d => BitVec.getLsbD d _) (encodeDst_decodeDst (bitsAt w 31 21))).trans (bitsAt_bit (by omega))
  refine ite_elim (fun h => ?_) (fun h => ?_)
  · exact bitsAt_bit (by omega)
  refine ite_elim (fun h => ?_) (fun h => ?_)
  · exact bitsAt_bit (by omega)
  refine ite_elim (fun h => ?_) (fun h => ?_)
  · rw [show i = 92 by omega]; rfl
  refine ite_elim (fun h => ?_) (fun h => ?_)
  · rw [show i = 93 by omega]; rfl
  refine ite_elim (fun h => ?_) (fun h => ?_)
  · rw [show i = 94 by omega]; rfl
  refine ite_elim (fun h => ?_) (fun h => ?_)
  · rw [show i = 95 by omega]; rfl
  refine ite_elim (fun h => ?_) (fun h => ?_)
  · exact bitsAt_bit (by omega)
  refine ite_elim (fun h => ?_) (fun h => ?_)
  · exact bitsAt_bit (by omega)
  refine ite_elim (fun h => ?_) (fun h => ?_)
  · exact bitsAt_bit (by omega)
  refine ite_elim (fun h => ?_) (fun h => ?_)
  · exact bitsAt_bit (by omega)
  refine ite_elim (fun h => ?_) (fun h => ?_)
  · exact bitsAt_bit (by omega)
  refine ite_elim (fun h => ?_) (fun h => ?_)
  · exact bitsAt_bit (by omega)
  refine ite_elim (fun h => ?_) (fun h => ?_)
  · exact (congrArg (fun d => BitVec.getLsbD d _) (arCode_arOfCode (bitsAt w 113 2))).trans (bitsAt_bit (by omega))
  refine ite_elim (fun h => ?_) (fun h => ?_)
  · exact (congrArg (fun d => BitVec.getLsbD d _) (etCode_etOfCode (bitsAt w 115 4))).trans (bitsAt_bit (by omega))
  exact bitsAt_bit (by omega)

/-- The bits of an Xwenxus word (R72). -/
theorem encodeR_bit (f7 : BitVec 7) (rs2 rs1 : BitVec 5) (f3 : BitVec 3) (rd : BitVec 5) (i : Nat) :
    (encodeR f7 rs2 rs1 f3 rd).getLsbD i =
      if i < 7 then (0x0B : BitVec 7).getLsbD i else if i < 12 then rd.getLsbD (i - 7) else if i < 15 then f3.getLsbD (i - 12)
      else if i < 20 then rs1.getLsbD (i - 15) else if i < 25 then rs2.getLsbD (i - 20) else f7.getLsbD (i - 25) := by
  have h : (encodeR f7 rs2 rs1 f3 rd).getLsbD i =
    BitVec.getLsbD (w := 7 + 5 + 5 + 3 + 5 + 7) (f7 ++ rs2 ++ rs1 ++ f3 ++ rd ++ (0x0B : BitVec 7)) i := rfl
  rw [h]
  simp only [BitVec.getLsbD_append]
  iterate 5
    refine ite_step ?_ (fun h => ?_) (fun _ => ?_)
    · omega
    · exact congrArg (BitVec.getLsbD _) (by omega)
  exact congrArg (BitVec.getLsbD _) (by omega)

/-- Field op of an Xwenxus word. -/
@[simp] theorem encodeR_op (f7 : BitVec 7) (rs2 rs1 : BitVec 5) (f3 : BitVec 3) (rd : BitVec 5) :
    bitsAt (encodeR f7 rs2 rs1 f3 rd) 0 7 = 0x0B := bitsAt_eq fun i hi => by
  rw [encodeR_bit, if_pos (by omega)]
  exact congrArg (BitVec.getLsbD _) (by omega)

/-- Field rd of an Xwenxus word. -/
@[simp] theorem encodeR_rd (f7 : BitVec 7) (rs2 rs1 : BitVec 5) (f3 : BitVec 3) (rd : BitVec 5) :
    bitsAt (encodeR f7 rs2 rs1 f3 rd) 7 5 = rd := bitsAt_eq fun i hi => by
  rw [encodeR_bit, if_neg (by omega), if_pos (by omega)]
  exact congrArg (BitVec.getLsbD _) (by omega)

/-- Field f3 of an Xwenxus word. -/
@[simp] theorem encodeR_f3 (f7 : BitVec 7) (rs2 rs1 : BitVec 5) (f3 : BitVec 3) (rd : BitVec 5) :
    bitsAt (encodeR f7 rs2 rs1 f3 rd) 12 3 = f3 := bitsAt_eq fun i hi => by
  rw [encodeR_bit, if_neg (by omega), if_neg (by omega), if_pos (by omega)]
  exact congrArg (BitVec.getLsbD _) (by omega)

/-- Field rs1 of an Xwenxus word. -/
@[simp] theorem encodeR_rs1 (f7 : BitVec 7) (rs2 rs1 : BitVec 5) (f3 : BitVec 3) (rd : BitVec 5) :
    bitsAt (encodeR f7 rs2 rs1 f3 rd) 15 5 = rs1 := bitsAt_eq fun i hi => by
  rw [encodeR_bit]
  iterate 3 rw [if_neg (by omega)]
  rw [if_pos (by omega)]
  exact congrArg (BitVec.getLsbD _) (by omega)

/-- Field rs2 of an Xwenxus word. -/
@[simp] theorem encodeR_rs2 (f7 : BitVec 7) (rs2 rs1 : BitVec 5) (f3 : BitVec 3) (rd : BitVec 5) :
    bitsAt (encodeR f7 rs2 rs1 f3 rd) 20 5 = rs2 := bitsAt_eq fun i hi => by
  rw [encodeR_bit]
  iterate 4 rw [if_neg (by omega)]
  rw [if_pos (by omega)]
  exact congrArg (BitVec.getLsbD _) (by omega)

/-- Field f7 of an Xwenxus word. -/
@[simp] theorem encodeR_f7 (f7 : BitVec 7) (rs2 rs1 : BitVec 5) (f3 : BitVec 3) (rd : BitVec 5) :
    bitsAt (encodeR f7 rs2 rs1 f3 rd) 25 7 = f7 := bitsAt_eq fun i hi => by
  rw [encodeR_bit]
  iterate 5 rw [if_neg (by omega)]
  exact congrArg (BitVec.getLsbD _) (by omega)
end

