-- ==== Sys2Proof/Laws/Float.lean ====
section
/-! SUPPORT. Floating values: what the exact operations give as rational numbers, that a rounded code fits its lane, and the
codes of zeros (R37 to R42, R99 to R105). -/

namespace Sys2Proof.Machine

theorem fmtOf_w (t : ET) (h : etIsFloat t = true) : (fmtOf t).w = etWidth t := by cases t <;> simp_all [etIsFloat] <;> rfl

theorem fmtOf_facts (t : ET) (h : etIsFloat t = true) :
    (fmtOf t).maxCode + 1 ≤ 2 ^ (etWidth t - 1) ∧ (fmtOf t).nan < 2 ^ (etWidth t - 1) ∧ 2 ^ etWidth t = 2 * 2 ^ (etWidth t - 1) ∧
    ((fmtOf t).hasInf = true → (fmtOf t).maxCode + 2 ≤ 2 ^ (etWidth t - 1)) := by
  cases t <;> simp_all [etIsFloat] <;> decide

/-- A rounded magnitude with its overflow rule fits the lane. -/
theorem clip_lt (t : ET) (h : etIsFloat t = true) (rnd : BitVec 3) (sat neg : Bool) (c : Nat) :
    (if c > (fmtOf t).maxCode then overflowCode (fmtOf t) rnd sat neg else signed (fmtOf t) neg c) < 2 ^ etWidth t := by
  obtain ⟨h1, h2, h3, h4⟩ := fmtOf_facts t h
  have hw := fmtOf_w t h
  have sg (b : Bool) (m : Nat) (hm : m < 2 ^ (etWidth t - 1)) : signed (fmtOf t) b m < 2 ^ etWidth t := by
    simp only [signed, hw]; split <;> omega
  split
  · unfold overflowCode
    split
    · exact sg _ _ (by omega)
    · split
      · omega
      · rename_i hi
        have := h4 (by simpa using hi)
        split
        · exact sg _ _ (by omega)
        · split
          · exact sg _ _ (by omega)
          · omega
        · split
          · exact sg _ _ (by omega)
          · omega
        · exact sg _ _ (by omega)
  · exact sg _ _ (by omega)

/-- A rounded code fits the lane. -/
theorem froundX_lt (t : ET) (h : etIsFloat t = true) (rnd : BitVec 3) (sat conv : Bool) (xs : Word32) (v : XVal) :
    froundX t rnd sat conv xs v < 2 ^ etWidth t := by
  obtain ⟨h1, h2, h3, h4⟩ := fmtOf_facts t h
  have hw := fmtOf_w t h
  have sg (b : Bool) (m : Nat) (hm : m < 2 ^ (etWidth t - 1)) : signed (fmtOf t) b m < 2 ^ etWidth t := by
    simp only [signed, hw]; split <;> omega
  unfold froundX
  cases v with
  | nan => simp only; omega
  | inf b =>
    simp only [infCode]
    split
    · rename_i hh; simp only [Bool.and_eq_true] at hh; exact sg _ _ (by have := h4 hh.1; omega)
    · split
      · exact sg _ _ (by omega)
      · omega
  | zero b => exact sg _ _ (Nat.two_pow_pos _)
  | num n d => exact clip_lt t h _ _ _ _

theorem faithful_lt (fn : Nat) (sat : Bool) (x v : XVal) : faithful fn sat x v < 2 ^ 32 := by
  unfold faithful
  split
  · exact clip_lt .f32 rfl _ _ _ _
  · exact froundX_lt .f32 rfl _ _ _ _ _

theorem approx_lt (fn : Nat) (t : ET) (ht : t = .bf16 ∨ t = .f32) (sat : Bool) (g : XVal → XVal) (c : Nat) : approx fn t sat g c < 2 ^ etWidth t := by
  rcases ht with rfl | rfl
  · simp only [approx]; exact froundX_lt .bf16 rfl _ _ _ _ _
  · simp only [approx]; exact faithful_lt _ _ _ _

/-- An approximate function whose value or operand is no nonzero number is rounded as any other result. -/
theorem approx_special (fn : Nat) (t : ET) (ht : t = .bf16 ∨ t = .f32) (sat : Bool) (g : XVal → XVal) (c : Nat)
    (h : (∀ n d, fdecode t c ≠ .num n d) ∨ ∀ n d, g (fdecode t c) ≠ .num n d) :
    approx fn t sat g c = froundX t 0 sat false 0 (g (fdecode t c)) := by
  rcases ht with rfl | rfl
  · simp [approx]
  · simp only [approx, if_true, faithful]
    split
    · rename_i h1 h2
      rcases h with h | h
      · exact absurd h1 (h _ _)
      · exact absurd h2 (h _ _)
    · rfl

theorem fround_lt (f : Fields) (h : etIsFloat f.et = true) (v : XVal) : fround f.et f.rnd f.sat v < 2 ^ etWidth f.et := froundX_lt _ h _ _ _ _ _

theorem floatLanes_of {i : Instr} {f : Fields} {s : State} {c : Ctx} (hi : Issues f s c (dests f).length) (hp : c.Plain)
    (g : Opnds → Nat → Nat) (he : exec i s = fireData f s fun x => laneResult f x (g x)) (x : Opnds) (hx : operands c.e f c.set none = x)
    (hlt : ∀ k, g x k < 2 ^ etWidth f.et) (out : Nat → Nat → Prop) (ho : ∀ k, out k (g x k)) : FloatLanes i f s c x out := by
  refine ⟨laneResult f x (g x), by rw [he, fireData_plain hi hp, hx], fun k hk => ?_⟩
  rw [laneU_laneResult _ _ _ _ hk, Nat.mod_eq_of_lt (hlt k)]
  cases laneOn f x k <;> simp [ho]

theorem floatLanesMad_of {i : Instr} {f : Fields} {s : State} {c : Ctx} (hi : Issues f s c (dests f).length) (hp : c.Plain)
    (g : Opnds → Nat → Nat) (he : exec i s = fireMad f s fun x => laneResult f x (g x)) (x : Opnds)
    (hx : operands c.e f c.set (some (bitsAt f.xmod 0 3)) = x)
    (hlt : ∀ k, g x k < 2 ^ etWidth f.et) (out : Nat → Nat → Prop) (ho : ∀ k, out k (g x k)) : FloatLanes i f s c x out := by
  refine ⟨laneResult f x (g x), by rw [he, fireMad_plain hi hp, hx], fun k hk => ?_⟩
  rw [laneU_laneResult _ _ _ _ hk, Nat.mod_eq_of_lt (hlt k)]
  cases laneOn f x k <;> simp [ho]

theorem floatFlags_of {i : Instr} {f : Fields} {s : State} {c : Ctx} (hi : Issues f s c (dests f).length) (hp : c.Plain)
    (g : Opnds → Nat → Bool) (he : exec i s = fireData f s fun x => predResult f x (g x)) (x : Opnds) (hx : operands c.e f c.set none = x)
    (out : Nat → Nat → Prop) (ho : ∀ k, out k (if g x k then 1 else 0)) : FloatFlags i f s c x out := by
  refine ⟨predResult f x (g x), by rw [he, fireData_plain hi hp, hx], fun k hk => ?_⟩
  rw [laneU_predResult _ _ _ _ hk]
  have := ho k
  cases laneOn f x k <;> simp_all

theorem XVal.add_is {a b : XVal} {p q : ℚ} (r : Bool) (ha : a.is p) (hb : b.is q) : (a.add r b).is (p + q) := by
  cases a <;> cases b <;> simp only [XVal.is] at ha hb
  · subst ha hb; rename_i u v; cases u <;> cases v <;> simp [XVal.add, XVal.is]
  · subst ha; simp [XVal.add, XVal.is, hb]
  · subst hb; simp [XVal.add, XVal.is, ha]
  · rename_i n d k e
    obtain ⟨hn, hd, rfl⟩ := ha
    obtain ⟨hk, he, rfl⟩ := hb
    have hd' : (d : ℚ) ≠ 0 := by positivity
    have he' : (e : ℚ) ≠ 0 := by positivity
    simp only [XVal.add]
    split
    · rename_i h0
      simp only [XVal.is]
      have : ((n * e + k * d : ℤ) : ℚ) = 0 := by exact_mod_cast h0
      push_cast at this
      field_simp; linarith
    · rename_i h0
      refine ⟨h0, Nat.mul_pos hd he, ?_⟩
      push_cast; field_simp
theorem XVal.neg_is {a : XVal} {p : ℚ} (ha : a.is p) : a.neg.is (-p) := by
  cases a <;> simp only [XVal.is] at ha
  · subst ha; simp [XVal.neg, XVal.is]
  · obtain ⟨hn, hd, rfl⟩ := ha
    refine ⟨by simpa using hn, hd, ?_⟩; push_cast; ring
theorem XVal.mul_is {a b : XVal} {p q : ℚ} (ha : a.is p) (hb : b.is q) : (a.mul b).is (p * q) := by
  cases a <;> cases b <;> simp only [XVal.is] at ha hb
  · subst ha hb; simp [XVal.mul, XVal.is]
  · subst ha; simp [XVal.mul, XVal.is]
  · subst hb; simp [XVal.mul, XVal.is]
  · rename_i n d k e
    obtain ⟨hn, hd, rfl⟩ := ha
    obtain ⟨hk, he, rfl⟩ := hb
    have hd' : (d : ℚ) ≠ 0 := by positivity
    have he' : (e : ℚ) ≠ 0 := by positivity
    refine ⟨mul_ne_zero hn hk, Nat.mul_pos hd he, ?_⟩
    push_cast; field_simp
theorem XVal.div_is {a b : XVal} {p q : ℚ} (ha : a.is p) (hb : b.is q) (hq : q ≠ 0) : (a.div b).is (p / q) := by
  cases a <;> cases b <;> simp only [XVal.is] at ha hb
  · exact absurd hb hq
  · subst ha; simp [XVal.div, XVal.is]
  · exact absurd hb hq
  · rename_i n d k e
    obtain ⟨hn, hd, rfl⟩ := ha
    obtain ⟨hk, he, rfl⟩ := hb
    have hd' : (d : ℚ) ≠ 0 := by positivity
    have he' : (e : ℚ) ≠ 0 := by positivity
    have hk' : (k : ℚ) ≠ 0 := by exact_mod_cast hk
    refine ⟨?_, Nat.mul_pos hd (Int.natAbs_pos.2 hk), ?_⟩
    · exact mul_ne_zero (mul_ne_zero hn (by omega)) (by simpa using hk)
    · have hs : (k.natAbs : ℚ) = k.sign * k := by
        have : (k.natAbs : ℤ) = k.sign * k := by rw [Int.sign_mul_self_eq_abs]; simp
        rw [← Int.cast_natCast, this]; push_cast; ring
      have hsg : (k.sign : ℚ) ≠ 0 := by exact_mod_cast (by simpa using hk : k.sign ≠ 0)
      have hsq : (k.sign : ℚ) * k.sign = 1 := by
        have : k.sign * k.sign = 1 := by rcases lt_or_gt_of_ne hk with h | h <;> simp [Int.sign_eq_neg_one_of_neg, Int.sign_eq_one_of_pos, h]
        exact_mod_cast this
      push_cast
      rw [hs]
      field_simp
      

theorem nan_add (r : Bool) (a b : XVal) (h : a = .nan ∨ b = .nan) : a.add r b = .nan := by
  rcases h with rfl | rfl
  · rfl
  · cases a <;> rfl
theorem nan_mul (a b : XVal) (h : a = .nan ∨ b = .nan) : a.mul b = .nan := by
  rcases h with rfl | rfl
  · rfl
  · cases a <;> rfl
theorem nan_div (a b : XVal) (h : a = .nan ∨ b = .nan) : a.div b = .nan := by
  rcases h with rfl | rfl
  · rfl
  · cases a <;> rfl
theorem neg_nan (a : XVal) : a = .nan → a.neg = .nan := by rintro rfl; rfl

theorem floatOp_of (f : Fields) (x : Opnds) (op : ℚ → ℚ → ℚ) (g : XVal → XVal → XVal) (k : Nat)
    (hn : ∀ a b, a = .nan ∨ b = .nan → g a b = .nan) (ho : ∀ a b p q, a.is p → b.is q → (g a b).is (op p q)) :
    FloatOp f x op k (fround f.et f.rnd f.sat (g (fa f x k) (fb f x k))) := by
  refine ⟨fun h => ?_, fun p q ha hb => ⟨_, ho _ _ _ _ ha hb, rfl⟩⟩
  rw [show g (fa f x k) (fb f x k) = .nan from hn _ _ h]; rfl

theorem isqrtGo_spec (n k r : Nat) (h1 : r * r ≤ n) (h2 : n < (r + 2 ^ k) * (r + 2 ^ k)) :
    isqrtGo n k r * isqrtGo n k r ≤ n ∧ n < (isqrtGo n k r + 1) * (isqrtGo n k r + 1) := by
  induction k generalizing r with
  | zero => simpa [isqrtGo] using ⟨h1, h2⟩
  | succ k ih =>
    simp only [isqrtGo]
    split
    · rename_i h
      apply ih _ h
      have : r + 2 ^ k + 2 ^ k = r + 2 ^ (k + 1) := by rw [pow_succ]; ring
      rw [this]; exact h2
    · rename_i h
      exact ih _ h1 (by omega)

theorem isqrt_sq (k r : Nat) (h : r < 2 ^ k) : isqrt k (r * r) = r := by
  have := isqrtGo_spec (r * r) k 0 (by simp) (by simpa using Nat.mul_lt_mul'' h h)
  rw [isqrt]
  obtain ⟨h1, h2⟩ := this
  have a := Nat.mul_self_le_mul_self_iff.1 h1
  have b := Nat.mul_self_lt_mul_self_iff.1 h2
  omega

theorem dyadic_num {neg : Bool} {m : Nat} {e : Int} {n : Int} {d : Nat} (h : XVal.dyadic neg m e = .num n d) (hm : m < 2 ^ 40) (he : e ≤ 200) (he' : -200 ≤ e) :
    n.natAbs < 2 ^ 240 ∧ ∃ j ≤ 200, d = 2 ^ j := by
  unfold XVal.dyadic at h
  split at h
  · cases h
  · simp only at h
    have big : 2 ^ 40 * 2 ^ 200 = 2 ^ 240 := by norm_num
    split at h
    · cases h
      have : 2 ^ e.toNat ≤ 2 ^ 200 := Nat.pow_le_pow_right (by omega) (by omega)
      refine ⟨?_, 0, by omega, rfl⟩
      have : m * 2 ^ e.toNat < 2 ^ 240 := big ▸ Nat.mul_lt_mul_of_lt_of_le hm this (by positivity)
      rw [Int.natAbs_mul, Int.natAbs_natCast]
      split <;> simpa using this
    · cases h
      have : m < 2 ^ 240 := by omega
      refine ⟨by rw [Int.natAbs_mul]; split <;> simpa using this, (-e).toNat, by omega, rfl⟩

theorem fdecode_num {t : ET} (ht : etIsFloat t = true) {c : Nat} {n : Int} {d : Nat} (h : fdecode t c = .num n d) :
    n.natAbs < 2 ^ 240 ∧ ∃ j ≤ 200, d = 2 ^ j := by
  have hf : (fmtOf t).m ≤ 23 ∧ (fmtOf t).bias ≤ 127 ∧ 1 ≤ (fmtOf t).bias ∧ (fmtOf t).maxCode / 2 ^ (fmtOf t).m ≤ 2 * (fmtOf t).bias + 1 := by
    cases t <;> simp_all [etIsFloat] <;> decide
  obtain ⟨hm, hb, hb1, hmax⟩ := hf
  have p23 : 2 ^ (fmtOf t).m ≤ 2 ^ 23 := Nat.pow_le_pow_right (by omega) hm
  have ml : c % 2 ^ ((fmtOf t).w - 1) % 2 ^ (fmtOf t).m < 2 ^ (fmtOf t).m := Nat.mod_lt _ (by positivity)
  unfold fdecode at h
  simp only at h
  have key : ¬ (c % 2 ^ ((fmtOf t).w - 1) > (fmtOf t).maxCode) → c % 2 ^ ((fmtOf t).w - 1) / 2 ^ (fmtOf t).m ≤ 2 * (fmtOf t).bias + 1 := by
    intro hh; exact le_trans (Nat.div_le_div_right (by omega)) hmax
  split at h
  · split at h
    · split at h <;> cases h
    · rename_i hh
      have := key hh
      generalize c % 2 ^ ((fmtOf t).w - 1) / 2 ^ (fmtOf t).m = l at *
      split at h
      · exact dyadic_num h (by omega) (by omega) (by omega)
      · exact dyadic_num h (by omega) (by omega) (by omega)
  · split at h
    · cases h
    · rename_i hh
      have := key hh
      generalize c % 2 ^ ((fmtOf t).w - 1) / 2 ^ (fmtOf t).m = l at *
      split at h
      · exact dyadic_num h (by omega) (by omega) (by omega)
      · exact dyadic_num h (by omega) (by omega) (by omega)

theorem sqrtVal_exact {n d r : Nat} (hv : n * 2 ^ (2 * 300) / d = r * r) (hm : n * 2 ^ (2 * 300) % d = 0) (hr : isqrt 700 (r * r) = r) :
    sqrtVal n d = .num (r : ℤ) (2 ^ 300) := by
  simp only [sqrtVal]
  rw [hv, hm, hr, if_pos (by rw [decide_eq_true rfl, decide_eq_true rfl]; rfl)]

theorem nat_of_sq {u : ℚ} {M : Nat} (h0 : 0 ≤ u) (h : u * u = (M : ℚ)) : ∃ r : Nat, (r : ℚ) = u ∧ r * r = M := by
  have hden : u.den = 1 := by
    have h1 : (u * u).den = 1 := by rw [h]; exact Rat.den_natCast _
    rw [Rat.mul_self_den] at h1
    exact Nat.eq_one_of_mul_eq_one_right h1
  have hnum : (u.num : ℚ) = u := by
    conv_rhs => rw [← Rat.num_div_den u, hden]
    simp
  obtain ⟨r, hr⟩ := Int.eq_ofNat_of_zero_le (Rat.num_nonneg.2 h0)
  rw [hr] at hnum
  have hnum' : (r : ℚ) = u := by simpa using hnum
  exact ⟨r, hnum', by have : ((r * r : Nat) : ℚ) = (M : ℚ) := by rw [← h, ← hnum']; push_cast; rfl
                      exact_mod_cast this⟩

theorem sqrt_is_aux {t : ET} (ht : etIsFloat t = true) {c : Nat} {p : ℚ} (hp : 0 ≤ p) (h : (fdecode t c).is (p * p)) (P : ℚ) (hP : P = 2 ^ 300) :
    (fdecode t c).sqrt.is p := by
  cases hc : fdecode t c with
  | nan => rw [hc] at h; exact h.elim
  | inf b => rw [hc] at h; exact h.elim
  | zero b => rw [hc] at h; simp only [XVal.is] at h; simp only [XVal.sqrt, XVal.is]; exact mul_self_eq_zero.1 h
  | num n d =>
    rw [hc] at h
    obtain ⟨hn, hd, he⟩ := h
    obtain ⟨hnb, j, hj, hdj⟩ := fdecode_num ht hc
    have hn0 : 0 ≤ n := by
      by_contra hneg
      have h1 : (n : ℚ) / d < 0 := div_neg_of_neg_of_pos (by exact_mod_cast (by omega : n < 0)) (by exact_mod_cast hd)
      have h2 := mul_nonneg hp hp
      linarith
    obtain ⟨N, rfl⟩ := Int.eq_ofNat_of_zero_le hn0
    have hNb : N < 2 ^ 240 := by simpa using hnb
    -- p * 2^300 is an integer
    have hP0 : 0 ≤ P := by rw [hP]; exact pow_nonneg (by norm_num) _
    have hPP : P * P = 2 ^ (600 - j) * 2 ^ j := by rw [hP, ← pow_add, ← pow_add]; congr 1; omega
    have hq : (p * P) * (p * P) = ((N * 2 ^ (600 - j) : Nat) : ℚ) := by
      have : (p * P) * (p * P) = (p * p) * (P * P) := by ring
      rw [this, he, hdj, hPP]
      push_cast
      field_simp
    have hex := nat_of_sq (mul_nonneg hp hP0) hq
    generalize hS : XVal.sqrt (.num (N : ℤ) d) = S
    obtain ⟨r, hnum, hr2⟩ := hex
    have hmul : N * 2 ^ 600 = r * r * d := by
      rw [hr2, hdj, Nat.mul_assoc, ← Nat.pow_add, Nat.sub_add_cancel (by omega)]
    have hv : N * 2 ^ (2 * 300) / d = r * r := by
      rw [show 2 * 300 = 600 from rfl, hmul, Nat.mul_div_cancel _ hd]
    have hmod : N * 2 ^ (2 * 300) % d = 0 := by
      rw [show 2 * 300 = 600 from rfl, hmul, Nat.mul_mod_left]
    have hrlt : r < 2 ^ 700 := by
      by_contra hge
      have h1 : 2 ^ 700 * 2 ^ 700 ≤ r * r := Nat.mul_le_mul (by omega) (by omega)
      have h2 : N * 2 ^ (600 - j) < 2 ^ 240 * 2 ^ 600 :=
        Nat.mul_lt_mul_of_lt_of_le hNb (Nat.pow_le_pow_right (by omega) (by omega)) (by positivity)
      rw [← hr2] at h2
      have : (2:Nat) ^ 240 * 2 ^ 600 ≤ 2 ^ 700 * 2 ^ 700 := by
        rw [← pow_add, ← pow_add]; exact Nat.pow_le_pow_right (by omega) (by omega)
      omega
    have hsq : XVal.sqrt (.num (N : ℤ) d) = .num (r : ℤ) (2 ^ 300) := by
      have hneg : ¬ ((N : ℤ) < 0) := by omega
      rw [XVal.sqrt, if_neg hneg, Int.natAbs_natCast, sqrtVal_exact hv hmod (isqrt_sq _ _ hrlt)]
    have hr0 : r ≠ 0 := by
      intro h0
      rw [h0] at hr2
      have : N ≠ 0 := by intro h; apply hn; simp [h]
      have := Nat.mul_ne_zero this (by positivity : (2:Nat) ^ (600 - j) ≠ 0)
      omega
    rw [← hS, hsq]
    refine ⟨by exact_mod_cast hr0, by positivity, ?_⟩
    have hP' : ((2 ^ 300 : Nat) : ℚ) = P := by rw [hP, Nat.cast_pow]; rfl
    have hPn : P ≠ 0 := by rw [hP]; exact pow_ne_zero _ (by norm_num)
    rw [hP', Int.cast_natCast, hnum, mul_div_assoc, div_self hPn, mul_one]

theorem sqrt_is {t : ET} (ht : etIsFloat t = true) {c : Nat} {p : ℚ} (hp : 0 ≤ p) (h : (fdecode t c).is (p * p)) :
    (fdecode t c).sqrt.is p := sqrt_is_aux ht hp h _ rfl

theorem fscale_is {v : XVal} {p : ℚ} {w b : Nat} (h : v.is p) (hb : |toSigned w b| ≤ 2000) :
    (fscaleVal w v b).is (p * 2 ^ toSigned w b) := by
  have hab := abs_le.1 hb
  simp only [fscaleVal]
  rw [if_neg (by omega), if_neg (by omega)]
  apply XVal.mul_is h
  simp only [XVal.dyadic, one_ne_zero, if_false]
  split
  · rename_i h0
    refine ⟨by simp, by norm_num, ?_⟩
    obtain ⟨m, hm⟩ := Int.eq_ofNat_of_zero_le h0
    rw [hm]; simp
  · rename_i h0
    refine ⟨by simp, by positivity, ?_⟩
    obtain ⟨m, hm⟩ := Int.eq_ofNat_of_zero_le (show 0 ≤ -toSigned w b by omega)
    rw [hm, show toSigned w b = -(m : ℤ) by omega]
    simp

theorem nan_of {f : Fields} {v : XVal} (h : v = .nan) : fround f.et f.rnd f.sat v = nanCode f := by subst h; rfl


theorem lt_is {a b : XVal} {p q : ℚ} (ha : a.is p) (hb : b.is q) : (a.lt b = true) ↔ p < q := by
  cases a <;> cases b <;> simp only [XVal.is] at ha hb
  · subst ha hb; simp [XVal.lt]
  · rename_i k e
    obtain ⟨hk, he, rfl⟩ := hb
    subst ha
    have he' : (0 : ℚ) < e := by exact_mod_cast he
    simp only [XVal.lt, decide_eq_true_eq]
    rw [div_pos_iff_of_pos_right he']; exact_mod_cast Iff.rfl
  · rename_i n d _
    obtain ⟨hn, hd, rfl⟩ := ha
    subst hb
    have hd' : (0 : ℚ) < d := by exact_mod_cast hd
    simp only [XVal.lt, decide_eq_true_eq]
    rw [div_neg_iff]
    constructor
    · intro h; right; exact ⟨by exact_mod_cast h, hd'⟩
    · rintro (⟨_, h⟩ | ⟨h, _⟩)
      · linarith
      · exact_mod_cast h
  · rename_i n d k e
    obtain ⟨hn, hd, rfl⟩ := ha
    obtain ⟨hk, he, rfl⟩ := hb
    have hd' : (0 : ℚ) < d := by exact_mod_cast hd
    have he' : (0 : ℚ) < e := by exact_mod_cast he
    simp only [XVal.lt, decide_eq_true_eq]
    rw [div_lt_div_iff₀ hd' he']
    exact_mod_cast Iff.rfl

theorem is_not_nan {a : XVal} {p : ℚ} (h : a.is p) : a.isNan = false := by cases a <;> simp_all [XVal.is, XVal.isNan]

theorem eqv_is {a b : XVal} {p q : ℚ} (ha : a.is p) (hb : b.is q) : (a.eqv b = true) ↔ p = q := by
  have h1 := lt_is ha hb
  have h2 := lt_is hb ha
  simp only [XVal.eqv, is_not_nan ha, is_not_nan hb, Bool.not_false, Bool.true_and, Bool.and_eq_true, Bool.not_eq_true']
  rw [← Bool.not_eq_true, ← Bool.not_eq_true, h1, h2]
  constructor
  · rintro ⟨a, b⟩; exact le_antisymm (not_lt.1 b) (not_lt.1 a)
  · rintro rfl; simp

theorem isNan_iff (a : XVal) : a.isNan = true ↔ a = .nan := by cases a <;> simp [XVal.isNan]

theorem nan_lt (a b : XVal) (h : a = .nan ∨ b = .nan) : a.lt b = false := by
  rcases h with rfl | rfl
  · rfl
  · cases a <;> rfl
theorem nan_eqv (a b : XVal) (h : a = .nan ∨ b = .nan) : a.eqv b = false := by
  rcases h with rfl | rfl
  · rfl
  · simp [XVal.eqv, XVal.isNan]

/-- The order of the minimum and maximum operations on numbers that differ. -/
theorem ltZ_is {a b : XVal} {p q : ℚ} (ha : a.is p) (hb : b.is q) (hne : p ≠ q) : (a.ltZ b = true) ↔ p < q := by
  have h := lt_is ha hb
  unfold XVal.ltZ
  split
  · simp only [XVal.is] at ha hb; subst ha hb; exact absurd rfl hne
  · exact h

/-- A code of a zero is its sign bit alone. -/
theorem dyadic_zero {neg b : Bool} {m : Nat} {e : Int} (h : XVal.dyadic neg m e = .zero b) : m = 0 ∧ neg = b := by
  unfold XVal.dyadic at h
  split at h
  · cases h; exact ⟨‹_›, rfl⟩
  · simp only at h; split at h <;> cases h

theorem fdecode_zero {t : ET} (ht : etIsFloat t = true) {c : Nat} (hc : c < 2 ^ etWidth t) {b : Bool} (h : fdecode t c = .zero b) :
    c = if b then 2 ^ (etWidth t - 1) else 0 := by
  have hw := fmtOf_w t ht
  have h2 : 2 ^ etWidth t = 2 * 2 ^ (etWidth t - 1) := by rw [← pow_succ']; congr 1; have := etWidth_pos t; omega
  unfold fdecode at h
  simp only at h
  rw [hw] at h
  have core : ∀ e : Int, XVal.dyadic (decide (c / 2 ^ (etWidth t - 1) % 2 = 1)) (c % 2 ^ (etWidth t - 1) % 2 ^ (fmtOf t).m) e = .zero b →
      c % 2 ^ (etWidth t - 1) / 2 ^ (fmtOf t).m = 0 → c = if b then 2 ^ (etWidth t - 1) else 0 := by
    intro e he h0
    obtain ⟨hm, hb⟩ := dyadic_zero he
    have hz : c % 2 ^ (etWidth t - 1) = 0 := by
      rw [← Nat.div_add_mod (c % 2 ^ (etWidth t - 1)) (2 ^ (fmtOf t).m), h0, hm]; simp
    have hp := Nat.two_pow_pos (etWidth t - 1)
    have hlt : c / 2 ^ (etWidth t - 1) < 2 := by rw [Nat.div_lt_iff_lt_mul hp]; omega
    have hdm := Nat.div_add_mod c (2 ^ (etWidth t - 1))
    rw [hz] at hdm
    subst hb
    by_cases h1 : c / 2 ^ (etWidth t - 1) = 1
    · simp [h1]; rw [h1] at hdm; omega
    · have h0' : c / 2 ^ (etWidth t - 1) = 0 := Nat.lt_one_iff.1 (lt_of_le_of_ne (Nat.lt_succ_iff.1 hlt) h1)
      simp [h0']; rw [h0'] at hdm; omega
  have norm : ∀ (m : Nat) (e : Int) (nb : Bool), XVal.dyadic nb (2 ^ (fmtOf t).m + m) e ≠ .zero b := by
    intro m e nb he
    have := (dyadic_zero he).1
    have := Nat.two_pow_pos (fmtOf t).m
    omega
  split at h
  · split at h
    · split at h <;> cases h
    · split at h
      · exact core _ h ‹_›
      · exact absurd h (norm _ _ _)
  · split at h
    · cases h
    · split at h
      · exact core _ h ‹_›
      · exact absurd h (norm _ _ _)

end Sys2Proof.Machine
end

