-- ==== Sys2Proof/Laws/State.lean ====
section
/-! SUPPORT. Reading a part of the state after another has been replaced: one lemma per field per update, and the finders
(R193). -/

namespace Sys2Proof.Machine

/-! ## Finders -/

theorem find?_map_replace {α : Type} (p : α → Bool) (q : α → Bool) (v : α) (hv : ∀ k, q k = true → p k = p v) (l : List α) :
    (l.map fun k => if q k then v else k).find? p = if p v then (l.find? p).map fun k => if q k then v else k else l.find? p := by
  induction l with
  | nil => cases p v <;> rfl
  | cons a l ih =>
    simp only [List.map_cons, List.find?_cons, ih]
    by_cases hq : q a <;> by_cases hp : p v <;> simp [hq, hp, hv a] <;> cases hpa : p a <;> simp [hq]

/-- The launch of a handle after a launch is replaced. -/
theorem launch?_putLaunch (s : State) (l : Launch) (h : Word32) :
    (s.putLaunch l).launch? h = if h = l.handle then (s.launch? h).map fun _ => l else s.launch? h := by
  unfold State.launch? State.putLaunch
  rw [find?_map_replace (fun k => k.handle == h) (fun k => k.handle == l.handle) l]
  · by_cases hh : h = l.handle
    · subst hh
      simp only [beq_self_eq_true, if_true]
      cases hf : s.launches.find? (fun k => k.handle == l.handle) with
      | none => rfl
      | some k => have hk := List.find?_some hf; simp at hk; simp [hk]
    · have : ¬ l.handle = h := fun e => hh e.symm
      simp [hh, this]
  · intro k hk; simp at hk; simp [hk]

theorem launch?_handle {s : State} {h : Word32} {l : Launch} (hl : s.launch? h = some l) : l.handle = h := by
  simpa using List.find?_some hl

/-- A launch that is there, after it is replaced. -/
theorem launch?_putLaunch_same {s : State} {h : Word32} {l k : Launch} (hl : s.launch? h = some l) (hk : k.handle = h) :
    (s.putLaunch k).launch? h = some k := by
  rw [launch?_putLaunch, if_pos hk.symm, hl]; rfl

theorem launch?_putLaunch_other (s : State) {h : Word32} {k : Launch} (hk : h ≠ k.handle) :
    (s.putLaunch k).launch? h = s.launch? h := by
  rw [launch?_putLaunch, if_neg hk]

/-- A region that is there is a member of a launch. -/
theorem region?_eq_some {s : State} {r : Rid} {g : Region} :
    s.region? r = some g ↔ ∃ l, s.launch? r.h = some l ∧ l.members[r.m]? = some g := by
  simp [State.region?, Option.bind_eq_some_iff]

/-- A region that is there, after it is replaced. -/
theorem region?_putRegion_same {s : State} {r : Rid} {g g' : Region} (hg : s.region? r = some g) :
    (s.putRegion r g').region? r = some g' := by
  obtain ⟨l, hl, hm⟩ := region?_eq_some.1 hg
  have hh := launch?_handle hl
  rw [State.putRegion, hl]
  simp only
  rw [State.region?, launch?_putLaunch_same hl (by simp [Launch.put, hh])]
  have : r.m < l.members.length := by
    rw [List.getElem?_eq_some_iff] at hm; exact hm.1
  simp [Launch.put, this]

/-- An element that is there, after it is replaced. -/
theorem elem?_putElem (g : Region) (e : Elem) (x y : Nat) :
    (g.putElem e).elem? x y = if x = e.x ∧ y = e.y then (g.elem? x y).map fun _ => e else g.elem? x y := by
  unfold Region.elem? Region.putElem
  simp only
  rw [find?_map_replace (fun k => k.x == x && k.y == y) (fun k => k.x == e.x && k.y == e.y) e]
  · by_cases hh : x = e.x ∧ y = e.y
    · obtain ⟨rfl, rfl⟩ := hh
      simp only [beq_self_eq_true, Bool.and_self, if_true]
      cases hf : g.elems.find? (fun k => k.x == e.x && k.y == e.y) with
      | none => rfl
      | some k => have hk := List.find?_some hf; simp at hk; simp [hk]
    · have : ¬ (e.x = x ∧ e.y = y) := fun h => hh ⟨h.1.symm, h.2.symm⟩
      simp [hh, this]
  · intro k hk; simp at hk; simp [hk]

theorem elem?_xy {g : Region} {x y : Nat} {e : Elem} (h : g.elem? x y = some e) : e.x = x ∧ e.y = y := by
  simpa using List.find?_some h

/-- A tile that is there, after it is replaced. -/
theorem tile?_putTile (g : Region) (t : Tile) (x y : Nat) :
    (g.putTile t).tile? x y = if x = t.x ∧ y = t.y then (g.tile? x y).map fun _ => t else g.tile? x y := by
  unfold Region.tile? Region.putTile
  simp only
  rw [find?_map_replace (fun k => k.x == x && k.y == y) (fun k => k.x == t.x && k.y == t.y) t]
  · by_cases hh : x = t.x ∧ y = t.y
    · obtain ⟨rfl, rfl⟩ := hh
      simp only [beq_self_eq_true, Bool.and_self, if_true]
      cases hf : g.tiles.find? (fun k => k.x == t.x && k.y == t.y) with
      | none => rfl
      | some k => have hk := List.find?_some hf; simp at hk; simp [hk]
    · have : ¬ (t.x = x ∧ t.y = y) := fun h => hh ⟨h.1.symm, h.2.symm⟩
      simp [hh, this]
  · intro k hk; simp at hk; simp [hk]

theorem tile?_xy {g : Region} {x y : Nat} {t : Tile} (h : g.tile? x y = some t) : t.x = x ∧ t.y = y := by
  simpa using List.find?_some h

/-- An access that is there, after it is replaced. -/
theorem acc?_putAcc (g : Region) (a : Access) (id : Nat) :
    (g.putAcc a).acc? id = if id = a.id then (g.acc? id).map fun _ => a else g.acc? id := by
  unfold Region.acc? Region.putAcc
  simp only
  rw [find?_map_replace (fun k => k.id == id) (fun k => k.id == a.id) a]
  · by_cases hh : id = a.id
    · subst hh
      simp only [beq_self_eq_true, if_true]
      cases hf : g.accs.find? (fun k => k.id == a.id) with
      | none => rfl
      | some k => have hk := List.find?_some hf; simp at hk; simp [hk]
    · have : ¬ a.id = id := fun e => hh e.symm
      simp [hh, this]
  · intro k hk; simp at hk; simp [hk]

/-- A launch replaced twice. -/
theorem putLaunch_twice (s : State) (a b : Launch) (h : a.handle = b.handle) : (s.putLaunch a).putLaunch b = s.putLaunch b := by
  simp only [State.putLaunch, List.map_map, Function.comp_def]
  congr 1
  apply List.map_congr_left
  intro k hk
  by_cases hb : k.handle = b.handle <;> simp [hb, h]
/-- Replacing a region replaces its launch. -/
theorem putRegion_eq {s : State} {r : Rid} {l : Launch} (hl : s.launch? r.h = some l) (g : Region) :
    s.putRegion r g = s.putLaunch { l with members := l.members.set r.m g } := by
  rw [State.putRegion, hl]; rfl
/-- A member of a launch is a region. -/
theorem region?_eq {s : State} {r : Rid} {l : Launch} {g : Region} (hl : s.launch? r.h = some l) (hg : l.members[r.m]? = some g) :
    s.region? r = some g := by rw [State.region?, hl]; exact hg
/-- A region replaced twice. -/
theorem putRegion_twice {s : State} {r : Rid} {g : Region} (a b : Region) (hg : s.region? r = some g) :
    (s.putRegion r a).putRegion r b = s.putRegion r b := by
  obtain ⟨l, hl, hm⟩ := region?_eq_some.1 hg
  have hh := launch?_handle hl
  have h2 : (s.putRegion r a).launch? r.h = some { l with members := l.members.set r.m a } := by
    rw [putRegion_eq hl]; exact launch?_putLaunch_same hl hh
  rw [putRegion_eq h2, putRegion_eq hl, putRegion_eq hl, putLaunch_twice]
  · simp
  · rfl

/-! ## Fields after an update -/

/-! ### State.putLaunch -/

@[simp] theorem putLaunch_mem (s : State) (l : Launch) : (s.putLaunch l).mem = s.mem := rfl
@[simp] theorem putLaunch_cycle (s : State) (l : Launch) : (s.putLaunch l).cycle = s.cycle := rfl
@[simp] theorem putLaunch_regs (s : State) (l : Launch) : (s.putLaunch l).regs = s.regs := rfl
@[simp] theorem putLaunch_laygen (s : State) (l : Launch) : (s.putLaunch l).laygen = s.laygen := rfl
@[simp] theorem putLaunch_seqNo (s : State) (l : Launch) : (s.putLaunch l).seqNo = s.seqNo := rfl
@[simp] theorem putLaunch_lostRec (s : State) (l : Launch) : (s.putLaunch l).lostRec = s.lostRec := rfl
@[simp] theorem putLaunch_mcRec (s : State) (l : Launch) : (s.putLaunch l).mcRec = s.mcRec := rfl
@[simp] theorem putLaunch_msis (s : State) (l : Launch) : (s.putLaunch l).msis = s.msis := rfl
@[simp] theorem putLaunch_pkg (s : State) (l : Launch) : (s.putLaunch l).pkg = s.pkg := rfl
@[simp] theorem putLaunch_booted (s : State) (l : Launch) : (s.putLaunch l).booted = s.booted := rfl
@[simp] theorem putLaunch_flash (s : State) (l : Launch) : (s.putLaunch l).flash = s.flash := rfl
@[simp] theorem putLaunch_throttled (s : State) (l : Launch) : (s.putLaunch l).throttled = s.throttled := rfl
@[simp] theorem putLaunch_harts (s : State) (l : Launch) : (s.putLaunch l).harts = s.harts := rfl
@[simp] theorem putLaunch_nextHandle (s : State) (l : Launch) : (s.putLaunch l).nextHandle = s.nextHandle := rfl
@[simp] theorem putLaunch_pointers (s : State) (l : Launch) : (s.putLaunch l).pointers = s.pointers := rfl
@[simp] theorem putLaunch_reserved (s : State) (l : Launch) : (s.putLaunch l).reserved = s.reserved := rfl
@[simp] theorem putLaunch_orderNo (s : State) (l : Launch) : (s.putLaunch l).orderNo = s.orderNo := rfl
@[simp] theorem putLaunch_placeDue (s : State) (l : Launch) : (s.putLaunch l).placeDue = s.placeDue := rfl
@[simp] theorem putLaunch_slices (s : State) (l : Launch) : (s.putLaunch l).slices = s.slices := rfl
@[simp] theorem putLaunch_xlat (s : State) (l : Launch) : (s.putLaunch l).xlat = s.xlat := rfl
@[simp] theorem putLaunch_poisoned (s : State) (l : Launch) : (s.putLaunch l).poisoned = s.poisoned := rfl
@[simp] theorem putLaunch_heldLines (s : State) (l : Launch) : (s.putLaunch l).heldLines = s.heldLines := rfl
@[simp] theorem putLaunch_busWaits (s : State) (l : Launch) : (s.putLaunch l).busWaits = s.busWaits := rfl
@[simp] theorem putLaunch_kvSeqs (s : State) (l : Launch) : (s.putLaunch l).kvSeqs = s.kvSeqs := rfl
@[simp] theorem putLaunch_kvHolds (s : State) (l : Launch) : (s.putLaunch l).kvHolds = s.kvHolds := rfl
@[simp] theorem putLaunch_routes (s : State) (l : Launch) : (s.putLaunch l).routes = s.routes := rfl
@[simp] theorem putLaunch_pits (s : State) (l : Launch) : (s.putLaunch l).pits = s.pits := rfl
@[simp] theorem putLaunch_gtiles (s : State) (l : Launch) : (s.putLaunch l).gtiles = s.gtiles := rfl
@[simp] theorem putLaunch_gmsgs (s : State) (l : Launch) : (s.putLaunch l).gmsgs = s.gmsgs := rfl
@[simp] theorem putLaunch_gheld (s : State) (l : Launch) : (s.putLaunch l).gheld = s.gheld := rfl
@[simp] theorem putLaunch_brimen (s : State) (l : Launch) : (s.putLaunch l).brimen = s.brimen := rfl
@[simp] theorem putLaunch_reasm (s : State) (l : Launch) : (s.putLaunch l).reasm = s.reasm := rfl
@[simp] theorem putLaunch_mgmt (s : State) (l : Launch) : (s.putLaunch l).mgmt = s.mgmt := rfl
@[simp] theorem putLaunch_stnToks (s : State) (l : Launch) : (s.putLaunch l).stnToks = s.stnToks := rfl
@[simp] theorem putLaunch_keys (s : State) (l : Launch) : (s.putLaunch l).keys = s.keys := rfl
@[simp] theorem putLaunch_tbQueue (s : State) (l : Launch) : (s.putLaunch l).tbQueue = s.tbQueue := rfl
@[simp] theorem putLaunch_dice (s : State) (l : Launch) : (s.putLaunch l).dice = s.dice := rfl
@[simp] theorem putLaunch_captDropped (s : State) (l : Launch) : (s.putLaunch l).captDropped = s.captDropped := rfl
@[simp] theorem putLaunch_replays (s : State) (l : Launch) : (s.putLaunch l).replays = s.replays := rfl
@[simp] theorem putLaunch_freshId (s : State) (l : Launch) : (s.putLaunch l).freshId = s.freshId := rfl
@[simp] theorem putLaunch_bus (s : State) (l : Launch) : (s.putLaunch l).bus = s.bus := rfl
@[simp] theorem putLaunch_sched (s : State) (l : Launch) : (s.putLaunch l).sched = s.sched := rfl
@[simp] theorem putLaunch_moves (s : State) (l : Launch) : (s.putLaunch l).moves = s.moves := rfl
@[simp] theorem putLaunch_focus (s : State) (l : Launch) : (s.putLaunch l).focus = s.focus := rfl
@[simp] theorem putLaunch_mezz (s : State) (l : Launch) : (s.putLaunch l).mezz = s.mezz := rfl
@[simp] theorem putLaunch_hostParts (s : State) (l : Launch) : (s.putLaunch l).hostParts = s.hostParts := rfl
@[simp] theorem putLaunch_sysWaits (s : State) (l : Launch) : (s.putLaunch l).sysWaits = s.sysWaits := rfl

/-! ### State.putHart -/

@[simp] theorem putHart_mem (s : State) (h : Nat) (k : Hart) : (s.putHart h k).mem = s.mem := rfl
@[simp] theorem putHart_cycle (s : State) (h : Nat) (k : Hart) : (s.putHart h k).cycle = s.cycle := rfl
@[simp] theorem putHart_regs (s : State) (h : Nat) (k : Hart) : (s.putHart h k).regs = s.regs := rfl
@[simp] theorem putHart_laygen (s : State) (h : Nat) (k : Hart) : (s.putHart h k).laygen = s.laygen := rfl
@[simp] theorem putHart_seqNo (s : State) (h : Nat) (k : Hart) : (s.putHart h k).seqNo = s.seqNo := rfl
@[simp] theorem putHart_lostRec (s : State) (h : Nat) (k : Hart) : (s.putHart h k).lostRec = s.lostRec := rfl
@[simp] theorem putHart_mcRec (s : State) (h : Nat) (k : Hart) : (s.putHart h k).mcRec = s.mcRec := rfl
@[simp] theorem putHart_msis (s : State) (h : Nat) (k : Hart) : (s.putHart h k).msis = s.msis := rfl
@[simp] theorem putHart_pkg (s : State) (h : Nat) (k : Hart) : (s.putHart h k).pkg = s.pkg := rfl
@[simp] theorem putHart_booted (s : State) (h : Nat) (k : Hart) : (s.putHart h k).booted = s.booted := rfl
@[simp] theorem putHart_flash (s : State) (h : Nat) (k : Hart) : (s.putHart h k).flash = s.flash := rfl
@[simp] theorem putHart_throttled (s : State) (h : Nat) (k : Hart) : (s.putHart h k).throttled = s.throttled := rfl
@[simp] theorem putHart_launches (s : State) (h : Nat) (k : Hart) : (s.putHart h k).launches = s.launches := rfl
@[simp] theorem putHart_nextHandle (s : State) (h : Nat) (k : Hart) : (s.putHart h k).nextHandle = s.nextHandle := rfl
@[simp] theorem putHart_pointers (s : State) (h : Nat) (k : Hart) : (s.putHart h k).pointers = s.pointers := rfl
@[simp] theorem putHart_reserved (s : State) (h : Nat) (k : Hart) : (s.putHart h k).reserved = s.reserved := rfl
@[simp] theorem putHart_orderNo (s : State) (h : Nat) (k : Hart) : (s.putHart h k).orderNo = s.orderNo := rfl
@[simp] theorem putHart_placeDue (s : State) (h : Nat) (k : Hart) : (s.putHart h k).placeDue = s.placeDue := rfl
@[simp] theorem putHart_slices (s : State) (h : Nat) (k : Hart) : (s.putHart h k).slices = s.slices := rfl
@[simp] theorem putHart_xlat (s : State) (h : Nat) (k : Hart) : (s.putHart h k).xlat = s.xlat := rfl
@[simp] theorem putHart_poisoned (s : State) (h : Nat) (k : Hart) : (s.putHart h k).poisoned = s.poisoned := rfl
@[simp] theorem putHart_heldLines (s : State) (h : Nat) (k : Hart) : (s.putHart h k).heldLines = s.heldLines := rfl
@[simp] theorem putHart_busWaits (s : State) (h : Nat) (k : Hart) : (s.putHart h k).busWaits = s.busWaits := rfl
@[simp] theorem putHart_kvSeqs (s : State) (h : Nat) (k : Hart) : (s.putHart h k).kvSeqs = s.kvSeqs := rfl
@[simp] theorem putHart_kvHolds (s : State) (h : Nat) (k : Hart) : (s.putHart h k).kvHolds = s.kvHolds := rfl
@[simp] theorem putHart_routes (s : State) (h : Nat) (k : Hart) : (s.putHart h k).routes = s.routes := rfl
@[simp] theorem putHart_pits (s : State) (h : Nat) (k : Hart) : (s.putHart h k).pits = s.pits := rfl
@[simp] theorem putHart_gtiles (s : State) (h : Nat) (k : Hart) : (s.putHart h k).gtiles = s.gtiles := rfl
@[simp] theorem putHart_gmsgs (s : State) (h : Nat) (k : Hart) : (s.putHart h k).gmsgs = s.gmsgs := rfl
@[simp] theorem putHart_gheld (s : State) (h : Nat) (k : Hart) : (s.putHart h k).gheld = s.gheld := rfl
@[simp] theorem putHart_brimen (s : State) (h : Nat) (k : Hart) : (s.putHart h k).brimen = s.brimen := rfl
@[simp] theorem putHart_reasm (s : State) (h : Nat) (k : Hart) : (s.putHart h k).reasm = s.reasm := rfl
@[simp] theorem putHart_mgmt (s : State) (h : Nat) (k : Hart) : (s.putHart h k).mgmt = s.mgmt := rfl
@[simp] theorem putHart_stnToks (s : State) (h : Nat) (k : Hart) : (s.putHart h k).stnToks = s.stnToks := rfl
@[simp] theorem putHart_keys (s : State) (h : Nat) (k : Hart) : (s.putHart h k).keys = s.keys := rfl
@[simp] theorem putHart_tbQueue (s : State) (h : Nat) (k : Hart) : (s.putHart h k).tbQueue = s.tbQueue := rfl
@[simp] theorem putHart_dice (s : State) (h : Nat) (k : Hart) : (s.putHart h k).dice = s.dice := rfl
@[simp] theorem putHart_captDropped (s : State) (h : Nat) (k : Hart) : (s.putHart h k).captDropped = s.captDropped := rfl
@[simp] theorem putHart_replays (s : State) (h : Nat) (k : Hart) : (s.putHart h k).replays = s.replays := rfl
@[simp] theorem putHart_freshId (s : State) (h : Nat) (k : Hart) : (s.putHart h k).freshId = s.freshId := rfl
@[simp] theorem putHart_bus (s : State) (h : Nat) (k : Hart) : (s.putHart h k).bus = s.bus := rfl
@[simp] theorem putHart_sched (s : State) (h : Nat) (k : Hart) : (s.putHart h k).sched = s.sched := rfl
@[simp] theorem putHart_moves (s : State) (h : Nat) (k : Hart) : (s.putHart h k).moves = s.moves := rfl
@[simp] theorem putHart_focus (s : State) (h : Nat) (k : Hart) : (s.putHart h k).focus = s.focus := rfl
@[simp] theorem putHart_mezz (s : State) (h : Nat) (k : Hart) : (s.putHart h k).mezz = s.mezz := rfl
@[simp] theorem putHart_hostParts (s : State) (h : Nat) (k : Hart) : (s.putHart h k).hostParts = s.hostParts := rfl
@[simp] theorem putHart_sysWaits (s : State) (h : Nat) (k : Hart) : (s.putHart h k).sysWaits = s.sysWaits := rfl

/-! ### State.bumpLayout -/

@[simp] theorem bumpLayout_mem (s : State) : (s.bumpLayout).mem = s.mem := rfl
@[simp] theorem bumpLayout_cycle (s : State) : (s.bumpLayout).cycle = s.cycle := rfl
@[simp] theorem bumpLayout_regs (s : State) : (s.bumpLayout).regs = s.regs := rfl
@[simp] theorem bumpLayout_seqNo (s : State) : (s.bumpLayout).seqNo = s.seqNo := rfl
@[simp] theorem bumpLayout_lostRec (s : State) : (s.bumpLayout).lostRec = s.lostRec := rfl
@[simp] theorem bumpLayout_mcRec (s : State) : (s.bumpLayout).mcRec = s.mcRec := rfl
@[simp] theorem bumpLayout_msis (s : State) : (s.bumpLayout).msis = s.msis := rfl
@[simp] theorem bumpLayout_pkg (s : State) : (s.bumpLayout).pkg = s.pkg := rfl
@[simp] theorem bumpLayout_booted (s : State) : (s.bumpLayout).booted = s.booted := rfl
@[simp] theorem bumpLayout_flash (s : State) : (s.bumpLayout).flash = s.flash := rfl
@[simp] theorem bumpLayout_throttled (s : State) : (s.bumpLayout).throttled = s.throttled := rfl
@[simp] theorem bumpLayout_harts (s : State) : (s.bumpLayout).harts = s.harts := rfl
@[simp] theorem bumpLayout_launches (s : State) : (s.bumpLayout).launches = s.launches := rfl
@[simp] theorem bumpLayout_nextHandle (s : State) : (s.bumpLayout).nextHandle = s.nextHandle := rfl
@[simp] theorem bumpLayout_pointers (s : State) : (s.bumpLayout).pointers = s.pointers := rfl
@[simp] theorem bumpLayout_reserved (s : State) : (s.bumpLayout).reserved = s.reserved := rfl
@[simp] theorem bumpLayout_orderNo (s : State) : (s.bumpLayout).orderNo = s.orderNo := rfl
@[simp] theorem bumpLayout_placeDue (s : State) : (s.bumpLayout).placeDue = s.placeDue := rfl
@[simp] theorem bumpLayout_slices (s : State) : (s.bumpLayout).slices = s.slices := rfl
@[simp] theorem bumpLayout_xlat (s : State) : (s.bumpLayout).xlat = s.xlat := rfl
@[simp] theorem bumpLayout_poisoned (s : State) : (s.bumpLayout).poisoned = s.poisoned := rfl
@[simp] theorem bumpLayout_heldLines (s : State) : (s.bumpLayout).heldLines = s.heldLines := rfl
@[simp] theorem bumpLayout_busWaits (s : State) : (s.bumpLayout).busWaits = s.busWaits := rfl
@[simp] theorem bumpLayout_kvSeqs (s : State) : (s.bumpLayout).kvSeqs = s.kvSeqs := rfl
@[simp] theorem bumpLayout_kvHolds (s : State) : (s.bumpLayout).kvHolds = s.kvHolds := rfl
@[simp] theorem bumpLayout_routes (s : State) : (s.bumpLayout).routes = s.routes := rfl
@[simp] theorem bumpLayout_pits (s : State) : (s.bumpLayout).pits = s.pits := rfl
@[simp] theorem bumpLayout_gtiles (s : State) : (s.bumpLayout).gtiles = s.gtiles := rfl
@[simp] theorem bumpLayout_gmsgs (s : State) : (s.bumpLayout).gmsgs = s.gmsgs := rfl
@[simp] theorem bumpLayout_gheld (s : State) : (s.bumpLayout).gheld = s.gheld := rfl
@[simp] theorem bumpLayout_brimen (s : State) : (s.bumpLayout).brimen = s.brimen := rfl
@[simp] theorem bumpLayout_reasm (s : State) : (s.bumpLayout).reasm = s.reasm := rfl
@[simp] theorem bumpLayout_mgmt (s : State) : (s.bumpLayout).mgmt = s.mgmt := rfl
@[simp] theorem bumpLayout_stnToks (s : State) : (s.bumpLayout).stnToks = s.stnToks := rfl
@[simp] theorem bumpLayout_keys (s : State) : (s.bumpLayout).keys = s.keys := rfl
@[simp] theorem bumpLayout_tbQueue (s : State) : (s.bumpLayout).tbQueue = s.tbQueue := rfl
@[simp] theorem bumpLayout_dice (s : State) : (s.bumpLayout).dice = s.dice := rfl
@[simp] theorem bumpLayout_captDropped (s : State) : (s.bumpLayout).captDropped = s.captDropped := rfl
@[simp] theorem bumpLayout_replays (s : State) : (s.bumpLayout).replays = s.replays := rfl
@[simp] theorem bumpLayout_freshId (s : State) : (s.bumpLayout).freshId = s.freshId := rfl
@[simp] theorem bumpLayout_bus (s : State) : (s.bumpLayout).bus = s.bus := rfl
@[simp] theorem bumpLayout_sched (s : State) : (s.bumpLayout).sched = s.sched := rfl
@[simp] theorem bumpLayout_moves (s : State) : (s.bumpLayout).moves = s.moves := rfl
@[simp] theorem bumpLayout_focus (s : State) : (s.bumpLayout).focus = s.focus := rfl
@[simp] theorem bumpLayout_mezz (s : State) : (s.bumpLayout).mezz = s.mezz := rfl
@[simp] theorem bumpLayout_hostParts (s : State) : (s.bumpLayout).hostParts = s.hostParts := rfl
@[simp] theorem bumpLayout_sysWaits (s : State) : (s.bumpLayout).sysWaits = s.sysWaits := rfl

/-! ### Launch.put -/

@[simp] theorem launchPut_handle (l : Launch) (m : Nat) (g : Region) : (l.put m g).handle = l.handle := rfl
@[simp] theorem launchPut_queue (l : Launch) (m : Nat) (g : Region) : (l.put m g).queue = l.queue := rfl
@[simp] theorem launchPut_prio (l : Launch) (m : Nat) (g : Region) : (l.put m g).prio = l.prio := rfl
@[simp] theorem launchPut_world (l : Launch) (m : Nat) (g : Region) : (l.put m g).world = l.world := rfl
@[simp] theorem launchPut_autoc (l : Launch) (m : Nat) (g : Region) : (l.put m g).autoc = l.autoc := rfl
@[simp] theorem launchPut_priv (l : Launch) (m : Nat) (g : Region) : (l.put m g).priv = l.priv := rfl
@[simp] theorem launchPut_capt (l : Launch) (m : Nat) (g : Region) : (l.put m g).capt = l.capt := rfl
@[simp] theorem launchPut_strict (l : Launch) (m : Nat) (g : Region) : (l.put m g).strict = l.strict := rfl
@[simp] theorem launchPut_adie (l : Launch) (m : Nat) (g : Region) : (l.put m g).adie = l.adie := rfl
@[simp] theorem launchPut_image (l : Launch) (m : Nat) (g : Region) : (l.put m g).image = l.image := rfl
@[simp] theorem launchPut_state (l : Launch) (m : Nat) (g : Region) : (l.put m g).state = l.state := rfl
@[simp] theorem launchPut_openSpan (l : Launch) (m : Nat) (g : Region) : (l.put m g).openSpan = l.openSpan := rfl
@[simp] theorem launchPut_closedSpans (l : Launch) (m : Nat) (g : Region) : (l.put m g).closedSpans = l.closedSpans := rfl
@[simp] theorem launchPut_committed (l : Launch) (m : Nat) (g : Region) : (l.put m g).committed = l.committed := rfl
@[simp] theorem launchPut_spanReplies (l : Launch) (m : Nat) (g : Region) : (l.put m g).spanReplies = l.spanReplies := rfl
@[simp] theorem launchPut_held (l : Launch) (m : Nat) (g : Region) : (l.put m g).held = l.held := rfl
@[simp] theorem launchPut_sl (l : Launch) (m : Nat) (g : Region) : (l.put m g).sl = l.sl := rfl
@[simp] theorem launchPut_purges (l : Launch) (m : Nat) (g : Region) : (l.put m g).purges = l.purges := rfl
@[simp] theorem launchPut_causes (l : Launch) (m : Nat) (g : Region) : (l.put m g).causes = l.causes := rfl
@[simp] theorem launchPut_freezeWaiters (l : Launch) (m : Nat) (g : Region) : (l.put m g).freezeWaiters = l.freezeWaiters := rfl
@[simp] theorem launchPut_freezeReq (l : Launch) (m : Nat) (g : Region) : (l.put m g).freezeReq = l.freezeReq := rfl
@[simp] theorem launchPut_toSaved (l : Launch) (m : Nat) (g : Region) : (l.put m g).toSaved = l.toSaved := rfl
@[simp] theorem launchPut_scanned (l : Launch) (m : Nat) (g : Region) : (l.put m g).scanned = l.scanned := rfl
@[simp] theorem launchPut_scanTried (l : Launch) (m : Nat) (g : Region) : (l.put m g).scanTried = l.scanTried := rfl
@[simp] theorem launchPut_areas (l : Launch) (m : Nat) (g : Region) : (l.put m g).areas = l.areas := rfl
@[simp] theorem launchPut_frozenBy (l : Launch) (m : Nat) (g : Region) : (l.put m g).frozenBy = l.frozenBy := rfl
@[simp] theorem launchPut_drainFrom (l : Launch) (m : Nat) (g : Region) : (l.put m g).drainFrom = l.drainFrom := rfl
@[simp] theorem launchPut_results (l : Launch) (m : Nat) (g : Region) : (l.put m g).results = l.results := rfl
@[simp] theorem launchPut_admitted (l : Launch) (m : Nat) (g : Region) : (l.put m g).admitted = l.admitted := rfl
@[simp] theorem launchPut_fails (l : Launch) (m : Nat) (g : Region) : (l.put m g).fails = l.fails := rfl
@[simp] theorem launchPut_order (l : Launch) (m : Nat) (g : Region) : (l.put m g).order = l.order := rfl
@[simp] theorem launchPut_placedNo (l : Launch) (m : Nat) (g : Region) : (l.put m g).placedNo = l.placedNo := rfl
@[simp] theorem launchPut_replay (l : Launch) (m : Nat) (g : Region) : (l.put m g).replay = l.replay := rfl
@[simp] theorem launchPut_hwDead (l : Launch) (m : Nat) (g : Region) : (l.put m g).hwDead = l.hwDead := rfl
@[simp] theorem launchPut_spanDue (l : Launch) (m : Nat) (g : Region) : (l.put m g).spanDue = l.spanDue := rfl

/-! ### Region.putElem -/

@[simp] theorem putElem_die (g : Region) (e : Elem) : (g.putElem e).die = g.die := rfl
@[simp] theorem putElem_num (g : Region) (e : Elem) : (g.putElem e).num = g.num := rfl
@[simp] theorem putElem_x0 (g : Region) (e : Elem) : (g.putElem e).x0 = g.x0 := rfl
@[simp] theorem putElem_y0 (g : Region) (e : Elem) : (g.putElem e).y0 = g.y0 := rfl
@[simp] theorem putElem_w (g : Region) (e : Elem) : (g.putElem e).w = g.w := rfl
@[simp] theorem putElem_h (g : Region) (e : Elem) : (g.putElem e).h = g.h := rfl
@[simp] theorem putElem_rel (g : Region) (e : Elem) : (g.putElem e).rel = g.rel := rfl
@[simp] theorem putElem_image (g : Region) (e : Elem) : (g.putElem e).image = g.image := rfl
@[simp] theorem putElem_tagw (g : Region) (e : Elem) : (g.putElem e).tagw = g.tagw := rfl
@[simp] theorem putElem_ctxmask (g : Region) (e : Elem) : (g.putElem e).ctxmask = g.ctxmask := rfl
@[simp] theorem putElem_multiw (g : Region) (e : Elem) : (g.putElem e).multiw = g.multiw := rfl
@[simp] theorem putElem_memn (g : Region) (e : Elem) : (g.putElem e).memn = g.memn := rfl
@[simp] theorem putElem_mems (g : Region) (e : Elem) : (g.putElem e).mems = g.mems := rfl
@[simp] theorem putElem_ports (g : Region) (e : Elem) : (g.putElem e).ports = g.ports := rfl
@[simp] theorem putElem_stns (g : Region) (e : Elem) : (g.putElem e).stns = g.stns := rfl
@[simp] theorem putElem_tiles (g : Region) (e : Elem) : (g.putElem e).tiles = g.tiles := rfl
@[simp] theorem putElem_mports (g : Region) (e : Elem) : (g.putElem e).mports = g.mports := rfl
@[simp] theorem putElem_links (g : Region) (e : Elem) : (g.putElem e).links = g.links := rfl
@[simp] theorem putElem_accs (g : Region) (e : Elem) : (g.putElem e).accs = g.accs := rfl
@[simp] theorem putElem_ctx (g : Region) (e : Elem) : (g.putElem e).ctx = g.ctx := rfl
@[simp] theorem putElem_ctxCfg (g : Region) (e : Elem) : (g.putElem e).ctxCfg = g.ctxCfg := rfl
@[simp] theorem putElem_ctxReqs (g : Region) (e : Elem) : (g.putElem e).ctxReqs = g.ctxReqs := rfl
@[simp] theorem putElem_coltab (g : Region) (e : Elem) : (g.putElem e).coltab = g.coltab := rfl
@[simp] theorem putElem_census (g : Region) (e : Elem) : (g.putElem e).census = g.census := rfl
@[simp] theorem putElem_deltas (g : Region) (e : Elem) : (g.putElem e).deltas = g.deltas := rfl
@[simp] theorem putElem_admits (g : Region) (e : Elem) : (g.putElem e).admits = g.admits := rfl
@[simp] theorem putElem_zeroLast (g : Region) (e : Elem) : (g.putElem e).zeroLast = g.zeroLast := rfl
@[simp] theorem putElem_quiet (g : Region) (e : Elem) : (g.putElem e).quiet = g.quiet := rfl
@[simp] theorem putElem_stall (g : Region) (e : Elem) : (g.putElem e).stall = g.stall := rfl
@[simp] theorem putElem_stalled (g : Region) (e : Elem) : (g.putElem e).stalled = g.stalled := rfl
@[simp] theorem putElem_sweeps (g : Region) (e : Elem) : (g.putElem e).sweeps = g.sweeps := rfl
@[simp] theorem putElem_sweepStart (g : Region) (e : Elem) : (g.putElem e).sweepStart = g.sweepStart := rfl
@[simp] theorem putElem_due (g : Region) (e : Elem) : (g.putElem e).due = g.due := rfl
@[simp] theorem putElem_sheets (g : Region) (e : Elem) : (g.putElem e).sheets = g.sheets := rfl
@[simp] theorem putElem_hwerr (g : Region) (e : Elem) : (g.putElem e).hwerr = g.hwerr := rfl
@[simp] theorem putElem_yielded (g : Region) (e : Elem) : (g.putElem e).yielded = g.yielded := rfl
@[simp] theorem putElem_quietFor (g : Region) (e : Elem) : (g.putElem e).quietFor = g.quietFor := rfl
@[simp] theorem putElem_turns (g : Region) (e : Elem) : (g.putElem e).turns = g.turns := rfl

/-! ### Region.putTile -/

@[simp] theorem putTile_die (g : Region) (t : Tile) : (g.putTile t).die = g.die := rfl
@[simp] theorem putTile_num (g : Region) (t : Tile) : (g.putTile t).num = g.num := rfl
@[simp] theorem putTile_x0 (g : Region) (t : Tile) : (g.putTile t).x0 = g.x0 := rfl
@[simp] theorem putTile_y0 (g : Region) (t : Tile) : (g.putTile t).y0 = g.y0 := rfl
@[simp] theorem putTile_w (g : Region) (t : Tile) : (g.putTile t).w = g.w := rfl
@[simp] theorem putTile_h (g : Region) (t : Tile) : (g.putTile t).h = g.h := rfl
@[simp] theorem putTile_rel (g : Region) (t : Tile) : (g.putTile t).rel = g.rel := rfl
@[simp] theorem putTile_image (g : Region) (t : Tile) : (g.putTile t).image = g.image := rfl
@[simp] theorem putTile_tagw (g : Region) (t : Tile) : (g.putTile t).tagw = g.tagw := rfl
@[simp] theorem putTile_ctxmask (g : Region) (t : Tile) : (g.putTile t).ctxmask = g.ctxmask := rfl
@[simp] theorem putTile_multiw (g : Region) (t : Tile) : (g.putTile t).multiw = g.multiw := rfl
@[simp] theorem putTile_memn (g : Region) (t : Tile) : (g.putTile t).memn = g.memn := rfl
@[simp] theorem putTile_mems (g : Region) (t : Tile) : (g.putTile t).mems = g.mems := rfl
@[simp] theorem putTile_ports (g : Region) (t : Tile) : (g.putTile t).ports = g.ports := rfl
@[simp] theorem putTile_stns (g : Region) (t : Tile) : (g.putTile t).stns = g.stns := rfl
@[simp] theorem putTile_elems (g : Region) (t : Tile) : (g.putTile t).elems = g.elems := rfl
@[simp] theorem putTile_mports (g : Region) (t : Tile) : (g.putTile t).mports = g.mports := rfl
@[simp] theorem putTile_links (g : Region) (t : Tile) : (g.putTile t).links = g.links := rfl
@[simp] theorem putTile_accs (g : Region) (t : Tile) : (g.putTile t).accs = g.accs := rfl
@[simp] theorem putTile_ctx (g : Region) (t : Tile) : (g.putTile t).ctx = g.ctx := rfl
@[simp] theorem putTile_ctxCfg (g : Region) (t : Tile) : (g.putTile t).ctxCfg = g.ctxCfg := rfl
@[simp] theorem putTile_ctxReqs (g : Region) (t : Tile) : (g.putTile t).ctxReqs = g.ctxReqs := rfl
@[simp] theorem putTile_coltab (g : Region) (t : Tile) : (g.putTile t).coltab = g.coltab := rfl
@[simp] theorem putTile_census (g : Region) (t : Tile) : (g.putTile t).census = g.census := rfl
@[simp] theorem putTile_deltas (g : Region) (t : Tile) : (g.putTile t).deltas = g.deltas := rfl
@[simp] theorem putTile_admits (g : Region) (t : Tile) : (g.putTile t).admits = g.admits := rfl
@[simp] theorem putTile_zeroLast (g : Region) (t : Tile) : (g.putTile t).zeroLast = g.zeroLast := rfl
@[simp] theorem putTile_quiet (g : Region) (t : Tile) : (g.putTile t).quiet = g.quiet := rfl
@[simp] theorem putTile_stall (g : Region) (t : Tile) : (g.putTile t).stall = g.stall := rfl
@[simp] theorem putTile_stalled (g : Region) (t : Tile) : (g.putTile t).stalled = g.stalled := rfl
@[simp] theorem putTile_sweeps (g : Region) (t : Tile) : (g.putTile t).sweeps = g.sweeps := rfl
@[simp] theorem putTile_sweepStart (g : Region) (t : Tile) : (g.putTile t).sweepStart = g.sweepStart := rfl
@[simp] theorem putTile_due (g : Region) (t : Tile) : (g.putTile t).due = g.due := rfl
@[simp] theorem putTile_sheets (g : Region) (t : Tile) : (g.putTile t).sheets = g.sheets := rfl
@[simp] theorem putTile_hwerr (g : Region) (t : Tile) : (g.putTile t).hwerr = g.hwerr := rfl
@[simp] theorem putTile_yielded (g : Region) (t : Tile) : (g.putTile t).yielded = g.yielded := rfl
@[simp] theorem putTile_quietFor (g : Region) (t : Tile) : (g.putTile t).quietFor = g.quietFor := rfl
@[simp] theorem putTile_turns (g : Region) (t : Tile) : (g.putTile t).turns = g.turns := rfl

/-! ### Region.putMport -/

@[simp] theorem putMport_die (g : Region) (m : MPort) : (g.putMport m).die = g.die := rfl
@[simp] theorem putMport_num (g : Region) (m : MPort) : (g.putMport m).num = g.num := rfl
@[simp] theorem putMport_x0 (g : Region) (m : MPort) : (g.putMport m).x0 = g.x0 := rfl
@[simp] theorem putMport_y0 (g : Region) (m : MPort) : (g.putMport m).y0 = g.y0 := rfl
@[simp] theorem putMport_w (g : Region) (m : MPort) : (g.putMport m).w = g.w := rfl
@[simp] theorem putMport_h (g : Region) (m : MPort) : (g.putMport m).h = g.h := rfl
@[simp] theorem putMport_rel (g : Region) (m : MPort) : (g.putMport m).rel = g.rel := rfl
@[simp] theorem putMport_image (g : Region) (m : MPort) : (g.putMport m).image = g.image := rfl
@[simp] theorem putMport_tagw (g : Region) (m : MPort) : (g.putMport m).tagw = g.tagw := rfl
@[simp] theorem putMport_ctxmask (g : Region) (m : MPort) : (g.putMport m).ctxmask = g.ctxmask := rfl
@[simp] theorem putMport_multiw (g : Region) (m : MPort) : (g.putMport m).multiw = g.multiw := rfl
@[simp] theorem putMport_memn (g : Region) (m : MPort) : (g.putMport m).memn = g.memn := rfl
@[simp] theorem putMport_mems (g : Region) (m : MPort) : (g.putMport m).mems = g.mems := rfl
@[simp] theorem putMport_ports (g : Region) (m : MPort) : (g.putMport m).ports = g.ports := rfl
@[simp] theorem putMport_stns (g : Region) (m : MPort) : (g.putMport m).stns = g.stns := rfl
@[simp] theorem putMport_elems (g : Region) (m : MPort) : (g.putMport m).elems = g.elems := rfl
@[simp] theorem putMport_tiles (g : Region) (m : MPort) : (g.putMport m).tiles = g.tiles := rfl
@[simp] theorem putMport_links (g : Region) (m : MPort) : (g.putMport m).links = g.links := rfl
@[simp] theorem putMport_accs (g : Region) (m : MPort) : (g.putMport m).accs = g.accs := rfl
@[simp] theorem putMport_ctx (g : Region) (m : MPort) : (g.putMport m).ctx = g.ctx := rfl
@[simp] theorem putMport_ctxCfg (g : Region) (m : MPort) : (g.putMport m).ctxCfg = g.ctxCfg := rfl
@[simp] theorem putMport_ctxReqs (g : Region) (m : MPort) : (g.putMport m).ctxReqs = g.ctxReqs := rfl
@[simp] theorem putMport_coltab (g : Region) (m : MPort) : (g.putMport m).coltab = g.coltab := rfl
@[simp] theorem putMport_census (g : Region) (m : MPort) : (g.putMport m).census = g.census := rfl
@[simp] theorem putMport_deltas (g : Region) (m : MPort) : (g.putMport m).deltas = g.deltas := rfl
@[simp] theorem putMport_admits (g : Region) (m : MPort) : (g.putMport m).admits = g.admits := rfl
@[simp] theorem putMport_zeroLast (g : Region) (m : MPort) : (g.putMport m).zeroLast = g.zeroLast := rfl
@[simp] theorem putMport_quiet (g : Region) (m : MPort) : (g.putMport m).quiet = g.quiet := rfl
@[simp] theorem putMport_stall (g : Region) (m : MPort) : (g.putMport m).stall = g.stall := rfl
@[simp] theorem putMport_stalled (g : Region) (m : MPort) : (g.putMport m).stalled = g.stalled := rfl
@[simp] theorem putMport_sweeps (g : Region) (m : MPort) : (g.putMport m).sweeps = g.sweeps := rfl
@[simp] theorem putMport_sweepStart (g : Region) (m : MPort) : (g.putMport m).sweepStart = g.sweepStart := rfl
@[simp] theorem putMport_due (g : Region) (m : MPort) : (g.putMport m).due = g.due := rfl
@[simp] theorem putMport_sheets (g : Region) (m : MPort) : (g.putMport m).sheets = g.sheets := rfl
@[simp] theorem putMport_hwerr (g : Region) (m : MPort) : (g.putMport m).hwerr = g.hwerr := rfl
@[simp] theorem putMport_yielded (g : Region) (m : MPort) : (g.putMport m).yielded = g.yielded := rfl
@[simp] theorem putMport_quietFor (g : Region) (m : MPort) : (g.putMport m).quietFor = g.quietFor := rfl
@[simp] theorem putMport_turns (g : Region) (m : MPort) : (g.putMport m).turns = g.turns := rfl

/-! ### Region.putAcc -/

@[simp] theorem putAcc_die (g : Region) (a : Access) : (g.putAcc a).die = g.die := rfl
@[simp] theorem putAcc_num (g : Region) (a : Access) : (g.putAcc a).num = g.num := rfl
@[simp] theorem putAcc_x0 (g : Region) (a : Access) : (g.putAcc a).x0 = g.x0 := rfl
@[simp] theorem putAcc_y0 (g : Region) (a : Access) : (g.putAcc a).y0 = g.y0 := rfl
@[simp] theorem putAcc_w (g : Region) (a : Access) : (g.putAcc a).w = g.w := rfl
@[simp] theorem putAcc_h (g : Region) (a : Access) : (g.putAcc a).h = g.h := rfl
@[simp] theorem putAcc_rel (g : Region) (a : Access) : (g.putAcc a).rel = g.rel := rfl
@[simp] theorem putAcc_image (g : Region) (a : Access) : (g.putAcc a).image = g.image := rfl
@[simp] theorem putAcc_tagw (g : Region) (a : Access) : (g.putAcc a).tagw = g.tagw := rfl
@[simp] theorem putAcc_ctxmask (g : Region) (a : Access) : (g.putAcc a).ctxmask = g.ctxmask := rfl
@[simp] theorem putAcc_multiw (g : Region) (a : Access) : (g.putAcc a).multiw = g.multiw := rfl
@[simp] theorem putAcc_memn (g : Region) (a : Access) : (g.putAcc a).memn = g.memn := rfl
@[simp] theorem putAcc_mems (g : Region) (a : Access) : (g.putAcc a).mems = g.mems := rfl
@[simp] theorem putAcc_ports (g : Region) (a : Access) : (g.putAcc a).ports = g.ports := rfl
@[simp] theorem putAcc_stns (g : Region) (a : Access) : (g.putAcc a).stns = g.stns := rfl
@[simp] theorem putAcc_elems (g : Region) (a : Access) : (g.putAcc a).elems = g.elems := rfl
@[simp] theorem putAcc_tiles (g : Region) (a : Access) : (g.putAcc a).tiles = g.tiles := rfl
@[simp] theorem putAcc_mports (g : Region) (a : Access) : (g.putAcc a).mports = g.mports := rfl
@[simp] theorem putAcc_links (g : Region) (a : Access) : (g.putAcc a).links = g.links := rfl
@[simp] theorem putAcc_ctx (g : Region) (a : Access) : (g.putAcc a).ctx = g.ctx := rfl
@[simp] theorem putAcc_ctxCfg (g : Region) (a : Access) : (g.putAcc a).ctxCfg = g.ctxCfg := rfl
@[simp] theorem putAcc_ctxReqs (g : Region) (a : Access) : (g.putAcc a).ctxReqs = g.ctxReqs := rfl
@[simp] theorem putAcc_coltab (g : Region) (a : Access) : (g.putAcc a).coltab = g.coltab := rfl
@[simp] theorem putAcc_census (g : Region) (a : Access) : (g.putAcc a).census = g.census := rfl
@[simp] theorem putAcc_deltas (g : Region) (a : Access) : (g.putAcc a).deltas = g.deltas := rfl
@[simp] theorem putAcc_admits (g : Region) (a : Access) : (g.putAcc a).admits = g.admits := rfl
@[simp] theorem putAcc_zeroLast (g : Region) (a : Access) : (g.putAcc a).zeroLast = g.zeroLast := rfl
@[simp] theorem putAcc_quiet (g : Region) (a : Access) : (g.putAcc a).quiet = g.quiet := rfl
@[simp] theorem putAcc_stall (g : Region) (a : Access) : (g.putAcc a).stall = g.stall := rfl
@[simp] theorem putAcc_stalled (g : Region) (a : Access) : (g.putAcc a).stalled = g.stalled := rfl
@[simp] theorem putAcc_sweeps (g : Region) (a : Access) : (g.putAcc a).sweeps = g.sweeps := rfl
@[simp] theorem putAcc_sweepStart (g : Region) (a : Access) : (g.putAcc a).sweepStart = g.sweepStart := rfl
@[simp] theorem putAcc_due (g : Region) (a : Access) : (g.putAcc a).due = g.due := rfl
@[simp] theorem putAcc_sheets (g : Region) (a : Access) : (g.putAcc a).sheets = g.sheets := rfl
@[simp] theorem putAcc_hwerr (g : Region) (a : Access) : (g.putAcc a).hwerr = g.hwerr := rfl
@[simp] theorem putAcc_yielded (g : Region) (a : Access) : (g.putAcc a).yielded = g.yielded := rfl
@[simp] theorem putAcc_quietFor (g : Region) (a : Access) : (g.putAcc a).quietFor = g.quietFor := rfl
@[simp] theorem putAcc_turns (g : Region) (a : Access) : (g.putAcc a).turns = g.turns := rfl

/-! ### Region.count -/

@[simp] theorem count_die (g : Region) (src : Src) (tag : Word64) (d : Int) (fire : Bool) : (g.count src tag d fire).die = g.die := rfl
@[simp] theorem count_num (g : Region) (src : Src) (tag : Word64) (d : Int) (fire : Bool) : (g.count src tag d fire).num = g.num := rfl
@[simp] theorem count_x0 (g : Region) (src : Src) (tag : Word64) (d : Int) (fire : Bool) : (g.count src tag d fire).x0 = g.x0 := rfl
@[simp] theorem count_y0 (g : Region) (src : Src) (tag : Word64) (d : Int) (fire : Bool) : (g.count src tag d fire).y0 = g.y0 := rfl
@[simp] theorem count_w (g : Region) (src : Src) (tag : Word64) (d : Int) (fire : Bool) : (g.count src tag d fire).w = g.w := rfl
@[simp] theorem count_h (g : Region) (src : Src) (tag : Word64) (d : Int) (fire : Bool) : (g.count src tag d fire).h = g.h := rfl
@[simp] theorem count_rel (g : Region) (src : Src) (tag : Word64) (d : Int) (fire : Bool) : (g.count src tag d fire).rel = g.rel := rfl
@[simp] theorem count_image (g : Region) (src : Src) (tag : Word64) (d : Int) (fire : Bool) : (g.count src tag d fire).image = g.image := rfl
@[simp] theorem count_tagw (g : Region) (src : Src) (tag : Word64) (d : Int) (fire : Bool) : (g.count src tag d fire).tagw = g.tagw := rfl
@[simp] theorem count_ctxmask (g : Region) (src : Src) (tag : Word64) (d : Int) (fire : Bool) : (g.count src tag d fire).ctxmask = g.ctxmask := rfl
@[simp] theorem count_multiw (g : Region) (src : Src) (tag : Word64) (d : Int) (fire : Bool) : (g.count src tag d fire).multiw = g.multiw := rfl
@[simp] theorem count_memn (g : Region) (src : Src) (tag : Word64) (d : Int) (fire : Bool) : (g.count src tag d fire).memn = g.memn := rfl
@[simp] theorem count_mems (g : Region) (src : Src) (tag : Word64) (d : Int) (fire : Bool) : (g.count src tag d fire).mems = g.mems := rfl
@[simp] theorem count_ports (g : Region) (src : Src) (tag : Word64) (d : Int) (fire : Bool) : (g.count src tag d fire).ports = g.ports := rfl
@[simp] theorem count_stns (g : Region) (src : Src) (tag : Word64) (d : Int) (fire : Bool) : (g.count src tag d fire).stns = g.stns := rfl
@[simp] theorem count_elems (g : Region) (src : Src) (tag : Word64) (d : Int) (fire : Bool) : (g.count src tag d fire).elems = g.elems := rfl
@[simp] theorem count_tiles (g : Region) (src : Src) (tag : Word64) (d : Int) (fire : Bool) : (g.count src tag d fire).tiles = g.tiles := rfl
@[simp] theorem count_mports (g : Region) (src : Src) (tag : Word64) (d : Int) (fire : Bool) : (g.count src tag d fire).mports = g.mports := rfl
@[simp] theorem count_links (g : Region) (src : Src) (tag : Word64) (d : Int) (fire : Bool) : (g.count src tag d fire).links = g.links := rfl
@[simp] theorem count_accs (g : Region) (src : Src) (tag : Word64) (d : Int) (fire : Bool) : (g.count src tag d fire).accs = g.accs := rfl
@[simp] theorem count_ctx (g : Region) (src : Src) (tag : Word64) (d : Int) (fire : Bool) : (g.count src tag d fire).ctx = g.ctx := rfl
@[simp] theorem count_ctxCfg (g : Region) (src : Src) (tag : Word64) (d : Int) (fire : Bool) : (g.count src tag d fire).ctxCfg = g.ctxCfg := rfl
@[simp] theorem count_ctxReqs (g : Region) (src : Src) (tag : Word64) (d : Int) (fire : Bool) : (g.count src tag d fire).ctxReqs = g.ctxReqs := rfl
@[simp] theorem count_coltab (g : Region) (src : Src) (tag : Word64) (d : Int) (fire : Bool) : (g.count src tag d fire).coltab = g.coltab := rfl
@[simp] theorem count_census (g : Region) (src : Src) (tag : Word64) (d : Int) (fire : Bool) : (g.count src tag d fire).census = g.census := rfl
@[simp] theorem count_admits (g : Region) (src : Src) (tag : Word64) (d : Int) (fire : Bool) : (g.count src tag d fire).admits = g.admits := rfl
@[simp] theorem count_zeroLast (g : Region) (src : Src) (tag : Word64) (d : Int) (fire : Bool) : (g.count src tag d fire).zeroLast = g.zeroLast := rfl
@[simp] theorem count_quiet (g : Region) (src : Src) (tag : Word64) (d : Int) (fire : Bool) : (g.count src tag d fire).quiet = g.quiet := rfl
@[simp] theorem count_stall (g : Region) (src : Src) (tag : Word64) (d : Int) (fire : Bool) : (g.count src tag d fire).stall = g.stall := rfl
@[simp] theorem count_stalled (g : Region) (src : Src) (tag : Word64) (d : Int) (fire : Bool) : (g.count src tag d fire).stalled = g.stalled := rfl
@[simp] theorem count_sweeps (g : Region) (src : Src) (tag : Word64) (d : Int) (fire : Bool) : (g.count src tag d fire).sweeps = g.sweeps := rfl
@[simp] theorem count_sweepStart (g : Region) (src : Src) (tag : Word64) (d : Int) (fire : Bool) : (g.count src tag d fire).sweepStart = g.sweepStart := rfl
@[simp] theorem count_due (g : Region) (src : Src) (tag : Word64) (d : Int) (fire : Bool) : (g.count src tag d fire).due = g.due := rfl
@[simp] theorem count_sheets (g : Region) (src : Src) (tag : Word64) (d : Int) (fire : Bool) : (g.count src tag d fire).sheets = g.sheets := rfl
@[simp] theorem count_hwerr (g : Region) (src : Src) (tag : Word64) (d : Int) (fire : Bool) : (g.count src tag d fire).hwerr = g.hwerr := rfl
@[simp] theorem count_yielded (g : Region) (src : Src) (tag : Word64) (d : Int) (fire : Bool) : (g.count src tag d fire).yielded = g.yielded := rfl
@[simp] theorem count_quietFor (g : Region) (src : Src) (tag : Word64) (d : Int) (fire : Bool) : (g.count src tag d fire).quietFor = g.quietFor := rfl
@[simp] theorem count_turns (g : Region) (src : Src) (tag : Word64) (d : Int) (fire : Bool) : (g.count src tag d fire).turns = g.turns := rfl

/-! ### Elem.setSreg -/

@[simp] theorem setSreg_x (e : Elem) (ctx n : Nat) (v : Payload) : (e.setSreg ctx n v).x = e.x := rfl
@[simp] theorem setSreg_y (e : Elem) (ctx n : Nat) (v : Payload) : (e.setSreg ctx n v).y = e.y := rfl
@[simp] theorem setSreg_slots (e : Elem) (ctx n : Nat) (v : Payload) : (e.setSreg ctx n v).slots = e.slots := rfl
@[simp] theorem setSreg_badWords (e : Elem) (ctx n : Nat) (v : Payload) : (e.setSreg ctx n v).badWords = e.badWords := rfl
@[simp] theorem setSreg_k (e : Elem) (ctx n : Nat) (v : Payload) : (e.setSreg ctx n v).k = e.k := rfl
@[simp] theorem setSreg_store (e : Elem) (ctx n : Nat) (v : Payload) : (e.setSreg ctx n v).store = e.store := rfl
@[simp] theorem setSreg_allocs (e : Elem) (ctx n : Nat) (v : Payload) : (e.setSreg ctx n v).allocs = e.allocs := rfl
@[simp] theorem setSreg_reds (e : Elem) (ctx n : Nat) (v : Payload) : (e.setSreg ctx n v).reds = e.reds := rfl
@[simp] theorem setSreg_pend (e : Elem) (ctx n : Nat) (v : Payload) : (e.setSreg ctx n v).pend = e.pend := rfl
@[simp] theorem setSreg_ready (e : Elem) (ctx n : Nat) (v : Payload) : (e.setSreg ctx n v).ready = e.ready := rfl
@[simp] theorem setSreg_out (e : Elem) (ctx n : Nat) (v : Payload) : (e.setSreg ctx n v).out = e.out := rfl
@[simp] theorem setSreg_repPos (e : Elem) (ctx n : Nat) (v : Payload) : (e.setSreg ctx n v).repPos = e.repPos := rfl
@[simp] theorem setSreg_held (e : Elem) (ctx n : Nat) (v : Payload) : (e.setSreg ctx n v).held = e.held := rfl
@[simp] theorem setSreg_xs (e : Elem) (ctx n : Nat) (v : Payload) : (e.setSreg ctx n v).xs = e.xs := rfl
@[simp] theorem setSreg_lat (e : Elem) (ctx n : Nat) (v : Payload) : (e.setSreg ctx n v).lat = e.lat := rfl
@[simp] theorem setSreg_blockedTo (e : Elem) (ctx n : Nat) (v : Payload) : (e.setSreg ctx n v).blockedTo = e.blockedTo := rfl
@[simp] theorem setSreg_lastIssue (e : Elem) (ctx n : Nat) (v : Payload) : (e.setSreg ctx n v).lastIssue = e.lastIssue := rfl

/-! ### What the updates write -/

@[simp] theorem bumpLayout_laygen (s : State) : s.bumpLayout.laygen = s.laygen + 1 := rfl
@[simp] theorem putHart_harts (s : State) (h : Nat) (k : Hart) : (s.putHart h k).harts = s.harts.set h k := rfl
@[simp] theorem launchPut_members (l : Launch) (m : Nat) (g : Region) : (l.put m g).members = l.members.set m g := rfl
@[simp] theorem count_deltas (g : Region) (src : Src) (tag : Word64) (d : Int) (fire : Bool) :
    (g.count src tag d fire).deltas = g.deltas ++ [⟨src, tagKey tag, d, true, fire⟩] := rfl

end Sys2Proof.Machine
end

