-- ==== Sys2Proof/Laws/Frame.lean ====
section
/-! SUPPORT. The frame of an issue, once for every way of firing: what a local instruction may change (R23 to R25, R180). -/

namespace Sys2Proof.Machine

/-- A fold of updates that change a region's deltas alone changes nothing else. -/
theorem count_foldl_keep {α : Type} (f : Region → α → Region) (hf : ∀ g a, { f g a with deltas := g.deltas } = g)
    (l : List α) (g : Region) : { l.foldl f g with deltas := g.deltas } = g := by
  induction l generalizing g with
  | nil => rfl
  | cons a l ih =>
    have h1 := ih (f g a)
    have h2 := hf g a
    rw [List.foldl_cons]
    generalize l.foldl f (f g a) = u at *
    generalize f g a = v at *
    cases u; cases v; cases g
    simp_all

/-- Counting an issue changes the deltas alone. -/
theorem censusOfIssue_keep (g : Region) (src : Src) (ops : List Token) (es : List Emit) (n : Nat) (tag : Word64) :
    { censusOfIssue g src ops es n tag with deltas := g.deltas } = g := by
  have h1 := count_foldl_keep (fun g (t : Token) => g.count src t.tag (-1) true) (fun _ _ => rfl) (ops.filter Token.counted) g
  have h2 := fun g => count_foldl_keep (fun g (m : Emit) => g.count src m.tag (if isSinkDst m.dst then 0 else 1) true) (fun _ _ => rfl) (es.filter fun m => m.kind != 1) g
  have h3 := fun g => count_foldl_keep (fun g (_ : Nat) => g.count src tag 1 true) (fun _ _ => rfl) (List.range n) g
  unfold censusOfIssue
  simp only
  generalize (ops.filter Token.counted).foldl _ g = g1 at *
  have h2 := h2 g1
  generalize (es.filter fun m => m.kind != 1).foldl _ g1 = g2 at *
  have h3 := h3 g2
  generalize (List.range n).foldl _ g2 = g3 at *
  cases g; cases g1; cases g2; cases g3
  simp_all

/-- An effect that changes its element's registers at most. -/
structure Effect.Local (x : Effect) (o : Op) (c : Ctx) : Prop where
  state : x.s = c.s
  elem : { x.e with st := c.e.st, xs := c.e.xs, repPos := c.e.repPos } = c.e
  st : writesState o = false → x.e.st = c.e.st
  xs : isConversion o = false → x.e.xs = c.e.xs
  rep : o ≠ .repeatTok → x.e.repPos = c.e.repPos

/-- Nothing changes. -/
theorem Ctx.OnlyIssues.refl {c : Ctx} {o : Op} {s : State} {f : Fields} (h : s.ctx? f = some c) : c.OnlyIssues o s s := by
  obtain ⟨h1, h2, h3, h4, h5, h6⟩ := ctx?_some h
  exact ⟨rfl, fun _ _ => rfl, c.l, c.g, c.e, h3, h4, h5, rfl, fun _ _ => rfl, rfl, fun _ _ _ => rfl, rfl, ⟨[], by simp⟩, .inl rfl, fun _ => rfl, fun _ => rfl, fun _ => rfl⟩

/-- A local effect, finished under any tags, changes only its element. -/
theorem finish_onlyIssues_tags {c : Ctx} {o : Op} {s : State} {f : Fields} (h : s.ctx? f = some c) (tag tagOut : Word64) (x : Effect)
    (hx : x.Local o c) :
    c.OnlyIssues o s (({ c with
      tag := tag
      tagOut := tagOut } : Ctx).finish x) := by
  obtain ⟨h1, h2, h3, h4, h5, h6⟩ := ctx?_some h
  have hh := launch?_handle h3
  have hxy := elem?_xy h5
  unfold Ctx.finish
  simp only
  generalize (if Ctx.recolourRefused _ = true then Ctx.refuse _ x.emits else x.emits) = es
  split
  · rw [h1]; exact .refl h
  split
  · rw [h1]
    refine ⟨rfl, fun k hk => launch?_putLaunch_other _ (by simpa [hh] using hk), _, c.g, c.e, launch?_putLaunch_same h3 (by simp [hh]), h4, h5, rfl, fun _ _ => rfl, rfl, fun _ _ _ => rfl, rfl, ⟨[], by simp⟩, .inl rfl, fun _ => rfl, fun _ => rfl, fun _ => rfl⟩
  · rw [hx.state, h1, h3]
    simp only [h4]
    generalize hq : pushEmits s c.g _ _ _ = q
    generalize hw : pushReqs s c.g _ _ _ = w
    have hxe := hx.elem
    generalize he1 : ({ x.e with out := x.e.out ++ q.1 ++ w.1, ready := if x.keep = true then x.e.ready else x.e.ready.tail, lastIssue := s.cycle } : Elem) = e1
    have hout : e1.out = c.e.out ++ (q.1 ++ w.1) := by
      rw [← he1, ← hxe]; simp [List.append_assoc]
    have hready : e1.ready = c.e.ready ∨ e1.ready = c.e.ready.tail := by
      rw [← he1, ← hxe]; cases x.keep <;> simp
    have hex : e1.x = c.e.x ∧ e1.y = c.e.y := by rw [← he1, ← hxe]; exact ⟨rfl, rfl⟩
    have hrest : { e1 with
        out := c.e.out
        ready := c.e.ready
        lastIssue := c.e.lastIssue
        st := c.e.st
        xs := c.e.xs
        repPos := c.e.repPos } = c.e := by rw [← he1, ← hxe]
    have hst : writesState o = false → e1.st = c.e.st := by rw [← he1]; exact hx.st
    have hxs : isConversion o = false → e1.xs = c.e.xs := by rw [← he1]; exact hx.xs
    have hrp : o ≠ .repeatTok → e1.repPos = c.e.repPos := by rw [← he1]; exact hx.rep
    clear he1 hxe hx
    have hk := censusOfIssue_keep (c.g.putElem e1) (.site c.p.x c.p.y) (if x.keep = true then [] else c.set.toks) es x.reqs.length tag
    generalize censusOfIssue (c.g.putElem e1) (.site c.p.x c.p.y) (if x.keep = true then [] else c.set.toks) es x.reqs.length tag = g1 at hk ⊢
    have he : ∀ x' y', g1.elem? x' y' = (c.g.putElem e1).elem? x' y' := by
      intro x' y'
      have := congrArg Region.elems hk
      simp only at this
      simp only [Region.elem?, this]
    have hm : c.p.r.m < c.l.members.length := (List.getElem?_eq_some_iff.1 h4).1
    refine ⟨rfl, fun k hk => launch?_putLaunch_other _ (by simpa [hh, Launch.put] using hk), _, g1, e1, launch?_putLaunch_same h3 (by simp [Launch.put, hh]), by simp [Launch.put, hm], ?_, rfl, ?_, ?_, ?_, hrest, ⟨_, hout⟩, hready, hst, hxs, hrp⟩
    · rw [he, elem?_putElem, if_pos (by simp [hex, hxy]), h5]; rfl
    · intro m hm'; simp [Launch.put, Ne.symm hm']
    · have hk' := hk
      generalize c.g = g0 at *
      cases g0; cases g1
      simp only [Region.putElem, Region.mk.injEq] at hk' ⊢
      simp_all
    · intro x' y' hne
      rw [he, elem?_putElem, if_neg (by simp only [hex, hxy]; intro h; exact hne (by simp [h]))]

/-- A local effect, finished, changes only its element. -/
theorem finish_onlyIssues {c : Ctx} {o : Op} {s : State} {f : Fields} (h : s.ctx? f = some c) (x : Effect) (hx : x.Local o c) :
    c.OnlyIssues o s (c.finish x) := finish_onlyIssues_tags h c.tag c.tagOut x hx

/-- A reduction's surroundings differ in the tags only. -/
theorem finish_atExit_onlyIssues {c : Ctx} {o : Op} {s : State} {f : Fields} (h : s.ctx? f = some c) (x : Effect) (hx : x.Local o c) :
    c.OnlyIssues o s (c.atExit.finish x) := by
  unfold Ctx.atExit
  split
  · exact finish_onlyIssues h x hx
  · exact finish_onlyIssues_tags h _ _ x hx

/-- A delay line changes state registers alone. -/
theorem delayShift_keep (e : Elem) (ctx n d : Nat) (a : Payload) :
    { delayShift e ctx n d a with st := e.st, xs := e.xs, repPos := e.repPos } = e ∧ (delayShift e ctx n d a).xs = e.xs ∧
      (delayShift e ctx n d a).repPos = e.repPos := by
  induction d generalizing e with
  | zero => exact ⟨rfl, rfl, rfl⟩
  | succ d ih =>
    rw [delayShift]
    obtain ⟨h1, h2, h3⟩ := ih (e.setSreg ctx (n + d + 1) (e.sreg ctx (n + d)))
    refine ⟨?_, h2, h3⟩
    generalize delayShift _ ctx n d a = u at *
    cases u; cases e
    simp only [Elem.setSreg, Elem.mk.injEq] at h1 ⊢
    simp_all

/-- An effect that only sends. -/
theorem localOf {c : Ctx} {o : Op} {x : Effect} (hs : x.s = c.s) (he : x.e = c.e) : x.Local o c :=
  ⟨hs, by rw [he], fun _ => by rw [he], fun _ => by rw [he], fun _ => by rw [he]⟩

/-- The standard treatment of an effect that only sends. -/
theorem standard_se {c : Ctx} {own : Ctx → Effect} (h1 : (own c).s = c.s) (h2 : (own c).e = c.e) :
    (c.standard own).s = c.s ∧ (c.standard own).e = c.e := by
  unfold Ctx.standard
  split
  · exact ⟨rfl, rfl⟩
  · split
    · exact ⟨rfl, rfl⟩
    · split
      · exact ⟨rfl, rfl⟩
      · split
        · exact ⟨rfl, rfl⟩
        · exact ⟨h1, h2⟩

/-- The standard treatment keeps an effect local. -/
theorem standard_local {c : Ctx} {o : Op} {own : Ctx → Effect} (h : (own c).Local o c) : (c.standard own).Local o c := by
  unfold Ctx.standard
  split
  · exact localOf rfl rfl
  · split
    · exact localOf rfl rfl
    · split
      · exact localOf rfl rfl
      · split
        · exact localOf rfl rfl
        · exact h

theorem fire_only {c : Ctx} {o : Op} {s t : State} {f : Fields} {own : Ctx → Effect} (h : s.ctx? f = some c)
    (hown : (own c).Local o c) (ht : fire f s own = .next t) : c.OnlyIssues o s t := by
  simp only [fire, h, Host.Outcome.next.injEq] at ht
  rw [← ht]
  exact finish_onlyIssues h _ (standard_local hown)

theorem fireRaw_only {c : Ctx} {o : Op} {s t : State} {f : Fields} {own : Ctx → Effect} (h : s.ctx? f = some c)
    (hown : (own c).Local o c) (ht : fireRaw f s own = .next t) : c.OnlyIssues o s t := by
  simp only [fireRaw, h, Host.Outcome.next.injEq] at ht
  rw [← ht]
  refine finish_onlyIssues h _ ?_
  split
  · exact standard_local hown
  · exact hown

theorem fireData_only {c : Ctx} {o : Op} {s t : State} {f : Fields} {g : Opnds → Payload} (h : s.ctx? f = some c)
    (ht : fireData f s g = .next t) : c.OnlyIssues o s t := fire_only h (localOf rfl rfl) ht
theorem fireMad_only {c : Ctx} {o : Op} {s t : State} {f : Fields} {g : Opnds → Payload} (h : s.ctx? f = some c)
    (ht : fireMad f s g = .next t) : c.OnlyIssues o s t := fire_only h (localOf rfl rfl) ht
theorem firePair_only {c : Ctx} {o : Op} {s t : State} {f : Fields} {g : Opnds → Payload × Payload} (h : s.ctx? f = some c)
    (ht : firePair f s g = .next t) : c.OnlyIssues o s t := fire_only h (localOf rfl rfl) ht
theorem fireConv_only {c : Ctx} {o : Op} {s t : State} {f : Fields} {g : Opnds → Payload × Word32} (h : s.ctx? f = some c)
    (ho : isConversion o = true) (ht : fireConv f s g = .next t) : c.OnlyIssues o s t :=
  fire_only h ⟨rfl, rfl, fun _ => rfl, fun h' => by simp [ho] at h', fun _ => rfl⟩ ht
theorem fireGlobal_only {c : Ctx} {o o' : Op} {s t : State} {f : Fields} (h : s.ctx? f = some c)
    (ht : fireGlobal o' f s = .next t) : c.OnlyIssues o s t := by
  refine fireRaw_only h ?_ ht
  simp only
  split
  · exact standard_local (localOf rfl rfl)
  · split <;> exact localOf rfl rfl
theorem fireTile_only {c : Ctx} {o o' : Op} {s t : State} {f : Fields} (h : s.ctx? f = some c)
    (ht : fireTile o' f s = .next t) : c.OnlyIssues o s t := fire_only h (localOf rfl rfl) ht
end Sys2Proof.Machine
end

