-- ==== Sys2Proof/Laws/Gen.lean ====
section
/-! SUPPORT. The request queues of address generators: which request is served (R251, R252). -/

namespace Sys2Proof.Machine

/-- The generator replaced. -/
theorem gen_putGen_same (t : Tile) (n : Nat) (k : Gen) (h : n < t.gens.length) : (t.putGen n k).gen n = k := by
  simp [Tile.gen, Tile.putGen, h]
theorem gen_putGen_other (t : Tile) (n m : Nat) (k : Gen) (h : m ≠ n) : (t.putGen n k).gen m = t.gen m := by
  simp [Tile.gen, Tile.putGen, h.symm]

/-- Requests waiting at a tile. -/
def Tile.queued (t : Tile) : Nat := (t.gens.map fun k => k.queue.length).sum

theorem genQueued_eq (g : Region) : g.genQueued = (g.tiles.map Tile.queued).sum := by
  have h1 : ∀ (ks : List Gen) (a : Nat), ks.foldl (fun a k => a + k.queue.length) a = a + (ks.map fun k => k.queue.length).sum := by
    intro ks; induction ks with
    | nil => simp
    | cons k ks ih => intro a; simp [ih, Nat.add_assoc]
  have h2 : ∀ (ts : List Tile) (a : Nat), ts.foldl (fun a t => t.gens.foldl (fun a k => a + k.queue.length) a) a = a + (ts.map Tile.queued).sum := by
    intro ts; induction ts with
    | nil => simp
    | cons k ks ih =>
      intro a
      rw [List.foldl_cons, h1, ih, List.map_cons, List.sum_cons, Nat.add_assoc]; rfl
  simp [Region.genQueued, h2]

theorem queued_zero {t : Tile} (h : ∀ k ∈ t.gens, k.queue = []) : t.queued = 0 := by
  simp only [Tile.queued, List.sum_eq_zero_iff, List.mem_map, forall_exists_index, and_imp]
  rintro x k hk rfl
  simp [h k hk]

theorem queued_putGen {t : Tile} (h : ∀ k ∈ t.gens, k.queue = []) (n : Nat) (hn : n < t.gens.length) (k : Gen) :
    (t.putGen n k).queued = k.queue.length := by
  have hz := queued_zero h
  unfold Tile.queued Tile.putGen at *
  simp only
  rw [List.map_set]
  have hall : (t.gens.map fun k => k.queue.length) = List.replicate t.gens.length 0 := by
    rw [List.eq_replicate_iff]
    refine ⟨by simp, ?_⟩
    simp only [List.mem_map, forall_exists_index, and_imp]
    rintro x k hk rfl
    simp [h k hk]
  rw [hall]
  generalize t.gens.length = m at hn ⊢
  clear hall hz h
  induction m generalizing n with
  | zero => omega
  | succ m ih =>
    cases n with
    | zero => simp [List.replicate_succ]
    | succ n => simp [List.replicate_succ]; exact ih n (by omega)

theorem queued_putTile {ts : List Tile} {t t1 : Tile} (hnd : (ts.map fun u => (u.x, u.y)).Nodup) (ht : t ∈ ts) (hx : t1.x = t.x) (hy : t1.y = t.y)
    (h : ∀ u ∈ ts, ∀ k ∈ u.gens, k.queue = []) :
    ((ts.map fun k => if k.x == t1.x && k.y == t1.y then t1 else k).map Tile.queued).sum = t1.queued := by
  induction ts with
  | nil => simp at ht
  | cons u ts ih =>
    simp only [List.map_cons, List.nodup_cons] at hnd
    rcases List.mem_cons.1 ht with rfl | hin
    · have hrest : (ts.map fun k => if k.x == t1.x && k.y == t1.y then t1 else k) = ts := by
        rw [List.map_congr_left (g := id)]
        · simp
        · intro k hk
          have : ¬ (k.x = t.x ∧ k.y = t.y) := by
            rintro ⟨h1, h2⟩
            exact hnd.1 (List.mem_map.2 ⟨k, hk, by simp [h1, h2]⟩)
          simp [hx, hy, this]
      rw [List.map_cons, hrest]
      have hz : (ts.map Tile.queued).sum = 0 := by
        simp only [List.sum_eq_zero_iff, List.mem_map, forall_exists_index, and_imp]
        rintro x k hk rfl
        exact queued_zero (h k (by simp [hk]))
      simp [hx, hy, hz]
    · have : ¬ (u.x = t.x ∧ u.y = t.y) := by
        rintro ⟨h1, h2⟩
        exact hnd.1 (List.mem_map.2 ⟨t, hin, by simp [h1, h2]⟩)
      rw [List.map_cons, List.map_cons, List.sum_cons, ih hnd.2 hin (fun v hv => h v (by simp [hv]))]
      have hu : u.queued = 0 := queued_zero (h u (by simp))
      simp [hx, hy, this, hu]

/-- With one request waiting at all, its generator is the one served. -/
theorem find_served {α : Type} (ts : List Tile) (F : Nat → Nat → Nat → Option α) (x y n : Nat) (hn : n < 4) (v : α)
    (hno : ∀ t ∈ ts, ∀ m, ¬ (t.x = x ∧ t.y = y ∧ m = n) → F t.x t.y m = none)
    (hyes : F x y n = some v) (hex : ∃ t ∈ ts, t.x = x ∧ t.y = y) :
    (ts.flatMap fun t => [0, 1, 2, 3].map fun m => (t.x, t.y, m)).findSome? (fun q => F q.1 q.2.1 q.2.2) = some v := by
  induction ts with
  | nil => obtain ⟨t, ht, _⟩ := hex; simp at ht
  | cons t ts ih =>
    rw [List.flatMap_cons, List.findSome?_append]
    by_cases hxy : t.x = x ∧ t.y = y
    · have : ([0, 1, 2, 3].map fun m => (t.x, t.y, m)).findSome? (fun q => F q.1 q.2.1 q.2.2) = some v := by
        have hy := hyes
        rw [← hxy.1, ← hxy.2] at hy
        have hne : ∀ m, m ≠ n → F t.x t.y m = none := fun m hm => hno t (by simp) m (fun h => hm h.2.2)
        have : n = 0 ∨ n = 1 ∨ n = 2 ∨ n = 3 := by omega
        rcases this with rfl | rfl | rfl | rfl <;>
          simp [hy, hne]
      rw [this]; rfl
    · have : ([0, 1, 2, 3].map fun m => (t.x, t.y, m)).findSome? (fun q => F q.1 q.2.1 q.2.2) = none := by
        have hne : ∀ m, F t.x t.y m = none := fun m => hno t (by simp) m (fun h => hxy ⟨h.1, h.2.1⟩)
        simp [hne]
      rw [this, Option.none_or]
      apply ih (fun u hu => hno u (by simp [hu]))
      obtain ⟨u, hu, hux⟩ := hex
      rcases List.mem_cons.1 hu with rfl | hu
      · exact absurd hux hxy
      · exact ⟨u, hu, hux⟩

/-- No request is served. -/
theorem find_none {α : Type} (ts : List Tile) (F : Nat → Nat → Nat → Option α) (hno : ∀ t ∈ ts, ∀ m, F t.x t.y m = none) :
    (ts.flatMap fun t => [0, 1, 2, 3].map fun m => (t.x, t.y, m)).findSome? (fun q => F q.1 q.2.1 q.2.2) = none := by
  rw [List.findSome?_eq_none_iff]
  intro q hq
  simp only [List.mem_flatMap, List.mem_map] at hq
  obtain ⟨t, ht, m, _, rfl⟩ := hq
  exact hno t ht m

theorem gen_mem {t : Tile} {m : Nat} (h : ∀ k ∈ t.gens, k.queue = []) : (t.gen m).queue = [] := by
  unfold Tile.gen
  rw [List.getD_eq_getElem?_getD]
  cases hg : t.gens[m]? with
  | none => rfl
  | some k => exact h k (List.mem_of_getElem? hg)

/-- The state that serving a request comes to; none while it waits. -/
def GenStep.served (s1 : State) (r : Rid) (q : Request) : GenStep → Option State
  | .wait => none
  | .fail c => some (answerRecord s1 r (elementSender r.m q) (q.reply r.m) c 0)
  | .set s2 => some (answerAll s2 r (elementSender r.m q) (q.reply r.m) 0)
  | .started s2 => some s2

/-- What serving the head of an idle generator's queue comes to. -/
theorem serveGen_eq {s : State} {r : Rid} {g : Region} {x y n : Nat} {t : Tile} {q : Request} {rest : List Request} (hg : s.region? r = some g)
    (ht : g.tile? x y = some t) (hq : (t.gen n).queue = q :: rest) (hn : (t.gen n).nest = none) {t1 : Tile} {s1 : State} {gs : GenStep}
    (ht1 : t.putGen n { t.gen n with queue := rest } = t1) (hs1 : s.putRegion r (g.putTile t1) = s1)
    (hgs : (if q.op == .agset then s1.bindGen r (g.putTile t1) t1 q else s1.startNest r (g.putTile t1) t1 q) = gs) :
    s.serveGen r x y n = gs.served s1 r q := by
  rw [State.serveGen, hg]
  simp only [Option.bind_some, ht]
  split
  · rename_i q' rest' hq' _
    rw [hq] at hq'
    cases hq'
    simp only [ht1, hs1, hgs]
    cases gs <;> rfl
  · rename_i h
    exact absurd hn (h _ _ hq)

/-- A tile replaced twice. -/
theorem putTile_twice (g : Region) (a b : Tile) (hx : a.x = b.x) (hy : a.y = b.y) : (g.putTile a).putTile b = g.putTile b := by
  simp only [Region.putTile, List.map_map, Function.comp_def]
  congr 1
  apply List.map_congr_left
  intro k _
  by_cases hb : k.x = b.x ∧ k.y = b.y <;> simp [hb, hx, hy]

/-- A tile replaced by itself. -/
theorem putTile_self {g : Region} {t : Tile} (hnd : (g.tiles.map fun u => (u.x, u.y)).Nodup) (ht : t ∈ g.tiles) : g.putTile t = g := by
  have : (g.tiles.map fun k => if k.x == t.x && k.y == t.y then t else k) = g.tiles := by
    rw [List.map_congr_left (g := id)]
    · simp
    · intro k hk
      by_cases h : k.x = t.x ∧ k.y = t.y
      · have : k = t := List.inj_on_of_nodup_map hnd hk ht (by simp [h])
        simp [this]
      · simp [h]
  rw [Region.putTile, this]

/-- One request that joins an idle set of generators is the one served. -/
theorem serveAll_one {s : State} {r : Rid} {g : Region} {t : Tile} {n : Nat} {k : Gen} {q : Request} {u : State}
    (hg : s.region? r = some (g.putTile (t.putGen n k))) (hq : k.queue = [q])
    (ht : t ∈ g.tiles) (hnd : (g.tiles.map fun u => (u.x, u.y)).Nodup) (hn : n < t.gens.length) (hn4 : n < 4)
    (h : ∀ u ∈ g.tiles, ∀ k ∈ u.gens, k.queue = []) (hs : s.serveGen r t.x t.y n = some u) : s.serveAllGens r = u := by
  have htile : (g.putTile (t.putGen n k)).tile? t.x t.y = some (t.putGen n k) := by
    rw [tile?_putTile, if_pos ⟨rfl, rfl⟩]
    have : (g.tile? t.x t.y).isSome = true := by
      rw [Region.tile?, List.find?_isSome]; exact ⟨t, ht, by simp⟩
    obtain ⟨w, hw⟩ := Option.isSome_iff_exists.1 this
    rw [hw]; rfl
  have hcount : (g.putTile (t.putGen n k)).genQueued = 1 := by
    rw [genQueued_eq]
    have := queued_putTile (t1 := t.putGen n k) hnd ht rfl rfl h
    rw [Region.putTile]
    simp only
    rw [this, queued_putGen (h t ht) n hn k, hq]; rfl
  rw [State.serveAllGens, hg]
  simp only [hcount]
  rw [State.serveGens, hg]
  simp only
  rw [find_served _ (fun x y m => s.serveGen r x y m) t.x t.y n hn4 u]
  · rfl
  · intro w hw m hm
    rw [State.serveGen, hg]
    simp only [Option.bind_some]
    by_cases hxy : w.x = t.x ∧ w.y = t.y
    · rw [hxy.1, hxy.2, htile]
      simp only [Option.bind_some]
      have hmn : m ≠ n := fun e => hm ⟨hxy.1, hxy.2, e⟩
      rw [gen_putGen_other _ _ _ _ hmn, gen_mem (h t ht)]
    · have hwt : w ∈ g.tiles := by
        simp only [Region.putTile, List.mem_map] at hw
        obtain ⟨v, hv, rfl⟩ := hw
        by_cases hvt : v.x = t.x ∧ v.y = t.y
        · exfalso; apply hxy; simp [Tile.putGen, hvt]
        · simpa [Tile.putGen, hvt] using hv
      rw [tile?_putTile, if_neg (by simpa [Tile.putGen] using hxy)]
      cases hgt : g.tile? w.x w.y with
      | none => rfl
      | some v =>
        simp only [Option.bind_some]
        have hv : v ∈ g.tiles := List.mem_of_find?_eq_some hgt
        rw [gen_mem (h v hv)]
  · exact hs
  · refine ⟨t.putGen n k, ?_, rfl, rfl⟩
    simp only [Region.putTile, List.mem_map]
    exact ⟨t, ht, by simp [Tile.putGen]⟩

/-- A request that joins a generator whose nest runs waits. -/
theorem serveAll_none {s : State} {r : Rid} {g : Region} {t : Tile} {n : Nat} {k : Gen}
    (hg : s.region? r = some (g.putTile (t.putGen n k))) (hk : k.nest.isSome = true) (hn : n < t.gens.length)
    (ht : t ∈ g.tiles) (h : ∀ u ∈ g.tiles, ∀ k ∈ u.gens, k.queue = []) : s.serveAllGens r = s := by
  have htile : (g.putTile (t.putGen n k)).tile? t.x t.y = some (t.putGen n k) := by
    rw [tile?_putTile, if_pos ⟨rfl, rfl⟩]
    have : (g.tile? t.x t.y).isSome = true := by
      rw [Region.tile?, List.find?_isSome]; exact ⟨t, ht, by simp⟩
    obtain ⟨w, hw⟩ := Option.isSome_iff_exists.1 this
    rw [hw]; rfl
  rw [State.serveAllGens, hg]
  simp only
  cases (g.putTile (t.putGen n k)).genQueued with
  | zero => rfl
  | succ fuel =>
    rw [State.serveGens, hg]
    simp only
    rw [find_none _ (fun x y m => s.serveGen r x y m)]
    intro w hw m
    rw [State.serveGen, hg]
    simp only [Option.bind_some]
    by_cases hxy : w.x = t.x ∧ w.y = t.y
    · rw [hxy.1, hxy.2, htile]
      simp only [Option.bind_some]
      by_cases hmn : m = n
      · subst hmn
        rw [gen_putGen_same _ _ _ hn]
        obtain ⟨v, hv⟩ := Option.isSome_iff_exists.1 hk
        rw [hv]
        cases k.queue <;> rfl
      · rw [gen_putGen_other _ _ _ _ hmn, gen_mem (h t ht)]
    · rw [tile?_putTile, if_neg (by simpa [Tile.putGen] using hxy)]
      cases hgt : g.tile? w.x w.y with
      | none => rfl
      | some v =>
        simp only [Option.bind_some]
        have hv : v ∈ g.tiles := List.mem_of_find?_eq_some hgt
        rw [gen_mem (h v hv)]
end Sys2Proof.Machine
end

