-- ==== Sys2Proof/Laws/Matrix.lean ====
section
/-! SUPPORT. Sheets: replacing one, its streams, and the bank operations that act (R291, R297, R300). -/

namespace Sys2Proof.Machine

/-- Advancing streams changes streams alone. -/
theorem advance_keep (h : Sheet) (tag : Word64) (a b : StreamStage) : { h.advance tag a b with streams := h.streams } = h := by
  unfold Sheet.advance
  generalize h.inputs = is
  induction is generalizing h with
  | nil => rfl
  | cons i is ih =>
    rw [List.foldl_cons]
    split
    · exact ih h
    · rename_i k _
      have := ih { h with streams := h.streams.map fun q => if q.at' k.row k.idx k.buf then { q with stage := b } else q }
      generalize is.foldl _ _ = u at *
      cases u; cases h
      simp_all

/-- A sheet that is there, after it is replaced. -/
theorem sheet?_putSheet (g : Region) (h : Sheet) (x y : Nat) :
    (g.putSheet h).sheet? x y = if x = h.x ∧ y = h.y then (g.sheet? x y).map fun _ => h else g.sheet? x y := by
  unfold Region.sheet? Region.putSheet
  simp only
  rw [find?_map_replace (fun k => k.x == x && k.y == y) (fun k => k.x == h.x && k.y == h.y) h]
  · by_cases hh : x = h.x ∧ y = h.y
    · obtain ⟨rfl, rfl⟩ := hh
      simp only [beq_self_eq_true, Bool.and_self, if_true]
      cases hf : g.sheets.find? (fun k => k.x == h.x && k.y == h.y) with
      | none => rfl
      | some k => have hk := List.find?_some hf; simp at hk; simp [hk]
    · have : ¬ (h.x = x ∧ h.y = y) := fun e => hh ⟨e.1.symm, e.2.symm⟩
      simp [hh, this]
  · intro k hk; simp at hk; simp [hk]

theorem sheet?_xy {g : Region} {x y : Nat} {h : Sheet} (e : g.sheet? x y = some h) : h.x = x ∧ h.y = y := by
  simpa using List.find?_some e

/-- A sheet replaced twice. -/
theorem putSheet_twice (g : Region) (a b : Sheet) (hx : a.x = b.x) (hy : a.y = b.y) : (g.putSheet a).putSheet b = g.putSheet b := by
  simp only [Region.putSheet, List.map_map, Function.comp_def]
  congr 1
  apply List.map_congr_left
  intro k _
  by_cases hb : k.x = b.x ∧ k.y = b.y <;> simp [hb, hx, hy]

/-- No MZERO acts where each waits. -/
theorem nextZero_none {h : Sheet} (hz : ∀ b : BankOp, .bank b ∈ h.ops → b.op = .mzero → ∀ i, h.ops[i]? = some (.bank b) → h.opWaits i b.bank = true) :
    h.nextZero = none := by
  unfold Sheet.nextZero
  rw [List.findSome?_eq_none_iff]
  intro i hi
  split
  · rename_i b hb
    have hm : SheetOp.bank b ∈ h.ops := List.mem_of_getElem? hb
    by_cases ho : b.op = .mzero
    · simp [hz b hm ho i hb]
    · simp [ho]
  · rfl

/-- Nothing acts. -/
theorem settle_none {s : State} {r : Rid} {g : Region} {x y : Nat} {h : Sheet} (hg : s.region? r = some g) (hs : g.sheet? x y = some h)
    (hz : h.nextZero = none) (n : Nat) : s.settleOps r x y n = s := by
  cases n with
  | zero => rfl
  | succ n => rw [State.settleOps, hg]; simp only [hs, hz]
end Sys2Proof.Machine
end

