-- ==== Sys2Proof/Laws/Memory.lean ====
section
/-! SUPPORT. The laws of byte memories and association lists: a write keeps the canonical form, a read after a write to the same
place gives the value written, and a write leaves every other place alone. -/

namespace Sys2Proof.Machine

/-! ## One byte -/

/-- A canonical memory above a bound is canonical above every lower one. -/
theorem cellsFrom_mono {lo hi : Nat} (h : lo ≤ hi) : ∀ {m : List Host.Cell}, cellsFrom hi m = true → cellsFrom lo m = true
  | [], _ => rfl
  | c :: cs, w => by
    simp only [cellsFrom, Bool.and_eq_true, decide_eq_true_eq] at w ⊢
    exact ⟨⟨by omega, w.1.2⟩, w.2⟩

/-- Below every listed address a canonical memory reads as unlisted. -/
theorem cellRead_below {m : List Host.Cell} {lo a : Nat} (w : cellsFrom lo m = true) (h : a < lo) :
    cellRead m a = unlisted := by
  cases m with
  | nil => rfl
  | cons c cs =>
    simp only [cellsFrom, Bool.and_eq_true, decide_eq_true_eq] at w
    have h1 : ¬c.1 = a := by omega
    have h2 : a < c.1 := by omega
    simp [cellRead, h1, h2]

/-- A write keeps the canonical form above every bound that its address respects. -/
theorem cellsFrom_write {lo a : Nat} {v : Byte} (h : lo ≤ a) :
    ∀ {m : List Host.Cell}, cellsFrom lo m = true → cellsFrom lo (cellWrite m a v) = true
  | [], _ => by
    unfold cellWrite
    split <;> simp_all [cellsFrom]
  | c :: cs, w => by
    simp only [cellsFrom, Bool.and_eq_true, decide_eq_true_eq] at w
    unfold cellWrite
    split
    · split
      · simp only [cellsFrom, Bool.and_eq_true, decide_eq_true_eq]
        exact ⟨⟨w.1.1, w.1.2⟩, w.2⟩
      · simp only [cellsFrom, Bool.and_eq_true, decide_eq_true_eq]
        exact ⟨⟨h, by assumption⟩, ⟨by omega, w.1.2⟩, w.2⟩
    · split
      · split
        · exact cellsFrom_mono (by omega) w.2
        · simp only [cellsFrom, Bool.and_eq_true, decide_eq_true_eq]
          exact ⟨⟨h, by assumption⟩, by have e : c.1 = a := by assumption
                                        rw [← e]; exact w.2⟩
      · simp only [cellsFrom, Bool.and_eq_true, decide_eq_true_eq]
        exact ⟨⟨w.1.1, w.1.2⟩, cellsFrom_write (by omega) w.2⟩

/-- Every write keeps the canonical form. -/
theorem wf_cellWrite {m : List Host.Cell} {a : Nat} {v : Byte} (w : Memory.wf m = true) : Memory.wf (cellWrite m a v) = true :=
  cellsFrom_write (Nat.zero_le a) w

/-- A read after a write to the same address gives the value written. -/
theorem cellRead_write_same {a : Nat} {v : Byte} :
    ∀ {m : List Host.Cell} {lo : Nat}, cellsFrom lo m = true → cellRead (cellWrite m a v) a = v
  | [], _, _ => by
    unfold cellWrite
    split <;> simp_all [cellRead]
  | c :: cs, lo, w => by
    simp only [cellsFrom, Bool.and_eq_true, decide_eq_true_eq] at w
    unfold cellWrite
    split
    · have h1 : ¬c.1 = a := by omega
      split <;> simp_all [cellRead]
    · split
      · split
        · rename_i h0 h1 h2
          rw [h2]
          exact cellRead_below w.2 (by omega)
        · simp [cellRead]
      · rename_i h0 h1
        simp only [cellRead, h1, h0, if_false]
        exact cellRead_write_same w.2

/-- A write leaves every other address alone. -/
theorem cellRead_write_other {a b : Nat} {v : Byte} (h : b ≠ a) :
    ∀ {m : List Host.Cell} {lo : Nat}, cellsFrom lo m = true → cellRead (cellWrite m a v) b = cellRead m b
  | [], _, _ => by
    unfold cellWrite
    split
    · rfl
    · have h1 : ¬a = b := fun e => h e.symm
      simp [cellRead, h1]
  | c :: cs, lo, w => by
    simp only [cellsFrom, Bool.and_eq_true, decide_eq_true_eq] at w
    have h1 : ¬a = b := fun e => h e.symm
    unfold cellWrite
    split
    · split
      · rfl
      · rename_i h2 h3
        by_cases h4 : b < a
        · have h5 : ¬c.1 = b := by omega
          have h6 : b < c.1 := by omega
          simp [cellRead, h1, h4, h5, h6]
        · simp [cellRead, h1, h4]
    · split
      · rename_i h2 h3
        split
        · have h4 : ¬c.1 = b := by omega
          by_cases h5 : b < c.1
          · simp only [cellRead, h4, h5, if_true, if_false]
            exact cellRead_below w.2 (by omega)
          · simp [cellRead, h4, h5]
        · simp only [cellRead, h1, if_false, h3]
      · simp only [cellRead]
        split
        · rfl
        · split
          · rfl
          · exact cellRead_write_other h w.2

/-! ## Several bytes -/

/-- Writing bytes keeps the canonical form. -/
theorem wf_writeBytes : ∀ {bs : List Byte} {m : List Host.Cell} {a : Nat}, Memory.wf m = true → Memory.wf (writeBytes m a bs) = true
  | [], _, _, w => w
  | _ :: bs, _, _, w => by
    unfold writeBytes
    exact wf_writeBytes (bs := bs) (wf_cellWrite w)

/-- Writing a number keeps the canonical form. -/
theorem wf_writeNat {m : List Host.Cell} {a n v : Nat} (w : Memory.wf m = true) : Memory.wf (writeNat m a n v) = true :=
  wf_writeBytes w

/-- Writing bytes leaves every address outside them alone. -/
theorem cellRead_writeBytes_other {b : Nat} : ∀ {bs : List Byte} {m : List Host.Cell} {a : Nat}, Memory.wf m = true →
    (b < a ∨ a + bs.length ≤ b) → cellRead (writeBytes m a bs) b = cellRead m b
  | [], _, _, _, _ => rfl
  | v :: bs, m, a, w, h => by
    simp only [List.length_cons] at h
    simp only [writeBytes]
    rw [cellRead_writeBytes_other (wf_cellWrite w) (by omega)]
    exact cellRead_write_other (by omega) w

/-- Reading n bytes gives n bytes. -/
@[simp] theorem length_readBytes {m : List Host.Cell} : ∀ {n a : Nat}, (readBytes m a n).length = n
  | 0, _ => rfl
  | _ + 1, _ => by simp [readBytes, length_readBytes]

/-- Reads depend on the bytes alone. -/
theorem readBytes_congr {m k : List Host.Cell} : ∀ {n a : Nat}, (∀ b, a ≤ b → b < a + n → cellRead m b = cellRead k b) →
    readBytes m a n = readBytes k a n
  | 0, _, _ => rfl
  | n + 1, a, h => by
    simp only [readBytes]
    rw [h a (by omega) (by omega), readBytes_congr fun b h1 h2 => h b (by omega) (by omega)]

/-- A read after a write of the same bytes gives them. -/
theorem readBytes_writeBytes : ∀ {bs : List Byte} {m : List Host.Cell} {a : Nat}, Memory.wf m = true →
    readBytes (writeBytes m a bs) a bs.length = bs
  | [], _, _, _ => rfl
  | v :: bs, m, a, w => by
    simp only [List.length_cons, readBytes, writeBytes]
    rw [cellRead_writeBytes_other (wf_cellWrite w) (by omega), cellRead_write_same w, readBytes_writeBytes (wf_cellWrite w)]

/-! ## Association lists -/

/-- A key reads back as it was set. -/
@[simp] theorem lookupD_setKey_same {α : Type} {d v : α} {k : Nat} : ∀ {l : List (Nat × α)}, lookupD d k (setKey k v l) = v
  | [] => by simp [setKey, lookupD]
  | p :: ps => by
    by_cases h : p.1 = k
    · simp [setKey, lookupD, h]
    · simp [setKey, lookupD, h, lookupD_setKey_same]

/-- Setting a key leaves the others alone. -/
theorem lookupD_setKey_other {α : Type} {d v : α} {k n : Nat} (h : n ≠ k) :
    ∀ {l : List (Nat × α)}, lookupD d n (setKey k v l) = lookupD d n l
  | [] => by
    have h1 : ¬k = n := fun e => h e.symm
    simp [setKey, lookupD, h1]
  | p :: ps => by
    have h1 : ¬k = n := fun e => h e.symm
    by_cases h2 : p.1 = k
    · simp only [setKey, h2, lookupD, if_true, h1, if_false]
    · by_cases h3 : p.1 = n
      · have h4 : ¬n = k := h
        simp [setKey, lookupD, h3, h4]
      · simp only [setKey, h2, lookupD, if_false, h3]
        exact lookupD_setKey_other h

end Sys2Proof.Machine
end

