-- ==== Sys2Proof/Laws/Network.lean ====
section
/-! SUPPORT. What sending tokens can change: links, the census deltas, sealing counters and the tokens on their way to stations
(R155, R180, R403, R427). -/

namespace Sys2Proof.Machine

/-- Two regions that differ at most in their links, their census deltas and which of their pairs are quiescent. -/
def Region.SameButTraffic (g g' : Region) : Prop :=
  { g' with links := g.links, deltas := g.deltas, quiet := g.quiet, zeroLast := g.zeroLast } = g

/-- Two launches that differ in their sealing state and their regions' traffic at most. -/
structure Launch.SameButTraffic (l l' : Launch) : Prop where
  rest : { l' with members := l.members, sl := l.sl } = l
  members : ∀ m : Nat, (l.members[m]? = none ∧ l'.members[m]? = none) ∨
    ∃ g g', l.members[m]? = some g ∧ l'.members[m]? = some g' ∧ g.SameButTraffic g'

/-- Two states that differ in traffic at most. -/
structure State.SameButTraffic (s t : State) : Prop where
  rest : { t with launches := s.launches, stnToks := s.stnToks } = s
  launch : ∀ h, (s.launch? h = none ∧ t.launch? h = none) ∨ ∃ l l', s.launch? h = some l ∧ t.launch? h = some l' ∧ l.SameButTraffic l'

theorem Region.SameButTraffic.refl (g : Region) : g.SameButTraffic g := by cases g; rfl
theorem Region.SameButTraffic.trans {a b c : Region} (h : a.SameButTraffic b) (k : b.SameButTraffic c) : a.SameButTraffic c := by
  unfold Region.SameButTraffic at *
  cases a; cases b; cases c
  simp_all
theorem Launch.SameButTraffic.refl (l : Launch) : l.SameButTraffic l := by
  refine ⟨by cases l; trivial, fun m => ?_⟩
  cases h : l.members[m]? with
  | none => exact .inl ⟨rfl, rfl⟩
  | some g => exact .inr ⟨g, g, rfl, rfl, .refl g⟩
theorem Launch.SameButTraffic.trans {a b c : Launch} (h : a.SameButTraffic b) (k : b.SameButTraffic c) : a.SameButTraffic c := by
  refine ⟨?_, fun m => ?_⟩
  · have h1 := h.rest
    have h2 := k.rest
    cases a; cases b; cases c
    simp_all
  · rcases h.members m with ⟨h1, h2⟩ | ⟨g, g', h1, h2, h3⟩
    · rcases k.members m with ⟨k1, k2⟩ | ⟨u, u', k1, k2, k3⟩
      · exact .inl ⟨h1, k2⟩
      · rw [h2] at k1; cases k1
    · rcases k.members m with ⟨k1, k2⟩ | ⟨u, u', k1, k2, k3⟩
      · rw [h2] at k1; cases k1
      · rw [h2] at k1; cases k1
        exact .inr ⟨g, u', h1, k2, h3.trans k3⟩
theorem State.SameButTraffic.refl (s : State) : s.SameButTraffic s := by
  refine ⟨by cases s; trivial, fun h => ?_⟩
  cases hl : s.launch? h with
  | none => exact .inl ⟨rfl, rfl⟩
  | some l => exact .inr ⟨l, l, rfl, rfl, .refl l⟩
theorem State.SameButTraffic.trans {a b c : State} (h : a.SameButTraffic b) (k : b.SameButTraffic c) : a.SameButTraffic c := by
  refine ⟨?_, fun n => ?_⟩
  · have h1 := h.rest
    have h2 := k.rest
    cases a; cases b; cases c
    simp_all
  · rcases h.launch n with ⟨h1, h2⟩ | ⟨g, g', h1, h2, h3⟩
    · rcases k.launch n with ⟨k1, k2⟩ | ⟨u, u', k1, k2, k3⟩
      · exact .inl ⟨h1, k2⟩
      · rw [h2] at k1; cases k1
    · rcases k.launch n with ⟨k1, k2⟩ | ⟨u, u', k1, k2, k3⟩
      · rw [h2] at k1; cases k1
      · rw [h2] at k1; cases k1
        exact .inr ⟨g, u', h1, k2, h3.trans k3⟩

/-- A region of a state that differs in traffic. -/
theorem State.SameButTraffic.region {s t : State} (h : s.SameButTraffic t) {r : Rid} {g : Region} (hg : s.region? r = some g) :
    ∃ g', t.region? r = some g' ∧ g.SameButTraffic g' := by
  obtain ⟨l, hl, hm⟩ := region?_eq_some.1 hg
  rcases h.launch r.h with ⟨h1, _⟩ | ⟨k, l', h1, h2, h3⟩
  · rw [hl] at h1; cases h1
  · rw [hl] at h1; cases h1
    rcases h3.members r.m with ⟨m1, _⟩ | ⟨u, g', m1, m2, m3⟩
    · rw [hm] at m1; cases m1
    · rw [hm] at m1; cases m1
      exact ⟨g', region?_eq h2 m2, m3⟩

theorem State.SameButTraffic.mem {s t : State} (h : s.SameButTraffic t) : t.mem = s.mem := by
  have := congrArg State.mem h.rest; exact this

theorem Region.SameButTraffic.sheets {g g' : Region} (h : g.SameButTraffic g') : g'.sheets = g.sheets := by
  have := congrArg Region.sheets h; exact this
theorem Region.SameButTraffic.tiles {g g' : Region} (h : g.SameButTraffic g') : g'.tiles = g.tiles := by
  have := congrArg Region.tiles h; exact this
theorem Region.SameButTraffic.elems {g g' : Region} (h : g.SameButTraffic g') : g'.elems = g.elems := by
  have := congrArg Region.elems h; exact this

/-- Replacing a launch by one that differs in traffic. -/
theorem putLaunch_traffic {s : State} {l l' : Launch} (hl : s.launch? l.handle = some l) (h : l.SameButTraffic l') :
    s.SameButTraffic (s.putLaunch l') := by
  have hh : l'.handle = l.handle := by have := congrArg Launch.handle h.rest; exact this
  refine ⟨by cases s; rfl, fun n => ?_⟩
  by_cases hn : n = l.handle
  · subst hn
    exact .inr ⟨l, l', hl, launch?_putLaunch_same hl hh, h⟩
  · rw [launch?_putLaunch_other _ (by rw [hh]; exact hn)]
    cases hk : s.launch? n with
    | none => exact .inl ⟨rfl, rfl⟩
    | some k => exact .inr ⟨k, k, rfl, rfl, .refl k⟩

/-- Replacing a member by one that differs in traffic. -/
theorem put_traffic {l : Launch} {m : Nat} {g g' : Region} (hg : l.members[m]? = some g) (h : g.SameButTraffic g') (z : SealState) :
    l.SameButTraffic { (l.put m g') with sl := z } := by
  refine ⟨by cases l; rfl, fun k => ?_⟩
  by_cases hk : k = m
  · subst hk
    exact .inr ⟨g, g', hg, by simp [Launch.put, (List.getElem?_eq_some_iff.1 hg).1], h⟩
  · have : ({ (l.put m g') with sl := z } : Launch).members[k]? = l.members[k]? := by
      simp [Launch.put, Ne.symm hk]
    rw [this]
    cases hx : l.members[k]? with
    | none => exact .inl ⟨rfl, rfl⟩
    | some u => exact .inr ⟨u, u, rfl, rfl, .refl u⟩

/-- A token put on its way changes traffic alone. -/
theorem route_traffic (s : State) (r : Rid) (src : Src) (x y : Nat) (t : Token) : s.SameButTraffic (route s r src x y t) := by
  unfold route
  split
  · exact .refl s
  rename_i l hl
  have hh := launch?_handle hl
  split
  · exact .refl s
  rename_i g hg
  have one : ∀ g', g.SameButTraffic g' → s.SameButTraffic (s.putLaunch (l.put r.m g')) := by
    intro g' h
    have := put_traffic hg h l.sl
    exact putLaunch_traffic (by rw [hh]; exact hl) this
  split
  · exact one _ rfl
  split
  · exact .refl s
  split
  · exact .refl s
  rename_i p hp
  split
  · split
    · exact .refl s
    split
    · exact .refl s
    rename_i k i hpart _ g2 hg2
    simp only
    have h1 : g.SameButTraffic (if t.counted = true then g.count (.port t.slot) t.tag (-1) false else g) := by
      split
      · rfl
      · exact .refl g
    generalize (if t.counted = true then g.count (.port t.slot) t.tag (-1) false else g) = g1 at h1 ⊢
    have hkm : k ≠ r.m := by
      intro e
      subst e
      unfold Launch.partner at hpart
      have := List.mem_of_mem_head? (Option.mem_def.2 hpart)
      rw [List.mem_filterMap] at this
      obtain ⟨a, _, ha⟩ := this
      split at ha
      · cases ha
      · rename_i hne
        rw [Option.bind_eq_some_iff] at ha
        obtain ⟨_, _, ha⟩ := ha
        rw [Option.map_eq_some_iff] at ha
        obtain ⟨_, _, ha⟩ := ha
        cases ha
        exact hne rfl
    have h2 : g2.SameButTraffic { (if t.counted = true then (g2.count (.port i) t.tag 1 false).stir (tagKey t.tag) else g2) with
        links := (if t.counted = true then (g2.count (.port i) t.tag 1 false).stir (tagKey t.tag) else g2).links ++
          [⟨.port i, portAx (g2.portWord i), portAy (g2.portWord i), none, { t with hdr := setBits (setBits t.hdr 14 (BitVec.ofNat 5 i)) 12 (0 : BitVec 2) }⟩] } := by
      split <;> rfl
    have ha := put_traffic hg h1 l.sl
    have hb := put_traffic (l := l.put r.m g1) (m := k) (g := g2) (by simp [Launch.put, Ne.symm hkm, hg2]) h2 l.sl
    exact putLaunch_traffic (by rw [hh]; exact hl) (Launch.SameButTraffic.trans ha hb)
  · refine ⟨by cases s; rfl, fun h => ?_⟩
    cases hx : s.launch? h with
    | none => exact .inl ⟨rfl, hx⟩
    | some u => exact .inr ⟨u, u, rfl, hx, .refl u⟩
  · exact one _ rfl

/-- A token sealed and sent changes traffic alone. -/
theorem sendFrom_traffic (s : State) (r : Rid) (src : Src) (prod : BitVec 19) (x y : Nat) (m : Emit) :
    s.SameButTraffic (sendFrom s r src prod x y m) := by
  unfold sendFrom
  split
  · exact .refl s
  rename_i l hl
  have hh := launch?_handle hl
  split
  · exact .refl s
  rename_i g hg
  simp only
  have h1 : g.SameButTraffic (if (m.kind == 1 || isSinkDst m.dst) = true then g else g.count src m.tag 1 false) := by
    split
    · exact .refl g
    · rfl
  exact (putLaunch_traffic (by rw [hh]; exact hl) (put_traffic hg h1 _)).trans (route_traffic _ _ _ _ _ _)

theorem sendAll_traffic (s : State) (r : Rid) (src : Src) (prod : BitVec 19) (x y : Nat) (ms : List Emit) :
    s.SameButTraffic (sendAll s r src prod x y ms) := by
  unfold sendAll
  induction ms generalizing s with
  | nil => exact .refl s
  | cons m ms ih => exact (sendFrom_traffic s r src prod x y m).trans (ih _)

theorem uncount_traffic (s : State) (r : Rid) (src : Src) (tag : Word64) : s.SameButTraffic (uncount s r src tag) := by
  unfold uncount
  split
  · exact .refl s
  · rename_i g hg
    obtain ⟨l, hl, hm⟩ := region?_eq_some.1 hg
    have hh := launch?_handle hl
    rw [State.putRegion, hl]
    exact putLaunch_traffic (by rw [hh]; exact hl) (put_traffic (g' := g.count src tag (-1) false) hm rfl l.sl)

theorem settle_traffic (s : State) (r : Rid) (z : Sender) (q : Reply) (g : Region) (es : List Emit) : s.SameButTraffic (settle s r z q g es) := by
  unfold settle
  exact (uncount_traffic s r z.src q.tag).trans (sendAll_traffic _ _ _ _ _ _ _)

/-- A reply changes traffic alone. -/
theorem answer_traffic (s : State) (r : Rid) (z : Sender) (q : Reply) (out : List (Dst × Payload)) : s.SameButTraffic (answer s r z q out) := by
  unfold answer
  split
  · exact .refl s
  · exact settle_traffic _ _ _ _ _ _
theorem answerAll_traffic (s : State) (r : Rid) (z : Sender) (q : Reply) (v : Payload) : s.SameButTraffic (answerAll s r z q v) :=
  answer_traffic _ _ _ _ _
theorem answerRecord_traffic (s : State) (r : Rid) (z : Sender) (q : Reply) (c : Cause) (e : Word64) :
    s.SameButTraffic (answerRecord s r z q c e) := by
  unfold answerRecord
  split
  · exact .refl s
  · exact settle_traffic _ _ _ _ _ _
theorem answerBubble_traffic (s : State) (r : Rid) (z : Sender) (q : Reply) : s.SameButTraffic (answerBubble s r z q) := by
  unfold answerBubble
  split
  · exact .refl s
  · exact settle_traffic _ _ _ _ _ _

end Sys2Proof.Machine
end

