-- ==== Sys2Proof/Laws/PerInstr.lean ====
section
/-! SUPPORT. One word for each instruction, constructor by constructor: the opcode and XMOD of a well-formed fabric row name that
row alone (R54, R67), and an Xwenxus row's word decodes to it (R72, R73). The other rows have no word. -/

open Sys2Proof Sys2Proof.Machine

/-- The word of an instruction, if it has one, names that instruction. -/
def Sys2Proof.Laws.OneWord.Statement (i : Instr) : Prop :=
  match i.split with
  | some (o, f) => i.wf = false ∨ Instr.ofOp o f = i ∧ opOf (opInfo o).opc f.xmod = some o
  | none => encodeWx i = none ∨ (∃ v, i = .illegalInstructionException v) ∨ ∃ w, encodeWx i = some w ∧ decodeWx w = .ok i

/-- The rows that share an opcode with another row, told apart by XMOD (R67). -/
def Sys2Proof.Laws.sharesOpcode : Op → Bool
  | .kvseqCreate | .kvseqAttach | .kvseqDetach | .ndropDecl | .ndropOwn => true
  | _ => false

/-- The opcode of a row that shares it with none, in the table (R67). -/
theorem Sys2Proof.Laws.opcode_once (o : Op) : (Sys2Proof.Laws.sharesOpcode o ||
    ((opInfo o).opc != 0x1E4 && (opInfo o).opc != 0x1F3 && lookupOp (opInfo o).opc.toNat opTable == some o)) = true := by
  cases o <;> decide +kernel

/-- An opcode that XMOD does not split names its row (R67). -/
theorem Sys2Proof.Laws.opOf_plain {o : Op} (ho : Sys2Proof.Laws.sharesOpcode o = false) (x : BitVec 10) :
    opOf (opInfo o).opc x = some o := by
  have h := Sys2Proof.Laws.opcode_once o
  simp only [ho, Bool.false_or, Bool.and_eq_true, bne_iff_ne, beq_iff_eq] at h
  rw [opOf, if_neg (by simpa using h.1.1), if_neg (by simpa using h.1.2)]
  exact h.2

/-- A check that does not fail. -/
theorem Sys2Proof.Laws.want_nil {ok : Bool} {c : Cause} (h : want ok c = []) : ok = true := by
  cases ok
  · cases h
  · rfl

/-- What holds of a well-formed instruction, as an alternative. -/
theorem Sys2Proof.Laws.of_wf {i : Instr} {p : Prop} (h : i.wf = true → p) : i.wf = false ∨ p := by
  cases hw : i.wf
  · exact .inl rfl
  · exact .inr (h hw)

/-- The last check of a well-formed row holds (R78). -/
theorem Sys2Proof.Laws.opExtra_nil {o : Op} {f : Fields} (h : (wordChecks o f).isEmpty = true) : opExtra o f = [] :=
  (List.append_eq_nil_iff.mp (List.isEmpty_iff.mp h)).2

theorem Sys2Proof.Laws.OneWord.nop (f : Fields) : Sys2Proof.Laws.OneWord.Statement (.nop f) := .inr ⟨rfl, Sys2Proof.Laws.opOf_plain rfl _⟩
theorem Sys2Proof.Laws.OneWord.const (f : Fields) : Sys2Proof.Laws.OneWord.Statement (.const f) := .inr ⟨rfl, Sys2Proof.Laws.opOf_plain rfl _⟩
theorem Sys2Proof.Laws.OneWord.mov (f : Fields) : Sys2Proof.Laws.OneWord.Statement (.mov f) := .inr ⟨rfl, Sys2Proof.Laws.opOf_plain rfl _⟩
theorem Sys2Proof.Laws.OneWord.sink (f : Fields) : Sys2Proof.Laws.OneWord.Statement (.sink f) := .inr ⟨rfl, Sys2Proof.Laws.opOf_plain rfl _⟩
theorem Sys2Proof.Laws.OneWord.steer (f : Fields) : Sys2Proof.Laws.OneWord.Statement (.steer f) := .inr ⟨rfl, Sys2Proof.Laws.opOf_plain rfl _⟩
theorem Sys2Proof.Laws.OneWord.gate (f : Fields) : Sys2Proof.Laws.OneWord.Statement (.gate f) := .inr ⟨rfl, Sys2Proof.Laws.opOf_plain rfl _⟩
theorem Sys2Proof.Laws.OneWord.merge (f : Fields) : Sys2Proof.Laws.OneWord.Statement (.merge f) := .inr ⟨rfl, Sys2Proof.Laws.opOf_plain rfl _⟩
theorem Sys2Proof.Laws.OneWord.pick (f : Fields) : Sys2Proof.Laws.OneWord.Statement (.pick f) := .inr ⟨rfl, Sys2Proof.Laws.opOf_plain rfl _⟩
theorem Sys2Proof.Laws.OneWord.lenter (f : Fields) : Sys2Proof.Laws.OneWord.Statement (.lenter f) := .inr ⟨rfl, Sys2Proof.Laws.opOf_plain rfl _⟩
theorem Sys2Proof.Laws.OneWord.lexit (f : Fields) : Sys2Proof.Laws.OneWord.Statement (.lexit f) := .inr ⟨rfl, Sys2Proof.Laws.opOf_plain rfl _⟩
theorem Sys2Proof.Laws.OneWord.wadv (f : Fields) : Sys2Proof.Laws.OneWord.Statement (.wadv f) := .inr ⟨rfl, Sys2Proof.Laws.opOf_plain rfl _⟩
theorem Sys2Proof.Laws.OneWord.tagset (f : Fields) : Sys2Proof.Laws.OneWord.Statement (.tagset f) := .inr ⟨rfl, Sys2Proof.Laws.opOf_plain rfl _⟩
theorem Sys2Proof.Laws.OneWord.tagget (f : Fields) : Sys2Proof.Laws.OneWord.Statement (.tagget f) := .inr ⟨rfl, Sys2Proof.Laws.opOf_plain rfl _⟩
theorem Sys2Proof.Laws.OneWord.alloc (f : Fields) : Sys2Proof.Laws.OneWord.Statement (.alloc f) := .inr ⟨rfl, Sys2Proof.Laws.opOf_plain rfl _⟩
theorem Sys2Proof.Laws.OneWord.release (f : Fields) : Sys2Proof.Laws.OneWord.Statement (.release f) := .inr ⟨rfl, Sys2Proof.Laws.opOf_plain rfl _⟩
theorem Sys2Proof.Laws.OneWord.call (f : Fields) : Sys2Proof.Laws.OneWord.Statement (.call f) := .inr ⟨rfl, Sys2Proof.Laws.opOf_plain rfl _⟩
theorem Sys2Proof.Laws.OneWord.ret (f : Fields) : Sys2Proof.Laws.OneWord.Statement (.ret f) := .inr ⟨rfl, Sys2Proof.Laws.opOf_plain rfl _⟩
theorem Sys2Proof.Laws.OneWord.count (f : Fields) : Sys2Proof.Laws.OneWord.Statement (.count f) := .inr ⟨rfl, Sys2Proof.Laws.opOf_plain rfl _⟩
theorem Sys2Proof.Laws.OneWord.ired (f : Fields) : Sys2Proof.Laws.OneWord.Statement (.ired f) := .inr ⟨rfl, Sys2Proof.Laws.opOf_plain rfl _⟩
theorem Sys2Proof.Laws.OneWord.fred (f : Fields) : Sys2Proof.Laws.OneWord.Statement (.fred f) := .inr ⟨rfl, Sys2Proof.Laws.opOf_plain rfl _⟩
theorem Sys2Proof.Laws.OneWord.pset (f : Fields) : Sys2Proof.Laws.OneWord.Statement (.pset f) := .inr ⟨rfl, Sys2Proof.Laws.opOf_plain rfl _⟩
theorem Sys2Proof.Laws.OneWord.pnot (f : Fields) : Sys2Proof.Laws.OneWord.Statement (.pnot f) := .inr ⟨rfl, Sys2Proof.Laws.opOf_plain rfl _⟩
theorem Sys2Proof.Laws.OneWord.pand (f : Fields) : Sys2Proof.Laws.OneWord.Statement (.pand f) := .inr ⟨rfl, Sys2Proof.Laws.opOf_plain rfl _⟩
theorem Sys2Proof.Laws.OneWord.por (f : Fields) : Sys2Proof.Laws.OneWord.Statement (.por f) := .inr ⟨rfl, Sys2Proof.Laws.opOf_plain rfl _⟩
theorem Sys2Proof.Laws.OneWord.hold (f : Fields) : Sys2Proof.Laws.OneWord.Statement (.hold f) := .inr ⟨rfl, Sys2Proof.Laws.opOf_plain rfl _⟩
theorem Sys2Proof.Laws.OneWord.reads (f : Fields) : Sys2Proof.Laws.OneWord.Statement (.reads f) := .inr ⟨rfl, Sys2Proof.Laws.opOf_plain rfl _⟩
theorem Sys2Proof.Laws.OneWord.delay (f : Fields) : Sys2Proof.Laws.OneWord.Statement (.delay f) := .inr ⟨rfl, Sys2Proof.Laws.opOf_plain rfl _⟩
theorem Sys2Proof.Laws.OneWord.repeatTok (f : Fields) : Sys2Proof.Laws.OneWord.Statement (.repeatTok f) := .inr ⟨rfl, Sys2Proof.Laws.opOf_plain rfl _⟩
theorem Sys2Proof.Laws.OneWord.add (f : Fields) : Sys2Proof.Laws.OneWord.Statement (.add f) := .inr ⟨rfl, Sys2Proof.Laws.opOf_plain rfl _⟩
theorem Sys2Proof.Laws.OneWord.sub (f : Fields) : Sys2Proof.Laws.OneWord.Statement (.sub f) := .inr ⟨rfl, Sys2Proof.Laws.opOf_plain rfl _⟩
theorem Sys2Proof.Laws.OneWord.adds (f : Fields) : Sys2Proof.Laws.OneWord.Statement (.adds f) := .inr ⟨rfl, Sys2Proof.Laws.opOf_plain rfl _⟩
theorem Sys2Proof.Laws.OneWord.subs (f : Fields) : Sys2Proof.Laws.OneWord.Statement (.subs f) := .inr ⟨rfl, Sys2Proof.Laws.opOf_plain rfl _⟩
theorem Sys2Proof.Laws.OneWord.mul (f : Fields) : Sys2Proof.Laws.OneWord.Statement (.mul f) := .inr ⟨rfl, Sys2Proof.Laws.opOf_plain rfl _⟩
theorem Sys2Proof.Laws.OneWord.mulhi (f : Fields) : Sys2Proof.Laws.OneWord.Statement (.mulhi f) := .inr ⟨rfl, Sys2Proof.Laws.opOf_plain rfl _⟩
theorem Sys2Proof.Laws.OneWord.mad (f : Fields) : Sys2Proof.Laws.OneWord.Statement (.mad f) := .inr ⟨rfl, Sys2Proof.Laws.opOf_plain rfl _⟩
theorem Sys2Proof.Laws.OneWord.div (f : Fields) : Sys2Proof.Laws.OneWord.Statement (.div f) := .inr ⟨rfl, Sys2Proof.Laws.opOf_plain rfl _⟩
theorem Sys2Proof.Laws.OneWord.rem (f : Fields) : Sys2Proof.Laws.OneWord.Statement (.rem f) := .inr ⟨rfl, Sys2Proof.Laws.opOf_plain rfl _⟩
theorem Sys2Proof.Laws.OneWord.min (f : Fields) : Sys2Proof.Laws.OneWord.Statement (.min f) := .inr ⟨rfl, Sys2Proof.Laws.opOf_plain rfl _⟩
theorem Sys2Proof.Laws.OneWord.max (f : Fields) : Sys2Proof.Laws.OneWord.Statement (.max f) := .inr ⟨rfl, Sys2Proof.Laws.opOf_plain rfl _⟩
theorem Sys2Proof.Laws.OneWord.abs (f : Fields) : Sys2Proof.Laws.OneWord.Statement (.abs f) := .inr ⟨rfl, Sys2Proof.Laws.opOf_plain rfl _⟩
theorem Sys2Proof.Laws.OneWord.neg (f : Fields) : Sys2Proof.Laws.OneWord.Statement (.neg f) := .inr ⟨rfl, Sys2Proof.Laws.opOf_plain rfl _⟩
theorem Sys2Proof.Laws.OneWord.and (f : Fields) : Sys2Proof.Laws.OneWord.Statement (.and f) := .inr ⟨rfl, Sys2Proof.Laws.opOf_plain rfl _⟩
theorem Sys2Proof.Laws.OneWord.or (f : Fields) : Sys2Proof.Laws.OneWord.Statement (.or f) := .inr ⟨rfl, Sys2Proof.Laws.opOf_plain rfl _⟩
theorem Sys2Proof.Laws.OneWord.xor (f : Fields) : Sys2Proof.Laws.OneWord.Statement (.xor f) := .inr ⟨rfl, Sys2Proof.Laws.opOf_plain rfl _⟩
theorem Sys2Proof.Laws.OneWord.andn (f : Fields) : Sys2Proof.Laws.OneWord.Statement (.andn f) := .inr ⟨rfl, Sys2Proof.Laws.opOf_plain rfl _⟩
theorem Sys2Proof.Laws.OneWord.not (f : Fields) : Sys2Proof.Laws.OneWord.Statement (.not f) := .inr ⟨rfl, Sys2Proof.Laws.opOf_plain rfl _⟩
theorem Sys2Proof.Laws.OneWord.shl (f : Fields) : Sys2Proof.Laws.OneWord.Statement (.shl f) := .inr ⟨rfl, Sys2Proof.Laws.opOf_plain rfl _⟩
theorem Sys2Proof.Laws.OneWord.shr (f : Fields) : Sys2Proof.Laws.OneWord.Statement (.shr f) := .inr ⟨rfl, Sys2Proof.Laws.opOf_plain rfl _⟩
theorem Sys2Proof.Laws.OneWord.sar (f : Fields) : Sys2Proof.Laws.OneWord.Statement (.sar f) := .inr ⟨rfl, Sys2Proof.Laws.opOf_plain rfl _⟩
theorem Sys2Proof.Laws.OneWord.rotl (f : Fields) : Sys2Proof.Laws.OneWord.Statement (.rotl f) := .inr ⟨rfl, Sys2Proof.Laws.opOf_plain rfl _⟩
theorem Sys2Proof.Laws.OneWord.clz (f : Fields) : Sys2Proof.Laws.OneWord.Statement (.clz f) := .inr ⟨rfl, Sys2Proof.Laws.opOf_plain rfl _⟩
theorem Sys2Proof.Laws.OneWord.popc (f : Fields) : Sys2Proof.Laws.OneWord.Statement (.popc f) := .inr ⟨rfl, Sys2Proof.Laws.opOf_plain rfl _⟩
theorem Sys2Proof.Laws.OneWord.cmpeq (f : Fields) : Sys2Proof.Laws.OneWord.Statement (.cmpeq f) := .inr ⟨rfl, Sys2Proof.Laws.opOf_plain rfl _⟩
theorem Sys2Proof.Laws.OneWord.cmpne (f : Fields) : Sys2Proof.Laws.OneWord.Statement (.cmpne f) := .inr ⟨rfl, Sys2Proof.Laws.opOf_plain rfl _⟩
theorem Sys2Proof.Laws.OneWord.cmplt (f : Fields) : Sys2Proof.Laws.OneWord.Statement (.cmplt f) := .inr ⟨rfl, Sys2Proof.Laws.opOf_plain rfl _⟩
theorem Sys2Proof.Laws.OneWord.cmple (f : Fields) : Sys2Proof.Laws.OneWord.Statement (.cmple f) := .inr ⟨rfl, Sys2Proof.Laws.opOf_plain rfl _⟩
theorem Sys2Proof.Laws.OneWord.sel (f : Fields) : Sys2Proof.Laws.OneWord.Statement (.sel f) := .inr ⟨rfl, Sys2Proof.Laws.opOf_plain rfl _⟩
theorem Sys2Proof.Laws.OneWord.bcast (f : Fields) : Sys2Proof.Laws.OneWord.Statement (.bcast f) := .inr ⟨rfl, Sys2Proof.Laws.opOf_plain rfl _⟩
theorem Sys2Proof.Laws.OneWord.lane (f : Fields) : Sys2Proof.Laws.OneWord.Statement (.lane f) := .inr ⟨rfl, Sys2Proof.Laws.opOf_plain rfl _⟩
theorem Sys2Proof.Laws.OneWord.shuf (f : Fields) : Sys2Proof.Laws.OneWord.Statement (.shuf f) := .inr ⟨rfl, Sys2Proof.Laws.opOf_plain rfl _⟩
theorem Sys2Proof.Laws.OneWord.pack (f : Fields) : Sys2Proof.Laws.OneWord.Statement (.pack f) := .inr ⟨rfl, Sys2Proof.Laws.opOf_plain rfl _⟩
theorem Sys2Proof.Laws.OneWord.unpk (f : Fields) : Sys2Proof.Laws.OneWord.Statement (.unpk f) := .inr ⟨rfl, Sys2Proof.Laws.opOf_plain rfl _⟩
theorem Sys2Proof.Laws.OneWord.sumr (f : Fields) : Sys2Proof.Laws.OneWord.Statement (.sumr f) := .inr ⟨rfl, Sys2Proof.Laws.opOf_plain rfl _⟩
theorem Sys2Proof.Laws.OneWord.maxr (f : Fields) : Sys2Proof.Laws.OneWord.Statement (.maxr f) := .inr ⟨rfl, Sys2Proof.Laws.opOf_plain rfl _⟩
theorem Sys2Proof.Laws.OneWord.minr (f : Fields) : Sys2Proof.Laws.OneWord.Statement (.minr f) := .inr ⟨rfl, Sys2Proof.Laws.opOf_plain rfl _⟩
theorem Sys2Proof.Laws.OneWord.index (f : Fields) : Sys2Proof.Laws.OneWord.Statement (.index f) := .inr ⟨rfl, Sys2Proof.Laws.opOf_plain rfl _⟩
theorem Sys2Proof.Laws.OneWord.bittst (f : Fields) : Sys2Proof.Laws.OneWord.Statement (.bittst f) := .inr ⟨rfl, Sys2Proof.Laws.opOf_plain rfl _⟩
theorem Sys2Proof.Laws.OneWord.fadd (f : Fields) : Sys2Proof.Laws.OneWord.Statement (.fadd f) := .inr ⟨rfl, Sys2Proof.Laws.opOf_plain rfl _⟩
theorem Sys2Proof.Laws.OneWord.fsub (f : Fields) : Sys2Proof.Laws.OneWord.Statement (.fsub f) := .inr ⟨rfl, Sys2Proof.Laws.opOf_plain rfl _⟩
theorem Sys2Proof.Laws.OneWord.fmul (f : Fields) : Sys2Proof.Laws.OneWord.Statement (.fmul f) := .inr ⟨rfl, Sys2Proof.Laws.opOf_plain rfl _⟩
theorem Sys2Proof.Laws.OneWord.ffma (f : Fields) : Sys2Proof.Laws.OneWord.Statement (.ffma f) := .inr ⟨rfl, Sys2Proof.Laws.opOf_plain rfl _⟩
theorem Sys2Proof.Laws.OneWord.fmin (f : Fields) : Sys2Proof.Laws.OneWord.Statement (.fmin f) := .inr ⟨rfl, Sys2Proof.Laws.opOf_plain rfl _⟩
theorem Sys2Proof.Laws.OneWord.fmax (f : Fields) : Sys2Proof.Laws.OneWord.Statement (.fmax f) := .inr ⟨rfl, Sys2Proof.Laws.opOf_plain rfl _⟩
theorem Sys2Proof.Laws.OneWord.fabs (f : Fields) : Sys2Proof.Laws.OneWord.Statement (.fabs f) := .inr ⟨rfl, Sys2Proof.Laws.opOf_plain rfl _⟩
theorem Sys2Proof.Laws.OneWord.fneg (f : Fields) : Sys2Proof.Laws.OneWord.Statement (.fneg f) := .inr ⟨rfl, Sys2Proof.Laws.opOf_plain rfl _⟩
theorem Sys2Proof.Laws.OneWord.fcmpeq (f : Fields) : Sys2Proof.Laws.OneWord.Statement (.fcmpeq f) := .inr ⟨rfl, Sys2Proof.Laws.opOf_plain rfl _⟩
theorem Sys2Proof.Laws.OneWord.fcmplt (f : Fields) : Sys2Proof.Laws.OneWord.Statement (.fcmplt f) := .inr ⟨rfl, Sys2Proof.Laws.opOf_plain rfl _⟩
theorem Sys2Proof.Laws.OneWord.fcmple (f : Fields) : Sys2Proof.Laws.OneWord.Statement (.fcmple f) := .inr ⟨rfl, Sys2Proof.Laws.opOf_plain rfl _⟩
theorem Sys2Proof.Laws.OneWord.fcmpun (f : Fields) : Sys2Proof.Laws.OneWord.Statement (.fcmpun f) := .inr ⟨rfl, Sys2Proof.Laws.opOf_plain rfl _⟩
theorem Sys2Proof.Laws.OneWord.frcp (f : Fields) : Sys2Proof.Laws.OneWord.Statement (.frcp f) := .inr ⟨rfl, Sys2Proof.Laws.opOf_plain rfl _⟩
theorem Sys2Proof.Laws.OneWord.frsq (f : Fields) : Sys2Proof.Laws.OneWord.Statement (.frsq f) := .inr ⟨rfl, Sys2Proof.Laws.opOf_plain rfl _⟩
theorem Sys2Proof.Laws.OneWord.fexp2 (f : Fields) : Sys2Proof.Laws.OneWord.Statement (.fexp2 f) := .inr ⟨rfl, Sys2Proof.Laws.opOf_plain rfl _⟩
theorem Sys2Proof.Laws.OneWord.flog2 (f : Fields) : Sys2Proof.Laws.OneWord.Statement (.flog2 f) := .inr ⟨rfl, Sys2Proof.Laws.opOf_plain rfl _⟩
theorem Sys2Proof.Laws.OneWord.ftanh (f : Fields) : Sys2Proof.Laws.OneWord.Statement (.ftanh f) := .inr ⟨rfl, Sys2Proof.Laws.opOf_plain rfl _⟩
theorem Sys2Proof.Laws.OneWord.fsqrt (f : Fields) : Sys2Proof.Laws.OneWord.Statement (.fsqrt f) := .inr ⟨rfl, Sys2Proof.Laws.opOf_plain rfl _⟩
theorem Sys2Proof.Laws.OneWord.fdiv (f : Fields) : Sys2Proof.Laws.OneWord.Statement (.fdiv f) := .inr ⟨rfl, Sys2Proof.Laws.opOf_plain rfl _⟩
theorem Sys2Proof.Laws.OneWord.fsumr (f : Fields) : Sys2Proof.Laws.OneWord.Statement (.fsumr f) := .inr ⟨rfl, Sys2Proof.Laws.opOf_plain rfl _⟩
theorem Sys2Proof.Laws.OneWord.fmaxr (f : Fields) : Sys2Proof.Laws.OneWord.Statement (.fmaxr f) := .inr ⟨rfl, Sys2Proof.Laws.opOf_plain rfl _⟩
theorem Sys2Proof.Laws.OneWord.fcvt (f : Fields) : Sys2Proof.Laws.OneWord.Statement (.fcvt f) := .inr ⟨rfl, Sys2Proof.Laws.opOf_plain rfl _⟩
theorem Sys2Proof.Laws.OneWord.icvt (f : Fields) : Sys2Proof.Laws.OneWord.Statement (.icvt f) := .inr ⟨rfl, Sys2Proof.Laws.opOf_plain rfl _⟩
theorem Sys2Proof.Laws.OneWord.fcvti (f : Fields) : Sys2Proof.Laws.OneWord.Statement (.fcvti f) := .inr ⟨rfl, Sys2Proof.Laws.opOf_plain rfl _⟩
theorem Sys2Proof.Laws.OneWord.qnt (f : Fields) : Sys2Proof.Laws.OneWord.Statement (.qnt f) := .inr ⟨rfl, Sys2Proof.Laws.opOf_plain rfl _⟩
theorem Sys2Proof.Laws.OneWord.dqnt (f : Fields) : Sys2Proof.Laws.OneWord.Statement (.dqnt f) := .inr ⟨rfl, Sys2Proof.Laws.opOf_plain rfl _⟩
theorem Sys2Proof.Laws.OneWord.hads (f : Fields) : Sys2Proof.Laws.OneWord.Statement (.hads f) := .inr ⟨rfl, Sys2Proof.Laws.opOf_plain rfl _⟩
theorem Sys2Proof.Laws.OneWord.hadx (f : Fields) : Sys2Proof.Laws.OneWord.Statement (.hadx f) := .inr ⟨rfl, Sys2Proof.Laws.opOf_plain rfl _⟩
theorem Sys2Proof.Laws.OneWord.fscale (f : Fields) : Sys2Proof.Laws.OneWord.Statement (.fscale f) := .inr ⟨rfl, Sys2Proof.Laws.opOf_plain rfl _⟩
theorem Sys2Proof.Laws.OneWord.fresc (f : Fields) : Sys2Proof.Laws.OneWord.Statement (.fresc f) := .inr ⟨rfl, Sys2Proof.Laws.opOf_plain rfl _⟩
theorem Sys2Proof.Laws.OneWord.launch (f : Fields) : Sys2Proof.Laws.OneWord.Statement (.launch f) := .inr ⟨rfl, Sys2Proof.Laws.opOf_plain rfl _⟩
theorem Sys2Proof.Laws.OneWord.ctok (f : Fields) : Sys2Proof.Laws.OneWord.Statement (.ctok f) := .inr ⟨rfl, Sys2Proof.Laws.opOf_plain rfl _⟩
theorem Sys2Proof.Laws.OneWord.census (f : Fields) : Sys2Proof.Laws.OneWord.Statement (.census f) := .inr ⟨rfl, Sys2Proof.Laws.opOf_plain rfl _⟩
theorem Sys2Proof.Laws.OneWord.purge (f : Fields) : Sys2Proof.Laws.OneWord.Statement (.purge f) := .inr ⟨rfl, Sys2Proof.Laws.opOf_plain rfl _⟩
theorem Sys2Proof.Laws.OneWord.quota (f : Fields) : Sys2Proof.Laws.OneWord.Statement (.quota f) := .inr ⟨rfl, Sys2Proof.Laws.opOf_plain rfl _⟩
theorem Sys2Proof.Laws.OneWord.colget (f : Fields) : Sys2Proof.Laws.OneWord.Statement (.colget f) := .inr ⟨rfl, Sys2Proof.Laws.opOf_plain rfl _⟩
theorem Sys2Proof.Laws.OneWord.colset (f : Fields) : Sys2Proof.Laws.OneWord.Statement (.colset f) := .inr ⟨rfl, Sys2Proof.Laws.opOf_plain rfl _⟩
theorem Sys2Proof.Laws.OneWord.spanend (f : Fields) : Sys2Proof.Laws.OneWord.Statement (.spanend f) := .inr ⟨rfl, Sys2Proof.Laws.opOf_plain rfl _⟩
theorem Sys2Proof.Laws.OneWord.ctxnext (f : Fields) : Sys2Proof.Laws.OneWord.Statement (.ctxnext f) := .inr ⟨rfl, Sys2Proof.Laws.opOf_plain rfl _⟩
theorem Sys2Proof.Laws.OneWord.yield (f : Fields) : Sys2Proof.Laws.OneWord.Statement (.yield f) := .inr ⟨rfl, Sys2Proof.Laws.opOf_plain rfl _⟩
theorem Sys2Proof.Laws.OneWord.horizon (f : Fields) : Sys2Proof.Laws.OneWord.Statement (.horizon f) := .inr ⟨rfl, Sys2Proof.Laws.opOf_plain rfl _⟩
theorem Sys2Proof.Laws.OneWord.ld (f : Fields) : Sys2Proof.Laws.OneWord.Statement (.ld f) := .inr ⟨rfl, Sys2Proof.Laws.opOf_plain rfl _⟩
theorem Sys2Proof.Laws.OneWord.st (f : Fields) : Sys2Proof.Laws.OneWord.Statement (.st f) := .inr ⟨rfl, Sys2Proof.Laws.opOf_plain rfl _⟩
theorem Sys2Proof.Laws.OneWord.ldv (f : Fields) : Sys2Proof.Laws.OneWord.Statement (.ldv f) := .inr ⟨rfl, Sys2Proof.Laws.opOf_plain rfl _⟩
theorem Sys2Proof.Laws.OneWord.cmst (f : Fields) : Sys2Proof.Laws.OneWord.Statement (.cmst f) := .inr ⟨rfl, Sys2Proof.Laws.opOf_plain rfl _⟩
theorem Sys2Proof.Laws.OneWord.atadd (f : Fields) : Sys2Proof.Laws.OneWord.Statement (.atadd f) := .inr ⟨rfl, Sys2Proof.Laws.opOf_plain rfl _⟩
theorem Sys2Proof.Laws.OneWord.atmin (f : Fields) : Sys2Proof.Laws.OneWord.Statement (.atmin f) := .inr ⟨rfl, Sys2Proof.Laws.opOf_plain rfl _⟩
theorem Sys2Proof.Laws.OneWord.atmax (f : Fields) : Sys2Proof.Laws.OneWord.Statement (.atmax f) := .inr ⟨rfl, Sys2Proof.Laws.opOf_plain rfl _⟩
theorem Sys2Proof.Laws.OneWord.atand (f : Fields) : Sys2Proof.Laws.OneWord.Statement (.atand f) := .inr ⟨rfl, Sys2Proof.Laws.opOf_plain rfl _⟩
theorem Sys2Proof.Laws.OneWord.ator (f : Fields) : Sys2Proof.Laws.OneWord.Statement (.ator f) := .inr ⟨rfl, Sys2Proof.Laws.opOf_plain rfl _⟩
theorem Sys2Proof.Laws.OneWord.atxor (f : Fields) : Sys2Proof.Laws.OneWord.Statement (.atxor f) := .inr ⟨rfl, Sys2Proof.Laws.opOf_plain rfl _⟩
theorem Sys2Proof.Laws.OneWord.atswp (f : Fields) : Sys2Proof.Laws.OneWord.Statement (.atswp f) := .inr ⟨rfl, Sys2Proof.Laws.opOf_plain rfl _⟩
theorem Sys2Proof.Laws.OneWord.atcas (f : Fields) : Sys2Proof.Laws.OneWord.Statement (.atcas f) := .inr ⟨rfl, Sys2Proof.Laws.opOf_plain rfl _⟩
theorem Sys2Proof.Laws.OneWord.attsb (f : Fields) : Sys2Proof.Laws.OneWord.Statement (.attsb f) := .inr ⟨rfl, Sys2Proof.Laws.opOf_plain rfl _⟩
theorem Sys2Proof.Laws.OneWord.mtld (f : Fields) : Sys2Proof.Laws.OneWord.Statement (.mtld f) := .inr ⟨rfl, Sys2Proof.Laws.opOf_plain rfl _⟩
theorem Sys2Proof.Laws.OneWord.mtst (f : Fields) : Sys2Proof.Laws.OneWord.Statement (.mtst f) := .inr ⟨rfl, Sys2Proof.Laws.opOf_plain rfl _⟩
theorem Sys2Proof.Laws.OneWord.mttsb (f : Fields) : Sys2Proof.Laws.OneWord.Statement (.mttsb f) := .inr ⟨rfl, Sys2Proof.Laws.opOf_plain rfl _⟩
theorem Sys2Proof.Laws.OneWord.agset (f : Fields) : Sys2Proof.Laws.OneWord.Statement (.agset f) := .inr ⟨rfl, Sys2Proof.Laws.opOf_plain rfl _⟩
theorem Sys2Proof.Laws.OneWord.aggo (f : Fields) : Sys2Proof.Laws.OneWord.Statement (.aggo f) := .inr ⟨rfl, Sys2Proof.Laws.opOf_plain rfl _⟩
theorem Sys2Proof.Laws.OneWord.copy (f : Fields) : Sys2Proof.Laws.OneWord.Statement (.copy f) := .inr ⟨rfl, Sys2Proof.Laws.opOf_plain rfl _⟩
theorem Sys2Proof.Laws.OneWord.cpwait (f : Fields) : Sys2Proof.Laws.OneWord.Statement (.cpwait f) := .inr ⟨rfl, Sys2Proof.Laws.opOf_plain rfl _⟩
theorem Sys2Proof.Laws.OneWord.cpptr (f : Fields) : Sys2Proof.Laws.OneWord.Statement (.cpptr f) := .inr ⟨rfl, Sys2Proof.Laws.opOf_plain rfl _⟩
theorem Sys2Proof.Laws.OneWord.order (f : Fields) : Sys2Proof.Laws.OneWord.Statement (.order f) := .inr ⟨rfl, Sys2Proof.Laws.opOf_plain rfl _⟩
theorem Sys2Proof.Laws.OneWord.ownpass (f : Fields) : Sys2Proof.Laws.OneWord.Statement (.ownpass f) := .inr ⟨rfl, Sys2Proof.Laws.opOf_plain rfl _⟩
theorem Sys2Proof.Laws.OneWord.pin (f : Fields) : Sys2Proof.Laws.OneWord.Statement (.pin f) := .inr ⟨rfl, Sys2Proof.Laws.opOf_plain rfl _⟩
theorem Sys2Proof.Laws.OneWord.unpin (f : Fields) : Sys2Proof.Laws.OneWord.Statement (.unpin f) := .inr ⟨rfl, Sys2Proof.Laws.opOf_plain rfl _⟩
theorem Sys2Proof.Laws.OneWord.pref (f : Fields) : Sys2Proof.Laws.OneWord.Statement (.pref f) := .inr ⟨rfl, Sys2Proof.Laws.opOf_plain rfl _⟩
theorem Sys2Proof.Laws.OneWord.mfence (f : Fields) : Sys2Proof.Laws.OneWord.Statement (.mfence f) := .inr ⟨rfl, Sys2Proof.Laws.opOf_plain rfl _⟩
theorem Sys2Proof.Laws.OneWord.mma (f : Fields) : Sys2Proof.Laws.OneWord.Statement (.mma f) := .inr ⟨rfl, Sys2Proof.Laws.opOf_plain rfl _⟩
theorem Sys2Proof.Laws.OneWord.mzero (f : Fields) : Sys2Proof.Laws.OneWord.Statement (.mzero f) := .inr ⟨rfl, Sys2Proof.Laws.opOf_plain rfl _⟩
theorem Sys2Proof.Laws.OneWord.mdrain (f : Fields) : Sys2Proof.Laws.OneWord.Statement (.mdrain f) := .inr ⟨rfl, Sys2Proof.Laws.opOf_plain rfl _⟩
theorem Sys2Proof.Laws.OneWord.mscale (f : Fields) : Sys2Proof.Laws.OneWord.Statement (.mscale f) := .inr ⟨rfl, Sys2Proof.Laws.opOf_plain rfl _⟩
theorem Sys2Proof.Laws.OneWord.mcode (f : Fields) : Sys2Proof.Laws.OneWord.Statement (.mcode f) := .inr ⟨rfl, Sys2Proof.Laws.opOf_plain rfl _⟩
theorem Sys2Proof.Laws.OneWord.mepi (f : Fields) : Sys2Proof.Laws.OneWord.Statement (.mepi f) := .inr ⟨rfl, Sys2Proof.Laws.opOf_plain rfl _⟩
theorem Sys2Proof.Laws.OneWord.mswap (f : Fields) : Sys2Proof.Laws.OneWord.Statement (.mswap f) := .inr ⟨rfl, Sys2Proof.Laws.opOf_plain rfl _⟩
theorem Sys2Proof.Laws.OneWord.kvpack (f : Fields) : Sys2Proof.Laws.OneWord.Statement (.kvpack f) := .inr ⟨rfl, Sys2Proof.Laws.opOf_plain rfl _⟩
theorem Sys2Proof.Laws.OneWord.kvxlat (f : Fields) : Sys2Proof.Laws.OneWord.Statement (.kvxlat f) := .inr ⟨rfl, Sys2Proof.Laws.opOf_plain rfl _⟩
theorem Sys2Proof.Laws.OneWord.massacc (f : Fields) : Sys2Proof.Laws.OneWord.Statement (.massacc f) := .inr ⟨rfl, Sys2Proof.Laws.opOf_plain rfl _⟩
theorem Sys2Proof.Laws.OneWord.kvevict (f : Fields) : Sys2Proof.Laws.OneWord.Statement (.kvevict f) := .inr ⟨rfl, Sys2Proof.Laws.opOf_plain rfl _⟩
theorem Sys2Proof.Laws.OneWord.kvseqCreate (f : Fields) : Sys2Proof.Laws.OneWord.Statement (.kvseqCreate f) := Sys2Proof.Laws.of_wf fun h =>
  ⟨rfl, by
    have x : bitsAt f.xmod 0 2 = 0 := beq_iff_eq.mp (Sys2Proof.Laws.want_nil (Sys2Proof.Laws.opExtra_nil (o := .kvseqCreate) h))
    change opOf 0x1E4 f.xmod = _
    rw [opOf, if_pos (by decide), x]; rfl⟩
theorem Sys2Proof.Laws.OneWord.kvseqAttach (f : Fields) : Sys2Proof.Laws.OneWord.Statement (.kvseqAttach f) := Sys2Proof.Laws.of_wf fun h =>
  ⟨rfl, by
    have x : bitsAt f.xmod 0 2 = 1 := beq_iff_eq.mp (Sys2Proof.Laws.want_nil (Sys2Proof.Laws.opExtra_nil (o := .kvseqAttach) h))
    change opOf 0x1E4 f.xmod = _
    rw [opOf, if_pos (by decide), x]; rfl⟩
theorem Sys2Proof.Laws.OneWord.kvseqDetach (f : Fields) : Sys2Proof.Laws.OneWord.Statement (.kvseqDetach f) := Sys2Proof.Laws.of_wf fun h =>
  ⟨rfl, by
    have x : bitsAt f.xmod 0 2 = 2 := beq_iff_eq.mp (Sys2Proof.Laws.want_nil (Sys2Proof.Laws.opExtra_nil (o := .kvseqDetach) h))
    change opOf 0x1E4 f.xmod = _
    rw [opOf, if_pos (by decide), x]; rfl⟩
theorem Sys2Proof.Laws.OneWord.kvapp (f : Fields) : Sys2Proof.Laws.OneWord.Statement (.kvapp f) := .inr ⟨rfl, Sys2Proof.Laws.opOf_plain rfl _⟩
theorem Sys2Proof.Laws.OneWord.kvstat (f : Fields) : Sys2Proof.Laws.OneWord.Statement (.kvstat f) := .inr ⟨rfl, Sys2Proof.Laws.opOf_plain rfl _⟩
theorem Sys2Proof.Laws.OneWord.kvdrop (f : Fields) : Sys2Proof.Laws.OneWord.Statement (.kvdrop f) := .inr ⟨rfl, Sys2Proof.Laws.opOf_plain rfl _⟩
theorem Sys2Proof.Laws.OneWord.ndecl (f : Fields) : Sys2Proof.Laws.OneWord.Statement (.ndecl f) := .inr ⟨rfl, Sys2Proof.Laws.opOf_plain rfl _⟩
theorem Sys2Proof.Laws.OneWord.nask (f : Fields) : Sys2Proof.Laws.OneWord.Statement (.nask f) := .inr ⟨rfl, Sys2Proof.Laws.opOf_plain rfl _⟩
theorem Sys2Proof.Laws.OneWord.nann (f : Fields) : Sys2Proof.Laws.OneWord.Statement (.nann f) := .inr ⟨rfl, Sys2Proof.Laws.opOf_plain rfl _⟩
theorem Sys2Proof.Laws.OneWord.ndropDecl (f : Fields) : Sys2Proof.Laws.OneWord.Statement (.ndropDecl f) := Sys2Proof.Laws.of_wf fun h =>
  ⟨rfl, by
    have e : want (!bitAt f.xmod 0) (mkCause 1 8) = [] := Sys2Proof.Laws.opExtra_nil (o := .ndropDecl) h
    have x := Sys2Proof.Laws.want_nil e
    rw [Bool.not_eq_true'] at x
    change opOf 0x1F3 f.xmod = _
    rw [opOf, if_neg (by decide), if_pos (by decide), x]; rfl⟩
theorem Sys2Proof.Laws.OneWord.ndropOwn (f : Fields) : Sys2Proof.Laws.OneWord.Statement (.ndropOwn f) := Sys2Proof.Laws.of_wf fun h =>
  ⟨rfl, by
    have e : want (bitAt f.xmod 0) (mkCause 1 8) = [] := Sys2Proof.Laws.opExtra_nil (o := .ndropOwn) h
    have x := Sys2Proof.Laws.want_nil e
    change opOf 0x1F3 f.xmod = _
    rw [opOf, if_neg (by decide), if_pos (by decide), x]; rfl⟩
theorem Sys2Proof.Laws.OneWord.nstat (f : Fields) : Sys2Proof.Laws.OneWord.Statement (.nstat f) := .inr ⟨rfl, Sys2Proof.Laws.opOf_plain rfl _⟩
theorem Sys2Proof.Laws.OneWord.trap (f : Fields) : Sys2Proof.Laws.OneWord.Statement (.trap f) := .inr ⟨rfl, Sys2Proof.Laws.opOf_plain rfl _⟩
theorem Sys2Proof.Laws.OneWord.brk (f : Fields) : Sys2Proof.Laws.OneWord.Statement (.brk f) := .inr ⟨rfl, Sys2Proof.Laws.opOf_plain rfl _⟩
theorem Sys2Proof.Laws.OneWord.fault (f : Fields) : Sys2Proof.Laws.OneWord.Statement (.fault f) := .inr ⟨rfl, Sys2Proof.Laws.opOf_plain rfl _⟩
theorem Sys2Proof.Laws.OneWord.mark (f : Fields) : Sys2Proof.Laws.OneWord.Statement (.mark f) := .inr ⟨rfl, Sys2Proof.Laws.opOf_plain rfl _⟩
theorem Sys2Proof.Laws.OneWord.wxLaunch (rd rs1 : BitVec 5) : Sys2Proof.Laws.OneWord.Statement (.wxLaunch rd rs1) := .inr (.inr ⟨_, rfl, by simp [decodeWx]⟩)
theorem Sys2Proof.Laws.OneWord.wxPushtok (rd rs1 rs2 : BitVec 5) : Sys2Proof.Laws.OneWord.Statement (.wxPushtok rd rs1 rs2) := .inr (.inr ⟨_, rfl, by simp [decodeWx]⟩)
theorem Sys2Proof.Laws.OneWord.wxPulltok (rd rs1 rs2 : BitVec 5) : Sys2Proof.Laws.OneWord.Statement (.wxPulltok rd rs1 rs2) := .inr (.inr ⟨_, rfl, by simp [decodeWx]⟩)
theorem Sys2Proof.Laws.OneWord.wxCensus (rd rs1 : BitVec 5) : Sys2Proof.Laws.OneWord.Statement (.wxCensus rd rs1) := .inr (.inr ⟨_, rfl, by simp [decodeWx]⟩)
theorem Sys2Proof.Laws.OneWord.wxPurge (rd rs1 : BitVec 5) : Sys2Proof.Laws.OneWord.Statement (.wxPurge rd rs1) := .inr (.inr ⟨_, rfl, by simp [decodeWx]⟩)
theorem Sys2Proof.Laws.OneWord.wxSpanwait (rd rs1 : BitVec 5) : Sys2Proof.Laws.OneWord.Statement (.wxSpanwait rd rs1) := .inr (.inr ⟨_, rfl, by simp [decodeWx]⟩)
theorem Sys2Proof.Laws.OneWord.wxSummary (rd rs1 : BitVec 5) : Sys2Proof.Laws.OneWord.Statement (.wxSummary rd rs1) := .inr (.inr ⟨_, rfl, by simp [decodeWx]⟩)
theorem Sys2Proof.Laws.OneWord.wxFreeze (rd rs1 : BitVec 5) : Sys2Proof.Laws.OneWord.Statement (.wxFreeze rd rs1) := .inr (.inr ⟨_, rfl, by simp [decodeWx]⟩)
theorem Sys2Proof.Laws.OneWord.wxResume (rd rs1 : BitVec 5) : Sys2Proof.Laws.OneWord.Statement (.wxResume rd rs1) := .inr (.inr ⟨_, rfl, by simp [decodeWx]⟩)
theorem Sys2Proof.Laws.OneWord.tokenArrival (p : Site) (src : Src) : Sys2Proof.Laws.OneWord.Statement (.tokenArrival p src) := .inl rfl
theorem Sys2Proof.Laws.OneWord.readyQueueEntry (p : Site) : Sys2Proof.Laws.OneWord.Statement (.readyQueueEntry p) := .inl rfl
theorem Sys2Proof.Laws.OneWord.outputTokenSend (p : Site) : Sys2Proof.Laws.OneWord.Statement (.outputTokenSend p) := .inl rfl
theorem Sys2Proof.Laws.OneWord.entryPortInject (r : Rid) (ax ay : Nat) : Sys2Proof.Laws.OneWord.Statement (.entryPortInject r ax ay) := .inl rfl
theorem Sys2Proof.Laws.OneWord.exitPortAccept (r : Rid) (src : Src) (port : Nat) : Sys2Proof.Laws.OneWord.Statement (.exitPortAccept r src port) := .inl rfl
theorem Sys2Proof.Laws.OneWord.sweepEnd (r : Rid) (late : List (Src × Nat)) : Sys2Proof.Laws.OneWord.Statement (.sweepEnd r late) := .inl rfl
theorem Sys2Proof.Laws.OneWord.stalledColour (r : Rid) (col : BitVec 6) : Sys2Proof.Laws.OneWord.Statement (.stalledColour r col) := .inl rfl
theorem Sys2Proof.Laws.OneWord.purgeComplete (h : Word32) (col : BitVec 6) : Sys2Proof.Laws.OneWord.Statement (.purgeComplete h col) := .inl rfl
theorem Sys2Proof.Laws.OneWord.contextRetire (r : Rid) (ctx : BitVec 3) : Sys2Proof.Laws.OneWord.Statement (.contextRetire r ctx) := .inl rfl
theorem Sys2Proof.Laws.OneWord.autoClose (h : Word32) : Sys2Proof.Laws.OneWord.Statement (.autoClose h) := .inl rfl
theorem Sys2Proof.Laws.OneWord.regionRetire (h : Word32) : Sys2Proof.Laws.OneWord.Statement (.regionRetire h) := .inl rfl
theorem Sys2Proof.Laws.OneWord.loadComplete (h : Word32) : Sys2Proof.Laws.OneWord.Statement (.loadComplete h) := .inl rfl
theorem Sys2Proof.Laws.OneWord.ctxnextLoadComplete (r : Rid) (ctx : BitVec 3) : Sys2Proof.Laws.OneWord.Statement (.ctxnextLoadComplete r ctx) := .inl rfl
theorem Sys2Proof.Laws.OneWord.spanCommit (h : Word32) : Sys2Proof.Laws.OneWord.Statement (.spanCommit h) := .inl rfl
theorem Sys2Proof.Laws.OneWord.heldAccessTimeout (id : Nat) : Sys2Proof.Laws.OneWord.Statement (.heldAccessTimeout id) := .inl rfl
theorem Sys2Proof.Laws.OneWord.memoryRequestAccept (r : Rid) (id : Nat) : Sys2Proof.Laws.OneWord.Statement (.memoryRequestAccept r id) := .inl rfl
theorem Sys2Proof.Laws.OneWord.chainPerform (r : Rid) (id : Nat) : Sys2Proof.Laws.OneWord.Statement (.chainPerform r id) := .inl rfl
theorem Sys2Proof.Laws.OneWord.pageTableWalk (r : Rid) (id : Nat) : Sys2Proof.Laws.OneWord.Statement (.pageTableWalk r id) := .inl rfl
theorem Sys2Proof.Laws.OneWord.homeSliceAccess (r : Rid) (id : Nat) : Sys2Proof.Laws.OneWord.Statement (.homeSliceAccess r id) := .inl rfl
theorem Sys2Proof.Laws.OneWord.cmstGroupSettle (r : Rid) (id : Nat) : Sys2Proof.Laws.OneWord.Statement (.cmstGroupSettle r id) := .inl rfl
theorem Sys2Proof.Laws.OneWord.windowFill (r : Rid) (tile win : Nat) : Sys2Proof.Laws.OneWord.Statement (.windowFill r tile win) := .inl rfl
theorem Sys2Proof.Laws.OneWord.windowWriteback (r : Rid) (tile win : Nat) : Sys2Proof.Laws.OneWord.Statement (.windowWriteback r tile win) := .inl rfl
theorem Sys2Proof.Laws.OneWord.generatorAccess (p : Site) (gen : Nat) : Sys2Proof.Laws.OneWord.Statement (.generatorAccess p gen) := .inl rfl
theorem Sys2Proof.Laws.OneWord.aggoNestEnd (p : Site) (gen : Nat) : Sys2Proof.Laws.OneWord.Statement (.aggoNestEnd p gen) := .inl rfl
theorem Sys2Proof.Laws.OneWord.bankAccess (p : Site) (bank : Nat) : Sys2Proof.Laws.OneWord.Statement (.bankAccess p bank) := .inl rfl
theorem Sys2Proof.Laws.OneWord.copyTransferStart (p : Site) (ch : Nat) : Sys2Proof.Laws.OneWord.Statement (.copyTransferStart p ch) := .inl rfl
theorem Sys2Proof.Laws.OneWord.copyPiece (p : Site) (ch : Nat) : Sys2Proof.Laws.OneWord.Statement (.copyPiece p ch) := .inl rfl
theorem Sys2Proof.Laws.OneWord.copyDone (p : Site) (ch : Nat) : Sys2Proof.Laws.OneWord.Statement (.copyDone p ch) := .inl rfl
theorem Sys2Proof.Laws.OneWord.cpwaitRelease (p : Site) (ch : Nat) : Sys2Proof.Laws.OneWord.Statement (.cpwaitRelease p ch) := .inl rfl
theorem Sys2Proof.Laws.OneWord.mfenceComplete (p : Site) : Sys2Proof.Laws.OneWord.Statement (.mfenceComplete p) := .inl rfl
theorem Sys2Proof.Laws.OneWord.ownpassComplete (p : Site) : Sys2Proof.Laws.OneWord.Statement (.ownpassComplete p) := .inl rfl
theorem Sys2Proof.Laws.OneWord.streamTokenStaging (p : Site) (src : Src) : Sys2Proof.Laws.OneWord.Statement (.streamTokenStaging p src) := .inl rfl
theorem Sys2Proof.Laws.OneWord.mmaKgroup (p : Site) (row col : Nat) : Sys2Proof.Laws.OneWord.Statement (.mmaKgroup p row col) := .inl rfl
theorem Sys2Proof.Laws.OneWord.mmaPassComplete (p : Site) : Sys2Proof.Laws.OneWord.Statement (.mmaPassComplete p) := .inl rfl
theorem Sys2Proof.Laws.OneWord.mdrainComplete (p : Site) : Sys2Proof.Laws.OneWord.Statement (.mdrainComplete p) := .inl rfl
theorem Sys2Proof.Laws.OneWord.kvevictCompaction (slice : Nat) (seq : Nat) : Sys2Proof.Laws.OneWord.Statement (.kvevictCompaction slice seq) := .inl rfl
theorem Sys2Proof.Laws.OneWord.interestArrival (msg : Nat) : Sys2Proof.Laws.OneWord.Statement (.interestArrival msg) := .inl rfl
theorem Sys2Proof.Laws.OneWord.interestRetry (router : Nat) : Sys2Proof.Laws.OneWord.Statement (.interestRetry router) := .inl rfl
theorem Sys2Proof.Laws.OneWord.interestRefresh (msg : Nat) : Sys2Proof.Laws.OneWord.Statement (.interestRefresh msg) := .inl rfl
theorem Sys2Proof.Laws.OneWord.faceExpiry (router entry face : Nat) : Sys2Proof.Laws.OneWord.Statement (.faceExpiry router entry face) := .inl rfl
theorem Sys2Proof.Laws.OneWord.tileArrival (msg : Nat) : Sys2Proof.Laws.OneWord.Statement (.tileArrival msg) := .inl rfl
theorem Sys2Proof.Laws.OneWord.negativeAnswerArrival (msg : Nat) : Sys2Proof.Laws.OneWord.Statement (.negativeAnswerArrival msg) := .inl rfl
theorem Sys2Proof.Laws.OneWord.answerDelivery (p : Site) (ch : Nat) : Sys2Proof.Laws.OneWord.Statement (.answerDelivery p ch) := .inl rfl
theorem Sys2Proof.Laws.OneWord.stationInput (die station input : Nat) : Sys2Proof.Laws.OneWord.Statement (.stationInput die station input) := .inl rfl
theorem Sys2Proof.Laws.OneWord.flitStationToken (port : Nat) (flit : BitVec 512) : Sys2Proof.Laws.OneWord.Statement (.flitStationToken port flit) := .inl rfl
theorem Sys2Proof.Laws.OneWord.flitGalleryInterest (port : Nat) (flit : BitVec 512) : Sys2Proof.Laws.OneWord.Statement (.flitGalleryInterest port flit) := .inl rfl
theorem Sys2Proof.Laws.OneWord.flitTileData (port : Nat) (flit : BitVec 512) : Sys2Proof.Laws.OneWord.Statement (.flitTileData port flit) := .inl rfl
theorem Sys2Proof.Laws.OneWord.flitGalleryAnswer (port : Nat) (flit : BitVec 512) : Sys2Proof.Laws.OneWord.Statement (.flitGalleryAnswer port flit) := .inl rfl
theorem Sys2Proof.Laws.OneWord.flitManagement (port : Nat) (flit : BitVec 512) : Sys2Proof.Laws.OneWord.Statement (.flitManagement port flit) := .inl rfl
theorem Sys2Proof.Laws.OneWord.flitAcknowledge (port : Nat) (flit : BitVec 512) : Sys2Proof.Laws.OneWord.Statement (.flitAcknowledge port flit) := .inl rfl
theorem Sys2Proof.Laws.OneWord.linkRetryTimeout (port : Nat) : Sys2Proof.Laws.OneWord.Statement (.linkRetryTimeout port) := .inl rfl
theorem Sys2Proof.Laws.OneWord.regionFreeze (h : Word32) : Sys2Proof.Laws.OneWord.Statement (.regionFreeze h) := .inl rfl
theorem Sys2Proof.Laws.OneWord.snapshotScan (h : Word32) : Sys2Proof.Laws.OneWord.Statement (.snapshotScan h) := .inl rfl
theorem Sys2Proof.Laws.OneWord.preemptDrain (h : Word32) : Sys2Proof.Laws.OneWord.Statement (.preemptDrain h) := .inl rfl
theorem Sys2Proof.Laws.OneWord.drainTimeout (h : Word32) : Sys2Proof.Laws.OneWord.Statement (.drainTimeout h) := .inl rfl
theorem Sys2Proof.Laws.OneWord.regionRestore (h : Word32) : Sys2Proof.Laws.OneWord.Statement (.regionRestore h) := .inl rfl
theorem Sys2Proof.Laws.OneWord.sealAdvance (h : Word32) : Sys2Proof.Laws.OneWord.Statement (.sealAdvance h) := .inl rfl
theorem Sys2Proof.Laws.OneWord.hardwareError (code : BitVec 6) (at' : ErrPlace) : Sys2Proof.Laws.OneWord.Statement (.hardwareError code at') := .inl rfl
theorem Sys2Proof.Laws.OneWord.packageMachineCheck (code : Cause) : Sys2Proof.Laws.OneWord.Statement (.packageMachineCheck code) := .inl rfl
theorem Sys2Proof.Laws.OneWord.frzNAssert (cycles : Nat) : Sys2Proof.Laws.OneWord.Statement (.frzNAssert cycles) := .inl rfl
theorem Sys2Proof.Laws.OneWord.packageReset (a b : FlashSlot) : Sys2Proof.Laws.OneWord.Statement (.packageReset a b) := .inl rfl
theorem Sys2Proof.Laws.OneWord.throttleEnter (power temp : Nat) : Sys2Proof.Laws.OneWord.Statement (.throttleEnter power temp) := .inl rfl
theorem Sys2Proof.Laws.OneWord.thermalTrip (temp : Nat) : Sys2Proof.Laws.OneWord.Statement (.thermalTrip temp) := .inl rfl
theorem Sys2Proof.Laws.OneWord.hartMemoryAccess (hart : Nat) (pa : Nat) (op : BusOp) : Sys2Proof.Laws.OneWord.Statement (.hartMemoryAccess hart pa op) := .inl rfl
theorem Sys2Proof.Laws.OneWord.hostAccess (pa : Nat) (op : HostOp) : Sys2Proof.Laws.OneWord.Statement (.hostAccess pa op) := .inl rfl
theorem Sys2Proof.Laws.OneWord.replayEntry (h : Word32) : Sys2Proof.Laws.OneWord.Statement (.replayEntry h) := .inl rfl
theorem Sys2Proof.Laws.OneWord.wxvworldWrite (hart : Nat) (value : Word64) : Sys2Proof.Laws.OneWord.Statement (.wxvworldWrite hart value) := .inl rfl
theorem Sys2Proof.Laws.OneWord.regionPageForeignAccess (a : Accessor) (pa : Nat) (op : BusOp) : Sys2Proof.Laws.OneWord.Statement (.regionPageForeignAccess a pa op) := .inl rfl
theorem Sys2Proof.Laws.OneWord.registerWrite (a : Accessor) (pa : Nat) (size : Nat) (value : Word64) : Sys2Proof.Laws.OneWord.Statement (.registerWrite a pa size value) := .inl rfl
theorem Sys2Proof.Laws.OneWord.throttleExit (power temp : Nat) : Sys2Proof.Laws.OneWord.Statement (.throttleExit power temp) := .inl rfl
theorem Sys2Proof.Laws.OneWord.droppedFlit (port : Nat) (flit : BitVec 512) : Sys2Proof.Laws.OneWord.Statement (.droppedFlit port flit) := .inl rfl
theorem Sys2Proof.Laws.OneWord.illegalInstructionException (w : Word32) : Sys2Proof.Laws.OneWord.Statement (.illegalInstructionException w) := .inr (.inl ⟨_, rfl⟩)
theorem Sys2Proof.Laws.OneWord.wxworldWrite (hart : Nat) (value : Word64) : Sys2Proof.Laws.OneWord.Statement (.wxworldWrite hart value) := .inl rfl
theorem Sys2Proof.Laws.OneWord.placementDecision : Sys2Proof.Laws.OneWord.Statement (.placementDecision) := .inl rfl
theorem Sys2Proof.Laws.OneWord.mctpFreeze : Sys2Proof.Laws.OneWord.Statement (.mctpFreeze) := .inl rfl
theorem Sys2Proof.Laws.OneWord.mctpReset : Sys2Proof.Laws.OneWord.Statement (.mctpReset) := .inl rfl
theorem Sys2Proof.Laws.OneWord.replayStart : Sys2Proof.Laws.OneWord.Statement (.replayStart) := .inl rfl
theorem Sys2Proof.Laws.OneWord.pkgReleaseSave : Sys2Proof.Laws.OneWord.Statement (.pkgReleaseSave) := .inl rfl
theorem Sys2Proof.Laws.OneWord.pkgReleaseDiscard : Sys2Proof.Laws.OneWord.Statement (.pkgReleaseDiscard) := .inl rfl
theorem Sys2Proof.Laws.OneWord.xltInvPage : Sys2Proof.Laws.OneWord.Statement (.xltInvPage) := .inl rfl
theorem Sys2Proof.Laws.OneWord.xltInvWorld : Sys2Proof.Laws.OneWord.Statement (.xltInvWorld) := .inl rfl
theorem Sys2Proof.Laws.OneWord.xltInvAll : Sys2Proof.Laws.OneWord.Statement (.xltInvAll) := .inl rfl
theorem Sys2Proof.Laws.OneWord.galCfgWrite : Sys2Proof.Laws.OneWord.Statement (.galCfgWrite) := .inl rfl
theorem Sys2Proof.Laws.OneWord.wrldSnapszWrite : Sys2Proof.Laws.OneWord.Statement (.wrldSnapszWrite) := .inl rfl
theorem Sys2Proof.Laws.OneWord.pkgDevidWrite : Sys2Proof.Laws.OneWord.Statement (.pkgDevidWrite) := .inl rfl
theorem Sys2Proof.Laws.OneWord.tbCreate : Sys2Proof.Laws.OneWord.Statement (.tbCreate) := .inl rfl
theorem Sys2Proof.Laws.OneWord.tbDestroy : Sys2Proof.Laws.OneWord.Statement (.tbDestroy) := .inl rfl
theorem Sys2Proof.Laws.OneWord.tbExtend : Sys2Proof.Laws.OneWord.Statement (.tbExtend) := .inl rfl
theorem Sys2Proof.Laws.OneWord.tbEvidence : Sys2Proof.Laws.OneWord.Statement (.tbEvidence) := .inl rfl
theorem Sys2Proof.Laws.OneWord.tbExport : Sys2Proof.Laws.OneWord.Statement (.tbExport) := .inl rfl
theorem Sys2Proof.Laws.OneWord.tbImport : Sys2Proof.Laws.OneWord.Statement (.tbImport) := .inl rfl
theorem Sys2Proof.Laws.OneWord.tbRelease : Sys2Proof.Laws.OneWord.Statement (.tbRelease) := .inl rfl
theorem Sys2Proof.Laws.OneWord.tbBadcmd : Sys2Proof.Laws.OneWord.Statement (.tbBadcmd) := .inl rfl
end

