-- ==== Sys2Proof/Laws/Tags.lean ====
section
/-! SUPPORT. Tags and bit fields: reading what was written, and everything else unchanged (R5, R14, R17). -/

namespace Sys2Proof.Machine

theorem tagCol_div (t : Word64) : tagCol t = t.toNat / 2 ^ 58 := by
  have h := t.isLt
  simp only [tagCol, bitsAt, BitVec.extractLsb'_toNat, Nat.shiftRight_eq_div_pow]
  omega
theorem tagCtx_div (t : Word64) : tagCtx t = t.toNat / 2 ^ 55 % 8 := by
  simp [tagCtx, bitsAt, BitVec.extractLsb'_toNat, Nat.shiftRight_eq_div_pow]


/-- The bits of a tag with one field replaced (R17). -/
theorem getLsbD_setField (tagw : List Nat) (k v i : Nat) (t : Word64) (_ : fieldLo tagw k + fieldW tagw k ≤ 64) (hi : i < 64) :
    (setField tagw k v t).getLsbD i =
      if fieldLo tagw k ≤ i ∧ i < fieldLo tagw k + fieldW tagw k then v.testBit (i - fieldLo tagw k) else t.getLsbD i := by
  generalize hlo : fieldLo tagw k = lo
  generalize hw : fieldW tagw k = w
  simp only [setField, hlo, hw, BitVec.getLsbD_or, BitVec.getLsbD_and, BitVec.getLsbD_not, BitVec.getLsbD_ofNat, hi, decide_true, Bool.true_and,
    ← Nat.shiftLeft_eq, Nat.testBit_shiftLeft, Nat.testBit_two_pow_sub_one, Nat.testBit_mod_two_pow]
  by_cases h1 : lo ≤ i
  · by_cases h2 : i - lo < w
    · have h3 : i < lo + w := by omega
      simp [h1, h2, h3]
    · have h3 : ¬ i < lo + w := by omega
      simp [h1, h2, h3]
  · simp [h1]

theorem testBit_getField (tagw : List Nat) (k i : Nat) (t : Word64) :
    (getField tagw k t).testBit i = (decide (i < fieldW tagw k) && t.getLsbD (fieldLo tagw k + i)) := by
  simp only [getField, Nat.testBit_mod_two_pow, Nat.testBit_div_two_pow, BitVec.getLsbD, Nat.add_comm]

theorem foldl_add (l : List Nat) (a : Nat) : l.foldl (· + ·) a = a + l.sum := by
  induction l generalizing a with
  | nil => simp
  | cons x l ih => simp [ih, Nat.add_assoc]

theorem fieldLo_add (tagw : List Nat) (j k : Nat) (hj : j < k) (hk : k ≤ tagw.length) :
    fieldLo tagw j + fieldW tagw j ≤ fieldLo tagw k := by
  simp only [fieldLo, fieldW, foldl_add, Nat.zero_add]
  have : tagw.take (j + 1) = tagw.take j ++ [tagw[j]] := by simp
  have h1 : (tagw.take j).sum + tagw.getD j 0 = (tagw.take (j + 1)).sum := by
    rw [this, List.sum_append, List.getD_eq_getElem _ _ (show j < tagw.length by omega)]; simp
  rw [h1]
  have h2 : (tagw.take k) = tagw.take (j + 1) ++ ((tagw.take k).drop (j + 1)) := by
    conv_lhs => rw [← List.take_append_drop (j + 1) (tagw.take k)]
    rw [List.take_take, min_eq_left (by omega)]
  rw [h2]; simp

theorem fieldEnd_le (tagw : List Nat) (k : Nat) (hk : k < tagw.length) : fieldLo tagw k + fieldW tagw k ≤ tagw.foldl (· + ·) 0 := by
  have := fieldLo_add tagw k tagw.length hk (le_refl _)
  simpa [fieldLo] using this

/-- The field written reads as the value modulo its size. -/
theorem getField_setField_same (tagw : List Nat) (k v : Nat) (t : Word64) (h : fieldLo tagw k + fieldW tagw k ≤ 64) :
    getField tagw k (setField tagw k v t) = v % 2 ^ fieldW tagw k := by
  apply Nat.eq_of_testBit_eq
  intro i
  rw [testBit_getField, Nat.testBit_mod_two_pow]
  by_cases hi : i < fieldW tagw k
  · rw [getLsbD_setField _ _ _ _ _ h (by omega), if_pos (by omega)]
    simp
  · simp [hi]

/-- A field that does not overlap the one written keeps its value. -/
theorem getField_setField_other (tagw : List Nat) (j k v : Nat) (t : Word64) (h : fieldLo tagw k + fieldW tagw k ≤ 64)
    (hj : fieldLo tagw j + fieldW tagw j ≤ 64)
    (hd : fieldLo tagw j + fieldW tagw j ≤ fieldLo tagw k ∨ fieldLo tagw k + fieldW tagw k ≤ fieldLo tagw j) :
    getField tagw j (setField tagw k v t) = getField tagw j t := by
  apply Nat.eq_of_testBit_eq
  intro i
  rw [testBit_getField, testBit_getField]
  by_cases hi : i < fieldW tagw j
  · rw [getLsbD_setField _ _ _ _ _ h (by omega), if_neg (by omega)]
  · simp [hi]

/-- COL and CTX stand above every declared field. -/
theorem extract_setField (tagw : List Nat) (k v lo n : Nat) (t : Word64) (h : fieldLo tagw k + fieldW tagw k ≤ lo) (hn : lo + n ≤ 64) :
    bitsAt (setField tagw k v t) lo n = bitsAt t lo n := by
  apply BitVec.eq_of_getLsbD_eq
  intro i hi
  simp only [bitsAt, BitVec.getLsbD_extractLsb', hi, decide_true, Bool.true_and]
  rw [getLsbD_setField _ _ _ _ _ (by omega) (by omega), if_neg (by omega)]

/-- The bits of a word with one field replaced (R5). -/
theorem getLsbD_setBits {n len : Nat} (w : BitVec n) (lo : Nat) (v : BitVec len) (i : Nat) (hi : i < n) (h : lo + len ≤ n) :
    (setBits w lo v).getLsbD i = if lo ≤ i ∧ i < lo + len then v.getLsbD (i - lo) else w.getLsbD i := by
  simp only [setBits, BitVec.getLsbD_or, BitVec.getLsbD_and, BitVec.getLsbD_not, BitVec.getLsbD_shiftLeft, BitVec.getLsbD_setWidth,
    BitVec.getLsbD_allOnes, hi, decide_true, Bool.true_and]
  by_cases h1 : i < lo
  · simp [h1, show ¬ lo ≤ i by omega]
  · by_cases h2 : i - lo < len
    · simp [h1, h2, show lo ≤ i by omega, show i < lo + len by omega, show i - lo < n by omega]
    · have : v.getLsbD (i - lo) = false := BitVec.getLsbD_of_ge _ _ (by omega)
      simp [h1, h2, this, show ¬ i < lo + len by omega]

theorem bitsAt_setBits_same {n len : Nat} (w : BitVec n) (lo : Nat) (v : BitVec len) (h : lo + len ≤ n) : bitsAt (setBits w lo v) lo len = v := by
  apply BitVec.eq_of_getLsbD_eq
  intro i hi
  simp only [bitsAt, BitVec.getLsbD_extractLsb', hi, decide_true, Bool.true_and]
  rw [getLsbD_setBits _ _ _ _ (by omega) h, if_pos (by omega), Nat.add_sub_cancel_left]

theorem bitsAt_setBits_other {n len : Nat} (w : BitVec n) (lo : Nat) (v : BitVec len) (a m : Nat) (h : lo + len ≤ n) (hm : a + m ≤ n)
    (hd : a + m ≤ lo ∨ lo + len ≤ a) : bitsAt (setBits w lo v) a m = bitsAt w a m := by
  apply BitVec.eq_of_getLsbD_eq
  intro i hi
  simp only [bitsAt, BitVec.getLsbD_extractLsb', hi, decide_true, Bool.true_and]
  rw [getLsbD_setBits _ _ _ _ (by omega) h, if_neg (by omega)]

end Sys2Proof.Machine
end

