-- ==== Sys2Proof/Laws/Region.lean ====
section
/-! SUPPORT. The region instructions: what their shared parts do (R197 to R199). -/

namespace Sys2Proof.Machine

/-- An instruction on ordinary operands whose effect is known completes. -/
theorem fire_to {f : Fields} {s : State} {c : Ctx} {n : Nat} (hi : Issues f s c n) (hp : c.Plain) (own : Ctx → Effect) {x : Effect}
    (h : own c = x) (ho : x.e = c.e) (hn : x.emits.length + x.reqs.length ≤ n) (hk : x.keep = false) :
    fire f s own = .next (c.issuedIn x.s c.e x.emits x.reqs) := by
  rw [fire_plain hi hp own (by rw [h, ho]) (by rw [h]; exact hn) (by rw [h]; exact hk), h, ho]

/-- Is a purge of a colour running? -/
theorem Launch.purging_iff (l : Launch) (col : Nat) : l.purging col = true ↔ ∃ p ∈ l.purges, p.col = col := by
  simp [Launch.purging]

/-- Is a colour quiescent in every context? -/
theorem quietAll8 (g : Region) (col : Nat) : ((List.range 8).all fun k => g.quiet.contains (64 * k + col)) = true ↔ ∀ k < 8, (64 * k + col) ∈ g.quiet := by
  simp

/-- No check fails. -/
theorem firstBad_zero (l : List Nat) (h : ∀ k ∈ l, k = 0) : firstBad l = 0 := by
  have : l.find? (· != 0) = none := by
    simp only [List.find?_eq_none]
    intro x hx; simp [h x hx]
  simp [firstBad, this]

/-- One payload for every destination. -/
theorem all_eff (c : Ctx) (v : Payload) : c.all v = ⟨c.s, c.e, c.toAll v, [], false⟩ := rfl
/-- A changed region, with one result. -/
theorem region_eff (c : Ctx) (g : Region) (v : Payload) : c.region g v = ⟨c.s.putRegion c.p.r g, c.e, c.toAll v, [], false⟩ := rfl
/-- A changed colour table, with one result. -/
theorem recolour_eff (c : Ctx) (col : Nat) (e : BitVec 256) (v : Payload) :
    c.recolourTable col e v = ⟨(c.s.putRegion c.p.r { c.g with coltab := c.g.coltab.set col e }).bumpLayout, c.e, c.toAll v, [], false⟩ := rfl
/-- A status alone. -/
theorem stat_zero (n : Nat) : stat n 0 = BitVec.ofNat 256 n := by simp [stat, lane0]
/-- A value with status 0. -/
theorem stat_to (n : Nat) : stat 0 n = BitVec.ofNat 256 n := by simp [stat, lane0]
/-- An instruction whose effect changes the state and sends tokens completes. -/
theorem fire_exact {f : Fields} {s : State} {c : Ctx} {n : Nat} (hi : Issues f s c n) (hp : c.Plain) (own : Ctx → Effect) {u : State} {es : List Emit}
    (h : own c = ⟨u, c.e, es, [], false⟩) (hn : es.length ≤ n) : fire f s own = .next (c.issuedIn u c.e es []) :=
  fire_to hi hp own h rfl (by simpa using hn) rfl
/-- The bits of the entry that COLSET makes (R198). -/
theorem colsetEntry_bit (mask : BitVec 5) (old new : BitVec 256) (n : Nat) (hn : n < 256) :
    (colsetEntry mask old new).getLsbD n =
      if (bitAt mask 0 = true ∧ n = 254) ∨ (bitAt mask 1 = true ∧ 249 ≤ n ∧ n < 254) ∨ (bitAt mask 2 = true ∧ 234 ≤ n ∧ n < 241) ∨
        (bitAt mask 3 = true ∧ 192 ≤ n ∧ n < 224) ∨ (bitAt mask 4 = true ∧ n < 128) then new.getLsbD n else old.getLsbD n := by
  have key : ∀ (b : Bool) (w : BitVec 256) (lo len : Nat), lo + len ≤ 256 →
      (if b = true then setBits w lo (bitsAt new lo len) else w).getLsbD n =
        if b = true ∧ lo ≤ n ∧ n < lo + len then new.getLsbD n else w.getLsbD n := by
    intro b w lo len h
    cases b
    · simp
    · simp only [if_true, true_and]
      rw [getLsbD_setBits _ _ _ _ hn h]
      by_cases hr : lo ≤ n ∧ n < lo + len
      · rw [if_pos hr, if_pos hr]
        simp only [bitsAt, BitVec.getLsbD_extractLsb']
        have : n - lo < len := by omega
        simp [this, show lo + (n - lo) = n by omega]
      · rw [if_neg hr, if_neg hr]
  unfold colsetEntry
  simp only
  rw [key _ _ 0 128 (by omega), key _ _ 192 32 (by omega), key _ _ 234 7 (by omega), key _ _ 249 5 (by omega), key _ _ 254 1 (by omega)]
  generalize bitAt mask 0 = b0
  generalize bitAt mask 1 = b1
  generalize bitAt mask 2 = b2
  generalize bitAt mask 3 = b3
  generalize bitAt mask 4 = b4
  by_cases h254 : n = 254
  · subst h254; cases b0 <;> simp
  by_cases h249 : 249 ≤ n ∧ n < 254
  · cases b1 <;> simp [h254, h249, show ¬ n < 128 by omega, show ¬ n < 224 by omega, show ¬ n < 241 by omega, show ¬ 254 ≤ n by omega]
  by_cases h234 : 234 ≤ n ∧ n < 241
  · cases b2 <;> simp [h254, h234, show ¬ n < 128 by omega, show ¬ n < 224 by omega, show ¬ 254 ≤ n by omega, show ¬ 249 ≤ n by omega]
  by_cases h192 : 192 ≤ n ∧ n < 224
  · cases b3 <;> simp [h254, h192, show ¬ n < 128 by omega, show ¬ 254 ≤ n by omega, show ¬ 249 ≤ n by omega, show ¬ 234 ≤ n by omega]
  by_cases h128 : n < 128
  · cases b4 <;> simp [h254, h128, show ¬ 192 ≤ n by omega, show ¬ 254 ≤ n by omega, show ¬ 249 ≤ n by omega, show ¬ 234 ≤ n by omega]
  iterate 6 rw [if_neg (by omega)]

/-- One token for each valid destination. -/
theorem toAll_length (c : Ctx) (v : Payload) : (c.toAll v).length = (dests c.f).length := by simp [Ctx.toAll]

/-- Closing or opening the named ports changes those ports alone. -/
theorem foldl_setClosed (named : Nat → Bool) (v : Bool) (n : Nat) (g : Region) :
    ∃ ps : List Port, ((List.range n).filter named).foldl (fun g i => match g.ports[i]? with
      | some p => g.putPort i { p with closed := v }
      | none => g) g = { g with ports := ps } ∧
      ∀ i, ps[i]? = (g.ports[i]?).map fun p => if named i ∧ i < n then { p with closed := v } else p := by
  induction n with
  | zero => exact ⟨g.ports, by simp, fun i => by simp⟩
  | succ n ih =>
    obtain ⟨ps, h1, h2⟩ := ih
    rw [List.range_succ, List.filter_append, List.foldl_append, h1]
    by_cases hn : named n
    · simp only [hn, List.filter_cons, if_true, List.filter_nil, List.foldl_cons, List.foldl_nil]
      have h2n := h2 n
      simp only [Nat.lt_irrefl, and_false, if_false, Option.map_id'] at h2n
      cases hp : g.ports[n]? with
      | none =>
        rw [hp] at h2n
        simp only [h2n]
        refine ⟨ps, rfl, fun i => ?_⟩
        rw [h2 i]
        by_cases hin : i = n
        · subst hin; simp [hp]
        · have : i < n + 1 ↔ i < n := by omega
          simp [this]
      | some p =>
        rw [hp] at h2n
        simp only [h2n]
        refine ⟨ps.set n { p with closed := v }, rfl, fun i => ?_⟩
        by_cases hin : i = n
        · subst hin
          have hlt : i < ps.length := (List.getElem?_eq_some_iff.1 h2n).1
          simp [hlt, hp, hn]
        · have : i < n + 1 ↔ i < n := by omega
          rw [List.getElem?_set_ne (Ne.symm hin), h2 i]
          simp [this]
    · have hn' : named n = false := by simpa using hn
      simp only [List.filter_cons, hn', Bool.false_eq_true, if_false, List.filter_nil, List.foldl_nil]
      refine ⟨ps, rfl, fun i => ?_⟩
      rw [h2 i]
      by_cases hin : i = n
      · subst hin; simp [hn']
      · have : i < n + 1 ↔ i < n := by omega
        simp [this]

/-- The first failing check. -/
theorem firstBad_at (named : Nat → Bool) (chk : Nat → Nat) (n i : Nat) (hi : i < n) (hn : named i = true) (hc : chk i ≠ 0)
    (hb : ∀ j < i, named j = true → chk j = 0) : firstBad (((List.range n).filter named).map chk) = chk i := by
  have : (((List.range n).filter named).map chk).find? (· != 0) = some (chk i) := by
    rw [List.find?_map, List.find?_filter]
    rw [Option.map_eq_some_iff]
    refine ⟨i, ?_, rfl⟩
    rw [List.find?_eq_some_iff_getElem]
    refine ⟨by simp [hn, hc], i, by simpa using hi, by simp, ?_⟩
    intro j hj
    simp
    cases hnj : named j
    · exact .inl rfl
    · exact .inr (hb j hj hnj)
  simp [firstBad, this]

/-- The status LOADERR. -/
theorem stat_to' : stat 8 0 = 8 := rfl
/-- An effect on the state alone. -/
theorem only_eff (c : Ctx) (u : State) : c.only u = ⟨u, c.e, [], [], false⟩ := rfl
/-- A reply that waits at the region controller. -/
theorem pending_eq {c : Ctx} {u : State} (hl : u.launch? c.p.r.h = some c.l) (hg : c.l.members[c.p.r.m]? = some c.g) :
    c.pending u = u.putLaunch { c.l with members := c.l.members.set c.p.r.m (c.g.count .ctrl c.tag 1 false) } := by
  rw [Ctx.pending, region?_eq hl hg]
  simp only
  rw [putRegion_eq hl]

end Sys2Proof.Machine
end

