-- ==== Sys2Proof/Laws/Slice.lean ====
section
/-! SUPPORT. What an access at a home slice, a store to HBM, an interrupt word and a fault record can change (R231, R232,
R371, R374, R375). -/

namespace Sys2Proof.Machine

/-- Two states that differ in cache and mezzanine slices and package registers at most. -/
structure SameButSlices (s t : State) : Prop where
  rest : { t with slices := s.slices, mezz := s.mezz, regs := s.regs } = s

theorem SameButSlices.rfl {s : State} : SameButSlices s s := ⟨by cases s; trivial⟩

theorem SameButSlices.trans {s t u : State} (h : SameButSlices s t) (k : SameButSlices t u) : SameButSlices s u := by
  constructor
  have h1 := h.rest
  have h2 := k.rest
  cases s; cases t; cases u
  simp_all

theorem SameButSlices.mem {s t : State} (h : SameButSlices s t) : t.mem = s.mem := by
  have := congrArg State.mem h.rest; exact this
theorem SameButSlices.launches {s t : State} (h : SameButSlices s t) : t.launches = s.launches := by
  have := congrArg State.launches h.rest; exact this
theorem SameButSlices.harts {s t : State} (h : SameButSlices s t) : t.harts = s.harts := by
  have := congrArg State.harts h.rest; exact this

/-- An access at the caches changes slices alone. -/
theorem reach_same (s : State) (pa : Nat) (w : Bool) : SameButSlices s (s.reach pa w).1 := by
  constructor
  unfold State.reach
  simp only
  split <;> rfl

/-- An access to a line changes slices, and SLC_BYPASS where it bypasses. -/
theorem touch_same (s : State) (pa : Nat) (w : Bool) : SameButSlices s (s.touch pa w) := by
  unfold State.touch
  simp only
  split
  · exact (reach_same s pa w).trans ⟨rfl⟩
  · exact reach_same s pa w

/-- A prefetch changes slices alone. -/
theorem prefetch_same (s : State) (pa : Nat) : SameButSlices s (s.prefetch pa) := reach_same s pa false

theorem foldl_touch_same (w : Bool) (ls : List Nat) (s : State) : SameButSlices s (ls.foldl (fun s a => s.touch a w) s) := by
  induction ls generalizing s with
  | nil => exact .rfl
  | cons a ls ih => exact (touch_same s a w).trans (ih _)

/-- A read at home slices changes slices and SLC_BYPASS alone. -/
theorem peek_same (s : State) (pa n : Nat) : SameButSlices s (s.peek pa n) := foldl_touch_same _ _ _

/-- Two states that differ in what a store to HBM, a fault record or an interrupt word can change, at most. -/
structure SameButMemory (s t : State) : Prop where
  rest : { t with
    slices := s.slices
    mezz := s.mezz
    regs := s.regs
    mem := s.mem
    poisoned := s.poisoned
    seqNo := s.seqNo
    lostRec := s.lostRec
    msis := s.msis
    sysWaits := s.sysWaits } = s

theorem SameButMemory.rfl {s : State} : SameButMemory s s := ⟨by cases s; trivial⟩

theorem SameButMemory.trans {s t u : State} (h : SameButMemory s t) (k : SameButMemory t u) : SameButMemory s u := by
  constructor
  have h1 := h.rest
  have h2 := k.rest
  cases s; cases t; cases u
  simp_all

theorem SameButSlices.memory {s t : State} (h : SameButSlices s t) : SameButMemory s t := by
  constructor
  have h1 := h.rest
  cases s; cases t
  simp_all

theorem SameButMemory.launches {s t : State} (h : SameButMemory s t) : t.launches = s.launches := by
  have := congrArg State.launches h.rest; exact this
theorem SameButMemory.harts {s t : State} (h : SameButMemory s t) : t.harts = s.harts := by
  have := congrArg State.harts h.rest; exact this
theorem SameButMemory.launch? {s t : State} (h : SameButMemory s t) (n : Word32) : t.launch? n = s.launch? n := by
  rw [State.launch?, h.launches]; rfl
theorem SameButMemory.region? {s t : State} (h : SameButMemory s t) (r : Rid) : t.region? r = s.region? r := by
  rw [State.region?, h.launch?]; rfl

/-- A store to HBM changes its bytes, slices, and the lines it heals. -/
theorem poke_same (s : State) (pa : Nat) (bs : List Byte) : SameButMemory s (s.poke pa bs) := by
  have h := (foldl_touch_same true (lineAddrs pa bs.length) s).memory
  unfold State.poke
  exact h.trans ⟨Eq.refl _⟩

/-- The bytes of HBM after a store. -/
theorem poke_mem (s : State) (pa : Nat) (bs : List Byte) : (s.poke pa bs).mem = writeBytes s.mem pa bs := by
  have h := foldl_touch_same true (lineAddrs pa bs.length) s
  unfold State.poke
  simp only [h.mem]

theorem sendMsi_same (s : State) (v : Word64) : SameButMemory s (s.sendMsi v) := by
  unfold State.sendMsi
  split
  · simp only
    have h : SameButMemory s { s with msis := s.msis ++ [((bitsAt v 2 50).toNat * 4, (bitsAt v 52 11).toNat)] } :=
      ⟨by cases s; trivial⟩
    split
    · exact h.trans (poke_same _ _ _)
    · exact h
  · exact .rfl

theorem writeRecord_same (s : State) (p : Nat) (b : BitVec 512) : SameButMemory s (s.writeRecord p b) := by
  unfold State.writeRecord
  simp only
  split
  · exact (poke_same _ _ _).trans (poke_same _ _ _)
  · exact poke_same _ _ _

theorem recordFault_same (s : State) (w : BitVec 8) (p : Nat) (b : BitVec 512) : SameButMemory s (s.recordFault w p b) :=
  (writeRecord_same _ _ _).trans (sendMsi_same _ _)

/-- Delivering a fault record changes the memory, the record counters, the interrupt words and the records that wait, alone. -/
theorem deliver_same (s : State) (r : FaultRec) : SameButMemory s (s.deliver r) := by
  unfold State.deliver
  simp only
  have h : SameButMemory s { s with seqNo := s.seqNo + 1 } := ⟨by cases s; trivial⟩
  split
  · exact h.trans ⟨by cases s; trivial⟩
  · split
    · exact h.trans ⟨by cases s; trivial⟩
    · exact h.trans (recordFault_same _ _ _ _)

theorem region?_deliver (s : State) (r : FaultRec) (i : Rid) : (s.deliver r).region? i = s.region? i := (deliver_same s r).region? i

/-! ## The canonical form of memory -/

theorem poke_wf {s : State} (pa : Nat) (bs : List Byte) (w : Memory.wf s.mem = true) : Memory.wf (s.poke pa bs).mem = true := by
  rw [poke_mem]; exact wf_writeBytes w

theorem sendMsi_wf {s : State} (v : Word64) (w : Memory.wf s.mem = true) : Memory.wf (s.sendMsi v).mem = true := by
  unfold State.sendMsi
  split
  · simp only; split
    · exact poke_wf _ _ w
    · exact w
  · exact w

theorem writeRecord_wf {s : State} (p : Nat) (b : BitVec 512) (w : Memory.wf s.mem = true) : Memory.wf (s.writeRecord p b).mem = true := by
  unfold State.writeRecord
  simp only
  split
  · exact poke_wf _ _ (poke_wf _ _ w)
  · exact poke_wf _ _ w

theorem recordFault_wf {s : State} (v : BitVec 8) (p : Nat) (b : BitVec 512) (w : Memory.wf s.mem = true) :
    Memory.wf (s.recordFault v p b).mem = true := sendMsi_wf _ (writeRecord_wf _ _ w)

theorem deliver_wf {s : State} (r : FaultRec) (w : Memory.wf s.mem = true) : Memory.wf (s.deliver r).mem = true := by
  unfold State.deliver
  simp only
  split
  · exact w
  · split
    · exact w
    · exact recordFault_wf _ _ _ w

end Sys2Proof.Machine
end

