-- ==== Sys2Proof/Tests/Slice0.lean ====
section
/-! SUPPORT. Small tests: words decoded, ill-formed terms refused, one step on a small state for each kind of instruction
with results worked out by hand or in the spec, and, for every statement with hypotheses, a state that meets them. -/

namespace Sys2Proof.Tests

open Sys2Proof Sys2Proof.Machine

/-! ## Small states -/

/-- No destination. -/
def dstNone : Dst := ⟨false, 0, 0, 0, 0⟩
/-- A destination at the same element. -/
def dstHere : Dst := ⟨true, 0, 0, 0, 0⟩
/-- An I32 instruction of two operands with one result. -/
def flds : Fields := ⟨.i32, .dyadic, 0, 0, 0, 0, 0, 0, false, false, false, false, 0, 0, dstHere, dstNone, 0⟩
/-- The same with one operand. -/
def flds1 : Fields := { flds with ar := .monadic }
/-- The same with two results. -/
def flds2 : Fields := { flds with dst1 := dstHere }
/-- A token of a kind. -/
def tokOf (kind : BitVec 2) (pred last : Bool) (side : BitVec 2) (tag : Word64) (p : Payload) : Token :=
  ⟨mkHdr 0 0 0 side pred kind false last 0, tag, p, none⟩
/-- A data token. -/
def tok (side : BitVec 2) (p : Payload) : Token := tokOf 0 true false side 0 p
/-- A set of operands. -/
def opSet (l r p : Option Payload) : ReadySet := ⟨0, 0, l.map (tok 0), r.map (tok 1), p.map (tok 2), [], 0, none, none, none⟩
/-- An element that issues a set. -/
def elemWith (set : ReadySet) : Elem := { Elem.empty 0 0 with ready := [set], xs := 1 }
/-- A region of one element, one live colour of world 0. -/
def regionWith (e : Elem) : Region :=
  { slotRegion 0 with elems := [e], tagw := [4, 6, 12] }
/-- A package that runs one launch of one region, whose element issues. -/
def running (g : Region) : State :=
  { State.reset with
    launches := [{ newLaunch 0 0 [g] [] 0 with state := .running }]
    cycle := 1
    focus := .elem ⟨⟨0, 0⟩, 0, 0⟩ }
/-- A package whose element issues a set. -/
def issuing (set : ReadySet) : State := running (regionWith (elemWith set))
/-- A package whose element issues on two data operands. -/
def on (a b : Payload) : State := issuing (opSet (some a) (some b) none)
/-- A package whose element issues on one data operand. -/
def on1 (a : Payload) : State := issuing (opSet (some a) none none)
/-- A package whose element issues on three data operands. -/
def on3 (a b p : Payload) : State := issuing (opSet (some a) (some b) (some p))

/-! ## What a step sends -/

/-- The element of the small state. -/
def theElem (s : State) : Option Elem := (s.region? ⟨0, 0⟩).bind fun g => g.elem? 0 0
/-- The tokens that an instruction leaves in the output queue. -/
def sentBy (i : Instr) (s : State) : List Token :=
  match exec i s with
  | .next t => (((theElem t).map Elem.out).getD []).filterMap fun k => match k with
    | .tok t => some t
    | _ => none
  | _ => []
/-- Their payloads. -/
def pays (i : Instr) (s : State) : List Payload := (sentBy i s).map Token.pay
/-- The requests that an instruction leaves in the output queue. -/
def asked (i : Instr) (s : State) : List OutItem :=
  match exec i s with
  | .next t => (((theElem t).map Elem.out).getD []).filter fun k => match k with
    | .tok _ => false
    | _ => true
  | _ => []
/-- A payload of lanes, lane 0 first. -/
def lanes (w : Nat) (vs : List Nat) : Payload := packLanes w vs
/-- The state after an instruction. -/
def after (i : Instr) (s : State) : Option State :=
  match exec i s with
  | .next t => some t
  | _ => none

/-! ## Hypotheses as booleans -/

/-- Are the operands ordinary? -/
def plainB (c : Ctx) : Bool := c.set.raise.isNone && c.set.toks.all (fun t => t.kind != 2 && t.kind != 3 && t.pred)

/-- The element issues f with room for n entries, on ordinary operands, and P holds of what it sees. -/
def issues (f : Fields) (s : State) (n : Nat) (P : Ctx → Bool) : Bool :=
  (s.ctx? f).any fun c => decide (c.e.out.length + n ≤ 4) && !c.recolourRefused && !c.needsAdvance && c.set.raise.isNone &&
    c.set.toks.all (fun t => t.kind != 2 && t.kind != 3 && t.pred) && P c

/-- What `issues` says. -/
theorem issues_spec {f : Fields} {s : State} {n : Nat} {P : Ctx → Bool} (h : issues f s n P = true) :
    ∃ c, Issues f s c n ∧ c.Plain ∧ P c = true := by
  unfold issues at h
  rw [Option.any_eq_true] at h
  obtain ⟨c, hc, h⟩ := h
  simp only [Bool.and_eq_true, decide_eq_true_eq, Bool.not_eq_eq_eq_not, Bool.not_true, List.all_eq_true, bne_iff_ne,
    Option.isNone_iff_eq_none] at h
  obtain ⟨⟨⟨⟨⟨h1, h2⟩, h3⟩, h4⟩, h5⟩, h6⟩ := h
  exact ⟨c, ⟨hc, h1, h2, h3⟩, ⟨h4, fun t ht => (h5 t ht).1.1, fun t ht => (h5 t ht).1.2, fun t ht => (h5 t ht).2⟩, h6⟩

/-- The element issues f with room for n entries, on any operands, and P holds of what it sees. -/
def issuesAny (f : Fields) (s : State) (n : Nat) (P : Ctx → Bool) : Bool :=
  (s.ctx? f).any fun c => decide (c.e.out.length + n ≤ 4) && !c.recolourRefused && !c.needsAdvance && P c

/-- What `issuesAny` says. -/
theorem issuesAny_spec {f : Fields} {s : State} {n : Nat} {P : Ctx → Bool} (h : issuesAny f s n P = true) :
    ∃ c, Issues f s c n ∧ P c = true := by
  unfold issuesAny at h
  rw [Option.any_eq_true] at h
  obtain ⟨c, hc, h⟩ := h
  simp only [Bool.and_eq_true, decide_eq_true_eq, Bool.not_eq_eq_eq_not, Bool.not_true] at h
  exact ⟨c, ⟨hc, h.1.1.1, h.1.1.2, h.1.2⟩, h.2⟩

/-- A region of a running launch in a running package, of which P holds. -/
def runsWith (s : State) (r : Rid) (P : Launch → Region → Bool) : Bool :=
  (s.launch? r.h).any fun l => (l.members[r.m]?).any fun g => decide (l.state = .running) && decide (s.pkg = .running) && P l g

/-- What `runsWith` says. -/
theorem runsWith_spec {s : State} {r : Rid} {P : Launch → Region → Bool} (h : runsWith s r P = true) :
    ∃ l g, Runs s r l g ∧ P l g = true := by
  unfold runsWith at h
  rw [Option.any_eq_true] at h
  obtain ⟨l, hl, h⟩ := h
  rw [Option.any_eq_true] at h
  obtain ⟨g, hg, h⟩ := h
  simp only [Bool.and_eq_true, decide_eq_true_eq] at h
  exact ⟨l, g, ⟨hl, hg, h.1.1, h.1.2⟩, h.2⟩

section
set_option Elab.async false
set_option synthInstance.maxSize 4000
set_option synthInstance.maxHeartbeats 400000
/-! ## Encodings (R52 to R78) -/

/-- An instruction is ill formed, and the decoder refuses its word with a cause of the check table. -/
def refuses (o : Op) (f : Fields) (cat n : Nat) : Bool :=
  !(Instr.ofOp o f).wf && (match decodeSlot ((encodeSlot (Instr.ofOp o f)).getD 0) with
    | .error (.slot c) => c == mkCause cat n
    | _ => false)
/-- Decoding gives this instruction. -/
def reads (w : SlotWord) (i : Instr) : Bool := match decodeSlot w with
  | .ok j => j == i
  | _ => false
/-- A monadic I8 word with code 0 in the fields that its row does not use. -/
def plain1 : Fields := { flds1 with et := .i8 }
/-- An opcode that no row has is refused with 0x1.01; the rows that share an opcode (R67, R316, R356). -/
theorem test_opcodes : (match decodeSlot (setBits (0 : SlotWord) 119 (0x0FF : BitVec 9)) with
      | .error (.slot c) => c == mkCause 1 1
      | _ => false) = true ∧ opOf 0x1F3 0 = some .ndropDecl ∧ opOf 0x1F3 1 = some .ndropOwn ∧ opOf 0x1E4 1 = some .kvseqAttach := by decide +kernel
/-- R54 to R58, R77: types, arity, parameters, sources, constants, registers, IMM, XMOD, rounding, SAT, PINV, ORD, destinations, wave fields. -/
theorem test_ill_formed_shared : refuses .add { flds with et := .f32 } 1 3 = true ∧ refuses .abs flds 1 0xC = true ∧
    refuses .mov { plain1 with top := 6 } 1 5 = true ∧ refuses .sink { plain1 with top := 1 } 1 5 = true ∧
    refuses .mov { plain1 with mod := 1 } 1 2 = true ∧ refuses .mov { plain1 with rsrc := 5 } 1 2 = true ∧
      refuses .add { flds with lsrc := 2 } 1 0xC = true ∧ refuses .ld { plain1 with lsrc := 1 } 1 4 = true ∧
    refuses .mov { plain1 with ksel := 1 } 1 2 = true ∧ refuses .mov { plain1 with ssel := 1 } 1 2 = true ∧
      refuses .mov { plain1 with imm := 1 } 1 2 = true ∧ refuses .mov { plain1 with xmod := 1 } 1 2 = true := by decide +kernel
theorem test_ill_formed_modifiers : refuses .fadd { flds with et := .f32, rnd := 5 } 1 0xD = true ∧
    refuses .fadd { flds with et := .f32, rnd := 4 } 1 0xE = true ∧ refuses .add { flds with rnd := 1 } 1 0xE = true ∧
    refuses .and { flds with sat := true } 1 0xF = true ∧ refuses .add { flds with pinv := true } 1 0x13 = true ∧
      refuses .add { flds with ord := true } 1 0x13 = true ∧
    refuses .mov { plain1 with dst0 := { dstHere with side := 3, dx := 1 } } 1 6 = true ∧
      refuses .mov { plain1 with dst1 := { dstNone with slot := 1 } } 1 6 = true ∧ refuses .nstat { plain1 with dst1 := dstHere } 1 2 = true ∧
    refuses .ret { plain1 with dst1 := dstHere } 1 2 = true ∧ refuses .ld { plain1 with imm := 0x00FF0000 } 1 8 = true := by decide +kernel
/-- The checks of single opcodes (R56, R86, R87, R95, R107 and the others named at opExtra). -/
theorem test_ill_formed_opcodes : refuses .sink { plain1 with dst0 := dstHere } 1 6 = true ∧ refuses .mad { flds with xmod := 0 } 1 0xC = true ∧
    refuses .cmplt { flds with mod := 1 } 1 8 = true ∧
    refuses .lane { flds with et := .i64, xmod := 8 } 1 8 = true ∧ refuses .pack { flds with et := .i8 } 1 8 = true ∧
      refuses .fcvt { flds1 with et := .f32, mod := 4 } 1 8 = true ∧
    refuses .hads { flds1 with et := .f32 } 1 8 = true ∧ refuses .alloc { flds1 with et := .i8 } 1 8 = true ∧
      refuses .release { plain1 with dst1 := { dstHere with side := 0 } } 2 0xA = true ∧
    refuses .call plain1 1 6 = true ∧ refuses .census { plain1 with imm := 0x240 } 1 8 = true ∧ refuses .colset plain1 1 8 = true := by decide +kernel
theorem test_ill_formed_engines : refuses .horizon { plain1 with imm := 64 } 1 8 = true ∧ refuses .ld { plain1 with xmod := 6 } 1 8 = true ∧
    refuses .ld { plain1 with mod := 2 } 1 8 = true ∧
    refuses .st { plain1 with mod := 1 } 1 8 = true ∧ refuses .agset { plain1 with xmod := 0x30 } 1 8 = true ∧
      refuses .aggo { plain1 with xmod := 0x100 } 1 6 = true ∧
    refuses .mma { flds with imm := 3 } 7 2 = true ∧ refuses .mma { flds with imm := 2 + 27 * 2 ^ 16 } 7 1 = true ∧
      refuses .kvxlat { plain1 with xmod := 5 } 1 8 = true ∧ refuses .fault { plain1 with imm := 1 } 1 8 = true := by
  decide +kernel
/-- Events: ports, banks, channels, generators, windows, routers, slices, harts, stations, access sizes, sheet elements. -/
theorem test_ill_formed_events : [Instr.linkRetryTimeout 24, .bankAccess ⟨⟨0, 0⟩, 0, 0⟩ 32, .copyPiece ⟨⟨0, 0⟩, 0, 0⟩ 2, .generatorAccess ⟨⟨0, 0⟩, 0, 0⟩ 4, .windowFill ⟨0, 0⟩ 0 8, .interestRetry 280,
    .kvevictCompaction 256 0, .hartMemoryAccess 32 0 (.load 8), .hartMemoryAccess 0 0 (.load 3), .hostAccess 0 (.store []), .hostAccess 0 (.load 0),
      .stationInput 0 6 0, .mmaKgroup ⟨⟨0, 0⟩, 0, 0⟩ 27 0, .wxworldWrite 32 0,
    .registerWrite ⟨0, true, true⟩ 0 3 0].all (fun i => !i.wf) = true := by decide +kernel

/-- A destination at the same element, by slot and side. -/
def to1 (slot : BitVec 5) (side : BitVec 2) : Dst := ⟨true, 0, 0, slot, side⟩
/-- The example words of R64's accumulator and of the examples for MAD, ALLOC, CENSUS and LD, field by field. -/
theorem test_words : reads 0x2022C240001000000008200E00000000 (.add { flds1 with top := 3, rsrc := 2, ksel := 2, mod := 1, dst0 := ⟨true, 2, 0, 7, 0⟩ }) = true ∧
    reads 0x23160000800000000008000180000000 (.mad { flds with et := .i16, ar := .predicated, sat := true, dst0 := to1 0 3 }) = true ∧
    reads 0x06A20000000000000028008800000000 (.alloc { flds1 with imm := 2, dst0 := ⟨true, 0, 2, 4, 0⟩ }) = true ∧
    reads 0xA1020000000000000038000A00000000 (.census { plain1 with imm := 3, dst0 := to1 5 0 }) = true ∧
    reads 0xC00200400010506FF038000800000005 (.ld { plain1 with ksel := 2, mod := 1, imm := 0x0506FF03, dst0 := to1 4 0, xmod := 5 }) = true := by decide +kernel
/-- The words of the matrix, attention-page and named-tile programs, and BRK's. -/
theorem test_engine_words : reads 0xE06400000EB000000048000200000000 (.mma { flds with et := .f32, mod := 0xEB, imm := 4, dst0 := to1 1 0 }) = true ∧
    reads 0xE1620000000000000008000180000006 (.mdrain { flds1 with et := .f32, dst0 := to1 0 3, xmod := 6 }) = true ∧
    reads 0xF16400800000002000F8000A00000000 (.massacc { flds with et := .f32, ksel := 4, imm := 0x2000F, dst0 := to1 5 0 }) = true ∧
    reads 0xF88200000000001002F8000400000001 (.nask { plain1 with imm := 0x1002F, dst0 := to1 2 0, xmod := 1 }) = true ∧
    reads 0xFC820000000000000078000600000000 (.brk { plain1 with imm := 7, dst0 := to1 3 0 }) = true := by decide +kernel
/-- The words of R73's table for a0 = x10, a1 = x11 and a2 = x12 (R72); a funct7 of 1 is RESUME under funct3 7 only; another opcode is no custom-0
word. -/
theorem test_hart_words : (match decodeWx 0x0005850B, decodeWx 0x00C5950B, decodeWx 0x0205F50B, decodeWx 0x0205850B with
      | .ok a, .ok b, .ok c, .ok d => a == .wxLaunch 10 11 && b == .wxPushtok 10 11 12 && c == .wxResume 10 11 &&
        d == .illegalInstructionException 0x0205850B
      | _, _, _, _ => false) = true ∧ (match decodeWx 0x00000013 with
      | .error (.riscv w) => w == 0x13
      | _ => false) = true := by decide +kernel
/-- The whole path: the bytes of a word as the hardware stores it, and the step that fetches and runs it. -/
theorem test_fetch : (decodeTableWord 128 0x01020000000000000008000000000000).isSome = true ∧ decodeTableWord 32 0x0005850B = some (.wxLaunch 10 11) ∧
    (match step (State.reset.withFetchWord 32 0x0005850B) with
      | .next t => (t.hart? 0).any fun (k : Hart) => k.pc == 0 && k.part.isSome
      | _ => false) = true ∧
    (match step (State.reset.withFetchWord 32 0x0005B50B) with
      | .next t => (t.hart? 0).any fun (k : Hart) => k.pc == 4
      | _ => false) = true ∧
    (match step (State.reset.withFetchWord 128 0x01020000000000000008000000000000) with
      | .next t => t.cycle == 1 && t.moves == 1
      | _ => false) = true := by decide +kernel

/-- Every hypothesis of the statements on encodings and on the step: a well-formed slot word and hart instruction, a word refused for a check; an
element that may issue,
a hart that executes, an event that is no instruction word, a store at a register page. -/
theorem witness_encodings : (Instr.add flds).wf = true ∧ (encodeSlot (.add flds)).isSome = true ∧ (Instr.wxLaunch 10 11).wf = true ∧
    (encodeWx (.wxLaunch 10 11)).isSome = true ∧
    opOf 0x002 0 = some .mov ∧ wordChecks .mov { plain1 with imm := 1 } ≠ [] ∧ (Instr.autoClose 0).split = none ∧ encodeWx (.autoClose 0) = none ∧
      onPage 0x9000000001000 = true := by decide +kernel
/-- The slot word of MOV at a region of its own, fetched by the next move. -/
def movState : State := State.reset.withFetchWord 128 0x01020000000000000008000000000000
theorem witness_step_issues : movState.nextMove.1.act = .issue ⟨⟨0, 0⟩, 0, 0⟩ ∧
    (movState.begin.launch? 0).any (fun l => movState.begin.live l && (movState.begin.region? ⟨0, 0⟩).any fun g => (g.elem? 0 0).any fun e =>
      decide (e.lastIssue ≠ movState.begin.cycle) && !movState.begin.fifoHold l g e && (match e.ready with
        | set :: _ => decide (set.done < movState.begin.cycle) && !e.badWords.contains (32 * set.ctx + set.slot) &&
          e.slotWord? set.ctx set.slot == some 0x01020000000000000008000000000000
        | [] => false)) = true := by decide +kernel
/-- A launch with a producer that found its counter at the end in this step, or with none. -/
def sealHit (b : Bool) : State := { State.reset with launches := [{ newLaunch 0 0 [] [] 0 with sl := { SealState.none with hit := b } }] }
theorem witness_step_hart : (State.reset.withFetchWord 32 0x0005850B).nextMove.1.act = .hart 0 ∧
    ((State.reset.withFetchWord 32 0x0005850B).begin.hart? 0).any (fun k => !k.waiting && !k.blocked && k.pc == 0) = true ∧
    (State.reset.withFetchWord 32 0x0005850B).begin.clocked = true ∧
      (match (State.reset.withFetchWord 32 0x0005850B).begin.fetchPa (.reset true) 0 with
      | .ok p => p == (0, 2)
      | .error _ => false) = true ∧
    (State.reset.withFetchWord 32 0x0005850B).begin.lineForeign 0 none = false ∧
    (State.reset.withFetchWord 32 0x0005850B).begin.engineHolds 0 = false ∧
    (ofBytes 32 (readBytes (State.reset.withFetchWord 32 0x0005850B).begin.mem 0 4) : Word32) = 0x0005850B ∧
    State.reset.poisoned = [] ∧ (sealHit true).launches.all (fun l => l.sl.hit) = true ∧
    (sealHit false).launches.all (fun l => !l.sl.hit) = true := by decide +kernel
theorem witness_canonical : State.reset.memOk := by
  unfold State.memOk
  decide +kernel
/-! ## Integer instructions (R36, R86 to R98) -/

/-- Two I32 operands with ordinary and boundary lanes. -/
def wI32 : State := on (lanes 32 [7, 0x80000000, 0xFFFFFFFF, 5, 0, 0x80000000, 1, 2]) (lanes 32 [2, 0xFFFFFFFF, 0, 33, 31, 1, 4, 3])

theorem witness_integer_operands : ∃ c, Issues flds wI32 c (dests flds).length ∧ c.Plain ∧ true = true := issues_spec (by decide +kernel)
theorem witness_integer_predicated :
    ∃ c, Issues { flds with ar := .predicated } (on3 5 7 1) c 1 ∧ c.Plain ∧ c.set.p.isSome = true := issues_spec (by decide +kernel)
theorem witness_two_results : ∃ c, Issues flds2 wI32 c (dests flds2).length ∧ c.Plain ∧ true = true := issues_spec (by decide +kernel)
/-- INDEX's condition: a type of at least 8 bits. -/
theorem witness_index_type : 8 ≤ etWidth ({ flds1 with et := .i8 } : Fields).et ∧
    ∃ c, Issues { flds1 with et := .i8 } (on1 3) c 1 ∧ c.Plain ∧ true = true := ⟨by decide, issues_spec (by decide +kernel)⟩

/-- R36: 7/2, the signed minimum by −1, −1 by 0, 5 by 33, and the flags of a zero divisor. -/
theorem test_div : pays (.div flds2) wI32 =
    [lanes 32 [3, 0x80000000, 0x80000000, 0, 0, 0x80000000, 0, 0], lanes 32 [0, 0, 1, 0, 0, 0, 0, 0]] := by decide +kernel
/-- R36: the minimum by −1 is the maximum under SAT. -/
theorem test_div_sat : (pays (.div { flds with sat := true }) wI32).map (laneU 32 · 1) = [0x7FFFFFFF] := by decide +kernel
/-- R36: the remainder has the dividend's sign; by 0 it is the dividend. −7 by 2 is −1. -/
theorem test_rem : pays (.rem flds2) (on (lanes 32 [0xFFFFFFF9, 9, 0x80000000]) (lanes 32 [2, 0, 0xFFFFFFFF])) =
    [lanes 32 [0xFFFFFFFF, 9, 0], lanes 32 [0, 1, 0, 1, 1, 1, 1, 1]] := by decide +kernel
/-- R87's line: 200·200 − 1000 in I16 under SAT is 32,767. -/
theorem test_mad_spec : pays (.mad { flds with et := .i16, ar := .predicated, sat := true })
    (on3 (lanes 16 (List.replicate 16 200)) (lanes 16 (List.replicate 16 200)) (lanes 16 (List.replicate 16 0xFC18))) =
    [lanes 16 (List.replicate 16 32767)] := by decide +kernel
theorem test_add_wraps : (pays (.add flds) (on 0xFFFFFFFF 1)) = [0] := by decide +kernel
/-- R81: a lane predicated false keeps the left operand's lane. -/
theorem test_add_predicated : (pays (.add { flds with ar := .predicated }) (on3 (lanes 32 [5, 6]) (lanes 32 [7, 7]) (lanes 32 [0, 1]))) =
    [lanes 32 [5, 13]] := by decide +kernel
theorem test_sub : (pays (.sub flds) (on 3 5)) = [lanes 32 [0xFFFFFFFE]] := by decide +kernel
theorem test_mul_sat : (pays (.mul { flds with sat := true }) (on 0x40000000 2)) = [0x7FFFFFFF] := by decide +kernel
/-- R86: bits 63:32 of −1 times 3. -/
theorem test_mulhi : (pays (.mulhi flds) (on 0xFFFFFFFF 3)) = [0xFFFFFFFF] := by decide +kernel
theorem test_min_signed : (pays (.min flds) (on 0xFFFFFFFF 3)) = [0xFFFFFFFF] := by decide +kernel
theorem test_max_unsigned : (pays (.max { flds with et := .n32 }) (on 0xFFFFFFFF 3)) = [0xFFFFFFFF] := by decide +kernel
/-- R86: ABS of the minimum is the minimum, and the maximum under SAT. -/
theorem test_abs : pays (.abs flds1) (on1 0x80000000) = [0x80000000] ∧
    pays (.abs { flds1 with sat := true }) (on1 0x80000000) = [0x7FFFFFFF] := by decide +kernel
theorem test_neg : pays (.neg flds1) (on1 (lanes 32 [1, 0x80000000])) = [lanes 32 [0xFFFFFFFF, 0x80000000]] := by decide +kernel
/-- R88: carry out of an N32 lane; signed overflow of an I32 lane. -/
theorem test_adds : pays (.adds { flds2 with et := .n32 }) (on 0xFFFFFFFF 1) = [0, 1] ∧ pays (.adds flds2) (on 0x7FFFFFFF 1) = [0x80000000, 1] := by
  decide +kernel
/-- R88: borrow. -/
theorem test_subs : pays (.subs { flds2 with et := .n32 }) (on 1 2) = [0xFFFFFFFF, 1] := by decide +kernel
theorem test_logic : pays (.and flds) (on 12 10) = [8] ∧ pays (.or flds) (on 12 10) = [14] ∧ pays (.xor flds) (on 12 10) = [6] ∧
    pays (.andn flds) (on 12 10) = [4] ∧ pays (.not flds1) (on1 (BitVec.allOnes 256)) = [0] := by decide +kernel
/-- R91: a count of the width or more. -/
theorem test_shl : pays (.shl flds) (on (lanes 32 [1, 1, 3]) (lanes 32 [31, 32, 31])) = [lanes 32 [0x80000000, 0, 0x80000000]] ∧
    pays (.shl { flds with sat := true }) (on (lanes 32 [1, 0xFFFFFFFF, 0]) (lanes 32 [32, 40, 99])) = [lanes 32 [0x7FFFFFFF, 0x80000000, 0]] := by
  decide +kernel
theorem test_shifts_right : pays (.shr flds) (on (lanes 32 [0x80000000, 5]) (lanes 32 [31, 32])) = [lanes 32 [1, 0]] ∧
    pays (.sar { flds with et := .n32 }) (on (lanes 32 [0x80000000, 0x80000000]) (lanes 32 [4, 50])) = [lanes 32 [0xF8000000, 0xFFFFFFFF]] ∧
    pays (.rotl flds) (on 0x80000001 33) = [3] := by decide +kernel
theorem test_counts : pays (.clz flds1) (on1 (lanes 32 [1, 0])) = [lanes 32 [31, 32, 32, 32, 32, 32, 32, 32]] ∧
    pays (.popc flds1) (on1 (lanes 32 [0xF0F])) = [lanes 32 [8]] := by decide +kernel
/-- R93: −1 is less than 1 signed, not unsigned under U. -/
theorem test_compares : pays (.cmplt { flds with et := .i64 }) (on (lanes 64 [0xFFFFFFFFFFFFFFFF]) (lanes 64 [1])) = [1] ∧
    pays (.cmplt { flds with et := .i64, mod := 1 }) (on (lanes 64 [0xFFFFFFFFFFFFFFFF]) (lanes 64 [1])) = [0] ∧
    (pays (.cmple flds) (on 5 5)).map (laneU 32 · 0) = [1] ∧ (pays (.cmpeq flds) (on 5 6)).map (laneU 32 · 0) = [0] ∧
    (pays (.cmpne flds) (on 5 6)) = [1] := by decide +kernel
/-- R98: the bit number is taken modulo the width. -/
theorem test_bittst : pays (.bittst flds) (on 4 34) = [1] := by decide +kernel
/-- R136: NaN and the smallest subnormal are nonzero, −0 is not. -/
theorem test_predicates : pays (.pset { flds1 with et := .f32 }) (on1 (lanes 32 [0x7FC00000, 0x80000000, 1])) = [lanes 32 [1, 0, 1]] ∧
    (pays (.pnot flds1) (on1 (lanes 32 [1, 2]))).map (fun p => (laneU 32 p 0, laneU 32 p 1)) = [(0, 1)] ∧
    pays (.pand flds) (on (lanes 32 [1, 1]) (lanes 32 [1, 2])) = [1] ∧
    pays (.por { flds with pinv := true }) (on 0 (lanes 32 [1, 1, 1, 1, 1, 1, 1])) = [lanes 32 [0, 0, 0, 0, 0, 0, 0, 1]] := by decide +kernel
/-- R94: SEL, BCAST with the index modulo n, LANE, SHUF. -/
theorem test_lane_moves : pays (.sel { flds with ar := .predicated, pinv := true }) (on3 (lanes 32 [1, 2]) (lanes 32 [3, 4]) (lanes 32 [1, 0])) =
      [lanes 32 [3, 2]] ∧
    pays (.bcast flds) (on (lanes 32 [1, 2]) 9) = [lanes 32 (List.replicate 8 2)] ∧
    pays (.lane { flds with xmod := 3 }) (on 1 5) = [lanes 32 [1, 0, 0, 5]] ∧
    pays (.shuf flds) (on (lanes 32 [10, 11, 12]) (lanes 32 [2, 1, 8, 9, 3, 3, 3, 3])) = [lanes 32 [12, 11, 10, 11]] := by decide +kernel
/-- R95: I16 to I8 under SAT; R96: the upper half of an I16 token, sign-extended. -/
theorem test_pack_unpk : (pays (.pack { flds with et := .i8, mod := 2, sat := true }) (on (lanes 16 [300, 0xFF00]) (lanes 16 [5]))).map
      (fun p => (laneU 8 p 0, laneU 8 p 1, laneU 8 p 16)) = [(127, 128, 5)] ∧
    pays (.unpk { flds1 with mod := 2, xmod := 1 }) (on1 (lanes 16 [0, 0, 0, 0, 0, 0, 0, 0, 0xFFFF, 7])) = [lanes 32 [0xFFFFFFFF, 7]] := by
  decide +kernel
/-- R97: one clamp at the end; the lowest lane of several equal ones. -/
theorem test_across : pays (.sumr { flds1 with sat := true }) (on1 (lanes 32 [0x7FFFFFFF, 1, 0xFFFFFFFF])) = [0x7FFFFFFF] ∧
    pays (.maxr flds1) (on1 (lanes 32 [1, 9, 0x80000000])) = [9] ∧ pays (.minr flds1) (on1 (lanes 32 [1, 9, 0x80000000])) = [0x80000000] ∧
    pays (.index flds1) (on1 (lanes 32 [1, 9, 9])) = [1] ∧ pays (.index { flds1 with mod := 1 }) (on1 (lanes 32 [1, 9, 9])) = [3] := by decide +kernel

/-! ## Floating-point and conversion instructions (R38, R44, R50, R99 to R113) -/

/-- An F32 instruction of two operands. -/
def fl : Fields := { flds with et := .f32 }
/-- An F32 instruction of one operand. -/
def fl1 : Fields := { flds1 with et := .f32 }
/-- F32 codes: 1, 2, 3, −0, NaN, infinity. -/
def wF32 : State := on (lanes 32 [0x3F800000, 0x40000000, 0x40400000, 0x80000000, 0x7FC00001, 0x7F800000])
  (lanes 32 [0x40000000, 0x40000000, 0x3F800000, 0, 0x3F800000, 0x7F800000])

theorem witness_float_operands : ∃ c, Issues fl wF32 c (dests fl).length ∧ c.Plain ∧ etIsFloat fl.et = true := issues_spec (by decide +kernel)
theorem witness_float_squares : ∃ c, Issues fl1 (on1 (lanes 32 [0x40800000])) c (dests fl1).length ∧ c.Plain ∧
    (floatLane fl1 (operands c.e fl1 c.set none).a 0 == fdecode .f32 0x40800000) = true := issues_spec (by decide +kernel)
theorem witness_approximate_types : (fl1.et = .bf16 ∨ fl1.et = .f32) ∧
    ∃ c, Issues fl1 (on1 0) c (dests fl1).length ∧ c.Plain ∧ true = true := ⟨.inr rfl, issues_spec (by decide +kernel)⟩
theorem witness_tree_types : (etLanes fl1.et = 8 ∧ etLanes ET.bf16 = 16) ∧
    ∃ c, Issues { fl1 with xmod := 7 } (on1 (lanes 32 [0x3F800000])) c 1 ∧ c.Plain ∧ true = true := ⟨by decide, issues_spec (by decide +kernel)⟩
theorem witness_two_float_results : ∃ c, Issues { flds2 with et := .f32 } wF32 c 2 ∧ c.Plain ∧ true = true := issues_spec (by decide +kernel)
theorem witness_conversion : ∃ c, Issues { flds1 with et := .f8e4, mod := 12, rnd := 4 } (on1 (lanes 32 [0x3F880000])) c 1 ∧ c.Plain ∧ c.e.xs == 1 :=
  issues_spec (by decide +kernel)

theorem test_fadd : pays (.fadd fl) wF32 = [lanes 32 [0x40400000, 0x40800000, 0x40800000, 0, 0x7FC00000, 0x7F800000]] := by decide +kernel
/-- R38: an exact zero sum is −0 under RDN; ∞ − ∞ is NaN. -/
theorem test_fsub : pays (.fsub { fl with rnd := 2 }) (on (lanes 32 [0x3F800000, 0x7F800000]) (lanes 32 [0x3F800000, 0x7F800000])) =
    [lanes 32 (0x80000000 :: 0x7FC00000 :: List.replicate 6 0x80000000)] := by decide +kernel
theorem test_fmul : (pays (.fmul fl) (on (lanes 32 [0x7F800000, 0x40000000]) (lanes 32 [0, 0xBF800000]))) = [lanes 32 [0x7FC00000, 0xC0000000]] := by
  decide +kernel
/-- R99: (+0)·(−1) + (+0) is +0 under RNE and −0 under RDN. -/
theorem test_ffma : (pays (.ffma { fl with ar := .predicated }) (on3 0 0xBF800000 0)).map (laneU 32 · 0) = [0] ∧
    (pays (.ffma { fl with ar := .predicated, rnd := 2 }) (on3 0 0xBF800000 0)).map (laneU 32 · 0) = [0x80000000] := by decide +kernel
theorem test_fdiv : (pays (.fdiv fl) (on (lanes 32 [0xBF800000, 0, 0x40C00000, 0, 0, 0, 0, 0]) (lanes 32 [0, 0, 0x40000000, 0x3F800000]))).map
    (fun p => [laneU 32 p 0, laneU 32 p 1, laneU 32 p 2, laneU 32 p 3]) = [[0xFF800000, 0x7FC00000, 0x40400000, 0]] := by decide +kernel
theorem test_fsqrt : pays (.fsqrt fl1) (on1 (lanes 32 [0x40800000, 0x80000000, 0xBF800000])) = [lanes 32 [0x40000000, 0x80000000, 0x7FC00000]] := by
  decide +kernel
/-- R105: #0xFFFC divides a BF16 by 16. -/
theorem test_fscale : pays (.fscale { flds1 with et := .bf16, rsrc := 1, imm := 0xFFFC }) (on1 (lanes 16 [0x4180])) = [lanes 16 [0x3F80]] := by
  decide +kernel
/-- R100: FMAX(−0, +0) is +0; the other operand of one NaN; FNEG of F8E4's 0x7E and 0xFF. -/
theorem test_fminmax : pays (.fmax fl) (on (lanes 32 [0x80000000, 0x7FC00000]) (lanes 32 [0, 0x3F800000])) = [lanes 32 [0, 0x3F800000]] ∧
    pays (.fmin fl) (on (lanes 32 [0x80000000, 0xBF800000]) (lanes 32 [0, 0x7FC00000])) = [lanes 32 [0x80000000, 0xBF800000]] := by decide +kernel
theorem test_fsign : (pays (.fneg { flds1 with et := .f8e4 }) (on1 (lanes 8 [0x7E, 0xFF]))).map (fun p => (laneU 8 p 0, laneU 8 p 1)) = [(0xFE, 0x7F)] ∧
    pays (.fabs fl1) (on1 (lanes 32 [0xBF800000])) = [lanes 32 [0x3F800000]] := by decide +kernel
theorem test_fcompares : (pays (.fcmpeq fl) (on (lanes 32 [0x80000000, 0x7FC00000]) (lanes 32 [0, 0x7FC00000]))).map
      (fun p => (laneU 32 p 0, laneU 32 p 1)) = [(1, 0)] ∧
    (pays (.fcmplt fl) (on (lanes 32 [0xBF800000]) (lanes 32 [0x3F800000]))) = [1] ∧
    (pays (.fcmple fl) (on (lanes 32 [0x3F800000, 0x40000000]) (lanes 32 [0x3F800000, 0x3F800000]))).map (fun p => (laneU 32 p 0, laneU 32 p 1)) = [(1, 0)] ∧
    pays (.fcmpun fl) (on (lanes 32 [0x7FC00000, 0]) 0) = [1] := by decide +kernel
/-- R103's table. -/
theorem test_approximate : pays (.frcp fl1) (on1 (lanes 32 [0x80000000, 0x7F800000, 0x40000000, 0x3F800000, 0x3F800000, 0x3F800000, 0x3F800000, 0x3F800000])) =
      [lanes 32 [0xFF800000, 0, 0x3F000000, 0x3F800000, 0x3F800000, 0x3F800000, 0x3F800000, 0x3F800000]] ∧
    (pays (.frsq fl1) (on1 (lanes 32 [0x40800000, 0xBF800000]))).map (fun p => (laneU 32 p 0, laneU 32 p 1)) = [(0x3F000000, 0x7FC00000)] ∧
    (pays (.fexp2 fl1) (on1 (lanes 32 [0x40400000, 0xFF800000]))).map (fun p => (laneU 32 p 0, laneU 32 p 1)) = [(0x41000000, 0)] ∧
    (pays (.flog2 fl1) (on1 (lanes 32 [0x41000000, 0x80000000]))).map (fun p => (laneU 32 p 0, laneU 32 p 1)) = [(0x40400000, 0xFF800000)] ∧
    (pays (.ftanh fl1) (on1 (lanes 32 [0xFF800000, 0x80000000]))).map (fun p => (laneU 32 p 0, laneU 32 p 1)) = [(0xBF800000, 0x80000000)] := by
  decide +kernel
/-- R50's example: 2^24 + 1 + 1 + 1 is 16,777,218 by the tree; R104's maximum. -/
theorem test_trees : pays (.fsumr fl1) (on1 (lanes 32 [0x4B800000, 0x3F800000, 0x3F800000, 0x3F800000])) = [0x4B800001] ∧
    pays (.fmaxr fl1) (on1 (lanes 32 [0x3F800000, 0x7FC00000, 0x40000000])) = [0x40000000] := by decide +kernel
/-- R112's example: the butterflies of 1 to 8 are 36, −4, −8, 0, −16, 0, 0, 0. -/
theorem test_hads : pays (.hads { fl1 with xmod := 7 }) (on1 (lanes 32 [0x3F800000, 0x40000000, 0x40400000, 0x40800000, 0x40A00000, 0x40C00000, 0x40E00000, 0x41000000])) =
    [lanes 32 [0x42100000, 0xC0800000, 0xC1000000, 0, 0xC1800000, 0, 0, 0]] := by decide +kernel
theorem test_hadx : (pays (.hadx { flds2 with et := .f32 }) (on 0x40400000 0x3F800000)).map (laneU 32 · 0) = [0x40800000, 0x40000000] := by decide +kernel
/-- R106: the maximum, and 1.0 where it is the running one; NaN gives NaN; −1 below gives a half. -/
theorem test_fresc : (pays (.fresc { flds2 with et := .f32 }) (on (lanes 32 [0x40000000, 0x7FC00000, 0x3F800000]) (lanes 32 [0x3F800000, 0x3F800000, 0x40000000]))).map
    (fun p => [laneU 32 p 0, laneU 32 p 1, laneU 32 p 2]) = [[0x40000000, 0x3F800000, 0x40000000], [0x3F800000, 0x7FC00000, 0x3F000000]] := by
  decide +kernel
/-- R42's example: 460 and 470 in F8E4. -/
theorem test_fcvt_overflow : (pays (.fcvt { flds1 with et := .f8e4, mod := 12 }) (on1 (lanes 32 [0x43E60000, 0x43EB0000]))).map
    (fun p => (laneU 8 p 0, laneU 8 p 1)) = [(0x7E, 0x7F)] ∧
    (pays (.fcvt { flds1 with et := .f8e4, mod := 12, rnd := 3 }) (on1 (lanes 32 [0x43EB0000]))).map (fun p => laneU 8 p 0) ≠ [0] := by decide +kernel
/-- R44's example: seed 1, 1.0625 in lane 0 becomes 1.125; eight lanes step the generator eight times. -/
theorem test_fcvt_stochastic : (pays (.fcvt { flds1 with et := .f8e4, mod := 12, rnd := 4 }) (on1 (lanes 32 [0x3F880000]))).map (laneU 8 · 0) = [0x39] ∧
    ((after (.fcvt { flds1 with et := .f8e4, mod := 12, rnd := 4 }) (on1 (lanes 32 [0x3F880000]))).bind theElem).map Elem.xs = some (xsStep^[8] 1) ∧
    xsStep 1 = 0x42021 := by decide +kernel
theorem test_icvt_fcvti : pays (.icvt { fl1 with mod := 4 }) (on1 (lanes 32 [5, 0xFFFFFFFF])) = [lanes 32 [0x40A00000, 0xBF800000]] ∧
    pays (.fcvti { flds1 with mod := 12 }) (on1 (lanes 32 [0x40200000, 0x7F800000, 0x7FC00000])) = [lanes 32 [2, 0x7FFFFFFF, 0]] := by decide +kernel
/-- R111's example: a quarter of an I4 token, and back. -/
theorem test_qnt : pays (.qnt { flds with et := .i4, mod := 12, xmod := 10 })
    (on (lanes 32 [0x3F000000, 0xBFA00000, 0x40400000, 0x40F00000, 0xC1000000, 0x3E4CCCCD, 0x42C80000, 0xBF400000]) 0x3F00) =
    [(0xE70876E1 : BitVec 256) <<< 64] := by decide +kernel
theorem test_dqnt : pays (.dqnt { flds with et := .f32, mod := 13, xmod := 10 }) (on ((0xE70876E1 : BitVec 256) <<< 64) 0x3F00) =
    [lanes 32 [0x3F000000, 0xBF800000, 0x40400000, 0x40600000, 0xC0800000, 0, 0x40600000, 0xBF800000]] := by decide +kernel

/-! ## Flow, tag and reduction instructions (R16 to R27, R115 to R138) -/

/-- R17's tag: fields i = 3, j = 5, fr = 7, under colour 1. -/
def wTag : Word64 := 0x0400000000001C53
/-- A set of tokens of one kind, all with R17's tag. -/
def tagged (l r p : Option Token) : ReadySet := { opSet none none none with
  l := l.map fun t => { t with tag := wTag }
  r := r.map fun t => { t with tag := wTag }
  p := p.map fun t => { t with tag := wTag } }
/-- An element issues on one operand with R17's tag. -/
def onTag (a : Payload) : State := issuing (tagged (some (tok 0 a)) none none)
/-- An element issues on two operands with R17's tag. -/
def onTag2 (a b : Payload) : State := issuing (tagged (some (tok 0 a)) (some (tok 1 b)) none)

theorem witness_flow_operand : ∃ c, Issues flds1 (onTag 5) c (dests flds1).length ∧ c.Plain ∧
    (c.tag == wTag) = true := issues_spec (by decide +kernel)
/-- The tag operations' hypotheses, at the first and the last declared field. -/
theorem witness_tag_fields : ([4, 6, 12].foldl (· + ·) 0 ≤ 55) ∧ (bitsAt ({ flds1 with mod := 0 } : Fields).mod 0 4).toNat < [4, 6, 12].length ∧
    (bitsAt ({ flds1 with mod := 2 } : Fields).mod 0 4).toNat < [4, 6, 12].length ∧ ([32, 23].foldl (· + ·) 0 ≤ 55) := by decide
/-- R18: push j, advance j from 5 to 6, advance i from its maximum to 0, set context 3, recolour to 2. -/
theorem test_tag_operations : tagOp [4, 6, 12] { flds1 with top := 1, mod := 1 } wTag = 0x0400000000001C03 ∧
    tagOp [4, 6, 12] { flds1 with top := 3, mod := 1 } wTag = 0x0400000000001C63 ∧ tagOp [4, 6, 12] { flds1 with top := 3, mod := 0 } 0x1F = 0x10 ∧
    tagOp [4, 6, 12] { flds1 with top := 4, mod := 3 } wTag = 0x0580000000001C53 ∧
      tagOp [4, 6, 12] { flds1 with top := 5, mod := 2 } wTag = 0x0800000000001C53 := by
  decide +kernel
theorem test_passing : pays (.nop flds1) (onTag 5) = [] ∧ pays (.mov flds1) (onTag 5) = [5] ∧ pays (.order flds) (onTag2 5 6) = [5] ∧
    pays (.alloc flds1) (onTag 5) = [5] ∧
      pays (.const { flds1 with ar := .trigger, lsrc := 1, imm := 9 }) (onTag 5) = [lanes 32 (List.replicate 8 9)] ∧
    (sentBy (.wadv { flds1 with top := 3, mod := 1 }) (onTag 5)).map Token.tag = [0x0400000000001C63] ∧
    (sentBy (.lenter { flds1 with top := 1, mod := 1 }) (onTag 5)).map Token.tag = [0x0400000000001C03] ∧
    (sentBy (.lexit { flds1 with top := 2, mod := 0 }) (onTag 5)).map Token.tag = [0x0400000000001C50] := by decide +kernel
/-- R124: field fr, PATH, COL, the whole tag. -/
theorem test_tagget : pays (.tagget { flds1 with xmod := 2 }) (onTag 5) = [7] ∧
    pays (.tagget { flds1 with et := .i64, xmod := 0x10 }) (onTag 5) = [0x1C53] ∧
    pays (.tagget { flds1 with xmod := 0x20 }) (onTag 5) = [1] ∧
      pays (.tagget { flds1 with et := .i64, xmod := 0x40 }) (onTag 5) = [0x0400000000001C53] := by
  decide +kernel

/-- STEER, GATE and TAGSET: the predicate's lane 0 true, and false; b[0] at the largest value that fits, and one more. -/
theorem witness_choices : (∃ c, Issues flds2 (onTag2 5 1) c 2 ∧ c.Plain ∧ predLane 32 false (operands c.e flds2 c.set none).b 0 = true) ∧
    (∃ c, Issues flds2 (onTag2 5 0) c 2 ∧ c.Plain ∧ (!predLane 32 false (operands c.e flds2 c.set none).b 0) = true) ∧
    (∃ c, Issues flds (onTag2 5 15) c 1 ∧ c.Plain ∧ decide (laneU 32 (operands c.e flds c.set none).b 0 < 2 ^ fieldW c.g.tagw 0) = true) ∧
    ∃ c, Issues flds (onTag2 5 16) c 1 ∧ c.Plain ∧ decide (2 ^ fieldW c.g.tagw 0 ≤ laneU 32 (operands c.e flds c.set none).b 0) = true :=
  ⟨issues_spec (by decide +kernel), issues_spec (by decide +kernel), issues_spec (by decide +kernel), issues_spec (by decide +kernel)⟩
/-- A pair of tokens for MERGE with these PRED bits. -/
def pair (p q : Bool) : State := issuing (tagged (some (tokOf 0 p false 0 0 5)) (some (tokOf 0 q true 1 0 6)) none)
/-- What MERGE's rows suppose. -/
def pairIs (p q : Bool) (c : Ctx) : Bool := c.set.raise.isNone && c.set.toks.all (fun t => t.kind != 2 && t.kind != 3) &&
  c.set.l.any (fun t => t.pred == p) && c.set.r.any (fun t => t.pred == q)
/-- MERGE's four rows, and PICK's three operands. -/
theorem witness_merge : (∃ c, Issues flds (pair true false) c 1 ∧ pairIs true false c = true) ∧ (∃ c, Issues flds (pair false true) c 1 ∧
    pairIs false true c = true) ∧
    (∃ c, Issues flds (pair false false) c 1 ∧ pairIs false false c = true) ∧ (∃ c, Issues flds (pair true true) c 1 ∧ pairIs true true c = true) ∧
    ∃ c, Issues { flds with ar := .predicated } (on3 5 6 1) c 1 ∧ c.Plain ∧ (c.set.l.isSome && c.set.r.isSome) = true :=
  ⟨issuesAny_spec (by decide +kernel), issuesAny_spec (by decide +kernel), issuesAny_spec (by decide +kernel), issuesAny_spec (by decide +kernel),
    issues_spec (by decide +kernel)⟩
theorem test_steer_gate : pays (.steer { flds with dst0 := dstNone, dst1 := dstHere }) (onTag2 5 0) = [5] ∧
    pays (.steer { flds with dst0 := dstNone, dst1 := dstHere }) (onTag2 5 1) = [] ∧
    (sentBy (.gate flds) (onTag2 5 0)).map (fun t => (t.pred, t.pay)) = [(false, 0)] ∧
      pays (.gate { flds with pinv := true }) (onTag2 5 0) = [5] := by decide +kernel
/-- R119: LAST is that of the operand sent; two true tokens give 0x2.0C. -/
theorem test_merge : (sentBy (.merge flds) (pair false true)).map (fun t => (t.pay, t.last)) = [(6, true)] ∧
    pays (.merge flds) (pair true false) = [5] ∧
    (sentBy (.merge flds) (pair false false)).map (fun t => (t.pred, t.last)) = [(false, true)] ∧
    (sentBy (.merge flds) (pair true true)).map (fun t => (t.kind, bitsAt t.pay 0 10)) = [(3, mkCause 2 0xC)] := by decide +kernel
theorem test_pick : pays (.pick { flds with ar := .predicated }) (on3 5 6 0) = [6] ∧
    pays (.pick { flds with ar := .predicated, pinv := true }) (on3 5 6 0) = [5] := by
  decide +kernel
theorem test_tagset : (sentBy (.tagset { flds with xmod := 1 }) (onTag2 5 63)).map Token.tag = [0x0400000000001FF3] ∧
    (sentBy (.tagset flds) (onTag2 5 16)).map (fun t => (t.kind, bitsAt t.pay 0 10)) = [(3, mkCause 2 1)] := by decide +kernel

/-- An element whose state registers hold values, issuing on one operand with LAST or not. -/
def onState (last : Bool) (a : Payload) : State := running (regionWith { elemWith (opSet none none none) with
  ready := [{ opSet none none none with l := some (tokOf 0 true last 0 0 a) }]
  st := [(0, lanes 32 [41, 7]), (1, 100), (2, 200)] })
/-- SINK under CNT, on LAST and not; COUNT's lane in range; HOLD with a predicate. -/
theorem witness_state_registers : (∃ c, Issues { flds1 with xmod := 1 } (onState false 5) c 1 ∧ c.Plain ∧ (!c.set.leftLast) = true) ∧
    (∃ c, Issues { flds1 with xmod := 1 } (onState true 5) c 1 ∧ c.Plain ∧ c.set.leftLast = true) ∧
    (∃ c, Issues { flds1 with xmod := 7 } (onState false 5) c 1 ∧ c.Plain ∧
      decide ((bitsAt ({ flds1 with xmod := 7 } : Fields).xmod 0 3).toNat < etLanes .i32) = true) ∧
    ∃ c, Issues flds (on 5 1) c 1 ∧ c.Plain ∧ decide (flds.ar = .dyadic) = true :=
  ⟨issues_spec (by decide +kernel), issues_spec (by decide +kernel), issues_spec (by decide +kernel), issues_spec (by decide +kernel)⟩
/-- A state register after an instruction. -/
def regAfter (i : Instr) (s : State) (n : Nat) : Option Payload := ((after i s).bind theElem).map fun e => e.sreg 0 n
theorem test_sink_count : pays (.sink { flds1 with xmod := 1 }) (onState true 5) = [42] ∧
    regAfter (.sink { flds1 with xmod := 1 }) (onState true 5) 0 = some (lanes 32 [0, 7]) ∧
    regAfter (.sink { flds1 with xmod := 1 }) (onState false 5) 0 = some (lanes 32 [42, 7]) ∧
    pays (.count { flds1 with rsrc := 1, imm := 3, xmod := 1 }) (onState false 5) = [7] ∧
    regAfter (.count { flds1 with rsrc := 1, imm := 3, xmod := 1 }) (onState false 5) 0 = some (lanes 32 [41, 10]) ∧
    regAfter (.count { flds1 with rsrc := 1, imm := 3, xmod := 1 }) (onState true 5) 0 = some (lanes 32 [41]) := by decide +kernel
theorem test_hold_reads_delay : regAfter (.hold flds1) (onState false 5) 0 = some 5 ∧
    regAfter (.hold flds) (on (lanes 32 [5, 6]) (lanes 32 [0, 1])) 0 = some (lanes 32 [0, 6]) ∧
    pays (.reads { flds1 with ar := .trigger, ssel := 1, xmod := 1 }) (onState false 5) = [100] ∧
    regAfter (.reads { flds1 with ar := .trigger, ssel := 1, xmod := 1 }) (onState false 5) 1 = some 0 ∧
    pays (.delay { flds1 with xmod := 2 }) (onState false 5) = [200] ∧ regAfter (.delay { flds1 with xmod := 2 }) (onState false 5) 2 = some 100 ∧
    regAfter (.delay { flds1 with xmod := 2 }) (onState false 5) 0 = some 5 := by decide +kernel

/-- R129's example: frame 3 of a pool of 1 KiB holds the continuation (12, 6), slot 9, left, and the saved tag. -/
def poolTile : Tile := { loadTile [] 1 0 with
  modes := [0x5000008000000000]
  bytes := writeBytes [] 0x30 [0x53, 0x1C, 0, 0, 0, 0, 0, 4, 0, 0x20, 0x19, 0x8C, 0, 0, 0, 0] }
/-- RET at (0, 0), with the pool to its east and fr = 3. -/
def atRet : State := running { regionWith (elemWith { tagged (some (tok 0 5)) none none with l := some { tok 0 5 with tag := 0x0400000000000C53 } }) with tiles := [poolTile] }
theorem witness_call_ret : (∃ c, Issues flds2 (issuing { tagged (some (tok 0 5)) none none with frame := some 3 }) c 2 ∧ c.Plain ∧
    (c.set.frame == some 3) = true) ∧
    ∃ c, Issues { flds1 with xmod := 0x12 } atRet c 2 ∧ c.Plain ∧ (neighbour c.p.x c.p.y 1 == (1, 0) && c.g.tile? 1 0 == some poolTile &&
      poolTile.pool? == some 0x5000008000000000 && decide (getField c.g.tagw 2 c.tag < poolFrames 0x5000008000000000) &&
      bitAt (poolTile.frame 0x5000008000000000 (getField c.g.tagw 2 c.tag)) 95 && poolTile.frameWaits.isEmpty) = true :=
  ⟨issues_spec (by decide +kernel), issues_spec (by decide +kernel)⟩
/-- R129's example: the callee's tag. -/
theorem test_call : (sentBy (.call { flds2 with ar := .monadic, xmod := 0x12 }) (issuing { tagged (some (tok 0 5)) none none with frame := some 3 })).map Token.tag =
    [0x0400000000000C53] := by decide +kernel
/-- R129's example: the result leaves for (12, 6), slot 9, with the saved tag, and the frame is free. -/
theorem test_ret : (sentBy (.ret { flds1 with dst0 := dstNone, xmod := 0x12 }) atRet).map (fun t => (t.dx, t.dy, t.slot, t.side, t.tag, t.pay)) = [(12, 6, 9, 0, wTag, 5)] ∧
    (((after (.ret { flds1 with dst0 := dstNone, xmod := 0x12 }) atRet).bind fun t => t.region? ⟨0, 0⟩).bind fun g => g.tile? 1 0).map
      (fun t => bitAt (t.frame 0x5000008000000000 3) 95) = some false := by decide +kernel
theorem test_release : (sentBy (.release { flds1 with dst1 := { dstHere with side := 1 } }) (onTag 5)).map (fun t => (t.kind, t.sub, t.pay)) = [(0, 0, 5), (2, 1, 0)] := by
  decide +kernel

/-- An element that expands, at copy i. -/
def repeating (i n : Nat) : State := running (regionWith { elemWith (tagged (some (tok 0 5)) (some (tok 1 (BitVec.ofNat 256 n))) none) with repPos := i })
/-- A reduction's set: its exit token and the value reached. -/
def reduced : State := issuing { tagged none (some (tok 1 0)) none with red := some 77 }
/-- A reduction; REPEAT before its last copy, at it, without copies, at the field's bound, past it, past 65,536. -/
theorem witness_reduce_repeat : (∃ c, Issues flds reduced c 1 ∧ c.Plain ∧ (c.set.l.isNone && c.set.r.isSome && c.set.red == some 77) = true) ∧
    (∃ c, Issues flds2 (repeating 0 16) c 2 ∧ c.Plain ∧ decide (laneU 32 (operands c.e flds2 c.set none).b 0 ≤ 2 ^ fieldW c.g.tagw 0 ∧
      c.e.repPos + 1 < 16) = true) ∧
    (∃ c, Issues flds2 (repeating 15 16) c 2 ∧ c.Plain ∧ decide (c.e.repPos + 1 = laneU 32 (operands c.e flds2 c.set none).b 0) = true) ∧
    (∃ c, Issues flds2 (repeating 0 0) c 2 ∧ c.Plain ∧ decide (laneU 32 (operands c.e flds2 c.set none).b 0 = 0) = true) ∧
    (∃ c, Issues flds2 (repeating 0 17) c 2 ∧ c.Plain ∧ decide (2 ^ fieldW c.g.tagw 0 < laneU 32 (operands c.e flds2 c.set none).b 0) = true) ∧
    ∃ c, Issues flds2 (repeating 0 65537) c 2 ∧ c.Plain ∧ decide (65536 < laneU 32 (operands c.e flds2 c.set none).b 0) = true :=
  ⟨issues_spec (by decide +kernel), issues_spec (by decide +kernel), issues_spec (by decide +kernel), issues_spec (by decide +kernel),
    issues_spec (by decide +kernel),
    issues_spec (by decide +kernel)⟩
/-- Its set with an error record that the instance took. -/
def reducedBad : State := issuing (tagged (some (tokOf 3 true false 0 0 99)) (some (tok 1 0)) none)
theorem witness_reduce_record : ∃ c, Issues flds reducedBad c 1 ∧ (c.set.raise.isNone && c.set.l.isSome && c.set.r.isSome &&
    !c.atExit.recolourRefused && !c.atExit.needsAdvance) = true := issuesAny_spec (by decide +kernel)
theorem test_ired_fred : pays (.ired flds) reduced = [77] ∧ pays (.fred { flds with et := .f32 }) reduced = [77] ∧
    (sentBy (.ired flds) reducedBad).map (fun t => (t.kind, t.pay)) = [(3, 99)] := by decide +kernel
/-- R132: copy 1 of 3 carries i = 1; the last copy has LAST and is followed by the number; 17 copies do not fit in 4 bits. -/
theorem test_repeat : (sentBy (.repeatTok { flds2 with dst0 := dstHere }) (repeating 1 3)).map (fun t => (getField [4, 6, 12] 0 t.tag, t.last)) = [(1, false)] ∧
    (sentBy (.repeatTok flds2) (repeating 2 3)).map (fun t => (getField [4, 6, 12] 0 t.tag, t.last, t.pay)) = [(2, true, 5), (3, true, 3)] ∧
    (sentBy (.repeatTok flds) (repeating 0 17)).map (fun t => bitsAt t.pay 0 10) = [mkCause 2 2] := by decide +kernel

/-! ## What every issue shares -/

/-- A set with an error record, one with a control token, one with a bubble, one raised. -/
def odd (k : Nat) : State := issuing (match k with
  | 0 => tagged (some (tok 0 5)) (some (tokOf 3 true false 1 0 99)) none
  | 1 => tagged (some (tok 0 5)) (some (tokOf 2 true false 1 0 0)) none
  | 2 => tagged (some (tok 0 5)) (some (tokOf 0 false false 1 0 0)) none
  | _ => { tagged (some (tok 0 5)) none none with raise := some (mkCause 3 1, 1) })
theorem witness_replaced_results : treatsStandard .add = true ∧
    (∃ c, Issues flds (odd 0) c 1 ∧ (c.set.raise.isNone && (c.set.toks.find? fun t => t.kind == 3).isSome) = true) ∧
    (∃ c, Issues flds (odd 1) c 1 ∧ (c.set.raise.isNone && (c.set.toks.find? fun t => t.kind == 3).isNone &&
      (c.set.toks.find? fun t => t.kind == 2).isSome) = true) ∧
    (∃ c, Issues flds (odd 2) c 1 ∧ (c.set.raise.isNone && c.set.toks.all (fun t => t.kind != 3 && t.kind != 2) &&
      c.set.toks.any fun t => !t.pred) = true) ∧
    ∃ c, Issues flds (odd 3) c 1 ∧ c.set.raise.isSome = true :=
  ⟨rfl, issuesAny_spec (by decide +kernel), issuesAny_spec (by decide +kernel), issuesAny_spec (by decide +kernel),
    issuesAny_spec (by decide +kernel)⟩
theorem test_replaced_results : (sentBy (.add flds) (odd 0)).map (fun t => (t.kind, t.pay)) = [(3, 99)] ∧
    (sentBy (.add flds) (odd 1)).map (fun t => (t.kind, bitsAt t.pay 0 10)) = [(3, mkCause 1 0x11)] ∧ sentBy (.add flds) (odd 2) = [] ∧
    (sentBy (.add { flds with bub := true }) (odd 2)).map (fun t => (t.pred, t.kind, t.pay)) = [(false, 0, 0)] ∧
    (sentBy (.add flds) (odd 3)).map (fun t => bitsAt t.pay 0 10) = [mkCause 3 1] := by decide +kernel

/-- A full output queue; a world that seals at the last number of its generation; a recolouring by a launch without PRIV. -/
def fullQueue : State := running (regionWith { elemWith (opSet (some 5) (some 6) none) with out := List.replicate 4 (.tok (tok 0 0)) })
/-- Field 0 of the operands' tag is at its largest value in a world that seals; the element's producer is in the middle of its generation
or at the end. -/
def lastSeal (n : Word32) : State := { State.reset with
  regs := [(0xA000, 0xE000000000000000)]
  cycle := 1
  focus := .elem ⟨⟨0, 0⟩, 0, 0⟩
  launches := [{ newLaunch 0 0 [regionWith (elemWith { opSet none none none with
      l := some (tokOf 0 true false 0 15 5)
      r := some (tokOf 0 true false 1 15 6) })] [] 0 with
    state := .running
    sl := { SealState.none with seqs := [(prodId 0 0 0 0, n)] } }] }
/-- TOP 3 of field 0. -/
def wraps : Fields := { flds with top := 3 }
theorem witness_issue_waits : sendsOneEach .add = true ∧
    ((fullQueue.ctx? flds).any fun c => plainB c && !decide (c.e.out.length + (dests flds).length ≤ 4)) = true ∧
    (((lastSeal 0).ctx? wraps).any fun c => plainB c && decide (c.e.out.length + 1 ≤ 4) && c.needsAdvance) = true ∧
    (((on 5 6).ctx? { flds with top := 5, mod := 1 }).any fun c => plainB c && decide (c.e.out.length + 1 ≤ 4) && !c.needsAdvance &&
      c.recolourRefused) = true := by decide +kernel
/-- R24: a stalled issue changes nothing. R179: a refused recolouring gives 0x4.06. -/
theorem test_issue_waits : after (.add flds) fullQueue = some fullQueue ∧
    (sentBy (.add { flds with top := 5, mod := 1 }) (on 5 6)).map (fun t => bitsAt t.pay 0 10) = [mkCause 4 6] := by decide +kernel
/-- R405: a tag that wraps waits for an advance; a producer at the end of its numbers does not send, and the step leaves the
state as it was but for the launch's wait. -/
theorem test_seal_wait : ((after (.add wraps) (lastSeal 0)).bind fun t => (t.launch? 0)).map (fun l => l.sl.waiting) = some (some (0, 0, 0)) ∧
    ((after (.add flds) (lastSeal 0xFFFFFFFF)).bind fun t => (afterStep (lastSeal 0xFFFFFFFF) t).launch? 0).map (fun l => (l.sl.hit, l.sl.atMax)) =
      some (false, true) ∧
    ((after (.add flds) (lastSeal 0xFFFFFFFF)).map fun t => theElem (afterStep (lastSeal 0xFFFFFFFF) t)) =
      some (theElem (lastSeal 0xFFFFFFFF)) := by decide +kernel

/-! ## Memory and region instructions at their issue (R187, R198, R240, R249 to R257, R297 to R303) -/

/-- R240: a memory-port instruction on data and on a bubble; a bank instruction. -/
theorem witness_memory_requests : (asksMemoryPort .ld = true ∧ asksTile .mtld = true) ∧ (∃ c, Issues flds1 (on1 64) c 1 ∧
      (c.set.raise.isNone && c.set.toks.all fun t => t.kind != 2 && t.kind != 3 && t.pred) = true) ∧
    ∃ c, Issues flds1 (issuing (tagged (some (tokOf 0 false false 0 0 0)) none none)) c 1 ∧
      (c.set.raise.isNone && c.set.toks.all (fun t => t.kind != 2 && t.kind != 3) && c.set.toks.any fun t => !t.pred) = true :=
  ⟨⟨rfl, rfl⟩, issuesAny_spec (by decide +kernel), issuesAny_spec (by decide +kernel)⟩
/-- R240: LD asks a memory port; without BUB its bubble is consumed. MTST asks a tile. -/
theorem test_requests : ((asked (.ld { flds1 with xmod := 5 }) (on1 64)).map fun k => match k with
      | .global q => (q.op, q.a)
      | _ => (.nop, 0)) = [(.ld, 64)] ∧ asked (.ld flds1) (issuing (tagged (some (tokOf 0 false false 0 0 0)) none none)) = [] ∧
    ((asked (.mtst flds) (on 5 8)).map fun k => match k with
      | .tile q => (q.op, q.a, q.b)
      | _ => (.nop, 0, 0)) = [(.mtst, 5, 8)] := by decide +kernel
/-- The frame of an issue: an instruction that completes. -/
theorem witness_frame : isLocal .add = true ∧ ((on 5 6).ctx? flds).isSome = true ∧
    (after (Instr.ofOp .add flds) (on 5 6)).isSome = true := by decide +kernel

/-- An entry of the colour table: V, world, QUOTA 8, EXIT 31. -/
def colEntry (w : BitVec 8) : BitVec 256 := setBits (setBits (setBits (setBits 0 255 (1 : BitVec 1)) 241 w) 192 (8 : BitVec 32)) 229 (31 : BitVec 5)
/-- A region with colour 0 of world 0, colour 1 of world 5, colour 2 unused, entry ports of colours 0 and 1 and an exit port of 0. -/
def colRegion (e : Elem) : Region := { regionWith e with
  coltab := [setBits (colEntry 0) 161 (1 : BitVec 31), setBits (colEntry 5) 161 (2 : BitVec 31)]
  ports := [⟨0x3000000000000000, 0x3000000000000000, [], false⟩, ⟨0x3000100000000000, 0x3000100000000000, [], false⟩, ⟨0x4000000000000000, 0x4000000000000000, [], false⟩]
  census := [(0, 3), (64, 4)]
  sweeps := 9 }
/-- It issues on one operand. -/
def colours (a : Payload) : State := running (colRegion (elemWith (opSet (some a) none none)))
/-- With colour 0 quiescent in context 0, stalled and being purged. -/
def quietColours : State := { running { colRegion (elemWith (opSet (some 5) none none)) with quiet := [0], stalled := [0] } with
  launches := [{ newLaunch 0 0 [{ colRegion (elemWith (opSet (some 5) none none)) with quiet := [0], stalled := [0] }] [] 0 with
    state := .running
    purges := [⟨0, []⟩] }] }
/-- The result of CENSUS and its kin. -/
def imm (n : BitVec 32) : Fields := { flds1 with imm := n }
/-- The colour named is unused, foreign, fine; quiescent or not; the port named is foreign or fine; the entry used or not. -/
theorem witness_colours : (∃ c, Issues (imm 2) (colours 5) c 1 ∧ c.Plain ∧ (!colV (c.g.coltab.getD 2 0)) = true) ∧
    (∃ c, Issues (imm 1) (colours 5) c 1 ∧ c.Plain ∧ (colV (c.g.coltab.getD 1 0) && !c.l.priv &&
      colWorld (c.g.coltab.getD 1 0) != c.g.tagWorld c.tag) = true) ∧
    (∃ c, Issues (imm 0) (colours 5) c 1 ∧ c.Plain ∧ (colV (c.g.coltab.getD 0 0) && colWorld (c.g.coltab.getD 0 0) == c.g.tagWorld c.tag &&
      !c.g.quiet.contains 0) = true) ∧
    (∃ c, Issues (imm 0) quietColours c 1 ∧ c.Plain ∧ (colV (c.g.coltab.getD 0 0) && c.g.quiet.contains 0 && c.g.stalled.contains 0 &&
      c.l.purges.any (·.col == 0)) = true) ∧
    (∃ c, Issues (imm 31) (colours 5) c 1 ∧ c.Plain ∧ (portType (c.g.portWord 0) == 3 && portType (c.g.portWord 1) == 3 &&
      portCol (c.g.portWord 1) == 1) = true) :=
  ⟨issues_spec (by decide +kernel), issues_spec (by decide +kernel), issues_spec (by decide +kernel), issues_spec (by decide +kernel),
    issues_spec (by decide +kernel)⟩
/-- R198: NOTFOUND, NOPRIV, the census of one context and of all. -/
theorem test_census : pays (.census (imm 2)) (colours 5) = [11] ∧ pays (.census (imm 1)) (colours 5) = [10] ∧
    pays (.census (imm 0)) (colours 5) = [BitVec.ofNat 256 (9 * 2 ^ 64 + 3 * 2 ^ 32)] ∧
    pays (.census (imm 0)) quietColours = [BitVec.ofNat 256 (9 * 2 ^ 64 + 3 * 2 ^ 32 + 0x700)] ∧
    pays (.census (imm 0x200)) (colours 5) = [BitVec.ofNat 256 (9 * 2 ^ 64 + 7 * 2 ^ 32)] := by decide +kernel
theorem test_colget_quota : pays (.colget (imm 0)) (colours 5) = [setBits (colEntry 0) 161 (1 : BitVec 31)] ∧
    pays (.quota (imm 0)) (colours 99) = [BitVec.ofNat 256 (8 * 2 ^ 32)] ∧
    ((after (.quota (imm 0)) (colours 99)).map fun t => ((t.region? ⟨0, 0⟩).map fun g => colQuota (g.col 0), t.laygen)) = some (some 99, 1) ∧
    pays (.quota (imm 2)) (colours 99) = [11] := by decide +kernel
/-- R198: HZN 10 and AUTOP; COLSET of HZN under its mask bit, and a window that is not 64 KiB aligned, which is BADREC. -/
theorem test_horizon_colset : ((after (.horizon (imm (10 * 64 + 2048))) (colours 5)).bind fun t => (t.region? ⟨0, 0⟩).map fun g => (colHzn (g.col 0),
    colAutop (g.col 0))) =
      some (10, true) ∧
    ((after (.colset { imm 0 with xmod := 2 }) (colours (setBits (0 : BitVec 256) 249 (12 : BitVec 5)))).bind fun t => (t.region? ⟨0, 0⟩).map fun g =>
      (colHzn (g.col 0), colQuota (g.col 0))) = some (12, 8) ∧ pays (.colset { imm 0 with xmod := 16 }) (colours 1) = [9] := by decide +kernel
theorem test_ctok_yield : pays (.ctok (imm 31)) (colours 5) = [10] ∧
    ((after (.ctok (imm 0)) (colours 5)).bind fun t => (t.region? ⟨0, 0⟩).map fun g => g.ports.map Port.closed) = some [true, false, false] ∧
    ((after (.yield flds1) (colours 5)).bind fun t => (t.region? ⟨0, 0⟩).map Region.yielded) = some true := by decide +kernel

/-- A memory with a page table for world 0 that maps addresses below 2^29 to 2^29 and up, and an image of one empty context at 0x1000. -/
def tableMem : List Host.Cell := writeNat (writeNat (writeNat [] 0x20000 8 0x40001) 0x40000 8 0x2000000F) 0x20001000 64
  (0x57584931 + 2 ^ 32 + 2 ^ 48 + 2 ^ 56 + 2 ^ 64 + 64 * 2 ^ 416)
/-- A state with that memory; queue 0 is enabled for world 0. -/
def mapped0 (s : State) : State := { s with
  mem := tableMem
  regs := [(0, 0x8000000000000000), (0x800, 0x20001)] }
/-- It issues with an address. -/
def atImage (a : Nat) : State := mapped0 (running (colRegion (elemWith (opSet (some (BitVec.ofNat 256 a)) (some 0) none))))
/-- A launch whose span 0 the arrival of the SPANEND that issues has closed, committed or not. -/
def dueSpan (committed : Nat) : State := { colours 5 with
  launches := [{ newLaunch 0 0 [colRegion (elemWith (opSet (some 5) none none))] [] 0 with
    state := .running
    openSpan := 1
    closedSpans := 1
    committed := committed
    spanDue := [⟨0, 0, 0, 0, 0, 0⟩] }] }
theorem witness_spans : (∃ c, Issues flds1 (dueSpan 0) c 1 ∧ c.Plain ∧
      (c.l.spanDue == [⟨c.p.r.m, c.p.x, c.p.y, c.set.slot, c.tag, 0⟩] && decide (c.l.committed ≤ 0)) = true) ∧
    (∃ c, Issues flds1 (dueSpan 1) c 1 ∧ c.Plain ∧
      (c.l.spanDue == [⟨c.p.r.m, c.p.x, c.p.y, c.set.slot, c.tag, 0⟩] && decide (0 < c.l.committed)) = true) ∧
    ∃ c, Issues flds1 (colours 5) c 1 ∧ c.Plain ∧ (c.l.spanDue.isEmpty && decide (c.l.committed ≤ c.l.openSpan)) = true :=
  ⟨issues_spec (by decide +kernel), issues_spec (by decide +kernel), issues_spec (by decide +kernel)⟩
/-- R198, R271: the reply waits for the span, or tells it: handle 0 and span 0, status 0. -/
theorem test_spanend_due : ((after (.spanend flds1) (dueSpan 0)).bind fun t => t.launch? 0).map (fun l => (l.spanDue.length, l.spanReplies.length, l.openSpan)) =
      some (0, 1, 1) ∧ pays (.spanend flds1) (dueSpan 1) = [0] := by decide +kernel
/-- An image that loads, one that does not, one that is not mapped; the running context named to drain. -/
theorem witness_control : (∃ c, Issues { flds1 with mod := 8 } (atImage 0x1000) c 1 ∧ c.Plain ∧
    (match loadImage (atImage 0x1000) c.l.world 0x1000 c.l.priv none [] (some c.g) with
      | .ok _ _ => c.g.ctx.getD 0 .free == .running
      | _ => false) = true) ∧
    (∃ c, Issues flds1 (atImage 0x2000) c 1 ∧ c.Plain ∧ (match loadImage (atImage 0x2000) c.l.world 0x2000 c.l.priv none [] (some c.g) with
      | .bad _ => true
      | _ => false) = true) ∧
    (∃ c, Issues flds1 (atImage 0x20000000) c 1 ∧ c.Plain ∧
      (match loadImage (atImage 0x20000000) c.l.world 0x20000000 c.l.priv none [] (some c.g) with
      | .unread _ _ => true
      | _ => false) = true) ∧
    (∃ c, Issues (imm 0) (colours 5) c 1 ∧ c.Plain ∧ (colV (c.g.coltab.getD 0 0) && c.l.purges.all (·.col != 0)) = true) ∧
    ∃ c, Issues (imm 0) quietColours c 1 ∧ c.Plain ∧ (colV (c.g.coltab.getD 0 0) && c.l.purges.any (·.col == 0)) = true :=
  ⟨issues_spec (by decide +kernel), issues_spec (by decide +kernel), issues_spec (by decide +kernel), issues_spec (by decide +kernel),
    issues_spec (by decide +kernel)⟩
/-- R173: the context drains and the load waits for it. -/
theorem test_ctxnext : ((after (.ctxnext { flds1 with mod := 8 }) (atImage 0x1000)).bind fun t => (t.region? ⟨0, 0⟩).map fun g => (g.ctx.getD 0 .free, g.ctxReqs.length)) =
    some (.draining, 1) := by decide +kernel
/-- R196: the launch is queued with the next handle. -/
theorem test_launch : ((after (.launch flds) (atImage 0x1000)).map fun t => t.launches.map fun l => (l.handle, l.state)) = some [(0, .running),
    (1, .queued)] := by
  decide +kernel
theorem test_purge_spanend : ((after (.purge (imm 0)) (colours 5)).bind fun t => (t.launch? 0).map fun l => l.purges.map Purge.col) = some [0] ∧
    pays (.purge (imm 2)) (colours 5) = [11] ∧
      ((after (.spanend flds1) (colours 5)).bind fun t => (t.launch? 0).map fun l => (l.openSpan, l.closedSpans)) = some (1, 1) := by
  decide +kernel

/-! ## Generators, channels, waits and sheets at their issue -/

/-- A tile east of the element: partition 0 an operand store of 1 KiB, partition 1 a FIFO of 1 KiB. -/
def tile1 : Tile := { loadTile [] 1 0 with modes := [0x1000008000000000, 0x2001008000000000] }
/-- The element's region with a tile. -/
def tileRegion (set : ReadySet) (t : Tile) : Region := { colRegion (elemWith set) with
  w := 2
  tiles := [t] }
/-- It issues on one operand. -/
def byTile (t : Tile) : State := running (tileRegion (opSet (some 64) none none) t)
/-- A request of an instruction on that tile. -/
def req (o : Op) (f : Fields) : Request := ⟨o, f, 0, 0, 0, 0, false, false, 64, 0, 0, 0, []⟩
/-- DIR east. -/
def east : Fields := { flds1 with xmod := 1 }
/-- Generator 0 bound to partition 0, running a nest or not. -/
def boundTile (running' : Bool) : Tile := tile1.putGen 0 ⟨1, 0, some (req .agset east),
    if running' then some ⟨req .aggo east, 0, none⟩ else none, [], 0⟩
/-- AGSET with KIND 1 of window 0 at tile 0, without OWN and with OWN of entry 2. -/
def east1 : Fields := { flds1 with xmod := 17 }
def eastOwn : Fields := { east1 with imm := 2 * 4096 + 2048 }
/-- Generator 1 runs a nest through window 0 of tile 0, and owns its entry 2. -/
def takenTile : Tile := tile1.putGen 1 ⟨1, 0, some (req .agset { flds1 with xmod := 21 }), some ⟨req .aggo { flds1 with xmod := 5 }, 0, none⟩, [], 0⟩
/-- The element east of which that tile stands, with window 0 and entry 2 of tile 0 bound to generator 1 or free. -/
def atWindow (t : Tile) (bound : Bool) : State :=
  running { tileRegion (opSet (some 64) none none) t with
    mports := [⟨0, [], if bound then [⟨5, 0, 1, 0, 1, false, 0, 0, [], none, []⟩] else [], [⟨2, 0, 0, 64, 1, 0, 1⟩]⟩] }
/-- What the tile in direction DIR is, without waiting requests, and P of it. -/
def genIs (t : Tile) (c : Ctx) (P : Bool) : Bool := (c.g.tile? 1 0 == some t) && c.g.tiles.all (fun u => u.gens.all fun j => j.queue.isEmpty) &&
  decide (0 < t.gens.length) && decide ((c.g.tiles.map fun u => (u.x, u.y)).Nodup) && P
/-- No tile in direction DIR; a nest that runs; an idle generator; one without a binding; one whose binding is fit, or not; a window that is
free or taken; an entry that another generator owns. -/
theorem witness_generators : (∃ c, Issues flds1 (byTile tile1) c 1 ∧ c.Plain ∧
    (c.g.tile? (neighbour c.p.x c.p.y 0).1 (neighbour c.p.x c.p.y 0).2).isNone = true) ∧
    (∃ c, Issues east (byTile (boundTile true)) c 1 ∧ c.Plain ∧ genIs (boundTile true) c ((boundTile true).gen 0).nest.isSome = true) ∧
    (∃ c, Issues east (byTile tile1) c 1 ∧ c.Plain ∧ genIs tile1 c ((tile1.gen 0).nest.isNone && (tile1.gen 0).bind.isNone) = true) ∧
    (∃ c, Issues east (byTile (boundTile false)) c 1 ∧ c.Plain ∧
      genIs (boundTile false) c (((boundTile false).gen 0).nest.isNone && c.g.genReady (boundTile false) 0 (req .agset east)) = true) ∧
    (∃ c, Issues east (byTile tile1) c 1 ∧ c.Plain ∧ genIs tile1 c (!c.g.genReady tile1 0 (req .agset east1)) = true) ∧
    (∃ c, Issues east1 (atWindow tile1 false) c 1 ∧ c.Plain ∧ genIs tile1 c (!c.s.windowTaken c.p.r c.g.die 0 0 1 0 0) = true) ∧
    (∃ c, Issues east1 (atWindow takenTile true) c 1 ∧ c.Plain ∧ genIs takenTile c (c.s.windowTaken c.p.r c.g.die 0 0 1 0 0) = true) ∧
    ∃ c, Issues eastOwn (atWindow tile1 false) c 1 ∧ c.Plain ∧
      genIs tile1 c (!c.s.windowTaken c.p.r c.g.die 0 0 1 0 0 && c.s.entryTaken c.p.r c.g.die 0 2 1 0 0) = true :=
  ⟨issues_spec (by decide +kernel), issues_spec (by decide +kernel), issues_spec (by decide +kernel), issues_spec (by decide +kernel),
    issues_spec (by decide +kernel), issues_spec (by decide +kernel), issues_spec (by decide +kernel), issues_spec (by decide +kernel)⟩
/-- The generator after an instruction. -/
def genAfter (i : Instr) (s : State) (n : Nat) : Option Gen := ((after i s).bind fun t => (t.region? ⟨0, 0⟩)).bind fun g => (g.tile? 1 0).map fun t => t.gen n
theorem test_agset_aggo : (genAfter (.agset east) (byTile tile1) 0).map (fun k => (k.desc, k.bind.isSome)) = some (64, true) ∧
    (genAfter (.aggo east) (byTile (boundTile false)) 0).map (fun k => k.nest.isSome) = some true ∧
    (genAfter (.aggo east) (byTile (boundTile true)) 0).map (fun k => k.queue.length) = some 1 ∧
    (genAfter (.agset east1) (atWindow takenTile true) 0).map (fun k => k.queue.length) = some 1 := by decide +kernel
/-- R251, R253: the window is bound, empty; an entry of another generator gives 0x5.0A. -/
theorem test_agset_window : ((after (.agset east1) (atWindow tile1 false)).bind fun t => t.region? ⟨0, 0⟩).map
      (fun g => (g.mport 0).windows.map fun w => (w.num, w.x, w.gen, w.units.length)) = some [(0, 1, 0, 0)] ∧
    (sentBy (.agset eastOwn) (atWindow tile1 false)).map (fun t => bitsAt t.pay 0 10) = [] := by decide +kernel
/-- Transfer 0 has moved 64 bytes of channel 0: CPWAIT for 64 is met and for 65 not; the one after it waits. -/
def movedTile (w : Nat) : Tile := tile1.putChan 0 ⟨0, w, none, [], []⟩
theorem witness_waits : (∃ c, Issues east (byTile (movedTile 64)) c 1 ∧ c.Plain ∧
    ((c.g.tile? 1 0 == some (movedTile 64)) && decide ((bitsAt (c.request .cpwait).a 0 32).toNat = 64)) = true) ∧
    (∃ c, Issues east (byTile (movedTile 63)) c 1 ∧ c.Plain ∧ ((c.g.tile? 1 0 == some (movedTile 63)) && c.g.accs.isEmpty) = true) ∧
    (∃ c, Issues flds1 (byTile tile1) c 1 ∧ c.Plain ∧ (c.s.regEntry c.g.die (c.g.portTile (c.request .ownpass).port) 0).isNone = true) ∧
    ∃ c, Issues flds1 (running { tileRegion (opSet (some 64) none none) tile1 with mports := [⟨0, [], [], [⟨0, 0, 0, 64, 1, 0, 0⟩]⟩] }) c 1 ∧
      c.Plain ∧
      (c.s.regEntry c.g.die (c.g.portTile (c.request .ownpass).port) 0).isSome = true :=
  ⟨issues_spec (by decide +kernel), issues_spec (by decide +kernel), issues_spec (by decide +kernel), issues_spec (by decide +kernel)⟩
/-- R255: met with WPTR 64, not with 63; WPTR and the number. -/
theorem test_cpwait_cpptr : pays (.cpwait east) (byTile (movedTile 64)) = [64] ∧ pays (.cpwait east) (byTile (movedTile 63)) = [] ∧
    pays (.cpptr east) (byTile (tile1.putChan 0 ⟨7, 63, none, [], []⟩)) = [lanes 32 [63, 7]] := by decide +kernel
/-- R257, R253: both wait among the accesses of the region. -/
theorem test_mfence_ownpass : ((after (.mfence flds1) (byTile tile1)).bind fun t => (t.region? ⟨0, 0⟩).map fun g => g.accs.map fun a => (a.req.op, a.stage)) =
      some [(.mfence, .settled)] ∧ (sentBy (.ownpass flds1) (byTile tile1)).map (fun t => bitsAt t.pay 0 10) = [mkCause 5 0xD] := by decide +kernel

/-- A sheet of one element at the corner. -/
def sheet1 : Sheet := SheetDef.fresh ⟨0, 0, 0, 1, 1, 0, 0⟩
/-- The corner issues on two operands. -/
def atCorner (h : Sheet) : State := running { colRegion (elemWith (opSet (some 5) (some 6) none)) with sheets := [h] }
/-- An MDRAIN of a bank. -/
def drainOp : BankOp := ⟨.mdrain, ⟨0, 0, 0, 0, flds1, 0, false⟩, 0, none⟩
/-- A sheet; a bank that no operation uses and no colour owns; one in use. -/
theorem witness_sheets : (∃ c, Issues flds1 (atCorner sheet1) c 1 ∧ c.Plain ∧
    ((c.g.sheet? c.p.x c.p.y == some sheet1) && sheet1.ops.isEmpty && (sheet1.bankState 0).owner.isNone &&
      sheet1.x == c.p.x && sheet1.y == c.p.y) = true) ∧
    ∃ c, Issues flds1 (atCorner { sheet1 with ops := [.bank drainOp] }) c 1 ∧ c.Plain ∧
      (c.g.sheet? c.p.x c.p.y == some { sheet1 with ops := [.bank drainOp] } &&
      (SheetOp.bank drainOp).bank' == 0) = true := ⟨issues_spec (by decide +kernel), issues_spec (by decide +kernel)⟩
/-- The sheet after an instruction. -/
def sheetAfter (i : Instr) (h : Sheet) : Option Sheet := ((after i (atCorner h)).bind fun t => t.region? ⟨0, 0⟩).bind fun g => g.sheet? 0 0
theorem test_sheet_issues : (sheetAfter (.mswap flds1) sheet1).map Sheet.act = some 1 ∧
    (sheetAfter (.mdrain flds1) sheet1).map (fun h => h.ops.length) = some 1 ∧
    (sheetAfter (.mma flds) sheet1).map (fun h => h.ops.length) = some 1 ∧
      (sheetAfter (.mzero flds1) { sheet1 with ops := [.bank drainOp] }).map (fun h => h.ops.length) = some 2 ∧
    (sheetAfter (.mzero flds1) { sheet1 with banks := [⟨none, some (mkCause 7 5)⟩, ⟨none, none⟩] }).map (fun h => (h.bankState 0).poison) = some none := by decide +kernel
/-- R303: the SUB of each side-band token. -/
theorem test_sideband : (sentBy (.mscale { flds1 with xmod := 1 }) (on1 5)).map (fun t => (t.kind, t.sub, t.pay)) = [(1, 1, 5)] ∧
    (sentBy (.mcode flds1) (on1 5)).map Token.sub = [2] ∧ (sentBy (.mepi flds1) (on1 5)).map Token.sub = [3] ∧
    (sentBy (.mepi { flds1 with xmod := 1 }) (on1 5)).map Token.sub = [4] := by decide +kernel

/-- KVPACK's operand: eight tokens of 16 BF16 lanes, the first one given. -/
def headVector (p : Payload) : State := issuing { opSet none none none with members := tok 0 p :: List.replicate 7 (tok 0 0) }
/-- A vector of numbers with a largest one, and one with a NaN. -/
theorem witness_kvpack : (∃ c, Issues flds2 (headVector (lanes 16 [0x40E0])) c 3 ∧ c.Plain ∧
    (c.set.l.isNone && decide (c.set.members.length = 8)) = true) ∧
    ∃ c, Issues flds2 (headVector (lanes 16 [0x7FC0])) c 3 ∧ c.Plain ∧ (c.set.l.isNone && decide (c.set.members.length = 8)) = true :=
  ⟨issues_spec (by decide +kernel), issues_spec (by decide +kernel)⟩
/-- R319: 7, −3.5 and 1 have scale 1 and codes 7, −4 (a tie, to even) and 1; a NaN has scale 0x7FC0 and no codes. -/
theorem test_kvpack : pays (.kvpack { flds2 with et := .bf16 }) (headVector (lanes 16 [0x40E0, 0xC060, 0x3F80])) = [lanes 4 [7, 12, 1], 0, 0x3F80] ∧
    pays (.kvpack { flds2 with et := .bf16 }) (headVector (lanes 16 [0x7FC0, 0x3F80])) = [0, 0, 0x7FC0] := by decide +kernel

/-! ## Fault records and system instructions (R374 to R376, R396) -/

/-- A fault page at 0x1000 for world 0, with the interrupt word at 0x3000, EIID 5, HEAD and TAIL as given. -/
def faultPage (head tail : Nat) : State := { colours 5 with
  regs := [(0x5000, 0x1001), (0x5008, 5 * 2 ^ 52 + 0x3001)]
  mem := writeNat (writeNat [] 0x1000 4 head) 0x1004 4 tail }
/-- A record. -/
def record1 : FaultRec := bareFault State.reset 0 (mkCause 13 1) 0 9
/-- R375: the last index before HEAD wraps at 63·2^26, the page full with 63 records, no page. -/
theorem witness_fault_page : (faultPage 4227858431 4227858430).memOk ∧ (faultPage 63 0).memOk ∧ State.reset.memOk ∧
    ((4227858431 : ℤ) - 4227858430) % 4227858432 < 63 ∧ ¬ ((63 : ℤ) - 0) % 4227858432 < 63 ∧ bitAt ((faultPage 0 0).reg 0x5000) 0 = true ∧
    bitAt ((faultPage 0 0).reg 0x5008) 0 = true ∧ bitAt (State.reset.reg 0x5000) 0 = false := by
  refine ⟨?_, ?_, ?_, by decide, by decide, by decide +kernel, by decide +kernel, by decide +kernel⟩ <;> (unfold State.memOk; decide +kernel)
/-- R375: HEAD wraps to 0 and the record lies at index 62; the cause is its low ten bits; LOST counts on a full page. -/
theorem test_fault_page : readNat ((faultPage 4227858431 4227858430).deliver record1).mem 0x1000 4 = 0 ∧
    readNat ((faultPage 4227858431 4227858430).deliver record1).mem (0x1000 + 64 + 64 * 62) 2 % 1024 = 13 * 64 + 1 ∧
    readNat ((faultPage 63 0).deliver record1).mem 0x1008 4 = 1 ∧ readNat ((faultPage 63 0).deliver record1).mem 0x1000 4 = 63 ∧
    ((faultPage 0 0).deliver record1).msis = [(0x3000, 5)] ∧ readNat ((faultPage 0 0).deliver record1).mem 0x3000 4 = 5 ∧
      (State.reset.deliver record1).lostRec = 1 := by
  decide +kernel
theorem witness_system : (∃ c, Issues { flds1 with xmod := 1, imm := 3 } (faultPage 0 0) c 1 ∧ c.Plain ∧ (c.set.l.isSome && !c.l.capt) = true) :=
  issues_spec (by decide +kernel)
/-- R396: EXTRA of TRAP is IMM·2^48 + a; BRK holds a; FAULT's cause; MARK passes a. -/
theorem test_system : ((after (.trap (imm 0xABCD)) (faultPage 0 0)).map fun t => readNat t.mem (0x1000 + 64 + 32) 8) = some 0xABCD000000000005 ∧
    pays (.trap (imm 1)) (colours 5) = [5] ∧
      ((after (.brk (imm 7)) (colours 5)).bind theElem).map (fun e => (e.held.length, e.ready.length)) = some (1, 0) ∧
    ((after (.brk (imm 7)) (colours 5)).bind fun t => t.launch? 0).map (fun l => l.causes.map fun c => (c.cause, c.extra)) = some [(mkCause 13 2, 7)] ∧
    (sentBy (.fault (imm 9)) (colours 5)).map (fun t => (t.kind, t.sub, bitsAt t.pay 0 10)) = [(3, 1, mkCause 13 9)] ∧
    ((after (.fault { imm 9 with xmod := 1 }) (colours 5)).map State.lostRec) = some 1 ∧ pays (.mark (imm 9)) (colours 5) = [5] := by decide +kernel

/-! ## Harts (R73, R74, R202 to R206, R262, R399, R436) -/

/-- Hart 0 in a mode, with x10 and x11. -/
def hartOf (mode : Mode) (a0 a1 : Word64) : Hart := { (Hart.reset true).setReg 10 a0 |>.setReg 11 a1 with mode := mode }
/-- It executes. -/
def atHart (s : State) (k : Hart) : State := { s with
  harts := k :: s.harts.tail
  focus := .hart 0 }
/-- A register of hart 0 after an instruction. -/
def rdAfter (i : Instr) (s : State) (r : BitVec 5) : Option Word64 := ((after i s).bind fun t => t.hart? 0).map fun k => k.reg r
/-- Hart 0 executes outside the user modes, and names a launch of which, with its first member, P holds. -/
def names (s : State) (P : Hart → Launch → Region → Bool) : Bool :=
  decide (s.focus = .hart 0) && (s.hart? 0).any fun k => decide (k.mode ≠ .u) && decide (k.mode ≠ .vu) &&
    (s.launch? (bitsAt (k.reg 10) 32 32)).any fun l => (l.members[0]?).any fun g => P k l g
/-- What `names` says. -/
theorem names_spec {s : State} {P : Hart → Launch → Region → Bool} (h : names s P = true) : ∃ k l g, ExecutesAt s 0 k ∧ k.mode ≠ .u ∧ k.mode ≠ .vu ∧
    s.launch? (bitsAt (k.reg 10) 32 32) = some l ∧ l.members[0]? = some g ∧ P k l g = true := by
  unfold names at h
  simp only [Bool.and_eq_true, decide_eq_true_eq, Option.any_eq_true] at h
  obtain ⟨hf, k, hk, ⟨h1, h2⟩, l, hl, g, hg, hp⟩ := h
  exact ⟨k, l, g, ⟨hf, hk⟩, h1, h2, hl, hg, hp⟩

/-- The trap levels: M-mode, delegated to HS, delegated to VS. -/
theorem witness_traps : (Hart.reset true).x.length = 31 ∧ (Hart.reset true).mode = .m ∧
    (({ hartOf .u 0 0 with medeleg := 4 } : Hart).mode ≠ .m ∧ bitAt ({ hartOf .u 0 0 with medeleg := 4 } : Hart).medeleg 2 = true) ∧
    ({ hartOf .vs 0 0 with medeleg := 4, hedeleg := 4 } : Hart).mode = .vs ∧
      bitAt ({ hartOf .vs 0 0 with hedeleg := 4 } : Hart).hedeleg 2 = true := by decide +kernel
/-- R73: x0 reads zero and is not written. -/
theorem test_x0 : ((Hart.reset true).setReg 0 7).reg 0 = 0 ∧ (hartOf .m 7 9).reg 10 = 7 ∧ (hartOf .m 7 9).reg 11 = 9 := by decide +kernel
/-- An exception saves the pc and goes to the vector base; the return brings both back. -/
theorem test_trap : (({ hartOf .u 0 0 with pc := 64, mtrap := { TrapRegs.zero with tvec := 0x103 } } : Hart).trap 2 5).pc = 0x100 ∧
    (({ hartOf .u 0 0 with pc := 64, mtrap := { TrapRegs.zero with tvec := 0x103 } } : Hart).trap 2 5).mtrap.epc = 64 ∧
    (({ hartOf .u 0 0 with pc := 64, mtrap := { TrapRegs.zero with tvec := 0x103 } } : Hart).trap 2 5).trapReturn.mode = .u := by decide +kernel
/-- A hart in U-mode; a hart in M-mode with an existing world; a hart below M-mode. -/
theorem witness_illegal : (names (atHart (running (slotRegion 0)) (hartOf .m 0 0)) (fun _ _ _ => true)) = true ∧
    ((atHart State.reset (hartOf .u 0 0)).hart? 0).map Hart.mode = some .u ∧ State.reset.clocked = true ∧
    bitAt (State.reset.wcfg (bitsAt (0 : Word64) 0 8)) 63 = true ∧ (Hart.reset true).waiting = false ∧
      (Hart.reset true).blocked = false := by decide +kernel
theorem test_illegal : ((after (.illegalInstructionException 0xB) (atHart State.reset (hartOf .m 0 0))).bind fun t => t.hart? 0).map (fun k => (k.mtrap.cause, k.mtrap.tval)) =
      some (2, 0xB) ∧ ((after (.wxFreeze 5 10) (atHart State.reset (hartOf .u 0 0))).bind fun t => t.hart? 0).map (fun k => (k.mtrap.cause, k.mode)) = some (2, .m) ∧
    ((after (.wxworldWrite 0 1) State.reset).bind fun t => t.hart? 0).map (fun k => k.mtrap.cause) = some 2 ∧
    ((after (.wxvworldWrite 0 0) State.reset).map State.laygen) = some 1 := by decide +kernel
/-- Hart 0 after the step in which it executes a word at address 0. -/
def stepped (w : Nat) (k : Hart) : Option Hart := let s := State.reset.withFetchWord 32 w
  match step { s with harts := k :: s.harts.tail } with
  | .next t => t.hart? 0
  | _ => none
/-- RISC-V words (log 60): ADDI x5, x0, 7; MUL x5, x10, x11; BEQ x0, x0, 8; LW x5, 0(x10); AMOADD.W x5, x11, (x10); FENCE. -/
theorem test_riscv : (stepped 0x00700293 (hartOf .m 0 0)).map (fun k => (k.reg 5, k.pc)) = some (7, 4) ∧
    (stepped 0x02B502B3 (hartOf .m 6 7)).map (fun k => k.reg 5) = some 42 ∧ (stepped 0x00000463 (hartOf .m 0 0)).map Hart.pc = some 8 ∧
    (stepped 0x00052283 (hartOf .m 0 0)).map (fun k => k.reg 5) = some 0x00052283 ∧
    (stepped 0x00B522AF (hartOf .m 64 3)).map (fun k => (k.reg 5, k.pc)) = some (0, 4) ∧
      (stepped 0x0FF0000F (hartOf .m 0 0)).map Hart.pc = some 4 := by
  decide +kernel
/-- ECALL is exception 11 in M-mode; MRET goes back; CSR 0x7C0 is read in M-mode only (R399); an FADD.S is refused. -/
theorem test_riscv_system : (stepped 0x00000073 (hartOf .m 0 0)).map (fun k => (k.mtrap.cause, k.mtrap.epc)) = some (11, 0) ∧
    (stepped 0x30200073 { hartOf .m 0 0 with mtrap := { TrapRegs.zero with epc := 64, pp := .u } }).map (fun k => (k.pc, k.mode)) = some (64, .u) ∧
    (stepped 0x7C0022F3 { hartOf .m 0 0 with wxvworld := 9 }).map (fun k => k.reg 5) = some 9 ∧
    (stepped 0x7C0022F3 (hartOf .hs 0 0)).map (fun k => k.mtrap.cause) = some 2 ∧ stepped 0x00B50553 (hartOf .m 0 0) = none := by decide +kernel
/-- Nothing waits at a line after reset. -/
theorem reset_waits (line : Nat) : State.reset.waitsAt line = [] := rfl
/-- Hart 0 has loaded, or stored, the first two bytes of eight at 30: the second piece is left. -/
def halfWay (store : Bool) : Hart := { Hart.reset true with
  blocked := true
  mem := some (30, if store then .store 8 0x0807060504030201 else .load 8)
  part := some ⟨30, 8, store, if store then [1, 2] else [0, 0]⟩ }
/-- A launch declares the line at VA 0x8000, PA 0x20008000, as held. -/
def declared : State := { mapped0 (colours 5) with
  launches := [{ newLaunch 0 0 [colRegion (elemWith (opSet none none none))] [] 0 with
    state := .running
    held := [⟨0, 0x8000, 128, 0, none⟩] }] }
/-- R262: an unmapped address, the last eight bytes of HBM, a held line, the second piece of a load and of a store, a declared line, a host access
before its first piece and at its last. -/
theorem witness_bus : State.reset.clocked = true ∧ (∀ b ∈ State.reset.busWaits, b.hart ≠ some 0) ∧ (2 ^ 40 / 2 ^ 40 ∉ [0, 0x800, 0x900]) ∧
    2 ^ 40 - 8 + 8 ≤ 2 ^ 40 ∧
    State.reset.poison? (2 ^ 40 - 8) 8 = none ∧ State.reset.heldLines = [] ∧ State.reset.kvHolds = [] ∧
    (∃ q ∈ ({ State.reset with heldLines := [⟨1, ⟨0, 0⟩, 0⟩] } : State).heldLines, q.line = 130 / 128) ∧
    (halfWay false).waiting = false ∧ (halfWay false).scan = none ∧ (Hart.reset true).part = none ∧
    (halfWay true).part = some ⟨30, 8, true, (toBytes (0x0807060504030201 : Word64) 8).take 2⟩ ∧
    declared.lineDeclared (0x20008000 / 128) = true ∧ State.reset.lineDeclared 0 = false ∧ State.reset.poison? 0 8 = none ∧
    (State.reset.hostParts.find? fun p => p.1 == 64) = none ∧
    ({ State.reset with hostParts := [(64, .load 16, 8)] } : State).hostParts.find? (fun p => p.1 == 64 && p.2.1 == .load 16) =
      some (64, .load 16, 8) := by decide +kernel
/-- R262: the eight bytes of a load; a store of two bytes, least significant first; exception 5 and 7; a wait. -/
theorem test_bus : ((after (.hartMemoryAccess 0 (2 ^ 40 - 8) (.load 8)) { State.reset with mem := [⟨2 ^ 40 - 8, 0x21⟩, ⟨2 ^ 40 - 1, 0x43⟩] }).bind fun t => t.hart? 0).map Hart.mdr =
      some 0x4300000000000021 ∧
    (after (.hartMemoryAccess 0 64 (.store 2 0xABCD)) State.reset).map State.mem = some [⟨64, 0xCD⟩, ⟨65, 0xAB⟩] ∧
    ((after (.hartMemoryAccess 0 (2 ^ 40) (.load 1)) State.reset).bind fun t => t.hart? 0).map (fun k => k.mtrap.cause) = some 5 ∧
    ((after (.hartMemoryAccess 0 (2 ^ 40) (.store 1 0)) State.reset).bind fun t => t.hart? 0).map (fun k => k.mtrap.cause) = some 7 ∧
    (after (.hartMemoryAccess 0 130 (.load 1)) { State.reset with heldLines := [⟨1, ⟨0, 0⟩, 0⟩] }).map (fun t => (t.busWaits.length, ((t.hart? 0).map Hart.blocked))) =
      some (1, some true) ∧
    (after (.hartMemoryAccess 0 30 (.store 8 0x0807060504030201)) State.reset).map (fun t => (t.mem, (t.hart? 0).map Hart.part)) =
      some ([⟨30, 1⟩, ⟨31, 2⟩], some (some ⟨30, 8, true, [1, 2]⟩)) ∧
    (after (.hartMemoryAccess 0 30 (.store 8 0x0807060504030201)) { State.reset with harts := [halfWay true] }).map (fun t => (t.mem.length, (t.hart? 0).map Hart.part)) =
      some (6, some none) := by decide +kernel
/-- R248, R269: an atomic of a hart adds and gives the old value; in a declared held range it is exception 7, with a record. -/
theorem test_amo : (after (.hartMemoryAccess 0 64 (.amo 4 .add 5)) { State.reset with mem := [⟨64, 3⟩] }).map
      (fun t => (t.mem, (t.hart? 0).map Hart.mdr)) = some ([⟨64, 8⟩], some 3) ∧
    (after (.hartMemoryAccess 0 0x20008000 (.amo 8 .swap 5)) declared).map (fun t => (t.seqNo, (t.hart? 0).map fun (k : Hart) => k.mtrap.cause)) =
      some (1, some 7) := by decide +kernel

/-- Hart 0 names launch 0 with the selector v, the launch as given. -/
def sel (v : Word64) (l : Launch) : State := atHart { colours 5 with launches := [l] } (hartOf .m v 0)
/-- The launch, running. -/
def launchR : Launch := { newLaunch 0 0 [colRegion (elemWith (opSet none none none))] [] 0 with state := .running }
/-- A hart of a world, virtualised: it may name launches of that world only. -/
def foreignHart (v : Word64) : State := { colours 5 with
  harts := [{ hartOf .vs v 0 with wxvworld := 9 }]
  focus := .hart 0 }
/-- R204's conditions: no such launch; an unused colour; another world; reserved bits; a queued launch; a running one with and without a purge; a
committed span and an open one; FROZEN, with and without a dead word; neither RUNNING nor FROZEN. -/
theorem witness_selectors : ((sel 0x900000000 launchR).launch? (bitsAt (0x900000000 : Word64) 32 32)).isNone = true ∧
    names (sel 2 launchR) (fun _ _ g => !colV (g.col 2)) = true ∧ names (sel (2 ^ 17) launchR) (fun _ _ g => !bitAt g.ctxmask 2) = true ∧
    names (foreignHart 0) (fun k l g => colV (g.col 0) && bitAt g.ctxmask 0 && !k.mayName l) = true ∧
    names (sel 0x40 launchR) (fun k l _ => k.mayName l && bitsAt (k.reg 10) 6 10 != 0) = true ∧
    names (sel 0 { launchR with state := .queued }) (fun k l _ => k.mayName l && l.state == .queued) = true ∧
    names (sel 0 launchR) (fun k l g => k.mayName l && l.state == .running && colV (g.col 0) && l.purges.isEmpty) = true ∧
    names (sel 0x80000 launchR) (fun k l g => k.mayName l && colV (g.col 0) && bitAt (k.reg 10) 19) = true ∧
    names (sel 4 { launchR with committed := 5 }) (fun k l _ => k.mayName l && decide (4 < l.committed)) = true ∧
    names (sel 5 { launchR with committed := 5 }) (fun k l _ => k.mayName l && decide (l.committed ≤ 5)) = true ∧
    names (sel 0 { launchR with state := .frozen, hwDead := true }) (fun k l _ => k.mayName l && l.state == .frozen && l.hwDead) = true ∧
    names (sel 0 { launchR with state := .frozen }) (fun k l _ => k.mayName l && l.state == .frozen && !l.hwDead) = true ∧
    names (sel 0 { launchR with state := .saved }) (fun k l _ => k.mayName l && l.state == .saved) = true := by decide +kernel
/-- The same state, with the hypotheses as propositions. -/
theorem witness_executes : ∃ k l g, ExecutesAt (sel 0 launchR) 0 k ∧ k.mode ≠ .u ∧ k.mode ≠ .vu ∧
    (sel 0 launchR).launch? (bitsAt (k.reg 10) 32 32) = some l ∧
    l.members[0]? = some g ∧ (k.mayName l && colV (g.col 0)) = true := names_spec (by decide +kernel)
/-- R204: the statuses, and the census above them. -/
theorem test_wx_selectors : rdAfter (.wxCensus 5 10) (sel 0x900000000 launchR) 5 = some 11 ∧ rdAfter (.wxCensus 5 10) (sel 2 launchR) 5 = some 11 ∧
    rdAfter (.wxFreeze 5 10) (foreignHart 0) 5 = some 10 ∧ rdAfter (.wxCensus 5 10) (sel 0x40 launchR) 5 = some 9 ∧
    rdAfter (.wxCensus 5 10) (sel 0 { launchR with state := .queued }) 5 = some 4 ∧ rdAfter (.wxCensus 5 10) (sel 0 launchR) 5 = some 0x300000000 ∧
    rdAfter (.wxPurge 5 10) (sel 0 { launchR with state := .frozen }) 5 = some 4 ∧
      rdAfter (.wxSpanwait 5 10) (sel 4 { launchR with committed := 5 }) 5 = some 0 ∧
    rdAfter (.wxResume 5 10) (sel 0 { launchR with state := .frozen, hwDead := true }) 5 = some 4 := by decide +kernel
theorem test_wx_effects : ((after (.wxPurge 5 10) (sel 0 launchR)).bind fun t => t.launch? 0).map (fun l => l.purges.map Purge.col) = some [0] ∧
    after (.wxSpanwait 5 10) (sel 5 { launchR with committed := 5 }) = some (sel 5 { launchR with committed := 5 }) ∧
    ((after (.wxFreeze 5 10) (sel 0 launchR)).bind fun t => t.launch? 0).map Launch.freezeReq = some true ∧
    ((after (.wxResume 5 10) (sel 0 { launchR with state := .frozen })).bind fun t => t.launch? 0).map Launch.state = some .running := by decide +kernel

/-- Hart 0 has done the pieces of an access before its last. -/
def primed (p : HartPart) (s : State) : State := match s.harts with
  | k :: ks => { s with harts := { k with part := some p } :: ks }
  | [] => s
/-- A launch record at 0x3000, of which the hart has read the first 32 bytes: IMAGE and the word above it with queue, PRIO and world. -/
def withRecord (image w1 w2 : Nat) (mode : Mode) : State := let s := mapped0 (atHart State.reset (hartOf mode 0x3000 0))
  let m := writeNat (writeNat s.mem 0x3000 8 image) 0x3010 8 (w1 + w2)
  primed ⟨0x3000, 64, false, readBytes m 0x3000 32⟩ { s with mem := m }
/-- The record that the hart reads, and P of it. -/
def reads64 (s : State) (P : State → BitVec 512 → Bool) : Bool := decide (s.focus = .hart 0) && (s.hart? 0).any fun k => decide (k.mode ≠ .u ∧
    k.mode ≠ .vu) &&
  (match s.hartLoad 0 k (s.hartPa k .load) (k.reg 10).toNat 64 64 with
   | .ok r => P r.1 (ofBytes 512 r.2)
   | .error _ => false)
/-- Is the record's queue open for its world and priority? -/
def openQ (t : State) (r : BitVec 512) : Bool := let lq := t.reg (8 * (bitsAt r 128 6).toNat)
  lqEn lq && lqWorld lq == bitsAt r 136 8 && decide ((bitsAt r 134 2).toNat ≤ lqPrio lq)
/-- R196's conditions: reserved bits; an untrusted hart's PRIV; a queue that is disabled, one of too high a priority; an image unmapped, bad, good. -/
theorem witness_launch_records : reads64 (withRecord 0x1000 0x80000 0 .m) (fun _ r => !recordOk r) = true ∧
    reads64 (withRecord 0x1000 0x200000 0 .vs) (fun _ r => recordOk r && bitAt r 149) = true ∧
    reads64 (withRecord 0x1000 1 0 .m) (fun t r => recordOk r && !openQ t r) = true ∧
      reads64 (withRecord 0x1000 0x40 0 .m) (fun t r => recordOk r && !openQ t r) = true ∧
    reads64 (withRecord 0x20000000 0 0 .m) (fun t r => recordOk r && openQ t r && bitsAt r 64 64 == 0 &&
      (match loadLaunch t 0 0x20000000 false none (recOverrides r) with
      | .unread _ _ => true
      | _ => false)) = true ∧
    reads64 (withRecord 0x2000 0 0 .m) (fun t r => recordOk r && openQ t r && (match loadLaunch t 0 0x2000 false none (recOverrides r) with
      | .bad _ => true
      | _ => false)) = true ∧
    reads64 (withRecord 0x1000 0 0 .m) (fun t r => recordOk r && openQ t r && !t.sealedWorld 0 &&
      (match loadLaunch t 0 0x1000 false none (recOverrides r) with
      | .ok _ _ => true
      | _ => false)) = true := by decide +kernel
/-- The same good record where world 0 seals and its seal generations are used up. -/
theorem witness_launch_spent : reads64 { withRecord 0x1000 0 0 .m with
      regs := [(0, 0x8000000000000000), (0x800, 0x20001), (0xA000, 0xF000000000000000)] } (fun t r => recordOk r && openQ t r && t.sealedWorld 0 && t.genx 0 &&
    (match loadLaunch t 0 0x1000 false none (recOverrides r) with
      | .ok _ _ => true
      | _ => false)) = true := by decide +kernel
theorem test_wx_launch : rdAfter (.wxLaunch 5 10) (withRecord 0x1000 0x80000 0 .m) 5 = some 9 ∧
    rdAfter (.wxLaunch 5 10) (withRecord 0x1000 0x200000 0 .vs) 5 = some 10 ∧
    rdAfter (.wxLaunch 5 10) (withRecord 0x1000 1 0 .m) 5 = some 7 ∧ rdAfter (.wxLaunch 5 10) (withRecord 0x2000 0 0 .m) 5 = some 8 ∧
    rdAfter (.wxLaunch 5 10) (withRecord 0x1000 0 0 .m) 5 = some 0 ∧
    (after (.wxLaunch 5 10) (withRecord 0x1000 0 0 .m)).map (fun t => (t.launches.map Launch.state, t.nextHandle)) = some ([.queued], 1) := by decide +kernel

/-- A token image at 0x3000 with a header, half of it read, and the handle of a port of launch 0 in x11. -/
def withToken (hdr : Nat) (v : Word64) (l : Launch) (mode : Mode) : State := let s := atHart { colours 5 with launches := [l] } (hartOf mode 0x3000 v)
  primed ⟨0x3000, 64, false, List.replicate 32 0⟩ { s with mem := writeNat s.mem 0x3028 4 hdr }
/-- The token that the hart reads, the launch, its first member and the port named, and P of them. -/
def pushes (s : State) (P : Hart → State → List Byte → Launch → Region → Port → Bool) : Bool := decide (s.focus = .hart 0) && (s.hart? 0).any fun k =>
  (match s.hartLoad 0 k (s.hartPa k .load) (k.reg 10).toNat 64 64 with
   | .ok r => (r.1.launch? (bitsAt (k.reg 11) 32 32)).any fun l => (l.members[0]?).any fun g => (g.ports[(bitsAt (k.reg 11) 0 5).toNat]?).any fun p => P k r.1 r.2 l g p
   | .error _ => false)
/-- A data token's header; a control token that closes. -/
def hdrData : Nat := 0x800
/-- The close request's header. -/
def hdrClose : Nat := 0xC70
/-- Port 0 with 16 tokens; closed; colour 0 at its quota. -/
def fullPort : Launch := { launchR with members := [(colRegion (elemWith (opSet none none none))).putPort 0 ⟨0x3000000000000000, 0x3000000000000000, List.replicate 16 (tok 0 0), false⟩] }
/-- Colour 0's census at its quota of 8. -/
def atQuota : Launch := { launchR with members := [{ colRegion (elemWith (opSet none none none)) with census := [(0, 8)] }] }
/-- R204's conditions of a push. -/
theorem witness_pushes : ((withToken hdrData 0x900000000 launchR .m).launch? 9).isNone = true ∧
    (launchR.members.all fun g => (g.ports[3]?).isNone) = true ∧
    pushes (withToken hdrData 2 launchR .m) (fun _ _ _ _ _ p => portType p.word != 3) = true ∧
    pushes { withToken hdrData 0 launchR .m with harts := [{ hartOf .vs 0x3000 0 with wxvworld := 9, part := some ⟨0x3000, 64, false, List.replicate 32 0⟩ }] } (fun k _ _ l _ p => portType p.word == 3 &&
      !k.mayName l) = true ∧
    pushes (withToken hdrData 0x20 launchR .m) (fun k _ _ l _ p => portType p.word == 3 && k.mayName l && bitsAt (k.reg 11) 5 27 != 0) = true ∧
    pushes (withToken hdrData 0 { launchR with state := .retired } .m) (fun k _ bs l g p => portType p.word == 3 && k.mayName l &&
      pushOk g p.word (imageToken bs) bs && l.state == .retired) = true ∧
    pushes (withToken hdrData 0 { launchR with state := .frozen } .m) (fun k _ bs l g p => k.mayName l && pushOk g p.word (imageToken bs) bs &&
      !p.closed && l.state != .running) = true ∧
    pushes (withToken hdrClose 0 launchR .m) (fun k _ bs l g p => k.mayName l && pushOk g p.word (imageToken bs) bs && l.state == .running &&
      l.drainFrom.isNone &&
      (imageToken bs).kind == 2 && (imageToken bs).sub == 7) = true ∧
    pushes (withToken hdrData 0 { launchR with purges := [⟨0, []⟩] } .m) (fun k _ bs l g p => k.mayName l && pushOk g p.word (imageToken bs) bs &&
      l.purges.any (·.col == portCol p.word)) = true ∧
    pushes (withToken hdrData 0 atQuota .m) (fun k _ bs l g p => k.mayName l && pushOk g p.word (imageToken bs) bs && !l.underQuota 0) = true ∧
    pushes (withToken hdrData 0 fullPort .m) (fun k _ bs l g p => k.mayName l && pushOk g p.word (imageToken bs) bs && l.underQuota 0 &&
      decide (16 ≤ p.queue.length)) = true ∧
    pushes (withToken hdrData 0 launchR .m) (fun k t bs l g p => k.mayName l && pushOk g p.word (imageToken bs) bs && l.underQuota 0 &&
      decide (p.queue.length < 16) && !l.replay && !l.capt &&
      !t.sealedWorld 0) = true := by decide +kernel
theorem test_pushtok : rdAfter (.wxPushtok 5 10 11) (withToken hdrData 2 launchR .m) 5 = some 11 ∧
    rdAfter (.wxPushtok 5 10 11) (withToken hdrData 0x20 launchR .m) 5 = some 9 ∧
    rdAfter (.wxPushtok 5 10 11) (withToken hdrData 0 { launchR with state := .retired } .m) 5 = some 5 ∧
    rdAfter (.wxPushtok 5 10 11) (withToken hdrData 0 { launchR with purges := [⟨0, []⟩] } .m) 5 = some 3 ∧
    rdAfter (.wxPushtok 5 10 11) (withToken hdrData 0 atQuota .m) 5 = some 1 ∧
      rdAfter (.wxPushtok 5 10 11) (withToken hdrData 0 fullPort .m) 5 = some 2 ∧
    ((after (.wxPushtok 5 10 11) (withToken hdrData 0 launchR .m)).bind fun t => t.region? ⟨0, 0⟩).map (fun g => ((g.ports.map fun p => p.queue.length), g.adm 0)) = some ([1, 0, 0], 1) ∧
    ((after (.wxPushtok 5 10 11) (withToken hdrClose 0 launchR .m)).bind fun t => t.region? ⟨0, 0⟩).map (fun g => g.ports.map Port.closed) = some [true, false, false] := by decide +kernel
/-- The exit port with two tokens, and empty. -/
def exitTwo (n : Nat) : Launch := { launchR with members := [(colRegion (elemWith (opSet none none none))).putPort 2 ⟨0x4000000000000000, 0x4000000000000000,
  (List.replicate n (tok 0 0x1234)), false⟩] }
/-- Hart 0 pulls from it, with the first half of a token's image stored. -/
def pulling (n : Nat) : State := primed ⟨0x3000, 64, true, toBytes (0x1234 : BitVec 256) 32⟩
  (atHart { colours 5 with launches := [exitTwo n] } (hartOf .m 0x3000 2))
/-- Hart 0 summarises: at its start, after it, with the record taken, with its last piece left. -/
def summing (c : SumScan) : State := atHart { colours 5 with launches := [launchR] } { hartOf .m 0x3000 0 with scan := some c }
/-- A record of 64 zero bytes. -/
def sumBody (tail : Bool) : SumScan := ⟨0, 0, [(0, [])], some (List.replicate 64 0), tail⟩
/-- R203, R388: a token to pull, none, a virtualised hart whose world has no launch, a trusted summary at and off a 4 KiB boundary, a running
launch whose sweep has ended or not, the record's pieces. -/
theorem witness_pull_summary : names (pulling 2) (fun k l g => k.mayName l && l.state == .running && (g.ports[2]?).any fun p =>
      portType p.word == 4 && decide (p.queue.length = 2)) = true ∧
    names (pulling 0) (fun k l g => k.mayName l && (g.ports[2]?).any fun p => p.queue.isEmpty) = true ∧
    (match (pulling 2).hartStore 0 ((pulling 2).harts.headD (.reset true)) ((pulling 2).hartPa ((pulling 2).harts.headD (.reset true)) .store) 0x3000 64
        (toBytes (0x1234 : BitVec 256) 32 ++ List.replicate 32 0) with
      | .ok _ => true
      | .error _ => false) = true ∧
    ((atHart State.reset { hartOf .vs 0x3000 0 with wxvworld := 9 }).launches.all fun l => l.world != 9) = true ∧
    (hartOf .m 0x3000 0).accessor.trust = true ∧ (hartOf .m 0x3000 0).scan = none ∧
    ((summing ⟨0, 0, [], none, false⟩).launches.any fun l => l.state == .running) = true ∧
    ((summing ⟨0, 0, [(0, [])], none, false⟩).launches.all fun l => l.handle == 0) = true ∧
    (match (summing (sumBody true)).hartStore 0 ((summing (sumBody true)).harts.headD (.reset true))
        ((summing (sumBody true)).hartPa ((summing (sumBody true)).harts.headD (.reset true)) .store) 0x3000 1 (List.replicate 32 0) with
      | .ok _ => true
      | .error _ => false) = true ∧
    (match (summing (sumBody false)).hartStore 0 ((summing (sumBody false)).harts.headD (.reset true))
        ((summing (sumBody false)).hartPa ((summing (sumBody false)).harts.headD (.reset true)) .store) 0x3020 1 (List.replicate 32 0) with
      | .ok _ => true
      | .error _ => false) = true ∧
    32 ≤ (List.replicate 64 (0 : Byte)).length ∧ bitAt ((List.replicate 64 (0 : Byte)).getD 6 0) 0 = false := by decide +kernel
theorem test_pulltok : rdAfter (.wxPulltok 5 10 11) (pulling 0) 5 = some 6 ∧ rdAfter (.wxPulltok 5 10 11) (pulling 2) 5 = some 0x100 ∧
    (after (.wxPulltok 5 10 11) (pulling 2)).map (fun t => readNat t.mem 0x3028 4) = some 0x800 := by decide +kernel
/-- R388, R389: NOPRIV for a world without a launch; the length of a record and its magic; CHANGED in its last piece. -/
theorem test_summary : rdAfter (.wxSummary 5 10) (atHart State.reset { hartOf .vs 0x3000 0 with wxvworld := 9 }) 5 = some 10 ∧
    ((State.reset.summary ⟨0, true, true⟩ ⟨0, 0, [], none, false⟩).take 4).map BitVec.toNat = [0x55, 0x53, 0x58, 0x57] ∧
    (State.reset.summary ⟨0, true, true⟩ ⟨0, 0, [], none, false⟩).length = 0x1000 ∧
    rdAfter (.wxSummary 5 10) (summing (sumBody true)) 5 = some 0x4000000000 ∧
    (after (.wxSummary 5 10) { summing (sumBody true) with laygen := 1 }).map (fun t => readNat t.mem 0x3006 1) = some 1 := by decide +kernel

/-! ## Tokens, sweeps, purges, placement (R22 to R24, R61, R160 to R193, R271) -/

/-- The slot word of a monadic MOV, a dyadic ADD.I32 (R59's word) and a trigger. -/
def wordOf (o : Op) (ar : BitVec 2) : SlotWord := setBits (setBits (0 : SlotWord) 119 (opInfo o).opc) 113 ar
/-- A region whose element has MOV in slot 0, ADD in slot 1 and SPANEND in slot 2, with tokens on its way or waiting. -/
def netRegion (links : List Link) (store : List Entry) : Region := { colRegion { Elem.empty 0 0 with
    slots := [(0, (encodeSlot (.mov flds1)).getD 0), (1, (encodeSlot (.add flds)).getD 0), (2, (encodeSlot (.spanend flds1)).getD 0)]
    store := store } with
  links := links
  coltab := [setBits (setBits (colEntry 0) 161 (1 : BitVec 31)) 234 (8 : BitVec 7)] }
/-- A token for a slot and side. -/
def tokTo (slot : BitVec 5) (side : BitVec 2) (kind : BitVec 2) (sub : BitVec 3) (p : Payload) : Token := ⟨mkHdr 0 0 slot side true kind false false sub, 0, p, none⟩
/-- On its way to the element. -/
def link (t : Token) : Link := ⟨.site 0 0, 0, 0, none, t⟩
/-- The element's word of a slot takes this arity. -/
def slotIs (g : Region) (slot : Nat) (ar : Arity) : Bool := (g.elem? 0 0).any fun e => decide (e.blockedTo ≤ 1) && g.sheets.isEmpty &&
    (e.slotWord? 0 slot).any fun w =>
  (opOf (bitsAt w 119 9) (decodeFields w).xmod).isSome && (decodeFields w).ar == ar
/-- A codebook token; an operand of MOV; of SPANEND; the left operand of ADD with an empty store; with its partner waiting. -/
theorem witness_arrivals : (∃ l g, Runs (running (netRegion [link (tokTo 0 0 1 2 9)] [])) ⟨0, 0⟩ l g ∧ (g.links.length == 1) = true) ∧
    (∃ l g, Runs (running (netRegion [link (tokTo 0 0 0 0 9)] [])) ⟨0, 0⟩ l g ∧ slotIs g 0 .monadic = true) ∧
    (∃ l g, Runs (running (netRegion [link (tokTo 2 0 0 0 9)] [])) ⟨0, 0⟩ l g ∧ (slotIs g 2 .monadic && l.causes.isEmpty) = true) ∧
    (∃ l g, Runs (running (netRegion [link (tokTo 1 0 0 0 9)] [])) ⟨0, 0⟩ l g ∧
      (slotIs g 1 .dyadic && (g.elem? 0 0).any fun e => e.store.isEmpty && (placeFor g e 0).isSome) = true) ∧
    ∃ l g, Runs (running (netRegion [link (tokTo 1 0 0 0 9)] [⟨1, 1, tokTo 1 1 0 0 4, false, .operand⟩])) ⟨0, 0⟩ l g ∧ slotIs g 1 .dyadic = true :=
  ⟨runsWith_spec (by decide +kernel), runsWith_spec (by decide +kernel), runsWith_spec (by decide +kernel), runsWith_spec (by decide +kernel),
    runsWith_spec (by decide +kernel)⟩
/-- The element after an event. -/
def elemAfter (i : Instr) (s : State) : Option Elem := (after i s).bind theElem
theorem test_arrivals : (elemAfter (.tokenArrival ⟨⟨0, 0⟩, 0, 0⟩ (.site 0 0)) (running (netRegion [link (tokTo 0 0 1 2 9)] []))).map (fun e => e.lat.cbk) = some 9 ∧
    (elemAfter (.tokenArrival ⟨⟨0, 0⟩, 0, 0⟩ (.site 0 0)) (running (netRegion [link (tokTo 0 0 0 0 9)] []))).map (fun e => e.ready.length) = some 1 ∧
    (elemAfter (.tokenArrival ⟨⟨0, 0⟩, 0, 0⟩ (.site 0 0)) (running (netRegion [link (tokTo 1 0 0 0 9)] []))).map (fun e => (e.store.length, e.ready.length)) = some (1, 0) ∧
    (elemAfter (.tokenArrival ⟨⟨0, 0⟩, 0, 0⟩ (.site 0 0)) (running (netRegion [link (tokTo 1 0 0 0 9)] [⟨1, 1, tokTo 1 1 0 0 4, false, .operand⟩]))).map
      (fun e => (e.store.length, e.ready.map fun q => (q.l.map Token.pay, q.r.map Token.pay))) = some (0, [(some 9, some 4)]) := by decide +kernel
/-- R271: the span closes when SPANEND's operand arrives. -/
theorem test_spanend_arrival : ((after (.tokenArrival ⟨⟨0, 0⟩, 0, 0⟩ (.site 0 0)) (running (netRegion [link (tokTo 2 0 0 0 9)] []))).bind fun t =>
    t.launch? 0).map (fun l => (l.openSpan, l.closedSpans, l.spanDue)) = some (1, 1, [⟨0, 0, 0, 2, 0, 0⟩]) := by decide +kernel
/-- An element with a completed set and seven ready ones; a token and a request at the head of its output queue. -/
def busyRegion : Region := colRegion { Elem.empty 0 0 with
  pend := [opSet (some 5) none none]
  ready := List.replicate 7 (opSet none none none)
  out := [.tok (tokTo 0 0 0 0 9), .global (req .ld flds1)] }
/-- An entry port with a token; an exit port's token of its colour, with 15 before it, and one of another colour whose EXIT is 31. -/
def portRegion (k : Nat) : Region := let g := colRegion (Elem.empty 0 0)
  match k with
  | 0 => g.putPort 0 ⟨0x3000000000000000, 0x3000000000000000, [tokTo 0 0 0 0 9], false⟩
  | 1 => { g.putPort 2 ⟨0x4000000000000000, 0x4000000000000000, List.replicate 15 (tok 0 0), false⟩ with links := [⟨.site 0 0, 0, 0, some 2, tokTo 0 3 0 0 9⟩] }
  | _ => { g with links := [⟨.site 0 0, 0, 0, some 2, { tokTo 0 3 0 0 9 with tag := 0x0400000000000000 }⟩] }
theorem witness_moves : (∃ l g, Runs (running busyRegion) ⟨0, 0⟩ l g ∧ ((g.elem? 0 0).any fun e => e.pend.length == 1 &&
    decide (e.ready.length < 8) && e.out.length == 2) = true) ∧
    (∃ l g, Runs (running (portRegion 0)) ⟨0, 0⟩ l g ∧ (l.drainFrom.isNone && (g.ports[0]?).any (fun p => portType p.word == 3 &&
      p.queue.length == 1) &&
      (g.ports[1]?).any (·.queue.isEmpty) && (g.ports[2]?).any (·.queue.isEmpty)) = true) ∧
    (∃ l g, Runs (running (portRegion 1)) ⟨0, 0⟩ l g ∧ ((g.ports[2]?).any fun p => portCol p.word == 0 && decide (p.queue.length < 16)) = true) ∧
    ∃ l g, Runs (running (portRegion 2)) ⟨0, 0⟩ l g ∧ (colExit (g.col 1) == 31 && (g.ports[2]?).any fun p => portCol p.word != 1) = true :=
  ⟨runsWith_spec (by decide +kernel), runsWith_spec (by decide +kernel), runsWith_spec (by decide +kernel), runsWith_spec (by decide +kernel)⟩
theorem test_moves : (elemAfter (.readyQueueEntry ⟨⟨0, 0⟩, 0, 0⟩) (running busyRegion)).map (fun e => (e.pend.length, e.ready.length)) = some (0, 8) ∧
    ((after (.outputTokenSend ⟨⟨0, 0⟩, 0, 0⟩) (running busyRegion)).bind fun t => t.region? ⟨0, 0⟩).map (fun g => (g.links.length, g.accs.length)) = some (1, 0) ∧
    ((after (.entryPortInject ⟨0, 0⟩ 0 0) (running (portRegion 0))).bind fun t => t.region? ⟨0, 0⟩).map (fun g => g.links.length) = some 1 ∧
    ((after (.exitPortAccept ⟨0, 0⟩ (.site 0 0) 2) (running (portRegion 1))).bind fun t => t.region? ⟨0, 0⟩).map (fun g => (g.ports.map fun p => p.queue.length)) = some [0, 0, 16] ∧
    (after (.exitPortAccept ⟨0, 0⟩ (.site 0 0) 2) (running (portRegion 2))).map (fun t => (t.seqNo, (t.region? ⟨0, 0⟩).map fun g => g.links.length)) = some (1, some 0) := by decide +kernel

/-- A sweep of a 1 × 1 region lasts 36 cycles; this one ends, with a delta of colour 0. -/
def sweepState (cycle : Nat) : State := { running { colRegion (Elem.empty 0 0) with
    deltas := [⟨.site 0 0, 0, -3, true, false⟩]
    quiet := [64] } with cycle := cycle }
/-- All 512 pairs. -/
def allPairs : List Nat := List.range 512
/-- The launch of a region with all pairs quiescent. -/
def quietLaunch (closed : Bool) : Launch := { newLaunch 0 0 [{ (colRegion (Elem.empty 0 0)).setClosed closed with
    quiet := allPairs
    ctx := CtxState.draining :: List.replicate 7 .free
    due := [0] }] [] 0 with
  state := .running
  autoc := true
  admitted := true }
/-- A package with that launch. -/
def quietState (closed : Bool) : State := { running (slotRegion 0) with launches := [quietLaunch closed] }
/-- All pairs are quiescent for it. -/
theorem quietLaunch_quiet (closed : Bool) : (quietLaunch closed).quietAll = true := by
  cases closed <;> simp [Launch.quietAll, Launch.quietKey, quietLaunch, newLaunch, Region.setClosed, allPairs]
theorem witness_sweeps : (∃ l g, Runs (sweepState 36) ⟨0, 0⟩ l g ∧ (g.due.isEmpty && decide (g.sweepStart + (2 * (g.w + g.h) + 32) ≤ 36)) = true) ∧
    (∃ l g, Runs (quietState false) ⟨0, 0⟩ l g ∧ (g.due.contains 0 && l.purges.isEmpty && g.ctx.getD 0 .free == .draining && l.autoc &&
      l.admitted) = true) ∧
    (∃ l g, Runs (quietState true) ⟨0, 0⟩ l g ∧ (l.purges.isEmpty && g.ports.all fun p => portType p.word != 3 || p.closed) = true) ∧
    ∀ b, (quietState b).launch? 0 = some (quietLaunch b) ∧ (quietLaunch b).quietAll = true :=
  ⟨runsWith_spec (by decide +kernel), runsWith_spec (by decide +kernel), runsWith_spec (by decide +kernel),
    fun b => ⟨by simp [State.launch?, quietState, running, quietLaunch, newLaunch], quietLaunch_quiet b⟩⟩
/-- R181: 3 − 3 = 0; a sweep that is one cycle short changes nothing. -/
theorem test_sweep : ((after (.sweepEnd ⟨0, 0⟩ []) (sweepState 36)).bind fun t => t.region? ⟨0, 0⟩).map (fun g => (g.cens 0 0, g.deltas.length, g.sweeps)) = some (0, 0, 10) ∧
    after (.sweepEnd ⟨0, 0⟩ []) (sweepState 35) = some (sweepState 35) := by decide +kernel
theorem test_stall_retire : ((after (.stalledColour ⟨0, 0⟩ 0) (quietState false)).map fun t => (t.seqNo, (t.region? ⟨0, 0⟩).map Region.stalled)) = some (1, some [0]) ∧
    ((after (.contextRetire ⟨0, 0⟩ 0) (quietState false)).bind fun t => t.region? ⟨0, 0⟩).map (fun g => g.ctx.getD 0 .running) = some .free := by decide +kernel

/-- A purge of colour 0 that runs, with two tokens to discard. -/
def purgeState : State := { running (slotRegion 0) with launches := [{ newLaunch 0 0 [{ netRegion [link (tok 0 5)] [⟨1, 1, tok 1 4, false, .operand⟩] with
    sheets := [] }] [] 0 with
  state := .running
  purges := [⟨0, []⟩] }] }
theorem witness_purge : ∃ l g, Runs purgeState ⟨0, 0⟩ l g ∧ (l.purges == [⟨0, []⟩] && l.members.all (fun g' => g'.sheets.isEmpty) &&
    colExit (g.col 0) == 31) = true :=
  runsWith_spec (by decide +kernel)
/-- A purge whose record goes to the exit port 2, for which a hart and a PURGE of colour 1 wait. -/
theorem witness_purge_waiters : colExit (setBits (colEntry 0) 229 (2 : BitVec 5)) ≠ 31 ∧ (halfWay false).blocked = true ∧
    tagCol (⟨0, 0, 0, 0, flds1, 0x0400000000000000, false⟩ : Reply).tag ≠ 0 := by decide +kernel
/-- R187, R188: nothing of the colour is left, and the record counts two tokens (EXTRA, bytes 32 to 39 of the record). -/
theorem test_purge : ((after (.purgeComplete 0 0) purgeState).bind fun t => t.region? ⟨0, 0⟩).map (fun g => (g.links.length, g.censSum 0, g.elems.map fun e => e.store.length)) =
      some (0, 0, [0]) ∧
    (after (.purgeComplete 0 0) { purgeState with
      regs := [(0x5000, 0x1001)]
      mem := [] }).map (fun t => readNat t.mem (0x1000 + 64 + 32) 4) = some 2 := by decide +kernel

/-- One queued launch, and one that does not fit because it needs more columns than a die has. -/
def queuedState (w : Nat) : State := { State.reset with
  placeDue := 1
  launches := [{ newLaunch 0 0 [{ slotRegion 0 with w := w }] [] 0 with queue := 0 }] }
/-- A launch that loads. -/
def loadingState : State := { running (slotRegion 0) with launches := [{ newLaunch 0 0 [slotRegion 0] [] 0 with state := .loading }] }
/-- A CTXNEXT whose context is free; a launch with a closed span. -/
def ctxState : State := running { colRegion (Elem.empty 0 0) with ctxReqs := [⟨0x1000, none, 2, [], none, ⟨0, 0, 0, 0, flds1, 0, false⟩⟩] }
/-- The span is closed and not committed. -/
def spanState : State := { running (slotRegion 0) with
  heldLines := [⟨1, ⟨0, 0⟩, 0⟩, ⟨2, ⟨0, 0⟩, 1⟩]
  launches := [{ newLaunch 0 0 [slotRegion 0] [] 0 with
    state := .retired
    closedSpans := 1 }] }
theorem witness_placement : (fitLaunch (queuedState 1).launches (queuedState 1).launches ((queuedState 1).launches.headD launchR)).isSome = true ∧
    (fitLaunch (queuedState 81).launches (queuedState 81).launches ((queuedState 81).launches.headD launchR)).isNone = true ∧
    ((queuedState 1).launches.all fun l => l.state == .queued && decide (l.queue < 64) && decide (l.fails < 15) && !l.scanned) = true ∧
    (queuedState 1).sealedWorld 0 = false ∧ (queuedState 1).reserved = [] ∧ 0 < (queuedState 1).placeDue ∧
    (loadingState.launch? 0).any (fun l => l.state == .loading && !l.scanned) = true ∧
    (∃ l g, Runs ctxState ⟨0, 0⟩ l g ∧ (g.ctxReqs.length == 1 && g.ctx.getD 2 .running == .free && !ctxState.sealedWorld l.world) = true) ∧
    (spanState.launch? 0).any (fun l => decide (l.committed < l.closedSpans) && l.members.all (fun g => g.accs.isEmpty && g.mports.isEmpty &&
      g.tiles.isEmpty) &&
      l.spanReplies.isEmpty) = true ∧ spanState.routes = [] ∧ spanState.sysWaits = [] :=
  ⟨by decide +kernel, by decide +kernel, by decide +kernel, by decide +kernel, by decide +kernel, by decide +kernel, by decide +kernel, runsWith_spec (by decide +kernel),
    by decide +kernel, rfl, rfl⟩
theorem test_placement : (after .placementDecision (queuedState 1)).map (fun t => (t.launches.map Launch.state, t.laygen)) = some ([.loading], 1) ∧
    (after .placementDecision (queuedState 81)).map (fun t => t.launches.map fun l => (l.state, l.fails)) = some [(.queued, 1)] ∧
    (after (.loadComplete 0) loadingState).map (fun t => t.launches.map Launch.state) = some [.running] ∧
    ((after (.ctxnextLoadComplete ⟨0, 0⟩ 2) ctxState).bind fun t => t.region? ⟨0, 0⟩).map (fun g => (g.ctx.getD 2 .free, g.ctxReqs.length)) = some (.running, 0) ∧
    (after (.spanCommit 0) spanState).map (fun t => (t.heldLines.map HeldLine.span, t.launches.map fun l => (l.committed, l.state))) = some ([1], [(1, .committed)]) := by
  decide +kernel

/-! ## Accesses, generators, windows, banks and copies (R209 to R263) -/

/-- No access waits at a held line. -/
def unheldB (s : State) : Bool := s.heldLines.isEmpty && s.kvHolds.isEmpty && s.busWaits.isEmpty && s.launches.all fun l => l.held.isEmpty &&
    l.members.all fun g =>
  (g.accs ++ g.xfers.map Xfer.acc).all (fun a => (a.wait? ⟨0, 0⟩).isNone) && (g.mports.flatMap MPort.windows).all fun w => w.wait.isNone
theorem unheld_spec {s : State} (h : unheldB s = true) : Unheld s := by
  simp only [unheldB, Bool.and_eq_true, List.isEmpty_iff, List.all_eq_true, Option.isNone_iff_eq_none] at h
  obtain ⟨⟨⟨h1, h2⟩, h3⟩, h4⟩ := h
  refine ⟨h1, h2, fun line => ?_, fun l hl => (h4 l hl).1⟩
  unfold State.waitsAt
  rw [h3, List.filter_nil, List.map_nil, List.append_nil, List.flatMap_eq_nil_iff]
  intro l hl
  rw [List.flatMap_eq_nil_iff]
  intro g hg
  obtain ⟨ha, hw⟩ := (h4 l hl).2 g.1 (List.fst_mem_of_mem_zipIdx hg)
  rw [List.append_eq_nil_iff, List.filterMap_eq_nil_iff, List.filterMap_eq_nil_iff]
  refine ⟨fun a hm => ?_, fun w hm => by unfold Window.wait?; rw [hw w hm]; rfl⟩
  have h0 := ha a (List.mem_filter.mp hm).1
  unfold Access.wait? at h0 ⊢
  split at h0 <;> simp_all

/-- An access of a word with operands a and b, at a stage, with the physical addresses it reaches. -/
def accOf (o : Op) (f : Fields) (a b : Payload) (stage : Stage) (pas : List Nat) : Access := ⟨1, ⟨o, f, 0, 0, 0, 0, true, false, a, b, 0, 0, []⟩, 3, stage, 0, 0, 0x10040, pas, [], 0, false⟩
/-- A region with accesses, whose colour 0 has a window of 4 KiB at 64 KiB. -/
def accRegion (as : List Access) : Region := { colRegion (Elem.empty 0 0) with
  accs := as
  coltab := [setBits (setBits (colEntry 0) 64 (4096 : BitVec 64)) 0 (65536 : BitVec 64)] }
/-- A package with one access and a memory of four bytes at 0x2000, 0xFFFFFFFE. -/
def accState (a : Access) : State := { running (accRegion [a]) with mem := writeNat [] 0x2000 4 0xFFFFFFFE }
/-- LEN 4 in chain 15; in chain 2. -/
def len4 : Fields := { flds1 with xmod := 2, imm := 15 }
def chain2 : Fields := { flds1 with xmod := 2, imm := 2 + 7 * 2 ^ 16 + 6 * 2 ^ 24 }
/-- An access is the region's one access, at this stage. -/
def onlyAcc (a : Access) (stage : Stage) (g : Region) : Bool := g.acc? a.id == some a && g.accs == [a] && a.stage == stage &&
    decide (a.before = []) && !a.req.bubble
/-- LD of an offset. -/
def ldAt (off : Payload) (st : Stage) : Access := accOf .ld len4 off 0 st [0x2000]
/-- A wave of chain 2 whose number 7 is done. -/
def chainState : State := running { accRegion [accOf .ld chain2 0 0 .waiting []] with mports := [⟨3, [⟨2, 0, some 0, some (6, 7), none, [7]⟩], [], []⟩] }
/-- MFENCE with nothing to wait for; OWNPASS of a registry entry without a window. -/
def fenceAcc (o : Op) : Access := { accOf o { flds1 with xmod := 10 } 5 0 .settled [] with tile := 0 }
/-- Its state. -/
def fenceState (o : Op) : State := running { accRegion [fenceAcc o] with mports := [⟨0, [], [], [⟨0, 0, 0, 64, 1, 0, 0⟩]⟩] }
/-- Another launch's region on the die holds the entry. -/
def passState : State := { running (accRegion [fenceAcc .ownpass]) with
  launches := [{ newLaunch 0 0 [accRegion [fenceAcc .ownpass]] [] 0 with state := .running },
    { newLaunch 0 1 [{ slotRegion 0 with mports := [⟨0, [], [], [⟨0, 0, 0, 64, 1, 0, 0⟩]⟩] }] [] 0 with state := .running }] }
theorem witness_accesses : (∃ l g, Runs (accState (ldAt 64 .net)) ⟨0, 0⟩ l g ∧
      (onlyAcc (ldAt 64 .net) .net g && (accState (ldAt 64 .net)).hasRoom g.die 3) = true) ∧
    (∃ l g, Runs (accState (ldAt 1 .waiting)) ⟨0, 0⟩ l g ∧ (onlyAcc (ldAt 1 .waiting) .waiting g &&
      (ldAt 1 .waiting).req.offset % (ldAt 1 .waiting).req.len != 0) = true) ∧
    (∃ l g, Runs (accState (ldAt 4096 .waiting)) ⟨0, 0⟩ l g ∧ (onlyAcc (ldAt 4096 .waiting) .waiting g && decide (colWsize (g.col 0) < 4100) &&
      colWsize (g.col 0) != 0) = true) ∧
    (∃ l g, Runs (accState (ldAt 4092 .waiting)) ⟨0, 0⟩ l g ∧ (onlyAcc (ldAt 4092 .waiting) .waiting g &&
      decide ((ldAt 4092 .waiting).req.offset + 4 ≤ colWsize (g.col 0))) = true) ∧
    (∃ l g, Runs chainState ⟨0, 0⟩ l g ∧ (((g.mport 3).chain 2 0).wave == some 0 && ((g.mport 3).chain 2 0).done.contains 7 &&
      g.accs.all fun a => a.req.chain == 2 && a.stage == .waiting) = true) ∧
    (∃ l g, Runs (fenceState .mfence) ⟨0, 0⟩ l g ∧ onlyAcc (fenceAcc .mfence) .settled g = true) ∧
    (∃ l g, Runs (fenceState .ownpass) ⟨0, 0⟩ l g ∧ (onlyAcc (fenceAcc .ownpass) .settled g &&
      (fenceState .ownpass).regEntry g.die 0 0 == some (⟨0, 0⟩, ⟨0, 0, 0, 64, 1, 0, 0⟩) &&
      g.mports.all fun m => m.windows.isEmpty) = true) ∧
    ∃ l g, Runs passState ⟨0, 0⟩ l g ∧ (onlyAcc (fenceAcc .ownpass) .settled g &&
      passState.regEntry g.die 0 0 == some (⟨1, 0⟩, ⟨0, 0, 0, 64, 1, 0, 0⟩)) = true :=
  ⟨runsWith_spec (by decide +kernel), runsWith_spec (by decide +kernel), runsWith_spec (by decide +kernel), runsWith_spec (by decide +kernel),
    runsWith_spec (by decide +kernel),
    runsWith_spec (by decide +kernel), runsWith_spec (by decide +kernel), runsWith_spec (by decide +kernel)⟩
/-- The accesses after an event, with their addresses; the causes of the records on the way, and data tokens. -/
def accsAfter (i : Instr) (s : State) : Option (List (Stage × Nat × List Nat)) := ((after i s).bind fun t => t.region? ⟨0, 0⟩).map fun g => g.accs.map fun a => (a.stage, a.va, a.pas)
/-- Its kind, and its cause or payload. -/
def linksAfter (i : Instr) (s : State) : Option (List (BitVec 2 × Nat)) := ((after i s).bind fun t => t.region? ⟨0, 0⟩).map fun g => g.links.map fun k =>
  (k.tok.kind, if k.tok.kind = 3 then (bitsAt k.tok.pay 0 10).toNat else k.tok.pay.toNat)
theorem test_accesses : accsAfter (.memoryRequestAccept ⟨0, 0⟩ 1) (accState (ldAt 64 .net)) = some [(.waiting, 0x10040, [0x2000])] ∧
    linksAfter (.chainPerform ⟨0, 0⟩ 1) (accState (ldAt 1 .waiting)) = some [(3, 5 * 64 + 8)] ∧
    linksAfter (.chainPerform ⟨0, 0⟩ 1) (accState (ldAt 4096 .waiting)) = some [(3, 5 * 64 + 3)] ∧
    accsAfter (.chainPerform ⟨0, 0⟩ 1) (accState (ldAt 4092 .waiting)) = some [(.translate, 65536 + 4092, [])] ∧
    linksAfter (.chainPerform ⟨0, 0⟩ 1) chainState = some [(3, 5 * 64 + 9)] ∧
    linksAfter (.mfenceComplete ⟨⟨0, 0⟩, 0, 0⟩) (fenceState .mfence) = some [(0, 5)] ∧
    ((after (.ownpassComplete ⟨⟨0, 0⟩, 0, 0⟩) (fenceState .ownpass)).bind fun t => t.region? ⟨0, 0⟩).map (fun g => (g.mport 0).registry.map fun e => (e.x, e.y, e.gen)) =
      some [(0, 1, 2)] ∧
    (after (.ownpassComplete ⟨⟨0, 0⟩, 0, 0⟩) passState).map (fun t => t.launches.map fun l => l.members.map fun g => (g.mport 0).registry.length) =
      some [[1], [0]] := by decide +kernel

/-- A 64 KiB page of world 0 at VA 0x10000 in the translation tile of its page. -/
def pageEntry (w : Bool) : XEntry := ⟨0, xlatTile 0x10040, 0, 1, 0, 0x50000, true, w⟩
/-- A load or a store that is translated, with entries. -/
def xlatState (o : Op) (es : List XEntry) : State := { accState (accOf o len4 64 9 .translate []) with xlat := es }
/-- A load whose walk reads a line that a span holds, and one that has waited at a held line since cycle 0. -/
def walkState : State := { mapped0 (accState (accOf .ld len4 64 0 .translate [])) with heldLines := [⟨lineOf 0x20000, ⟨7, 0⟩, 0⟩] }
/-- The compaction engine holds that line. -/
def behindState : State := { mapped0 (accState (accOf .ld len4 64 0 .translate [])) with
  kvHolds := [⟨0, 9, 0, ⟨7, 0⟩, accOf .kvevict len4 0 0 .settled [], [lineOf 0x20000]⟩] }
/-- The table's line is poisoned. -/
def badWalk : State := { mapped0 (accState (accOf .ld len4 64 0 .translate [])) with poisoned := [(lineOf 0x20000, mkCause 12 4)] }
/-- Its state in cycle 65536. -/
def heldState : State := { accState (ldAt 64 (.held 0)) with cycle := 65536 }
theorem witness_translation : (∃ l g, Runs (xlatState .ld [pageEntry false]) ⟨0, 0⟩ l g ∧
    ((pageEntry false).hit g.die (xlatTile 0x10040) 0 0 0x10040 && (g.acc? 1).any fun a => a.stage == .translate) = true) ∧
    (∃ l g, Runs walkState ⟨0, 0⟩ l g ∧ (g.acc? 1).any (fun a => let x := walkState.translate g.die 0 0 a.va true false
      walkState.walkHeld x.reads && !walkState.walkBehind x.reads) = true) ∧
    (∃ l g, Runs behindState ⟨0, 0⟩ l g ∧
      (g.acc? 1).any (fun a => behindState.walkBehind (behindState.translate g.die 0 0 a.va true false).reads) = true) ∧
    (∃ l g, Runs badWalk ⟨0, 0⟩ l g ∧ (g.acc? 1).any (fun a => match (badWalk.translate g.die 0 0 a.va true false).out with
      | .error c => c == mkCause 12 4
      | .ok _ => false) = true) ∧
    (∃ l g, Runs heldState ⟨0, 0⟩ l g ∧ (onlyAcc (ldAt 64 (.held 0)) (.held 0) g && l.members == [g] && heldState.launches == [l] &&
      heldState.busWaits.isEmpty) = true) ∧
    (xlatState .ld []).xlat = [] ∧ bitAt ((xlatState .ld []).reg 0x800) 0 = false :=
  ⟨runsWith_spec (by decide +kernel), runsWith_spec (by decide +kernel), runsWith_spec (by decide +kernel), runsWith_spec (by decide +kernel),
    runsWith_spec (by decide +kernel), rfl, by decide +kernel⟩
/-- R226, R235, R269. -/
theorem test_translation : accsAfter (.pageTableWalk ⟨0, 0⟩ 1) (xlatState .ld [pageEntry false]) = some [(.slice, 0x10040, [0x50040])] ∧
    ((after (.pageTableWalk ⟨0, 0⟩ 1) (xlatState .st [pageEntry false])).bind fun t => t.launch? 0).map (fun l => l.causes.map FreezeCause.cause) = some [mkCause 5 2] ∧
    ((after (.pageTableWalk ⟨0, 0⟩ 1) (xlatState .ld [])).bind fun t => t.launch? 0).map (fun l => l.causes.map FreezeCause.cause) = some [mkCause 5 1] ∧
    accsAfter (.pageTableWalk ⟨0, 0⟩ 1) (mapped0 (accState (accOf .ld len4 64 0 .translate []))) = some [(.slice, 0x10040, [0x20010040])] ∧
    accsAfter (.pageTableWalk ⟨0, 0⟩ 1) walkState = some [(.walk 1, 0x10040, [])] ∧ after (.pageTableWalk ⟨0, 0⟩ 1) behindState = some behindState ∧
    linksAfter (.pageTableWalk ⟨0, 0⟩ 1) badWalk = some [(3, 12 * 64 + 4)] ∧
    linksAfter (.heldAccessTimeout 1) heldState = some [(3, 6 * 64 + 3)] := by decide +kernel

/-- An access of four bytes at its home slice. -/
def sliceState (o : Op) (a : Payload) : State := accState (accOf o { len4 with et := .i32 } a a .slice [0x2000])
/-- The same bytes, poisoned. -/
def poisonState : State := { sliceState .ld 0 with poisoned := [(lineOf 0x2000, mkCause 12 4)] }
/-- A conditional store of 77 whose stamp is b; the line's stamp is 0. -/
def condState (b : Payload) : State := accState { accOf .cmst len4 77 b .settled [0x2000] with req := { (accOf .cmst len4 77 b .settled [0x2000]).req with a := 77, b := b } }
theorem witness_slice : (∃ l g, Runs (sliceState .ld 0) ⟨0, 0⟩ l g ∧ ((g.acc? 1).any fun a => a.stage == .slice && a.pas == [0x2000] &&
    a.req.len == 4) = true) ∧ Unheld (sliceState .ld 0) ∧
    Memory.wf (sliceState .ld 0).mem = true ∧ (sliceState .ld 0).poison? 0x2000 4 = none ∧ poisonState.poison? 0x2000 4 = some (mkCause 12 4) ∧
      Unheld poisonState ∧
    (∃ l g, Runs (condState 0) ⟨0, 0⟩ l g ∧ ((g.acc? 1).any fun a => a.stage == .settled && a.pas == [0x2000] && a.req.chain == 15 && a.req.last &&
      g.accs == [a]) = true) ∧ Unheld (condState 0) :=
  ⟨runsWith_spec (by decide +kernel), unheld_spec (by decide +kernel),
    by decide +kernel, by decide +kernel, by decide +kernel, unheld_spec (by decide +kernel), runsWith_spec (by decide +kernel),
    unheld_spec (by decide +kernel)⟩
/-- The bytes at 0x2000 and the answer. -/
def served (i : Instr) (s : State) : Option (Nat × List (BitVec 2 × Nat)) := (after i s).bind fun t => (linksAfter i s).map fun k => (readNat t.mem 0x2000 4, k)
/-- R239, R244, R246, R248: on −2. -/
theorem test_slice : served (.homeSliceAccess ⟨0, 0⟩ 1) (sliceState .ld 0) = some (0xFFFFFFFE, [(0, 0xFFFFFFFE)]) ∧
    served (.homeSliceAccess ⟨0, 0⟩ 1) (sliceState .st 7) = some (7, [(0, 0)]) ∧
    served (.homeSliceAccess ⟨0, 0⟩ 1) (sliceState .atadd 3) = some (1, [(0, 0xFFFFFFFE)]) ∧
      served (.homeSliceAccess ⟨0, 0⟩ 1) (sliceState .atmax 3) = some (3, [(0, 0xFFFFFFFE)]) ∧
    served (.homeSliceAccess ⟨0, 0⟩ 1) (sliceState .attsb 32) = some (0xFFFFFFFF, [(0, 0)]) ∧
      served (.homeSliceAccess ⟨0, 0⟩ 1) (sliceState .atcas 5) = some (0xFFFFFFFE, [(0, 0xFFFFFFFE)]) ∧
    served (.homeSliceAccess ⟨0, 0⟩ 1) poisonState = some (0xFFFFFFFE, [(3, 12 * 64 + 4)]) ∧
      served (.cmstGroupSettle ⟨0, 0⟩ 1) (condState 0) = some (77, [(0, 1)]) ∧
    served (.cmstGroupSettle ⟨0, 0⟩ 1) (condState 1) = some (0xFFFFFFFE, [(0, 0)]) := by decide +kernel
/-- A descriptor of two addresses, 32 apart (R216). -/
def desc2 : Payload := packLanes 64 [2 + 32 * 2 ^ 32, 1, 1, 1]
/-- A generator bound with KIND k to window 1, with a nest at access n whose AGGO names field 1. -/
def gen2 (k : Nat) (n : Nat) : Gen := ⟨desc2, 64, some (req .agset { east with xmod := BitVec.ofNat 10 (1 + 16 * k + (if k = 2 then 64 else 0)), imm := 1 }),
  some ⟨req .aggo { east with xmod := 17 }, n, none⟩, [], 0⟩
/-- The tile with byte 96 of partition 0 set to 9 and an entry in FIFO partition 1. -/
def genTile (k n : Nat) : Tile := (({ tile1 with bytes := writeBytes [] 96 [9] }).setFifo 1 [77]).putGen 0 (gen2 k n)
/-- A window of the generator with units. -/
def win (write : Bool) (us : List WUnit) : Window := ⟨5, 1, 1, 0, 0, write, 32 * us.length, 0, us, none, []⟩
/-- Thirty-two bytes 88 at VA 64. -/
def unit1 : WUnit := ⟨6, 0, 64, 88, none, 0⟩
/-- The region with the tile and windows. -/
def genState (k n : Nat) (ws : List Window) : State := mapped0 (running { tileRegion (opSet none none none) (genTile k n) with mports := [⟨0, [], ws, []⟩] })
/-- The nest of the stream read starts at an address that is no multiple of 32. -/
def oddGen : State := mapped0 (running { tileRegion (opSet none none none)
    ((genTile 1 0).putGen 0 { gen2 1 0 with base := 65 }) with mports := [⟨0, [], [win false []], []⟩] })
/-- A tile and its nest's binding have these properties. -/
def genHas (k n : Nat) (P : Region → Tile → Bool) (l : Launch) (g : Region) : Bool := l.drainFrom.isNone && g.tile? 1 0 == some (genTile k n) &&
    !g.multiw &&
  decide ((g.tiles.map fun u => (u.x, u.y)).Nodup) && g.tiles.all (fun u => u.gens.all fun j => j.queue.isEmpty) && P g (genTile k n)
/-- The bind request of a kind. -/
def bind2 (k : Nat) : Request := ((gen2 k 0).bind).getD (req .agset east)
/-- The store's state: its FIFO's entry, its window, its banks. -/
theorem nest2 : ∃ l g, Runs (genState 2 0 [win true []]) ⟨0, 0⟩ l g ∧ genHas 2 0 (fun g t => (bind2 2).kind == 2 &&
      g.genWindow t 0 (bind2 2) == some (win true []) && t.fifo (bind2 2).part == [77] && g.vaOf 0 64 32 matches .ok 64) l g = true ∧
      ((genState 2 0 [win true []]).tileView l g).banksFree (genTile 2 0) 2 1 ((genTile 2 0).genReach (bind2 2) 64) 32 = true ∧
      (genState 2 0 [win true []]).foreign ⟨0, 0⟩ 0 0 0 64 1 0 0 = false := by
  obtain ⟨l, g, h, hp⟩ := runsWith_spec (s := genState 2 0 [win true []]) (r := ⟨0, 0⟩) (P := fun l g =>
    genHas 2 0 (fun g t => (bind2 2).kind == 2 && g.genWindow t 0 (bind2 2) == some (win true []) && t.fifo (bind2 2).part == [77] &&
      g.vaOf 0 64 32 matches .ok 64) l g &&
    (((genState 2 0 [win true []]).tileView l g).banksFree (genTile 2 0) 2 1 ((genTile 2 0).genReach (bind2 2) 64) 32 &&
      !(genState 2 0 [win true []]).foreign ⟨0, 0⟩ 0 0 0 64 1 0 0)) (by decide +kernel)
  rw [Bool.and_eq_true, Bool.and_eq_true, Bool.not_eq_true'] at hp
  exact ⟨l, g, h, hp⟩
theorem witness_nests : (∃ l g, Runs (genState 0 1 []) ⟨0, 0⟩ l g ∧ genHas 0 1 (fun _ t => (bind2 0).kind == 0 && decide (1 < nestLen desc2) &&
    (t.gen 0).nest.any (fun v => v.fail.isNone && !v.req.lane && v.req.f.dst0.v &&
      nestAddr desc2 64 v.next % 32 == 0 && decide (nestAddr desc2 64 v.next + 32 ≤ modeSize (t.part (bind2 0).part))) &&
    ((genState 0 1 []).tileView l g).banksFree t 2 1 (t.genReach (bind2 0) (nestAddr desc2 64 1)) 32 &&
      modeOf (t.part (bind2 0).part) != 3) l g = true) ∧
    (∃ l g, Runs (genState 1 0 [win false [unit1]]) ⟨0, 0⟩ l g ∧ genHas 1 0 (fun g t => (bind2 1).kind == 1 &&
      g.genWindow t 0 (bind2 1) == some (win false [unit1])) l g = true) ∧
    (∃ l g, Runs (genState 2 0 [win true []]) ⟨0, 0⟩ l g ∧ genHas 2 0 (fun g t => (bind2 2).kind == 2 &&
      g.genWindow t 0 (bind2 2) == some (win true []) && t.fifo (bind2 2).part == [77] && g.vaOf 0 64 32 matches .ok 64) l g = true ∧
      ((genState 2 0 [win true []]).tileView l g).banksFree (genTile 2 0) 2 1 ((genTile 2 0).genReach (bind2 2) 64) 32 = true ∧
      (genState 2 0 [win true []]).foreign ⟨0, 0⟩ 0 0 0 64 1 0 0 = false) ∧
    ∃ l g, Runs (genState 0 2 []) ⟨0, 0⟩ l g ∧ genHas 0 2 (fun _ t => nestLen desc2 == 2 && decide (0 < t.gens.length)) l g = true :=
  ⟨runsWith_spec (by decide +kernel), runsWith_spec (by decide +kernel), nest2, runsWith_spec (by decide +kernel)⟩
/-- R216, R252: the second local read is at 96, with field 1 set to 1 and LAST; a stream read takes its window's oldest bytes; a store puts the
FIFO's entry into its window; the end. -/
theorem test_nests : linksAfter (.generatorAccess ⟨⟨0, 0⟩, 1, 0⟩ 0) (genState 0 1 []) = some [(0, 9)] ∧
    ((after (.generatorAccess ⟨⟨0, 0⟩, 1, 0⟩ 0) (genState 0 1 [])).bind fun t => t.region? ⟨0, 0⟩).map (fun g => g.links.map fun k => (k.tok.last, getField g.tagw 1 k.tok.tag)) = some [(true, 1)] ∧
    linksAfter (.generatorAccess ⟨⟨0, 0⟩, 1, 0⟩ 0) (genState 1 0 [win false [unit1]]) = some [(0, 88)] ∧
    ((after (.generatorAccess ⟨⟨0, 0⟩, 1, 0⟩ 0) (genState 2 0 [win true []])).bind fun t => t.region? ⟨0, 0⟩).map (fun g => ((g.mport 0).windows.map fun w => w.units.map fun u => (u.va, u.pay),
      g.tiles.map fun t => (t.fifo 1).length)) = some ([[(64, 77)]], [0]) ∧
    genAfter (.aggoNestEnd ⟨⟨0, 0⟩, 1, 0⟩ 0) (genState 0 2 []) 0 = some { gen2 0 2 with
      nest := none
      control := 1 } := by decide +kernel

/-- A window that keeps the translation of VA 0's page. -/
def keptPage : XEntry := ⟨0, 0, 0, 0, 0, 0x20000000, true, true⟩
def winKept (write : Bool) (us : List WUnit) : Window := { win write us with pages := [keptPage] }
/-- Without a kept page the translation gives an entry and an address. -/
def streamOk (s : State) (w : Window) (k : Nat) : Bool := runsWith s ⟨0, 0⟩ fun _ g =>
  let x := s.streamPage g w (bind2 k) (req .aggo { east with xmod := 17 }) 64
  x.entry.isSome && (match x.out with
    | .ok pa => pa == 0x20000040
    | .error _ => false)
/-- A window of the generator with nothing in it, one whose next address is misaligned, one with bytes to write, one with a kept page. -/
theorem witness_windows : (∃ l g, Runs (genState 1 0 [win false []]) ⟨0, 0⟩ l g ∧
    ((g.mport 0).window? 1 == some (win false []) && (g.windowNest (win false [])).any (fun q => q.1 == bind2 1 && l.drainFrom.isNone) &&
      (g.vaOf 0 64 32 matches .ok 64) && !(genState 1 0 [win false []]).foreign ⟨0, 0⟩ 0 0 0 64 1 0 0) = true) ∧
    Unheld (genState 1 0 [win false []]) ∧ Memory.wf (genState 1 0 [win false []]).mem = true ∧
      streamOk (genState 1 0 [win false []]) (win false []) 1 = true ∧
    (genState 1 0 [win false []]).poison? 0x20000040 32 = none ∧ 0x20000040 + 32 ≤ 2 ^ 40 ∧
    (∃ l g, Runs oddGen ⟨0, 0⟩ l g ∧ (g.windowNest (win false [])).any (fun q => nestAddr q.2.2.desc q.2.2.base.toNat 0 % 32 != 0) = true) ∧
    (∃ l g, Runs (genState 2 0 [win true [unit1]]) ⟨0, 0⟩ l g ∧ ((g.mport 0).window? 1 == some (win true [unit1]) &&
      (g.windowNest (win true [unit1])).isSome && !(genState 2 0 [win true [unit1]]).foreign ⟨0, 0⟩ 0 0 0 64 1 0 0) = true) ∧
    Unheld (genState 2 0 [win true [unit1]]) ∧ streamOk (genState 2 0 [win true [unit1]]) (win true [unit1]) 2 = true ∧
    (winKept false []).page? (bind2 1).psz 64 = some keptPage ∧ (win false []).page? (bind2 1).psz 64 = none :=
  ⟨runsWith_spec (by decide +kernel), unheld_spec (by decide +kernel), by decide +kernel, by decide +kernel, by decide +kernel, by decide,
    runsWith_spec (by decide +kernel), runsWith_spec (by decide +kernel), unheld_spec (by decide +kernel), by decide +kernel, by decide +kernel,
    by decide +kernel⟩
/-- R219: 55 at PA 0x20000040 comes into the window; its bytes go there. -/
theorem test_windows : ((after (.windowFill ⟨0, 0⟩ 0 1) { genState 1 0 [win false []] with mem := writeNat tableMem 0x20000040 1 55 }).bind fun t => t.region? ⟨0, 0⟩).map
      (fun g => (g.mport 0).windows.map fun w => (w.head, w.units.map fun u => (u.va, u.pay, u.cause))) = some [(32, [(64, 55, none)])] ∧
    (after (.windowWriteback ⟨0, 0⟩ 0 1) (genState 2 0 [win true [unit1]])).map (fun t => (readNat t.mem 0x20000040 32, (t.region? ⟨0, 0⟩).map fun g => (g.mport 0).windows.map fun w => (w.tail, w.units.length))) =
      some (88, some [(32, 0)]) := by decide +kernel

/-- An element that asks the tile east of it for bank 2, at offset 64 of partition 0, or for its FIFO in partition 1. -/
def asking (o : Op) (f : Fields) (a b : Payload) : Request := ⟨o, f, 0, 0, 0, 0, true, false, a, b, 0, 0, []⟩
/-- With 0xF1 at byte 64 and one FIFO entry. -/
def bankState1 (q : Request) : State := running { tileRegion (opSet none none none) (({ tile1 with bytes := writeBytes [] 64 [0xF1] }).setFifo 1 [77]) with elems := [{ Elem.empty 0 0 with out := [.tile q] }] }
/-- LEN 4, DIR east, partition 0; LEN 32, partition 1. -/
def bankF : Fields := { flds1 with xmod := 2 + 16 }
def fifoF : Fields := { flds1 with xmod := 5 + 16 + 64 }
/-- It is client 9, the element west of the tile, at a bank. -/
def takesTurn (q : Request) (bank : Nat) : Bool := runsWith (bankState1 q) ⟨0, 0⟩ fun l g => (g.tile? 1 0).any fun t =>
  t.rr.isEmpty && (((bankState1 q).tileView l g).bankTurn t bank).any fun r => r.1 == 9 && r.2.2 == q
theorem witness_banks : takesTurn (asking .mtld bankF 64 0) 2 = true ∧ takesTurn (asking .mtst { bankF with ar := .dyadic } 8 64) 2 = true ∧
    takesTurn (asking .mttsb bankF 513 0) 2 = true ∧
    takesTurn (asking .mtld fifoF 0 0) 0 = true ∧ takesTurn (asking .mtst fifoF 8 0) 1 = true ∧
      takesTurn (asking .mtld bankF 1022 0) 31 = true := by decide +kernel
/-- The memory and FIFO of the tile, and what is sent. -/
def banked (q : Request) (bank : Nat) : Option (Nat × List Payload × List (BitVec 2 × Nat)) := ((after (.bankAccess ⟨⟨0, 0⟩, 1, 0⟩ bank) (bankState1 q)).bind fun t => t.region? ⟨0, 0⟩).bind fun g =>
  (g.tile? 1 0).bind fun t => (linksAfter (.bankAccess ⟨⟨0, 0⟩, 1, 0⟩ bank) (bankState1 q)).map fun k => (readNat t.bytes 64 4, t.fifo 1, k)
/-- R249: MTTSB sets bit 1 of the word at 64 (bit 513 of the partition); 1022 is misaligned. -/
theorem test_banks : banked (asking .mtld bankF 64 0) 2 = some (0xF1, [77], [(0, 0xF1)]) ∧
    banked (asking .mtst { bankF with ar := .dyadic } 8 64) 2 = some (8, [77], [(0, 0)]) ∧
    banked (asking .mttsb bankF 513 0) 2 = some (0xF3, [77], [(0, 0)]) ∧ banked (asking .mtld fifoF 0 0) 0 = some (0xF1, [], [(0, 77)]) ∧
    banked (asking .mtst fifoF 8 0) 1 = some (0xF1, [77, 8], [(0, 0)]) ∧
      banked (asking .mtld bankF 1022 0) 31 = some (0xF1, [77], [(3, 5 * 64 + 8)]) := by decide +kernel
/-- The tile with a line buffer of two lines of 512 bytes, byte 64 of line 0 being 0xF1. -/
def lineState (q : Request) : State := running { tileRegion (opSet none none none) { tile1 with
    modes := [0x3100008000000000]
    bytes := writeBytes [] 64 [0xF1] } with elems := [{ Elem.empty 0 0 with out := [.tile q] }] }
/-- R211: with LAST a store ends its line, and the oldest line is the newest. -/
theorem test_lines : ((after (.bankAccess ⟨⟨0, 0⟩, 1, 0⟩ 2) (lineState { asking .mtst { bankF with ar := .dyadic } 8 64 with last := true })).bind fun t =>
    t.region? ⟨0, 0⟩).map (fun g => g.tiles.map fun t => (t.lines, readNat t.bytes 64 4)) = some [([(0, 1)], 8)] := by decide +kernel

/-- A COPY of 64 bytes at offset 0x8000 and local offset 128, and a NASK; OUT is XMOD's bit 3. -/
def copyReq (o : Op) (out : Bool) : Request := asking o { flds1 with xmod := if out then 9 else 1, imm := 15 } (packLanes 64 [0x8000, 64 + 128 * 2 ^ 32]) 0
/-- A transfer. -/
def xfer (o : Op) (out : Bool) (ans : Option Answer) : Xfer := ⟨⟨1, copyReq o out, 0, .slice, 0, 0, 0, [], [], 1, false⟩, 1, ans⟩
/-- Channel 0 with that transfer running at WPTR w, or queued, and a CPWAIT for 64 bytes of transfer 1. -/
def chanState (x : Xfer) (cur : Bool) (w : Nat) : State := { mapped0 (running (tileRegion (opSet none none none) ({ tile1 with bytes := writeBytes [] 160 [9] }.putChan 0
    ⟨if cur then 1 else 0, w, if cur then some x else none, if cur then [] else [x], [asking .cpwait east (64 + 2 ^ 32) 0]⟩))) with mem := writeNat tableMem 0x20008020 1 55 }
/-- The channel's hypotheses. -/
def chanHas (x : Xfer) (w : Nat) (l : Launch) (g : Region) : Bool := l.drainFrom.isNone && decide ((g.tiles.map fun u => (u.x, u.y)).Nodup) &&
    (g.tile? 1 0).any fun t =>
  decide (0 < t.chans.length) && (t.chan 0).cur == some x && (t.chan 0).wptr == w && !x.acc.mute && !x.acc.req.ext
/-- The channel's next piece finds its banks free. -/
def banks (x : Xfer) (w : Nat) (l : Launch) (g : Region) : Bool := (g.tile? 1 0).any fun t =>
  ((chanState x true w).tileView l g).banksFree t 0 1 (x.acc.req.place (t.part x.acc.req.copyPart) + w) 32
theorem witness_channels : (∃ l g, Runs (chanState (xfer .copy false none) false 0) ⟨0, 0⟩ l g ∧
    ((g.tile? 1 0).any fun t => (t.chan 0).cur.isNone && (t.chan 0).queue == [xfer .copy false none]) = true) ∧
    (∃ l g, Runs (chanState (xfer .copy false none) true 32) ⟨0, 0⟩ l g ∧
      (chanHas (xfer .copy false none) 32 l g && banks (xfer .copy false none) 32 l g && g.vaOf 0 0x8020 32 matches .ok 0x8020) = true) ∧
        Unheld (chanState (xfer .copy false none) true 32) ∧
    Memory.wf (chanState (xfer .copy false none) true 32).mem = true ∧
      ((chanState (xfer .copy false none) true 32).translate 0 0 0 0x8020 true false).out = .ok 0x20008020 ∧
    (∃ l g, Runs (chanState (xfer .copy true none) true 32) ⟨0, 0⟩ l g ∧
      (chanHas (xfer .copy true none) 32 l g && banks (xfer .copy true none) 32 l g) = true) ∧
      ((chanState (xfer .copy true none) true 32).translate 0 0 0 0x8020 false true).out = .ok 0x20008020 ∧
    (∃ l g, Runs (chanState (xfer .copy true none) true 64) ⟨0, 0⟩ l g ∧
      (chanHas (xfer .copy true none) 64 l g && (copyReq .copy true).amount == 64) = true) ∧
    (∃ l g, Runs (chanState (xfer .copy true (some (.cause 323))) true 0) ⟨0, 0⟩ l g ∧ chanHas (xfer .copy true (some (.cause 323))) 0 l g = true) ∧
    (∃ l g, Runs (chanState (xfer .nask false (some (.bytes [7, 8]))) true 0) ⟨0, 0⟩ l g ∧
      (chanHas (xfer .nask false (some (.bytes [7, 8]))) 0 l g && banks (xfer .nask false (some (.bytes [7, 8]))) 0 l g) = true) ∧
    (∃ l g, Runs (chanState (xfer .nask false (some (.bytes (List.replicate 40 7)))) true 0) ⟨0, 0⟩ l g ∧
      banks (xfer .nask false (some (.bytes (List.replicate 40 7)))) 0 l g = true) ∧
    (∃ l g, Runs (chanState (xfer .nask false (some (.cause 323))) true 0) ⟨0, 0⟩ l g ∧ chanHas (xfer .nask false (some (.cause 323))) 0 l g = true) ∧
    ∃ l g, Runs (chanState (xfer .copy true none) true 64) ⟨0, 0⟩ l g ∧
      ((g.tile? 1 0).any fun t => (t.chan 0).waits.length == 1 && (t.chan 0).meets (64 + 2 ^ 32)) = true :=
  ⟨runsWith_spec (by decide +kernel), runsWith_spec (by decide +kernel), unheld_spec (by decide +kernel),
    by decide +kernel, by decide +kernel, runsWith_spec (by decide +kernel), by decide +kernel,
    runsWith_spec (by decide +kernel), runsWith_spec (by decide +kernel), runsWith_spec (by decide +kernel), runsWith_spec (by decide +kernel),
      runsWith_spec (by decide +kernel), runsWith_spec (by decide +kernel)⟩
/-- The channel's WPTR, whether a transfer runs, and the four bytes at 160 of the tile. -/
def chanAfter (i : Instr) (s : State) : Option (Nat × Bool × Nat) := ((after i s).bind fun t => t.region? ⟨0, 0⟩).bind fun g => (g.tile? 1 0).map fun t => ((t.chan 0).wptr, (t.chan 0).cur.isSome, readNat t.bytes 160 4)
/-- R218, R254, R255, R352. -/
theorem test_channels : chanAfter (.copyTransferStart ⟨⟨0, 0⟩, 1, 0⟩ 0) (chanState (xfer .copy false none) false 0) = some (0, true, 9) ∧
    chanAfter (.copyPiece ⟨⟨0, 0⟩, 1, 0⟩ 0) (chanState (xfer .copy false none) true 32) = some (64, true, 55) ∧
    (after (.copyPiece ⟨⟨0, 0⟩, 1, 0⟩ 0) (chanState (xfer .copy true none) true 32)).map (fun t => readNat t.mem 0x20008020 4) = some 9 ∧
    linksAfter (.copyDone ⟨⟨0, 0⟩, 1, 0⟩ 0) (chanState (xfer .copy true none) true 64) = some [(0, 0)] ∧
    linksAfter (.copyDone ⟨⟨0, 0⟩, 1, 0⟩ 0) (chanState (xfer .copy true (some (.cause 323))) true 0) = some [(3, 323)] ∧
    linksAfter (.answerDelivery ⟨⟨0, 0⟩, 1, 0⟩ 0) (chanState (xfer .nask false (some (.bytes [7, 8]))) true 0) = some [(0, 2)] ∧
    linksAfter (.answerDelivery ⟨⟨0, 0⟩, 1, 0⟩ 0) (chanState (xfer .nask false (some (.cause 323))) true 0) = some [(3, 323)] ∧
    linksAfter (.cpwaitRelease ⟨⟨0, 0⟩, 1, 0⟩ 0) (chanState (xfer .copy true none) true 64) = some [(0, 64 + 2 ^ 32)] := by decide +kernel
/-! ## Sheets, compaction, gallery (R285 to R302, R326, R344 to R351) -/

/-- Tiles that feed and drain the element at (2, 2), after R305's program: an operand store of 4 buffers, a FIFO of 32 KiB. -/
def storeTile (x y : Nat) : Tile := { loadTile [] x y with modes := [0x1300200000000000] }
/-- The region with a sheet of one element. -/
def sheetRegion (h : Sheet) : Region := { colRegion { Elem.empty 2 2 with xs := 1 } with
  w := 4
  h := 4
  tiles := [storeTile 1 2, storeTile 2 1, { loadTile [] 2 3 with modes := [0x2000100000000000] }]
  sheets := [h] }
/-- A sheet of one element at (2, 2). -/
def sheet2 : Sheet := SheetDef.fresh ⟨2, 2, 0, 1, 1, 0, 0⟩
/-- MMA of K = 2 in I8 with an I32 accumulator. -/
def mmaF : Fields := { flds with imm := 2 }
/-- A row stream that waits. -/
def rowStream : Stream := ⟨true, 0, 0, 0, true, .pending, none⟩
/-- A pass over A = (2, 3) and B = (5, 7) in rows and columns 0, that n groups have been added to. -/
def pass1 (n : Nat) (fail : Option Cause) : Pass := ⟨⟨0, 2, 2, 0, mmaF, 0, false⟩, 0, false, fail, [⟨n, 0, 0, 0⟩],
  [⟨true, 0, 0, 1, true, false, false, [], [⟨none, true, lanes 8 ([2] ++ List.replicate 15 0 ++ [3])⟩]⟩, ⟨false, 0, 0, 1, true, false, false, [], [⟨none, true, lanes 8 ([5] ++ List.replicate 15 0 ++ [7])⟩]⟩]⟩
/-- An MDRAIN of bank 0 with entries left to push. -/
def drain1 (q : Option (List (List Payload))) : BankOp := ⟨.mdrain, ⟨0, 2, 2, 0, flds1, 0, false⟩, 0, q⟩
/-- A package with that sheet; a token on its way to it. -/
def sheetState (h : Sheet) : State := running (sheetRegion h)
def streamState (tag : Word64) : State := running { sheetRegion { sheet2 with streams := [rowStream] } with links := [⟨.site 1 2, 2, 2, none, { tok 0 9 with tag := tag }⟩] }
theorem witness_sheets_at_work : (∃ l g, Runs (streamState 0) ⟨0, 0⟩ l g ∧
    (g.sheet? 2 2 == some { sheet2 with streams := [rowStream] } && (g.streamTok 2 2 (tok 0 9)).isSome && g.links.length == 1 &&
      decide (0 < modeSize (g.feeder sheet2 true 0) / (modePar (g.feeder sheet2 true 0) + 1) / 32)) = true) ∧
    (∃ l g, Runs (streamState 0x0400000000000000) ⟨0, 0⟩ l g ∧ (g.links.all fun k => k.tok.counted && tagCol k.tok.tag == 1 &&
      (g.streamTok 2 2 k.tok).isSome) = true) ∧
    (∃ l g, Runs (sheetState { sheet2 with ops := [.pass (pass1 0 none)] }) ⟨0, 0⟩ l g ∧
      ((g.sheet? 2 2).any fun h => h.passAt 0 0 == some (0, pass1 0 none) && (g.sheetElem h 0 0).isSome && h.banks.length == 2 &&
      !h.opWaits 0 0 && (h.bankState 0).owner.isNone && (h.elems.getD 0 []).length == 2 &&
        (pass1 0 none).inputs.all (fun i => i.items.all fun k => k.side.isNone && k.pred)) = true) ∧
    (∃ l g, Runs (sheetState { sheet2 with ops := [.pass (pass1 1 none)] }) ⟨0, 0⟩ l g ∧
      ((g.sheet? 2 2).any fun h => h.donePass == some (0, pass1 1 none) && (pass1 1 none).inputs.all PassInput.ended) = true) ∧
    (∃ l g, Runs (sheetState { sheet2 with ops := [.pass (pass1 1 (some 453))] }) ⟨0, 0⟩ l g ∧
      ((g.sheet? 2 2).any fun h => h.donePass == some (0, pass1 1 (some 453))) = true) ∧
    (∃ l g, Runs (sheetState { sheet2 with ops := [.bank (drain1 (some [[7]]))] }) ⟨0, 0⟩ l g ∧
      ((g.sheet? 2 2).any fun h => h.nextDrain == some (0, drain1 (some [[7]])) && !h.foreignTo (drain1 none)) = true) ∧
    (∃ l g, Runs (sheetState { sheet2 with ops := [.bank (drain1 none)], banks := [⟨some (3, 0), none⟩, ⟨none, none⟩] }) ⟨0, 0⟩ l g ∧
      ((g.sheet? 2 2).any fun h => h.nextDrain == some (0, drain1 none) && h.foreignTo (drain1 none)) = true) ∧
    ∃ l g, Runs (sheetState { sheet2 with ops := [.bank (drain1 none)], banks := [⟨none, some 453⟩, ⟨none, none⟩] }) ⟨0, 0⟩ l g ∧
      ((g.sheet? 2 2).any fun h => (h.bankState 0).poison == some 453) = true :=
  ⟨runsWith_spec (by decide +kernel), runsWith_spec (by decide +kernel), runsWith_spec (by decide +kernel), runsWith_spec (by decide +kernel),
    runsWith_spec (by decide +kernel), runsWith_spec (by decide +kernel),
    runsWith_spec (by decide +kernel), runsWith_spec (by decide +kernel)⟩
/-- The sheet after an event, and what is sent. -/
def sheet2After (i : Instr) (s : State) : Option Sheet := ((after i s).bind fun t => t.region? ⟨0, 0⟩).bind fun g => g.sheet? 2 2
/-- Tokens that the corner has sent. -/
def cornerSent (i : Instr) (s : State) : Option (List (BitVec 2 × Nat)) := linksAfter i s
/-- R286, R292, R299, R301: 2·5 + 3·7 = 31 and the row sum 5; the entries that a drain pushes. -/
theorem test_sheets_at_work : (sheet2After (.streamTokenStaging ⟨⟨0, 0⟩, 2, 2⟩ (.site 1 2)) (streamState 0)).map (fun h => h.staged.map fun k => (k.row, k.idx, k.tok.pay)) = some [(true, 0, 9)] ∧
    (sheet2After (.streamTokenStaging ⟨⟨0, 0⟩, 2, 2⟩ (.site 1 2)) (streamState 0x0400000000000000)).map (fun h => (h.staged.length, h.streams.map Stream.cause)) = some (0, [some (mkCause 7 5)]) ∧
    (sheet2After (.mmaKgroup ⟨⟨0, 0⟩, 2, 2⟩ 0 0) (sheetState { sheet2 with ops := [.pass (pass1 0 none)] })).map (fun h => ((h.bank 0 0 0).acc.take 2, (h.bank 0 0 0).rs.take 2, (h.bankState 0).owner)) =
      some ([31, 0], [0x40A00000, 0], some (0, 0)) := by decide +kernel
theorem test_passes_and_drains : cornerSent (.mmaPassComplete ⟨⟨0, 0⟩, 2, 2⟩) (sheetState { sheet2 with ops := [.pass (pass1 1 none)] }) = some [(0, 0)] ∧
    cornerSent (.mmaPassComplete ⟨⟨0, 0⟩, 2, 2⟩) (sheetState { sheet2 with ops := [.pass (pass1 1 (some 453))] }) = some [(3, 453)] ∧
    cornerSent (.mdrainComplete ⟨⟨0, 0⟩, 2, 2⟩) (sheetState { sheet2 with ops := [.bank (drain1 none)], banks := [⟨some (3, 0), none⟩, ⟨none, none⟩] }) = some [(3, 7 * 64 + 6)] ∧
    cornerSent (.mdrainComplete ⟨⟨0, 0⟩, 2, 2⟩) (sheetState { sheet2 with ops := [.bank (drain1 none)], banks := [⟨none, some 453⟩, ⟨none, none⟩] }) = some [(3, 453)] ∧
    ((after (.mdrainComplete ⟨⟨0, 0⟩, 2, 2⟩) (sheetState { sheet2 with ops := [.bank (drain1 (some [[7]]))] })).bind fun t => t.region? ⟨0, 0⟩).map (fun g => (g.tile? 2 3).map fun t => t.fifo 0) =
      some (some [7]) := by decide +kernel

/-- A table at VA 0 of a sequence with one page at VA 0x10000: two live positions, of masses 5 and 1, HIGH 100. -/
def kvMem : List Host.Cell := writeNat (writeNat (writeNat (writeNat (writeNat (writeNat tableMem 0x20000008 4 2) 0x2000000C 2 1) 0x20000010 8 100) 0x20000040 8 0x10000) 0x20014200 8 (5 * 16 + 2)) 0x20014208 8
  (2 ^ 32 + 16 + 2)
/-- A KVEVICT that keeps masses of 3 and above. -/
def evictAcc : Access := { accOf .kvevict flds1 (BitVec.ofNat 256 (3 * 2 ^ 128 + 9 * 2 ^ 64)) 0 .settled [0x20000000] with va := 0 }
/-- Its hold, with or without its sequence in the directory. -/
def evictState (es : List KvSeq) : State := { mapped0 (running (accRegion [evictAcc])) with
  mem := kvMem
  kvHolds := [⟨0, 9, 0, ⟨0, 0⟩, evictAcc, []⟩]
  kvSeqs := es }
theorem witness_compaction : (evictState []).kvHolds.find? (fun q => q.slice == 0 && q.seq == 9) = some ⟨0, 9, 0, ⟨0, 0⟩, evictAcc, []⟩ ∧
    (match (evictState [⟨9, 0, 0x20000000, [], []⟩]).eviction evictAcc ⟨9, 0, 0x20000000, [], []⟩ with
      | .ok x => x.live == 2 && x.npages == 1
      | .error _ => false) = true ∧
    (match ({ evictState [⟨9, 0, 0x20000000, [], []⟩] with mem := writeNat kvMem 0x20000040 8 0x40000000 }).eviction evictAcc ⟨9, 0, 0x20000000, [], []⟩ with
      | .error c => c == mkCause 8 6
      | .ok _ => false) = true := by decide +kernel
/-- R326: slot 0 is kept, slot 1 goes, no page is freed, there were two. -/
theorem test_compaction : linksAfter (.kvevictCompaction 0 9) (evictState []) = some [(3, 8 * 64 + 2)] ∧
    linksAfter (.kvevictCompaction 0 9) (evictState [⟨9, 0, 0x20000000, [], []⟩]) = some [(0, 1 + 2 * 2 ^ 96)] ∧
    (after (.kvevictCompaction 0 9) (evictState [⟨9, 0, 0x20000000, [], []⟩])).map (fun t => (readNat t.mem 0x20000008 4, t.kvHolds.length)) = some (1, 0) := by decide +kernel
/-- Tensor 3, tile 2; its range at router 8 for world w; its tile. -/
def name1 : Word64 := 3 * 2 ^ 40 + 2 * 2 ^ 16
def routeFor (w : BitVec 8) (size : Nat) : Route := ⟨false, false, w, 8, size, 4, 3 * 2 ^ 40, 0, 0, 0, 0, 0, 0, 0⟩
def stored (r : Nat) : GTile := ⟨r, 0, name1, false, [7, 8]⟩
/-- A message at a router; from NASK transfer 1 of the channel, or from router 9. -/
def gmsg (r : Nat) (z : FaceTo) (b : GBody) : GMsg := ⟨1, r, 0, name1, z, 8, none, b⟩
def nasker : FaceTo := .asker ⟨0, 0⟩ 1 0 0 1
/-- A package with one message, in cycle 100, and a NASK that waits. -/
def gState (m : GMsg) : State := { chanState (xfer .nask false none) true 0 with
  gmsgs := [m]
  cycle := 100 }
/-- Interest until a cycle, with room for 4096 bytes. -/
def asks (exp : Word32) : GBody := .interest exp 4096 false []
/-- What the NASK has been answered. -/
def answered (i : Instr) (s : State) : Option (Option Answer) := ((after i s).bind fun t => t.region? ⟨0, 0⟩).bind fun g => (g.tile? 1 0).bind fun t => (t.chan 0).cur.map Xfer.answer
/-- A pending entry of router r with faces. -/
def pend (r : Nat) (fs : List Face) : Pit := ⟨r, 0, name1, 8, 500, [fs]⟩
/-- Its 8 faces are in use; every entry of the router's table too. -/
def pendFull : Pit := pend 9 (List.replicate 8 ⟨.router 4, 500⟩)
def tableFull : List Pit := pendFull :: List.replicate 1023 { pend 9 [⟨.router 4, 500⟩] with name := 0 }
theorem witness_gallery : (gState (gmsg 9 nasker (asks 200))).routeOf name1 = none ∧ (gState (gmsg 9 nasker (asks 200))).extRoute 0 name1 = none ∧
    { gState (gmsg 9 nasker (asks 200)) with routes := [routeFor 5 64] }.routeOf name1 = some (routeFor 5 64) ∧
      { gState (gmsg 9 nasker (asks 200)) with routes := [routeFor 0 8192] }.routeOf name1 = some (routeFor 0 8192) ∧
    { gState (gmsg 9 (.router 5) (asks 200)) with gtiles := [stored 9] }.tileAt 9 0 name1 = some (stored 9) ∧
    (gState (gmsg 9 (.router 5) (asks 50))).expired 50 = true ∧ (gState (gmsg 9 (.router 5) (asks 200))).expired 200 = false ∧
    { gState (gmsg 9 (.router 5) (asks 200)) with pits := [pend 9 [⟨.router 4, 500⟩]] }.pit? 9 0 name1 = some (pend 9 [⟨.router 4, 500⟩]) ∧
      later 200 500 = false ∧
    (gState (gmsg 9 (.router 5) (asks 200))).pit? 9 0 name1 = none ∧ (gState (gmsg 9 (.router 5) (asks 200))).pitUse 9 < 1024 ∧
    pendFull.chain = [] ++ [pendFull.chain.headD []] ∧ 8 ≤ (pendFull.chain.headD []).length ∧
    { gState (gmsg 9 (.router 5) (asks 200)) with pits := [pendFull] }.pitUse 9 < 1024 ∧
    1024 ≤ { gState (gmsg 9 (.router 5) (asks 200)) with pits := tableFull }.pitUse 9 ∧
    1024 ≤ { gState (gmsg 9 (.router 5) (asks 200)) with pits := List.replicate 1024 { pend 9 [⟨.router 4, 500⟩] with name := 0 } }.pitUse 9 := by decide +kernel
/-- R347, R348, R350, R351. -/
theorem test_gallery_asks : answered (.interestArrival 1) (gState (gmsg 9 nasker (asks 200))) = some (some (.cause (mkCause 9 2))) ∧
    answered (.interestArrival 1) { gState (gmsg 9 nasker (asks 200)) with routes := [routeFor 5 64] } = some (some (.cause (mkCause 9 4))) ∧
    answered (.interestArrival 1) { gState (gmsg 9 nasker (asks 200)) with routes := [routeFor 0 8192] } = some (some (.cause (mkCause 9 6))) ∧
    (after (.interestArrival 1) { gState (gmsg 9 (.router 5) (asks 200)) with gtiles := [stored 9] }).map (fun t => t.gmsgs.map fun m => (m.router, m.body)) = some [(5, .tile [7, 8] [])] ∧
    (after (.interestArrival 1) (gState (gmsg 9 (.router 5) (asks 50)))).map (fun t => t.gmsgs.map fun m => (m.router, m.body)) = some [(5, .negative (mkCause 9 1) [])] ∧
    (after (.interestArrival 1) { gState (gmsg 9 (.router 5) (asks 200)) with pits := [pend 9 [⟨.router 4, 500⟩]] }).map (fun t => t.pits.map fun p => p.faces.length) = some [2] ∧
    (after (.interestArrival 1) (gState (gmsg 9 (.router 5) (asks 200)))).map (fun t => (t.pits.length, t.gmsgs.map fun m => m.router)) = some (1, [8]) := by decide +kernel
/-- R345: a ninth face takes an entry chained to the full one, and is held where the table has none. -/
theorem test_gallery_chain : (after (.interestArrival 1) { gState (gmsg 9 (.router 5) (asks 200)) with pits := [pendFull] }).map (fun t => t.pits.map fun p => p.chain.map List.length) = some [[8, 1]] ∧
    (after (.interestArrival 1) { gState (gmsg 9 (.router 5) (asks 200)) with pits := tableFull }).map (fun t => (t.gheld.length, t.pits.length)) = some (1, 1024) := by decide +kernel
theorem test_gallery_answers : (after (.interestRefresh 1) { gState (gmsg 8 (.router 4) (.refresh 600)) with pits := [pend 8 [⟨.router 4, 500⟩]] }).map (fun t => t.pits.map fun p => (p.faces.map Face.exp, p.upexp)) =
      some [([600], 600)] ∧
    answered (.tileArrival 1) { gState (gmsg 9 (.router 8) (.tile [7, 8] [])) with pits := [pend 9 [⟨nasker, 500⟩]] } = some (some (.bytes [7, 8])) ∧
    answered (.negativeAnswerArrival 1) { gState (gmsg 9 (.router 8) (.negative 577 [])) with pits := [pend 9 [⟨nasker, 500⟩]] } = some (some (.cause 577)) ∧
    answered (.faceExpiry 9 0 0) { gState (gmsg 9 nasker (asks 200)) with pits := [pend 9 [⟨nasker, 90⟩]] } = some (some (.cause (mkCause 9 1))) ∧
    (after (.interestRetry 9) { gState (gmsg 1 nasker (asks 1)) with gheld := [gmsg 9 (.router 5) (asks 200)], gtiles := [stored 9] }).map (fun t => (t.gheld.length, t.gmsgs.length)) = some (0, 2) := by decide +kernel

/-! ## Stations and ports (R425 to R433) -/

/-- A region with a station word on port-table entry 3: SOP 2, inputs INM, output 1, colour 0. -/
def stationRegion (ws : List StnWord) : Region := { colRegion (Elem.empty 0 0) with
  ports := (colRegion (Elem.empty 0 0)).ports ++ [⟨0x6000000000000000, 0x6000000000000000, [], false⟩]
  stns := ws }
/-- The word. -/
def stnWord (inm : Nat) : StnWord := ⟨0, BitVec.ofNat 64 (2 * 2 ^ 60 + inm * 2 ^ 48 + 2 ^ 40), 0x7FFFFFFE3, List.replicate 8 []⟩
/-- A token at input 2 of station 0. -/
def stnState (ws : List StnWord) (t : Token) : State := { running (stationRegion ws) with stnToks := [⟨0, 0, 2, 0, 0, t⟩] }
/-- Its hypotheses for one input. -/
def stnHas (l : Launch) (g : Region) : Bool := let s := stnState [stnWord 4] (tok 0 9)
  s.stationReady ⟨0, 0, 2, 0, 0, tok 0 9⟩ && (s.wordsFor 0 0 2 0).length == 1 && (s.wordsFor 0 0 2 0).all fun q => q.l == l && q.m == 0 &&
    g.stns[q.k]? == some (stnWord 4) && stnSop (stnWord 4).word != 1 &&
    (List.range 8).all fun j => bitAt (stnInm (stnWord 4).word) j == (j == 2)
theorem witness_stations : (∃ l g, Runs (stnState [] (tokOf 1 true false 0 0 9)) ⟨0, 0⟩ l g ∧
    ((stnState [] (tokOf 1 true false 0 0 9)).stationReady ⟨0, 0, 2, 0, 0, tokOf 1 true false 0 0 9⟩ &&
      ((stnState [] (tokOf 1 true false 0 0 9)).wordsFor 0 0 2 0).isEmpty && !(tokOf 1 true false 0 0 9).counted) = true) ∧
    ∃ l g, Runs (stnState [stnWord 4] (tok 0 9)) ⟨0, 0⟩ l g ∧ stnHas l g = true := ⟨runsWith_spec (by decide +kernel),
      runsWith_spec (by decide +kernel)⟩
/-- R427: EXIT 31 makes a fault record, which finds no fault page. R428: output 0 delivers at the entry's element. -/
theorem test_stations : (after (.stationInput 0 0 2) (stnState [] (tokOf 1 true false 0 0 9))).map (fun t => (t.seqNo, t.lostRec)) = some (1, 1) ∧
    (after (.stationInput 0 0 2) (stnState [stnWord 4] (tok 0 9))).map (fun t => (t.stnToks.length, (t.region? ⟨0, 0⟩).map fun g => g.links.map fun k => (k.x, k.y, k.tok.pay))) = some (0, some [(0, 0, 9)]) := by
  decide +kernel

/-- R429: the CRC-32C of the nine ASCII digits 1 to 9. -/
theorem test_crc : crc32c [0x31, 0x32, 0x33, 0x34, 0x35, 0x36, 0x37, 0x38, 0x39] = 0xE3069283 := by decide +kernel
/-- A field above the CRC does not depend on it. -/
theorem sealFlit_field (b : BitVec 480) (i n : Nat) : bitsAt (sealFlit b) (32 + i) n = bitsAt b i n := by
  unfold bitsAt sealFlit
  ext j hj
  simp only [BitVec.getElem_extractLsb', BitVec.getLsbD_append]
  rw [if_neg (by omega)]
  congr 1
  omega
/-- A flit's bits above its CRC: FTYPE, ACK, DEV, BODY, EXT; SEQ 0. -/
def flit (ty ack dev body ext : Nat) : BitVec 480 := BitVec.ofNat 480 (ext + body * 2 ^ 64 + dev * 2 ^ 428 + ack * 2 ^ 452 + ty * 2 ^ 476)
/-- This device. -/
def me : Nat := 0xFFFFF
theorem witness_flits : flitSeq (sealFlit (flit 1 4095 7 0 0)) = (State.reset.port 0).expect ∧ (State.reset.port 0).down = false ∧
    0 < State.reset.brimen.length ∧ flitType (sealFlit (flit 1 4095 7 0 0)) = 1 ∧
    State.reset.isMe (flitDev (sealFlit (flit 1 4095 7 0 0))) = false ∧ State.reset.isMe (flitDev (sealFlit (flit 3 4095 me 0 0))) = true ∧
      flitType (sealFlit (flit 3 4095 me 0 0)) = 3 ∧
    flitType (sealFlit (flit 0 4095 me 0 0)) = 0 ∧ flitType (sealFlit (flit 9 4095 me 0 0)) = 9 ∧ flitType (sealFlit (flit 6 4095 me 0 0)) = 6 ∧
      flitType (sealFlit (flit 5 4095 me 0 0)) = 5 ∧
    flitType (sealFlit (flit 4 4095 me (2 ^ 13) 0)) = 4 ∧ 32 < 32 * ((bitsAt (sealFlit (flit 4 4095 me (2 ^ 13) 0)) 109 11).toNat + 1) ∧
      flitExt (sealFlit (flit 4 4095 me (2 ^ 13) 0)) = 0 ∧
    State.reset.routeOf 0 = none ∧ State.reset.reasm? 0 0 0 = none ∧ State.reset.reasmUsed 0 = 0 := by
  have f (b : BitVec 480) : flitType (sealFlit b) = (bitsAt b 476 4).toNat := congrArg BitVec.toNat (sealFlit_field b 476 4)
  have d (b : BitVec 480) : flitDev (sealFlit b) = bitsAt b 428 20 := sealFlit_field b 428 20
  have q (b : BitVec 480) : flitSeq (sealFlit b) = bitsAt b 464 12 := sealFlit_field b 464 12
  have e (b : BitVec 480) : flitExt (sealFlit b) = bitsAt b 0 64 := sealFlit_field b 0 64
  have n (b : BitVec 480) : bitsAt (sealFlit b) 109 11 = bitsAt b 77 11 := sealFlit_field b 77 11
  simp only [f, d, q, e, n]
  decide +kernel
/-- A port with an unacknowledged flit sent n times again, in cycle 4096. -/
def unacked (n : Nat) : State := { State.reset with
  cycle := 4096
  brimen := { Brimen.reset with unacked := [0], tries := n } :: List.replicate 23 .reset }
theorem witness_retry : (unacked 3).pkg = .running ∧ ((unacked 3).port 0).down = false ∧ ((unacked 3).port 0).unacked ≠ [] ∧
    ((unacked 3).port 0).lastAck + 4096 ≤ (unacked 3).cycle ∧ ((unacked 3).port 0).tries < 7 ∧
    7 ≤ ((unacked 7).port 0).tries ∧ (unacked 7).stationWords 0 0 = [] := by decide +kernel
/-- R431: an expected acknowledgement flit advances SEQ; the retries. -/
theorem test_ports : (after (.linkRetryTimeout 0) (unacked 3)).map (fun t => ((t.port 0).tries, (t.port 0).lastAck, (t.port 0).down)) = some (4, 4096, false) ∧
    (after (.linkRetryTimeout 0) (unacked 7)).map (fun t => ((t.port 0).unacked.length, (t.port 0).down)) = some (0, true) := by decide +kernel
/-! ## Freezing, saving, errors, register pages, the trust block (R79, R230, R342, R379 to R412, R438 to R440) -/

/-- A launch of one small region. -/
def launchOf (st : LState) : Launch := { newLaunch 0 0 [colRegion (Elem.empty 0 0)] [] 0 with state := st }
/-- A package with one launch, a fault page for world 0 and a snapshot pool of 16 MiB at 0x1000000 for it. -/
def packageOf (l : Launch) : State := { faultPage 0 0 with
  launches := [l]
  regs := [(0x5000, 0x1001), (0x5008, 5 * 2 ^ 52 + 0x3001), (0x6000, 0x1000001), (0x6008, 256)]
  cycle := 100000 }
/-- The same without a pool. -/
def poolless (l : Launch) : State := { packageOf l with regs := [(0x5000, 0x1001)] }
/-- A freeze cause. -/
def cause1 : FreezeCause := ⟨mkCause 13 2, 0, 0, 0, 0, 0, 0, 7, 1⟩
/-- A trusted store of eight bytes. -/
def storing (off : Nat) (v : Word64) (s : State) : State := { s with bus := some ⟨⟨0, true, true⟩, 0x9000000000000 + off, 8, v⟩ }
/-- A launch that drains since cycle 99000 or 1000; one that waits for a seal generation. -/
def draining (since : Nat) : Launch := { launchOf .running with drainFrom := some since }
def resealing : Launch := { launchOf .running with sl := { (launchOf .running).sl with waiting := some (0, 0, 0), prevClear := true } }
/-- A launch that a restore loads, whose image is at VA 0, where none can be read. -/
def restoring : Launch := { launchOf .loading with
  scanned := true
  areas := [(0x1000000, 65536)] }
/-- A launch that a restore loads, whose area and image can be read. -/
def readyLaunch : Launch := { restoring with members := restoring.members.map fun g => { g with image := 0x1000 } }
def ready : State := { packageOf readyLaunch with
  mem := writeNat tableMem 0x1000018 8 0x1000
  regs := [(0x800, 0x20001)] }
/-- A launch that waits for a seal generation where the counter is spent. -/
def spentSeal : Launch := { resealing with sl := { resealing.sl with waiting := none, atMax := true } }
theorem witness_freezing : (packageOf { launchOf .running with freezeReq := true }).launch? 0 = some { launchOf .running with freezeReq := true } ∧
    (packageOf { launchOf .running with causes := [cause1] }).launch? 0 =
      some { launchOf .running with causes := [cause1] } ∧ (packageOf (launchOf .frozen)).launch? 0 = some (launchOf .frozen) ∧
        (poolless (launchOf .frozen)).allocAreas (launchOf .frozen) = none ∧
    ((packageOf (launchOf .frozen)).allocAreas (launchOf .frozen)).isSome = true ∧ (launchOf .frozen).hwDead = false ∧
      (launchOf .frozen).scanned = false ∧ (launchOf .frozen).scanTried = false ∧
    bitsAt (0x100000000 : Word64) 0 32 = (launchOf .saved).handle ∧ ((packageOf (draining 99000)).allocAreas (draining 99000)).isSome = true ∧
      99000 + 64 ≤ (packageOf (draining 99000)).cycle ∧
    (draining 99000).members.all (fun g => decide (g.quietFor + 64 ≤ 100000)) = true ∧ 1000 + 65536 ≤ (packageOf (draining 1000)).cycle ∧
    (packageOf restoring).restored restoring (restoring.members.zip restoring.areas) = none ∧
    (packageOf resealing).launch? 0 = some resealing ∧ resealing.sl.spent = false ∧
      ((packageOf resealing).advanceSeal resealing).2.isSome = true := by decide +kernel
theorem witness_restored : (ready.restored readyLaunch (readyLaunch.members.zip readyLaunch.areas)).isSome = true := by decide +kernel
theorem witness_areas_free : (packageOf restoring).areasWait restoring.areas = false := by decide +kernel
theorem witness_areas_held : { packageOf restoring with heldLines := [⟨lineOf 0x1000000, ⟨1, 0⟩, 0⟩] }.areasWait restoring.areas = true := by
  decide +kernel
theorem witness_seals_spent : (launchOf .running).frozenBy = none ∧ spentSeal.sl.spent = false ∧
    ({ packageOf spentSeal with keys := [⟨0, 0, 0, 0, 0, 0xFFFFFFFF, none⟩] }.advanceSeal spentSeal).2 = none := by decide +kernel
/-- The launch after an event: its state, whether it drains, whether it is scanned, and the records made. -/
def lifeAfter (i : Instr) (s : State) : Option (LState × Bool × Bool × Nat) := (after i s).bind fun t => (t.launch? 0).map fun l => (l.state, l.drainFrom.isSome, l.scanned, t.seqNo.toNat)
/-- R379, R380, R382, R383, R385, R386, R405. -/
theorem test_freezing : lifeAfter (.regionFreeze 0) (packageOf { launchOf .running with freezeReq := true }) = some (.frozen, false, false, 0) ∧
    lifeAfter (.regionFreeze 0) (packageOf { launchOf .running with causes := [cause1] }) = some (.frozen, false, false, 1) ∧
    lifeAfter (.snapshotScan 0) (poolless (launchOf .frozen)) = some (.frozen, false, false, 1) ∧
    lifeAfter .pkgReleaseSave (storing 0x8000 0 (packageOf { launchOf .frozen with scanned := true })) = some (.saved, false, true, 0) ∧
    lifeAfter .pkgReleaseDiscard (storing 0x8000 0x100000000 (packageOf (launchOf .frozen))) = some (.retired, false, false, 0) ∧
    lifeAfter (.drainTimeout 0) (packageOf (draining 1000)) = some (.running, true, false, 1) ∧
      lifeAfter (.regionRestore 0) (packageOf { restoring with areas := [(0x1000000, 1024)] }) = some (.saved, false, true, 1) ∧
    ((after (.sealAdvance 0) (packageOf resealing)).bind fun t => t.launch? 0).map (fun l => (l.sl.epoch, l.sl.granted)) = some (true, some (0, 0, 0)) := by decide +kernel

/-- A package that replays entry 0 of world 0's ring at 0x4000. -/
def replaying : State := { packageOf { launchOf .running with replay := true } with
  regs := [(0x7000, 0x4001)]
  replays := [⟨0, 1, 0, 1⟩] }
/-- A component of which nothing is known. -/
def noCode : Component := ⟨[], [], [], 0, []⟩
theorem witness_hardware : (∃ l g, Runs (issuing (opSet (some 5) none none)) ⟨0, 0⟩ l g ∧
    ((g.elem? 0 0).any fun e => e.ready.length == 1 && l.causes.isEmpty && decide ((g.hwerr + 1) % 65536 ≠ 0)) = true) ∧ inHbm 0x2000 = true ∧
    Config.tripPoint < Config.tripPoint + 1 ∧ (bitsAt (State.reset.reg 0x8120) 0 16).toNat < 3601 ∧ State.reset.throttled = false ∧
      replaying.ring? 0 = some (0x4000, 1) ∧
    (replaying.launch? 0).any (fun l => l.state == .running && l.drainFrom.isNone && !l.purging 0 && l.underQuota 0) = true ∧
      State.reset.flash = (⟨noCode, noCode, noCode⟩, ⟨noCode, noCode, noCode⟩) ∧ replaying.areaHeld 0x4080 128 = false ∧
      { replaying with heldLines := [⟨lineOf 0x4080, ⟨1, 0⟩, 0⟩] }.areaHeld 0x4080 128 = true :=
  ⟨runsWith_spec (by decide +kernel), by decide, Nat.lt_succ_self _, by decide +kernel, rfl, by decide +kernel, by decide +kernel, rfl,
    by decide +kernel, by decide +kernel⟩
/-- R79, R371, R390, R438, R439, R440. -/
theorem test_hardware : ((after (.hardwareError 1 (.element ⟨⟨0, 0⟩, 0, 0⟩)) (issuing (opSet (some 5) none none))).bind fun t => t.launch? 0).map (fun l => l.causes.map FreezeCause.cause) = some [mkCause 12 1] ∧
    (after (.hardwareError 4 (.line 0x2000)) State.reset).map State.poisoned = some [(lineOf 0x2000, mkCause 12 4)] ∧
    ((after (.hardwareError 6 (.element ⟨⟨0, 0⟩, 0, 0⟩)) (issuing (opSet (some 5) none none))).bind fun t => t.region? ⟨0, 0⟩).map Region.hwerr = some 1 ∧
    (after (.hardwareError 7 .shared) State.reset).map State.pkg = some .machineCheck ∧
      (after (.packageMachineCheck (mkCause 12 7)) State.reset).map (fun t => (bitsAt t.mcRec 0 10)) = some (mkCause 12 7) ∧
    (after (.frzNAssert 8) State.reset).map State.pkg = some .frozen ∧ (after (.frzNAssert 7) State.reset).map State.pkg = some .running ∧
      (after .mctpFreeze State.reset).map State.pkg = some .frozen := by
  decide +kernel
theorem test_resets : (∀ f : FlashSlot, slotOk f = false → (after (.packageReset f f) State.reset).map (fun t => (t.pkg, t.booted)) = some (.offline, false)) ∧
    (after .mctpReset (packageOf (launchOf .running))).map (fun t => t.launches.length) = some 0 ∧
    ((after (.throttleEnter 3601 0) State.reset).map fun t => (t.throttled, t.reg 0x8110)) = some (true, 3601) := by
  refine ⟨fun f h => by simp [after, exec, execPackageReset, State.boot, h], ?_, ?_⟩
  · simp only [after, exec, execMctpReset, State.boot, Option.map]
    split
    · rfl
    · split <;> rfl
  simp [after, exec, execThrottleEnter]
  decide +kernel

/-- An untrusted accessor of world 5. -/
def guest : Accessor := ⟨5, false, true⟩
/-- Two entries of world 0 and one of world 5. -/
def entries3 : List XEntry := [⟨0, 0, 0, 1, 0, 0x50000, true, true⟩, ⟨0, 0, 0, 2, 0, 0x60000, true, true⟩, ⟨0, 0, 5, 1, 0, 0x70000, true, true⟩]
/-- They are cached. -/
def xltState (v : Word64) : State := storing 0x1000 v { State.reset with xlat := entries3 }
/-- A package with a launch of world 0 whose region page is register page 0 of die 0. -/
def pageState (shared : Bool) : State := { packageOf (launchOf .running) with regs := [(0x5000, 0x1001), (0xA000, if shared then 0xA000000000000000 else 0x8000000000000000)] }
/-- A package whose launch replays its own capture ring. -/
def replayReg : State := storing 0x8008 0 { packageOf (launchOf .running) with
  regs := [(0x7000, 0x4001)]
  mem := writeNat [] 0x4000 8 3 }
theorem witness_registers : (xltState 0).onTheWay 0 = false ∧ State.reset.linkUse = false ∧
    { State.reset with routes := [{ routeFor 0 64 with glob := true }] }.linkUse = true ∧
    { State.reset with gtiles := [stored 9] }.gtiles.all (fun t => !t.pinned) = true ∧ replayReg.ring? 0 = some (0x4000, 1) ∧
      readNat replayReg.mem 0x4000 8 ≠ readNat replayReg.mem 0x4008 8 ∧
    (replayReg.launch? 0).any (fun l => l.state == .running && !l.replay) = true ∧ ownMailbox guest 0x1000 = false ∧ readOnlyReg 0x8108 = true ∧
      bitAt (State.reset.reg 0xB058) 63 = false ∧
    (pageState false).pageRegion? 0x8000000000000 = some (launchOf .running, colRegion (Elem.empty 0 0)) ∧ guest.world ≠ (launchOf .running).world ∧
      (pageState false).sharedPage (launchOf .running) = false ∧
    (pageState true).sharedPage (launchOf .running) = true := by decide +kernel
/-- R230. -/
theorem test_xlt_inv : (after .xltInvPage (xltState 1)).map (fun t => t.xlat.map fun e => (e.world, e.vpn)) = some [(0, 2), (5, 1)] ∧
    (after .xltInvWorld (xltState 0x4000000000000000)).map (fun t => t.xlat.map XEntry.world) = some [5] ∧
      (after .xltInvAll (xltState 0x8000000000000000)).map (fun t => (t.xlat.length, t.laygen)) = some (0, 1) := by decide +kernel
/-- R342, R380, R394, R401, R402, R407, R432. -/
theorem test_registers : (after .galCfgWrite (storing 0x4048 0 { State.reset with gtiles := [stored 9, stored 8] })).map (fun t => t.gtiles.map GTile.router) = some [8] ∧
    (after .pkgDevidWrite (storing 0x8100 0xF000000000000007 State.reset)).map (fun t => t.reg 0x8100) = some 0x8000000000000007 ∧
    (after .wrldSnapszWrite (storing 0x6008 0x700000003 State.reset)).map (fun t => t.reg 0x6008) = some 3 ∧
    (after .replayStart replayReg).map (fun t => t.replays.map fun r => (r.pos, r.stop)) = some [(0, 3)] ∧
    (after (.registerWrite guest 0x9000000001000 8 0) State.reset).map State.seqNo = some 1 ∧
    (after (.registerWrite guest 0x900000000B050 8 7) State.reset).map (fun t => (t.reg 0xB058, t.tbQueue.length)) = some (0x8000000000000000, 1) ∧
    (after (.regionPageForeignAccess guest 0x8000000000000 (.load 8)) (pageState false)).map State.seqNo = some 1 ∧
    (after (.regionPageForeignAccess ⟨5, true, true⟩ 0x8000000000000 (.load 8)) (pageState true)).map (fun t => t.reg 0xA008) = some 1 := by decide +kernel

/-- A command in world 0's mailbox whose buffer is at 0x10000, its parameters there. -/
def tbState (a : Accessor) (op : Nat) (cells : List Host.Cell) : State := { State.reset with
  tbQueue := [(a.world, a, BitVec.ofNat 64 (0x10000 + op))]
  mem := cells }
/-- A span holds the first line of the buffer. -/
def tbHeld : State := { tbState ⟨0, true, true⟩ 1 [] with heldLines := [⟨lineOf 0x10000, ⟨1, 0⟩, 0⟩] }
/-- R261: a command waits while its buffer meets a held line. -/
theorem witness_trust_held : tbHeld.areaHeld 0x10000 0x800 = true ∧ (tbState ⟨0, true, true⟩ 4 []).areaHeld 0x10000 0x2000 = false ∧
    after .tbCreate tbHeld = some tbHeld := by decide +kernel
/-- World 3, or world 0. -/
def names3 : List Host.Cell := writeNat [] 0x10000 1 3
/-- A RELEASE of the right lengths in layout 0; keys whose evidence has the nonce 0. -/
def release1 : List Host.Cell := writeNat (writeNat [] 0x10040 4 1088) 0x10044 4 16
def keys1 : WorldKeys := ⟨0, 0, 0, 0, 0, 0, some (0, 1)⟩
/-- The command of a state. -/
def cmd (s : State) : TbCmd := match s.tbQueue with
  | (w, a, v) :: _ => ⟨w, a, v⟩
  | [] => ⟨0, guest, 0⟩
theorem witness_trust : (tbState ⟨0, true, true⟩ 8 []).tbBad (cmd (tbState ⟨0, true, true⟩ 8 [])) = true ∧
    (tbState guest 1 []).tbBad (cmd (tbState guest 1 [])) = false ∧
    (tbState ⟨0, true, true⟩ 1 names3).tbBad (cmd (tbState ⟨0, true, true⟩ 1 names3)) = false ∧ State.reset.worldV 0 = true ∧
      State.reset.worldV 3 = false ∧
    (tbState ⟨0, true, true⟩ 2 names3).tbBad (cmd (tbState ⟨0, true, true⟩ 2 names3)) = false ∧
      (packageOf (launchOf .running)).launches.any (fun l => l.world == 0) = true ∧
    (tbState ⟨0, true, true⟩ 3 []).tbBad (cmd (tbState ⟨0, true, true⟩ 3 [])) = false ∧
      (tbState ⟨0, true, true⟩ 4 []).tbBad (cmd (tbState ⟨0, true, true⟩ 4 [])) = false ∧
      (tbState ⟨0, true, true⟩ 5 []).tbBad (cmd (tbState ⟨0, true, true⟩ 5 [])) = false ∧
    (tbState ⟨0, true, true⟩ 6 []).tbBad (cmd (tbState ⟨0, true, true⟩ 6 [])) = false ∧
      (tbState ⟨0, true, true⟩ 6 []).blobKeys 0 (readBytes [] 0x10100 256) = none ∧
    (tbState ⟨0, true, true⟩ 7 release1).tbBad (cmd (tbState ⟨0, true, true⟩ 7 release1)) = false ∧
      ({ tbState ⟨0, true, true⟩ 7 release1 with keys := [keys1] }.keysOf 0).evidence = some (0, 1) ∧ State.reset.clocked = true := by
  refine ⟨by decide +kernel, by decide +kernel, by decide +kernel, by decide +kernel, by decide +kernel, by decide +kernel, by decide +kernel, by decide +kernel, by decide +kernel, by decide +kernel, by decide +kernel, ?_,
    by decide +kernel, by decide +kernel, rfl⟩
  unfold State.blobKeys
  exact if_neg (by decide +kernel)
/-- The memory of an EVIDENCE and of an EXPORT keeps its canonical form. -/
theorem witness_trust_memory : (tbState ⟨0, true, true⟩ 4 []).memOk ∧ (tbState ⟨0, true, true⟩ 5 []).memOk := by
  constructor <;> (unfold State.memOk; decide +kernel)
/-- The status that a command ends with. -/
def status (i : Instr) (s : State) (w : Nat) : Option Word64 := (after i s).map fun t => t.reg (0xB008 + 16 * w)
/-- R408, R410, R411. -/
theorem test_trust : status .tbBadcmd (tbState ⟨0, true, true⟩ 8 []) 0 = some 2 ∧ status .tbCreate (tbState guest 1 []) 5 = some 3 ∧
    status .tbCreate (tbState ⟨0, true, true⟩ 1 []) 0 = some 7 ∧
    (after .tbCreate (tbState ⟨0, true, true⟩ 1 names3)).map (fun t => (t.reg 0xA030, t.reg 0xB008, t.keys.map WorldKeys.world, t.laygen)) = some (0x8000000000000000, 0, [3], 1) ∧
    status .tbDestroy (tbState ⟨0, true, true⟩ 2 names3) 0 = some 0 ∧
      status .tbDestroy { tbState ⟨0, true, true⟩ 2 [] with launches := [launchOf .running] } 0 = some 8 ∧
      status .tbExtend (tbState ⟨0, true, true⟩ 3 names3) 0 = some 6 ∧
    status .tbImport { tbState ⟨0, true, true⟩ 6 [] with laygen := 1 } 0 = some 4 ∧
      status .tbRelease (tbState ⟨0, true, true⟩ 7 release1) 0 = some 1 := by decide +kernel

end

end Sys2Proof.Tests
end

section
/-! SUPPORT. Harts: what a register reads after a write (R73), the three levels that an exception goes to, and what the return from
each brings back (R74, R202; log 5). -/

namespace Sys2Proof.Machine

/-! ## Integer registers -/

theorem Hart.reg_ne_zero_index {r : BitVec 5} (hr : r ≠ 0) : r.toNat ≠ 0 :=
  fun h => hr (BitVec.eq_of_toNat_eq h)

@[simp] theorem Hart.reg_zero (k : Hart) : k.reg 0 = 0 := rfl

@[simp] theorem Hart.setReg_zero (k : Hart) (v : Word64) : k.setReg 0 v = k := rfl

theorem Hart.reg_of_ne_zero (k : Hart) {r : BitVec 5} (hr : r ≠ 0) : k.reg r = k.x.getD (r.toNat - 1) 0 :=
  if_neg (Hart.reg_ne_zero_index hr)

theorem Hart.setReg_of_ne_zero (k : Hart) {r : BitVec 5} (hr : r ≠ 0) (v : Word64) :
    k.setReg r v = { k with x := k.x.set (r.toNat - 1) v } :=
  if_neg (Hart.reg_ne_zero_index hr)

/-- A register other than x0 reads what was written to it. -/
theorem Hart.reg_setReg_same {k : Hart} (hk : k.x.length = 31) {r : BitVec 5} (hr : r ≠ 0) (v : Word64) :
    (k.setReg r v).reg r = v := by
  have hlt : r.toNat - 1 < k.x.length := by
    have := r.isLt
    omega
  rw [Hart.reg_of_ne_zero _ hr, Hart.setReg_of_ne_zero k hr]
  simp [List.getD_eq_getElem?_getD, List.getElem?_set_self hlt]

/-- A write leaves every other register alone. -/
theorem Hart.reg_setReg_other (k : Hart) {q r : BitVec 5} (hqr : q ≠ r) (v : Word64) : (k.setReg r v).reg q = k.reg q := by
  by_cases hr : r = 0
  · rw [hr, Hart.setReg_zero]
  by_cases hq : q = 0
  · rw [hq, Hart.reg_zero, Hart.reg_zero]
  have hindex : r.toNat - 1 ≠ q.toNat - 1 := by
    have hr' := Hart.reg_ne_zero_index hr
    have hq' := Hart.reg_ne_zero_index hq
    have hne : q.toNat ≠ r.toNat := fun h => hqr (BitVec.eq_of_toNat_eq h)
    omega
  rw [Hart.reg_of_ne_zero _ hq, Hart.reg_of_ne_zero _ hq, Hart.setReg_of_ne_zero k hr]
  simp [List.getD_eq_getElem?_getD, List.getElem?_set_ne hindex]

/-- A write changes nothing of the hart but its registers. -/
theorem Hart.setReg_frame (k : Hart) (r : BitVec 5) (v : Word64) : { k.setReg r v with x := k.x } = k := by
  by_cases hr : r = 0
  · rw [hr, Hart.setReg_zero]
  · rw [Hart.setReg_of_ne_zero k hr]

/-! ## The levels of an exception -/

/-- The hart after an exception that M-mode takes. -/
def Hart.enterM (k : Hart) (code : Nat) (tval : Word64) : Hart :=
  { k.drop with mtrap := k.mtrap.enter k.pc code tval k.mode, mode := .m, pc := k.mtrap.handler }

/-- The hart after an exception that HS-mode takes. -/
def Hart.enterHS (k : Hart) (code : Nat) (tval : Word64) : Hart :=
  { k.drop with strap := k.strap.enter k.pc code tval k.mode, mode := .hs, pc := k.strap.handler }

/-- The hart after an exception that VS-mode takes. -/
def Hart.enterVS (k : Hart) (code : Nat) (tval : Word64) : Hart :=
  { k.drop with vstrap := k.vstrap.enter k.pc code tval k.mode, mode := .vs, pc := k.vstrap.handler }

/-- M-mode takes its own exceptions and those that it does not delegate. -/
theorem Hart.trap_eq_enterM {k : Hart} {code : Nat} (h : k.mode = .m ∨ bitAt k.medeleg code = false) (tval : Word64) :
    k.trap code tval = k.enterM code tval := by
  obtain hm | hd := h
  · simp [Hart.trap, Hart.drop, Hart.enterM, hm]
  · simp [Hart.trap, Hart.drop, Hart.enterM, hd]

/-- HS-mode takes what M-mode delegates, out of a mode that is not virtual or where HS-mode does not delegate it further. -/
theorem Hart.trap_eq_enterHS {k : Hart} {code : Nat} (hm : k.mode ≠ .m) (hd : bitAt k.medeleg code = true)
    (h : k.mode = .hs ∨ k.mode = .u ∨ bitAt k.hedeleg code = false) (tval : Word64) : k.trap code tval = k.enterHS code tval := by
  obtain hhs | hu | hh := h
  · simp [Hart.trap, Hart.drop, Hart.enterHS, hd, hhs]
  · simp [Hart.trap, Hart.drop, Hart.enterHS, hd, hu]
  · simp [Hart.trap, Hart.drop, Hart.enterHS, hd, hm, hh]

/-- VS-mode takes what both delegate, out of a virtual mode. -/
theorem Hart.trap_eq_enterVS {k : Hart} {code : Nat} (hv : k.mode = .vs ∨ k.mode = .vu) (hd : bitAt k.medeleg code = true)
    (hh : bitAt k.hedeleg code = true) (tval : Word64) : k.trap code tval = k.enterVS code tval := by
  obtain hvs | hvu := hv
  · simp [Hart.trap, Hart.drop, Hart.enterVS, hd, hh, hvs]
  · simp [Hart.trap, Hart.drop, Hart.enterVS, hd, hh, hvu]

/-- An exception goes to one of the three levels. -/
theorem Hart.trap_cases (k : Hart) (code : Nat) (tval : Word64) :
    k.trap code tval = k.enterM code tval ∨ k.trap code tval = k.enterHS code tval ∨ k.trap code tval = k.enterVS code tval := by
  cases hd : bitAt k.medeleg code with
  | false => exact .inl (Hart.trap_eq_enterM (.inr hd) tval)
  | true =>
    cases hh : bitAt k.hedeleg code with
    | false =>
      by_cases hm : k.mode = .m
      · exact .inl (Hart.trap_eq_enterM (.inl hm) tval)
      · exact .inr (.inl (Hart.trap_eq_enterHS hm hd (.inr (.inr hh)) tval))
    | true =>
      cases hmode : k.mode with
      | m => exact .inl (Hart.trap_eq_enterM (.inl hmode) tval)
      | hs => exact .inr (.inl (Hart.trap_eq_enterHS (by simp [hmode]) hd (.inl hmode) tval))
      | u => exact .inr (.inl (Hart.trap_eq_enterHS (by simp [hmode]) hd (.inr (.inl hmode)) tval))
      | vs => exact .inr (.inr (Hart.trap_eq_enterVS (.inl hmode) hd hh tval))
      | vu => exact .inr (.inr (Hart.trap_eq_enterVS (.inr hmode) hd hh tval))

/-! ## What an exception keeps, gives up and brings back -/

/-- An exception leaves the registers that are no trap registers alone. -/
theorem Hart.trap_keeps_registers (k : Hart) (code : Nat) (tval : Word64) :
    (k.trap code tval).x = k.x ∧ (k.trap code tval).f = k.f ∧ (k.trap code tval).v = k.v ∧ (k.trap code tval).csr = k.csr ∧
      (k.trap code tval).wxvworld = k.wxvworld := by
  obtain h | h | h := k.trap_cases code tval <;> rw [h] <;> exact ⟨rfl, rfl, rfl, rfl, rfl⟩

/-- An exception gives up what the hart's instruction had on its way. -/
theorem Hart.trap_drops_pending (k : Hart) (code : Nat) (tval : Word64) :
    (k.trap code tval).mem = none ∧ (k.trap code tval).part = none ∧ (k.trap code tval).scan = none ∧
      (k.trap code tval).blocked = false := by
  obtain h | h | h := k.trap_cases code tval <;> rw [h] <;> exact ⟨rfl, rfl, rfl, rfl⟩

theorem Hart.trapReturn_enterM (k : Hart) (code : Nat) (tval : Word64) : (k.enterM code tval).trapReturn =
    { k.drop with mtrap := { k.mtrap.enter k.pc code tval k.mode with ie := k.mtrap.ie, pie := true, pp := .u } } := rfl

theorem Hart.trapReturn_enterHS (k : Hart) (code : Nat) (tval : Word64) : (k.enterHS code tval).trapReturn =
    { k.drop with strap := { k.strap.enter k.pc code tval k.mode with ie := k.strap.ie, pie := true, pp := .u } } := rfl

theorem Hart.trapReturn_enterVS (k : Hart) (code : Nat) (tval : Word64) : (k.enterVS code tval).trapReturn =
    { k.drop with vstrap := { k.vstrap.enter k.pc code tval k.mode with ie := k.vstrap.ie, pie := true, pp := .vu } } := rfl

/-- The return from an exception brings the pc and the mode back, at whichever level it was taken. -/
theorem Hart.trapReturn_trap (k : Hart) (code : Nat) (tval : Word64) :
    (k.trap code tval).trapReturn.pc = k.pc ∧ (k.trap code tval).trapReturn.mode = k.mode := by
  obtain h | h | h := k.trap_cases code tval
  · rw [h, Hart.trapReturn_enterM]; exact ⟨rfl, rfl⟩
  · rw [h, Hart.trapReturn_enterHS]; exact ⟨rfl, rfl⟩
  · rw [h, Hart.trapReturn_enterVS]; exact ⟨rfl, rfl⟩

/-- Settles O35: the rules of a register's write, and the level of an exception by the mode and the delegation registers. -/
theorem hartRegistersAndTraps : Obligations.HartRegistersAndTraps := by
  unfold Obligations.HartRegistersAndTraps
  intro k hk
  refine ⟨fun r => ⟨k.reg_zero, fun v => ⟨k.setReg_zero v, fun hr => Hart.reg_setReg_same hk hr v,
    fun q hq => k.reg_setReg_other hq v, k.setReg_frame r v⟩⟩, fun code tval => ?_⟩
  obtain ⟨hx, hf, hv, hcsr, hworld⟩ := k.trap_keeps_registers code tval
  obtain ⟨hmem, hpart, hscan, hblocked⟩ := k.trap_drops_pending code tval
  obtain ⟨hpc, hmode⟩ := k.trapReturn_trap code tval
  refine ⟨hx, hf, hv, hcsr, hworld, hmem, hpart, hscan, hblocked, hpc, hmode, ?_, ?_, ?_⟩
  · intro hlevel
    rw [Hart.trap_eq_enterM hlevel tval, Hart.trapReturn_enterM]
    exact ⟨⟨rfl, rfl, rfl⟩, rfl, rfl, rfl⟩
  · intro hm hd hlevel
    rw [Hart.trap_eq_enterHS hm hd hlevel tval, Hart.trapReturn_enterHS]
    exact ⟨⟨rfl, rfl, rfl⟩, rfl, rfl, rfl⟩
  · intro hvirtual hd hh
    rw [Hart.trap_eq_enterVS hvirtual hd hh tval, Hart.trapReturn_enterVS]
    exact ⟨⟨rfl, rfl, rfl⟩, rfl, rfl, rfl⟩

end Sys2Proof.Machine
end


section
/-! SUPPORT. The tag operations (R17, R18): each writes one part of the tag, and the parts lie apart. -/

namespace Sys2Proof.Machine

/-! ## Tags under a tag operation (R17, R18) -/

/-- The low bits of a word as a number (R5). -/
theorem toNat_bitsAt_low {n : Nat} (w : BitVec n) (len : Nat) : (bitsAt w 0 len).toNat = w.toNat % 2 ^ len := by
  simp [bitsAt, BitVec.extractLsb'_toNat]

section
variable {tagw : List Nat} {k : Nat} (hfit : tagw.foldl (· + ·) 0 ≤ 55) (hk : k < tagw.length)
include hfit hk

/-- A declared field lies in PATH (R17). -/
theorem fieldEnd_le_path : fieldLo tagw k + fieldW tagw k ≤ 55 :=
  (fieldEnd_le tagw k hk).trans hfit

theorem getField_setField_declared (v : Nat) (t : Word64) : getField tagw k (setField tagw k v t) = v % 2 ^ fieldW tagw k :=
  getField_setField_same tagw k v t ((fieldEnd_le_path hfit hk).trans (by decide))

/-- Writing a declared field leaves the colour. -/
theorem tagCol_setField (v : Nat) (t : Word64) : tagCol (setField tagw k v t) = tagCol t := by
  rw [tagCol, extract_setField tagw k v 58 6 t ((fieldEnd_le_path hfit hk).trans (by decide)) (by decide), tagCol]

/-- Writing a declared field leaves the context. -/
theorem tagCtx_setField (v : Nat) (t : Word64) : tagCtx (setField tagw k v t) = tagCtx t := by
  rw [tagCtx, extract_setField tagw k v 55 3 t (fieldEnd_le_path hfit hk) (by decide), tagCtx]

/-- Writing a declared field leaves every other declared field. -/
theorem getField_setField_declared_other (v : Nat) (t : Word64) {j : Nat} (hj : j < tagw.length) (hne : j ≠ k) :
    getField tagw j (setField tagw k v t) = getField tagw j t := by
  have hdisjoint : fieldLo tagw j + fieldW tagw j ≤ fieldLo tagw k ∨ fieldLo tagw k + fieldW tagw k ≤ fieldLo tagw j := by
    obtain h | h := Nat.lt_or_gt_of_ne hne
    · exact .inl (fieldLo_add tagw j k h hk.le)
    · exact .inr (fieldLo_add tagw k j h hj.le)
  exact getField_setField_other tagw j k v t ((fieldEnd_le_path hfit hk).trans (by decide))
    ((fieldEnd_le_path hfit hj).trans (by decide)) hdisjoint
end

/-- Writing CTX leaves COL and PATH (R14). -/
theorem setCtx_tag (t : Word64) (v : BitVec 3) :
    tagCtx (setBits t 55 v) = v.toNat ∧ tagCol (setBits t 55 v) = tagCol t ∧ (setBits t 55 v).toNat % 2 ^ 55 = t.toNat % 2 ^ 55 := by
  refine ⟨?_, ?_, ?_⟩
  · rw [tagCtx, bitsAt_setBits_same t 55 v (by decide)]
  · rw [tagCol, bitsAt_setBits_other t 55 v 58 6 (by decide) (by decide) (.inr (by decide)), tagCol]
  · rw [← toNat_bitsAt_low, ← toNat_bitsAt_low, bitsAt_setBits_other t 55 v 0 55 (by decide) (by decide) (.inl (by decide))]

/-- Writing COL leaves CTX and PATH (R14). -/
theorem setCol_tag (t : Word64) (v : BitVec 6) :
    tagCol (setBits t 58 v) = v.toNat ∧ tagCtx (setBits t 58 v) = tagCtx t ∧ (setBits t 58 v).toNat % 2 ^ 55 = t.toNat % 2 ^ 55 := by
  refine ⟨?_, ?_, ?_⟩
  · rw [tagCol, bitsAt_setBits_same t 58 v (by decide)]
  · rw [tagCtx, bitsAt_setBits_other t 58 v 55 3 (by decide) (by decide) (.inl (by decide)), tagCtx]
  · rw [← toNat_bitsAt_low, ← toNat_bitsAt_low, bitsAt_setBits_other t 58 v 0 55 (by decide) (by decide) (.inl (by decide))]

section
variable (tagw : List Nat) {f : Fields} (t : Word64)

theorem tagOp_none (h : f.top = 0) : tagOp tagw f t = t := by simp [tagOp, h]

theorem tagOp_clear (h : f.top = 1 ∨ f.top = 2) : tagOp tagw f t = setField tagw (bitsAt f.mod 0 4).toNat 0 t := by
  obtain h | h := h <;> simp [tagOp, h]

theorem tagOp_advance (h : f.top = 3) : tagOp tagw f t = setField tagw (bitsAt f.mod 0 4).toNat
    ((getField tagw (bitsAt f.mod 0 4).toNat t + 1) % 2 ^ fieldW tagw (bitsAt f.mod 0 4).toNat) t := by simp [tagOp, h]

theorem tagOp_setCtx (h : f.top = 4) : tagOp tagw f t = setBits t 55 (bitsAt f.mod 0 3) := by simp [tagOp, h]

theorem tagOp_setCol (h : f.top = 5) : tagOp tagw f t = setBits t 58 (bitsAt f.mod 0 6) := by simp [tagOp, h]

/-- TOP 1 to 3 write the field that MOD names. -/
theorem tagOp_writes_field (h : f.top = 1 ∨ f.top = 2 ∨ f.top = 3) :
    ∃ v, tagOp tagw f t = setField tagw (bitsAt f.mod 0 4).toNat v t := by
  obtain h | h | h := h
  · exact ⟨_, tagOp_clear tagw t (.inl h)⟩
  · exact ⟨_, tagOp_clear tagw t (.inr h)⟩
  · exact ⟨_, tagOp_advance tagw t h⟩
end

/-- Settles O18: each tag operation is one write, of a declared field, of CTX or of COL, and these lie apart in the tag. -/
theorem tagOperationsChangeOnePart : Obligations.TagOperationsChangeOnePart := by
  unfold Obligations.TagOperationsChangeOnePart
  intro tagw f t hfit hk
  refine ⟨fun h => ?clear, fun h => ?advance, fun h => ?others, fun h => ?ctx, fun h => ?col, tagOp_none tagw t⟩
  case clear => rw [tagOp_clear tagw t h, getField_setField_declared hfit hk, Nat.zero_mod]
  case advance => rw [tagOp_advance tagw t h, getField_setField_declared hfit hk, Nat.mod_mod, fieldW]
  case others =>
    obtain ⟨v, hv⟩ := tagOp_writes_field tagw t h
    rw [hv]
    exact ⟨tagCol_setField hfit hk v t, tagCtx_setField hfit hk v t, fun j hj hne => getField_setField_declared_other hfit hk v t hj hne⟩
  case ctx => rw [tagOp_setCtx tagw t h]; exact setCtx_tag t _
  case col => rw [tagOp_setCol tagw t h]; exact setCol_tag t _

end Sys2Proof.Machine
end

section
/-! SUPPORT. The families of the fabric instructions, once: how each instruction of a family fires, and from that what holds of every
issue (R16, R20, R24, R26, R27, R179, R405) and what an issue leaves unchanged (R23 to R25, R180, R403). -/

namespace Sys2Proof.Machine

/-! ## How the instructions of a family fire -/

/-- An instruction gives its operands the standard treatment, and does what `own` says on ordinary ones. -/
def FiresWith (o : Op) (f : Fields) (own : Ctx → Effect) : Prop := ∀ s, exec (Instr.ofOp o f) s = fire f s own

/-- An effect of one token for each valid destination, in order, and nothing else. -/
structure Effect.SendsOneEach (x : Effect) (c : Ctx) : Prop where
  state : x.s = c.s
  elem : x.e = c.e
  dsts : x.emits.map Emit.dst = dests c.f
  reqs : x.reqs = []
  keep : x.keep = false

theorem Ctx.all_sendsOneEach (c : Ctx) (v : Payload) : (c.all v).SendsOneEach c :=
  ⟨rfl, rfl, by simp [Ctx.all, Ctx.sends, Ctx.data, Function.comp_def], rfl, rfl⟩

theorem Ctx.pair_sendsOneEach (c : Ctx) (u v : Payload) : (c.pair u v).SendsOneEach c := by
  refine ⟨rfl, rfl, ?_, rfl, rfl⟩
  cases h0 : c.f.dst0.v <;> cases h1 : c.f.dst1.v <;> simp [Ctx.pair, Ctx.sends, Ctx.data, dests, h0, h1]

theorem Effect.SendsOneEach.length {x : Effect} {c : Ctx} (h : x.SendsOneEach c) : x.emits.length = (dests c.f).length := by
  rw [← h.dsts, List.length_map]

/-- The instructions that send one token to every destination fire with such an effect: of two results for six of them, of one for
the others (R82). -/
theorem sendsOneEach_fires {o : Op} (ho : sendsOneEach o = true) (f : Fields) :
    ∃ own, FiresWith o f own ∧ ∀ c, (own c).SendsOneEach c := by
  cases o
  case adds | subs | div | rem | hadx | fresc => exact ⟨_, fun _ => rfl, fun c => c.pair_sendsOneEach _ _⟩
  case const | mov | lenter | lexit | wadv | tagget | alloc | order | pset | pnot | pand | por | add | sub | mul | mulhi | mad
      | min | max | abs | neg | and | or | xor | andn | not | shl | shr | sar | rotl | clz | popc | cmpeq | cmpne | cmplt | cmple
      | sel | bcast | lane | shuf | pack | unpk | sumr | maxr | minr | index | bittst | fadd | fsub | fmul | ffma | fmin | fmax
      | fabs | fneg | fcmpeq | fcmplt | fcmple | fcmpun | frcp | frsq | fexp2 | flog2 | ftanh | fsqrt | fdiv | fsumr | fmaxr
      | hads | fscale => exact ⟨_, fun _ => rfl, fun c => c.all_sendsOneEach _⟩
  all_goals cases ho

/-- A conversion fires with its two results: a payload and the generator's value (R44, R107). -/
theorem isConversion_fires {o : Op} (ho : isConversion o = true) (f : Fields) :
    ∃ g, ∀ s, exec (Instr.ofOp o f) s = fireConv f s g := by
  cases o
  case fcvt | icvt | fcvti | qnt | dqnt => exact ⟨_, fun _ => rfl⟩
  all_goals cases ho

/-- An instruction that asks a memory-port tile fires with its request (R240). -/
theorem asksMemoryPort_fires {o : Op} (ho : asksMemoryPort o = true) (f : Fields) (s : State) :
    exec (Instr.ofOp o f) s = fireGlobal o f s := by
  cases o
  case ld | st | ldv | cmst | atadd | atmin | atmax | atand | ator | atxor | atswp | atcas | attsb | pin | unpin | pref | copy
      | massacc | kvevict | kvseqCreate | kvseqAttach | kvseqDetach | kvapp | kvstat | kvdrop | ndecl | nask | nann | ndropDecl
      | ndropOwn | nstat => rfl
  all_goals cases ho

/-- An instruction that asks a neighbouring memory tile fires with its request (R249, R320). -/
theorem asksTile_fires {o : Op} (ho : asksTile o = true) (f : Fields) (s : State) :
    exec (Instr.ofOp o f) s = fireTile o f s := by
  cases o
  case mtld | mtst | mttsb | kvxlat => rfl
  all_goals cases ho

/-- The instructions that treat errors, control tokens and bubbles in the standard way fire with it: all but those that treat their
operands themselves and the side-band tokens (R119, R127, R128, R130, R132, R133, R240, R303, R319). -/
theorem treatsStandard_fires {o : Op} (ho : treatsStandard o = true) (f : Fields) : ∃ own, FiresWith o f own := by
  cases o
  case merge | release | call | ret | ired | fred | repeatTok | ld | st | ldv | cmst | atadd | atmin | atmax | atand | ator | atxor
      | atswp | atcas | attsb | pin | unpin | pref | copy | mma | mscale | mcode | mepi | kvpack | massacc | kvevict | kvseqCreate
      | kvseqAttach | kvseqDetach | kvapp | kvstat | kvdrop | ndecl | nask | nann | ndropDecl | ndropOwn | nstat => cases ho
  all_goals exact ⟨_, fun _ => rfl⟩

/-! ## The standard treatment, cause by cause (R16, R20, R22, R26, R27) -/

section
variable {c : Ctx} (own : Ctx → Effect)

/-- A cause raised at arrival comes first (R20, R22). -/
theorem Ctx.standard_raised {cause : Cause} {side : Nat} (h : c.set.raise = some (cause, side)) :
    c.standard own = c.sends ((dests c.f).map (c.recordTo cause 0 side 0 c.tagOut)) := by
  rw [Ctx.standard, h]

/-- Then an error record, forwarded (R27). -/
theorem Ctx.standard_record {t : Token} (h : c.set.raise = none) (hr : c.set.record? = some t) :
    c.standard own = c.sends ((dests c.f).map (c.forward t)) := by
  rw [Ctx.standard, h, hr]

/-- Then the first control token (R16). -/
theorem Ctx.standard_control {t : Token} (h : c.set.raise = none) (hr : c.set.record? = none)
    (ht : (c.set.toks.find? fun t => t.kind == 2) = some t) :
    c.standard own = c.sends ((dests c.f).map (c.recordTo (mkCause 1 0x11) 0 t.side 0 c.tagOut)) := by
  have hc : c.set.control = true := List.any_eq_true.mpr ⟨t, List.mem_of_find?_eq_some ht, List.find?_some (p := fun u : Token => u.kind == 2) ht⟩
  rw [Ctx.standard, h, hr, hc, if_pos rfl, Ctx.raiseControl, ht]
  rfl

/-- Then a bubble (R26). -/
theorem Ctx.standard_bubble (h : c.set.raise = none) (hr : c.set.record? = none)
    (hc : (c.set.toks.find? fun t => t.kind == 2) = none) (hb : ∃ t ∈ c.set.toks, t.pred = false) :
    c.standard own = c.bubbles := by
  have hcontrol : c.set.control = false := ReadySet.control_eq_false (by simpa using hc)
  have hbubbly : c.set.bubbly = true := by simpa [ReadySet.bubbly] using hb
  simp [Ctx.standard, h, hr, hcontrol, hbubbly]
end

/-- An instruction completes with what the standard treatment sends in place of its result. -/
theorem fire_standard_sends {o : Op} {f : Fields} {s : State} {c : Ctx} {own : Ctx → Effect} {es : List Emit} (ho : FiresWith o f own)
    (hi : Issues f s c (dests f).length) (h : c.standard own = c.sends es) (hlen : es.length ≤ (dests f).length) :
    exec (Instr.ofOp o f) s = .next (c.issued c.e es) := by
  have hroom : (c.sends es).e.out.length + (c.sends es).emits.length + (c.sends es).reqs.length ≤ 4 := by
    have := hi.room
    simp only [Ctx.sends, List.length_nil]
    omega
  rw [ho s]
  simp only [fire, hi.here, h]
  rw [Ctx.finish_issuedIn c _ hroom hi.colour hi.epoch rfl]
  rfl

/-- Settles O23: the four causes of the standard treatment in its order, each with at most one token for each destination. -/
theorem errorsControlTokensAndBubblesReplaceTheResult : Obligations.ErrorsControlTokensAndBubblesReplaceTheResult := by
  unfold Obligations.ErrorsControlTokensAndBubblesReplaceTheResult
  intro o f s c ho hi
  obtain ⟨own, hown⟩ := treatsStandard_fires ho f
  have hf := hi.f_eq
  have sends {es : List Emit} (h : c.standard own = c.sends es) (hlen : es.length ≤ (dests f).length) := fire_standard_sends hown hi h hlen
  refine ⟨fun cause side h => ?raised, fun h => ⟨fun t ht => ?record, fun t hr ht => ?control, fun hr hc hb => ?bubble⟩⟩
  case raised => exact sends (hf ▸ Ctx.standard_raised own h) (by simp)
  case record => exact sends (hf ▸ Ctx.standard_record own h ht) (by simp)
  case control => exact sends (hf ▸ Ctx.standard_control own h hr ht) (by simp)
  case bubble =>
    have h := Ctx.standard_bubble own h hr hc hb
    rw [Ctx.bubbles, hf] at h
    exact sends h (by split <;> simp)

/-! ## Where an issue stops or is refused (R24, R179, R405) -/

theorem Ctx.length_refuse (c : Ctx) (es : List Emit) : (c.refuse es).length = es.length := by simp [Ctx.refuse]

/-- A refused recolouring sends as many tokens. -/
theorem Ctx.length_unlessRefused (c : Ctx) (es : List Emit) : (if c.recolourRefused then c.refuse es else es).length = es.length := by
  split
  · exact c.length_refuse es
  · rfl

/-- No room: nothing happens (R24). -/
theorem Ctx.finish_stalled (c : Ctx) (x : Effect) (h : ¬ x.e.out.length + x.emits.length + x.reqs.length ≤ 4) : c.finish x = c.s := by
  rw [Ctx.finish]
  simp only [c.length_unlessRefused]
  rw [if_pos (by omega)]

/-- An advance of the seal generation is due: the launch waits for it, for the element that asked first (R405). -/
theorem Ctx.finish_waits (c : Ctx) (x : Effect) (h : x.e.out.length + x.emits.length + x.reqs.length ≤ 4) (ha : c.needsAdvance = true) :
    c.finish x =
      c.s.putLaunch { c.l with sl := { c.l.sl with waiting := some ((c.l.sl.waiting).getD (c.p.r.m, c.p.x, c.p.y)) } } := by
  rw [Ctx.finish]
  simp only [c.length_unlessRefused]
  rw [if_neg (by omega), if_pos ha]

/-- A refused recolouring: the issue completes with records for the same destinations (R179). -/
theorem Ctx.finish_refused (c : Ctx) (x : Effect) (h : x.e.out.length + x.emits.length + x.reqs.length ≤ 4)
    (ha : c.needsAdvance = false) (hc : c.recolourRefused = true) (hk : x.keep = false) :
    c.finish x = c.issuedIn x.s x.e (c.refuse x.emits) x.reqs := by
  have h4 : ¬ x.e.out.length + x.emits.length + x.reqs.length > 4 := by omega
  simp only [Ctx.finish, hc, ha, hk, Bool.false_eq_true, if_true, if_false, c.length_refuse, h4, issuedIn, sentIn, State.region?]
  cases hl : x.s.launch? c.p.r.h with
  | none => rfl
  | some l =>
    cases hg : l.members[c.p.r.m]? with
    | none => simp [hg]
    | some g => simp [hg, Launch.put]

/-- Settles O24: an effect of one token for each destination stalls, waits for the generation, or is refused destination by
destination. -/
theorem anIssueWaitsForRoomAndForTheSealGeneration : Obligations.AnIssueWaitsForRoomAndForTheSealGeneration := by
  unfold Obligations.AnIssueWaitsForRoomAndForTheSealGeneration
  intro o f s c ho hctx hp i room
  obtain ⟨own, hown, hsends⟩ := sendsOneEach_fires ho f
  obtain ⟨hs, hf, -⟩ := ctx?_some hctx
  have hx := hsends c
  have hexec : exec i s = .next (c.finish (own c)) := by
    rw [show exec i s = fire f s own from hown s]
    simp only [fire, hctx, Ctx.standard_plain hp]
  have hroom : (own c).e.out.length + (own c).emits.length + (own c).reqs.length = c.e.out.length + (dests f).length := by
    rw [hx.elem, hx.length, hx.reqs, hf, List.length_nil, Nat.add_zero]
  rw [hexec]
  refine ⟨fun hfull => ?stalls, fun hfree ha => ?waits, fun hfree ha hc => ?refused⟩
  case stalls => rw [c.finish_stalled _ (by rw [hroom]; exact hfull), hs]
  case waits =>
    rw [c.finish_waits _ (by rw [hroom]; exact hfree) ha, hs]
    exact ⟨_, rfl, rfl, rfl⟩
  case refused =>
    have hrefuse : c.refuse (own c).emits = (dests f).map (c.recordTo (mkCause 4 6) 0 0 0 c.tag) := by
      rw [← hf, ← hx.dsts, List.map_map]
      rfl
    rw [c.finish_refused _ (by rw [hroom]; exact hfree) ha hc hx.keep, hrefuse, hx.state, hx.elem, hx.reqs]
    rfl

/-! ## The frame of an issue (R12, R23, R25, R180, R403) -/

theorem Ctx.sends_local (c : Ctx) (o : Op) (es : List Emit) : (c.sends es).Local o c := localOf rfl rfl

theorem Effect.SendsOneEach.toLocal {x : Effect} {c : Ctx} (h : x.SendsOneEach c) (o : Op) : x.Local o c := localOf h.state h.elem

/-- An effect that writes a state register. -/
theorem setSreg_local {c : Ctx} {o : Op} {x : Effect} (ctx n : Nat) (v : Payload) (hs : x.s = c.s) (he : x.e = c.e.setSreg ctx n v)
    (ho : writesState o = true) : x.Local o c := by
  refine ⟨hs, ?_, fun h => ?_, fun _ => ?_, fun _ => ?_⟩
  · rw [he]; rfl
  · rw [ho] at h; cases h
  · rw [he]; rfl
  · rw [he]; rfl

/-- A count in a state register (R115). -/
theorem sinkEffect_local (c : Ctx) : (sinkEffect c).Local .sink c := by
  unfold sinkEffect
  simp only
  split <;> exact setSreg_local _ _ _ rfl rfl rfl

/-- A delay line in state registers (R138). -/
theorem delayShift_local (c : Ctx) (v a : Payload) (n d : Nat) :
    ({ c.all v with e := delayShift c.e c.set.ctx n d a } : Effect).Local .delay c := by
  obtain ⟨hkeep, hxs, hrep⟩ := delayShift_keep c.e c.set.ctx n d a
  exact ⟨rfl, by simpa only [hxs, hrep] using hkeep, nofun, fun _ => hxs, fun _ => hrep⟩

/-- MERGE only sends (R119). -/
theorem mergeEffect_local (c : Ctx) : (mergeEffect c).Local .merge c := by
  unfold mergeEffect
  repeat' split
  all_goals exact localOf rfl rfl

/-- REPEAT moves its place alone (R132). -/
theorem repeatEffect_local (c : Ctx) : (repeatEffect c).Local .repeatTok c := by
  unfold repeatEffect
  simp only
  split
  · exact localOf rfl rfl
  · exact ⟨rfl, rfl, fun _ => rfl, fun _ => rfl, fun h => absurd rfl h⟩

/-- KVPACK only sends (R319). -/
theorem kvpackEffect_local (c : Ctx) : (kvpackEffect c).Local .kvpack c := by
  unfold kvpackEffect
  simp only
  repeat' split
  all_goals exact localOf rfl rfl

/-- What RELEASE sends first changes nothing, under whatever fields (R127). -/
theorem releaseFirst_se (c : Ctx) : (releaseFirst c).s = c.s ∧ (releaseFirst c).e = c.e := standard_se rfl rfl

/-- A reduction's result only sends (R133). -/
theorem reduceEffect_se (c : Ctx) : (reduceEffect c).s = c.s ∧ (reduceEffect c).e = c.e := by
  unfold reduceEffect
  split
  · exact standard_se rfl rfl
  · simp only
    split
    · exact ⟨rfl, rfl⟩
    · split
      · exact ⟨rfl, rfl⟩
      · exact standard_se rfl rfl

theorem Ctx.atExit_se (c : Ctx) : c.atExit.s = c.s ∧ c.atExit.e = c.e := by
  unfold Ctx.atExit
  split <;> exact ⟨rfl, rfl⟩

/-- The local instructions of no larger family. -/
def isLocalOnItsOwn : Op → Bool
  | .nop | .sink | .steer | .gate | .merge | .pick | .tagset | .release | .call | .count | .ired | .fred | .hold | .reads | .delay
  | .repeatTok | .census | .colget | .cpptr | .mscale | .mcode | .mepi | .kvpack => true
  | _ => false

theorem isLocal_family {o : Op} (ho : isLocal o = true) : sendsOneEach o = true ∨ isConversion o = true ∨ asksMemoryPort o = true ∨
    asksTile o = true ∨ isLocalOnItsOwn o = true := by
  have hdef : isLocal o =
      (sendsOneEach o || isConversion o || asksMemoryPort o || asksTile o || isLocalOnItsOwn o) := by cases o <;> rfl
  rw [hdef] at ho
  simpa only [Bool.or_eq_true, or_assoc] using ho

section
variable {o : Op} {f : Fields} {s t : State} {c : Ctx} (h : s.ctx? f = some c)
include h

theorem fireReduce_only (ht : fireReduce f s = .next t) : c.OnlyIssues o s t := by
  obtain ⟨hs, he⟩ := reduceEffect_se c.atExit
  obtain ⟨hs', he'⟩ := c.atExit_se
  simp only [fireReduce, h, Host.Outcome.next.injEq] at ht
  rw [← ht]
  exact finish_atExit_onlyIssues h _ (localOf (hs.trans hs') (he.trans he'))

/-- A side-band instruction fires without BUB, and only sends (R303). -/
theorem fireSide_only {sub : BitVec 3} (ht : fireSide sub f s = .next t) : c.OnlyIssues o s t :=
  have hsent : ({ c with f := { f with bub := false }, tagOut := tagOp c.g.tagw { f with bub := false } c.tag } : Ctx).OnlyIssues o s t :=
    fire_only (ctx?_setBub h _) (Ctx.sends_local _ o _) ht
  ⟨hsent.package, hsent.launches, hsent.here⟩

/-- The local instructions of no larger family change at most a state register or REPEAT's place. -/
theorem isLocalOnItsOwn_only (ho : isLocalOnItsOwn o = true) (ht : exec (Instr.ofOp o f) s = .next t) : c.OnlyIssues o s t := by
  have choice {a b : Effect} {p : Prop} [Decidable p] (ha : a.Local o c) (hb : b.Local o c) : (if p then a else b).Local o c := by
    split
    · exact ha
    · exact hb
  cases o
  case nop | steer => exact fire_only h (c.sends_local _ _) ht
  case gate | tagset => exact fire_only h (choice (localOf rfl rfl) (localOf rfl rfl)) ht
  case colget => exact fire_only h (localOf rfl rfl) ht
  case census => exact fire_only h (choice (localOf rfl rfl) (localOf rfl rfl)) ht
  case pick | cpptr => exact fire_only h (by simp only; split <;> exact localOf rfl rfl) ht
  case sink => exact fire_only h (choice (sinkEffect_local c) (c.sends_local _ _)) ht
  case count | hold => exact fire_only h (setSreg_local _ _ _ rfl rfl rfl) ht
  case reads =>
    refine fire_only h ?_ ht
    cases hclr : bitAt f.xmod 0
    · exact localOf rfl (by simp)
    · exact setSreg_local c.set.ctx f.ssel.toNat 0 rfl (by simp) rfl
  case delay => exact fire_only h (delayShift_local c _ _ _ _) ht
  case merge => exact fireRaw_only h (mergeEffect_local c) ht
  case release =>
    refine fireRaw_only h ?_ ht
    exact localOf (releaseFirst_se _).1 (releaseFirst_se _).2
  case call => exact fireRaw_only h (choice (standard_local (c.sends_local _ _)) (choice (c.sends_local _ _) (c.sends_local _ _))) ht
  case repeatTok => exact fireRaw_only h (choice (standard_local (c.sends_local _ _)) (repeatEffect_local c)) ht
  case kvpack => exact fireRaw_only h (kvpackEffect_local c) ht
  case ired | fred => exact fireReduce_only h ht
  case mscale | mcode | mepi => exact fireSide_only h ht
  all_goals cases ho
end

/-- Settles O25, family by family: a local instruction's effect changes at most its element's registers. -/
theorem anIssueChangesOnlyItsElement : Obligations.AnIssueChangesOnlyItsElement := by
  unfold Obligations.AnIssueChangesOnlyItsElement
  intro o f s t c ho h ht
  obtain ho | ho | ho | ho | ho := isLocal_family ho
  · obtain ⟨own, hown, hsends⟩ := sendsOneEach_fires ho f
    exact fire_only h ((hsends c).toLocal o) (hown s ▸ ht)
  · obtain ⟨g, hg⟩ := isConversion_fires ho f
    exact fireConv_only h ho (hg s ▸ ht)
  · exact fireGlobal_only h (asksMemoryPort_fires ho f s ▸ ht)
  · exact fireTile_only h (asksTile_fires ho f s ▸ ht)
  · exact isLocalOnItsOwn_only h ho ht

end Sys2Proof.Machine
end

section
/-! SUPPORT. A step: what its move comes to, agent by agent, and what it notes at its end (R23, R24, R53, R72, R385, R405). -/

namespace Sys2Proof.Machine

/-! ## The instruction that a move runs -/

/-- A step that runs an instruction. -/
theorem step_of_run {s u : State} {i : Instr} (h : s.begin.plan s.nextMove.1.act = .run i u) :
    (∀ t, exec i u = .next t → step s = .next (afterStep s.begin t)) ∧ (∀ r, exec i u = .fault r → step s = .fault r) ∧
      ∀ r, exec i u = .refused r → step s = .refused r := by
  refine ⟨fun t ht => ?_, fun r hr => ?_, fun r hr => ?_⟩
  · simp only [step, h, ht]
  · simp only [step, h, hr]
  · simp only [step, h, hr]

/-- What the start of a step changes: the schedule, the number of moves, the clock, and the agents of the last step. -/
theorem begin_frame (s : State) :
    { s.begin with sched := s.sched, moves := s.moves, focus := s.focus, bus := s.bus, cycle := s.cycle } = s := rfl

/-- The word that an element issues is its oldest set's (R23, R24). -/
theorem issueWord_eq {s : State} {p : Site} {l : Launch} {g : Region} {e : Elem} {set : ReadySet} {rest : List ReadySet}
    (hl : s.launch? p.r.h = some l) (hlive : s.live l = true) (hg : s.region? p.r = some g) (he : g.elem? p.x p.y = some e)
    (hready : e.ready = set :: rest) (hdone : set.done < s.cycle) (hlast : e.lastIssue ≠ s.cycle) (hfifo : s.fifoHold l g e = false)
    (hgood : (32 * set.ctx + set.slot) ∉ e.badWords) : s.issueWord p = e.slotWord? set.ctx set.slot := by
  simp [State.issueWord, hl, hg, he, hready, hlive, hdone, hlast, hfifo, hgood]

theorem planIssue_eq {s : State} {p : Site} {w : SlotWord} {i : Instr} (hw : s.issueWord p = some w) (hi : decodeSlot w = .ok i) :
    s.planIssue p = .run i { s with focus := .elem p } := by
  simp [State.planIssue, hw, hi]

/-- A word that the decoder takes lies in custom-0 (R72). -/
theorem decodeWx_ok_custom0 {w : Word32} {i : Instr} (h : decodeWx w = .ok i) : bitsAt w 0 7 = 0x0B := by
  by_contra hne
  simp only [decodeWx] at h
  rw [if_pos (by simpa using hne)] at h
  cases h

/-- A word in custom-0 is no compressed one, nor sixteen zero bits. -/
theorem custom0_not_compressed {w : Word32} (h : bitsAt w 0 7 = 0x0B) : bitsAt w 0 16 ≠ 0 ∧ bitsAt w 0 2 = 3 := by
  have hlow : w.toNat % 2 ^ 7 = 0x0B := by rw [← toNat_bitsAt_low, h]; rfl
  refine ⟨fun h16 => ?_, BitVec.eq_of_toNat_eq ?_⟩
  · have hzero : w.toNat % 2 ^ 16 = 0 := by rw [← toNat_bitsAt_low, h16]; rfl
    omega
  · rw [toNat_bitsAt_low, show (3 : BitVec 2).toNat = 3 from rfl]
    omega

/-- A hart runs the Xwenxus word at its pc (R72). -/
theorem planHart_eq {s : State} {h : Nat} {k : Hart} {p q : Nat} {i : Instr} (hk : s.hart? h = some k) (hwait : k.waiting = false)
    (hblock : k.blocked = false) (hclock : s.clocked = true) (heven : k.pc.toNat % 2 = 0) (hfetch : s.fetchPa k k.pc.toNat = .ok (p, q))
    (hfree : ∀ a ∈ [p, q], s.lineForeign (lineOf a) none = false ∧ s.engineHolds (lineOf a) = false)
    (hi : decodeWx (ofBytes 32 (readBytes s.mem p 2 ++ readBytes s.mem q 2)) = .ok i) :
    s.planHart h = .run i { s with focus := .hart h } := by
  obtain ⟨hzero, hlow⟩ := custom0_not_compressed (decodeWx_ok_custom0 hi)
  have hheld : ([p, q].any fun a => s.lineForeign (lineOf a) none || s.engineHolds (lineOf a)) = false := by
    rw [List.any_eq_false]
    intro a ha
    simp [hfree a ha]
  simp only [State.planHart, hk, hwait, hblock, hclock, heven, hfetch, hheld, hzero, hlow, hi]
  simp

/-- In M-mode with no poisoned line a fetch reads the four bytes at the pc (log 60). -/
theorem fetchPa_machine {s : State} {k : Hart} {pc : Nat} (hm : k.mode = .m) (hpc : pc + 3 < 2 ^ 40) (hp : s.poisoned = []) :
    s.fetchPa k pc = .ok (pc, pc + 2) := by
  have hpa (va : Nat) : s.hartPa k .fetch va = .ok va := by simp [State.hartPa, Hart.accessMode, hm]
  have hfirst : inHbm (pc + 1) = true := by simp only [inHbm, decide_eq_true_eq]; omega
  have hlast : inHbm (pc + 2 + 1) = true := by simp only [inHbm, decide_eq_true_eq]; omega
  simp [State.fetchPa, hpa, hfirst, hlast, State.poison?, hp]

/-! ## What a step notes at its end (R385, R405) -/

theorem sealHit_eq_false {t : State} (h : ∀ l ∈ t.launches, l.sl.hit = false) : t.sealHit = false := by
  simpa [State.sealHit] using h

theorem sealHit_eq_true {t : State} (h : ∃ l ∈ t.launches, l.sl.hit = true) : t.sealHit = true := by
  simpa [State.sealHit] using h

theorem afterStep_notes {t : State} (b : State) (h : ∀ l ∈ t.launches, l.sl.hit = false) : afterStep b t = noteActivity b t := by
  rw [afterStep, sealHit_eq_false h]
  rfl

theorem afterStep_stalls {t : State} (b : State) (h : ∃ l ∈ t.launches, l.sl.hit = true) : afterStep b t = b.stalled t := by
  rw [afterStep, sealHit_eq_true h]
  rfl

/-- A step that did not happen changes the launches' mark alone. -/
theorem stalled_launches (b t : State) :
    (b.stalled t).launches.map (fun l => { l with sl := { l.sl with atMax := false } }) =
      b.launches.map fun l => { l with sl := { l.sl with atMax := false } } := by
  simp only [State.stalled, List.map_map]
  refine List.map_congr_left fun l _ => ?_
  simp only [Function.comp_apply]
  split <;> rfl

/-- A launch that does not drain is as the step left it. -/
theorem noteActivity_launches_idle (b : State) {t : State} (h : ∀ l ∈ t.launches, l.drainFrom = none) :
    (noteActivity b t).launches = t.launches := by
  rw [noteActivity]
  simp only
  conv_rhs => rw [← List.map_id t.launches]
  refine List.map_congr_left fun l hl => ?_
  simp [h l hl]

/-- The notes of activity stand in the launches' members. -/
theorem noteActivity_launches_rest (b t : State) :
    (noteActivity b t).launches.map (fun l => { l with members := [] }) = t.launches.map fun l => { l with members := [] } := by
  simp only [noteActivity, List.map_map]
  refine List.map_congr_left fun l _ => ?_
  simp only [Function.comp_apply]
  split
  · rfl
  · split <;> rfl

/-- Settles O4: the plan of each kind of move is the run of its instruction, and the marks at a step's end are in the launches. -/
theorem stepRunsTheDecodedInstruction : Obligations.StepRunsTheDecodedInstruction := by
  unfold Obligations.StepRunsTheDecodedInstruction
  intro s b ran
  have runs {i : Instr} {u : State} (h : b.plan s.nextMove.1.act = .run i u) : ran i u := by
    obtain ⟨hnext, hfault, hrefused⟩ := step_of_run h
    simp only [ran]
    cases hx : exec i u with
    | next t => exact hnext t hx
    | fault r => exact hfault r hx
    | refused r => exact hrefused r hx
  refine ⟨rfl, rfl, rfl, rfl, fun h => ?ticks, fun h => ?stops, begin_frame s, ?issue, ?hart, ?fetch, ?event, ?store, 
    fun t => afterStep_notes b, fun t h => ?stall, fun t => ⟨rfl, noteActivity_launches_idle b, noteActivity_launches_rest b t⟩⟩
  case ticks => exact if_pos h
  case stops => exact if_neg (by simp [h])
  case issue =>
    intro p l g e set rest w i hact hl hlive hg he hready hdone hlast hfifo hgood hw hi
    refine runs ?_
    rw [hact, State.plan]
    exact planIssue_eq ((issueWord_eq hl hlive hg he hready hdone hlast hfifo hgood).trans hw) hi
  case hart =>
    intro h k p q i hact hk hwait hblock hclock heven hfetch hfree hi
    refine runs ?_
    rw [hact, State.plan]
    exact planHart_eq hk hwait hblock hclock heven hfetch hfree hi
  case fetch => exact fun k pc hm hpc hp => fetchPa_machine hm hpc hp
  case event =>
    intro i hact hsplit hwx
    refine runs ?_
    rw [hact]
    simp [State.plan, Instr.isEvent, hsplit, hwx]
  case store =>
    intro a pa size value hact hpage
    refine runs ?_
    rw [hact]
    simp [State.plan, hpage]
  case stall =>
    rw [afterStep_stalls b h]
    exact ⟨(b.stalled t).launches, rfl, stalled_launches b t⟩

end Sys2Proof.Machine
end

section
/-! SUPPORT. Where a token goes next: into its element, into a set and its place in the ready queue, out of an output queue, in at an
entry port and out at an exit port (R22 to R24, R61, R177, R178, R198, R271, R289). -/

namespace Sys2Proof.Machine

/-! ## A region that runs -/

section
variable {s : State} {r : Rid} {l : Launch} {g : Region} (h : Runs s r l g)
include h

theorem Runs.live : s.live l = true := by simp [State.live, h.state, h.package]

theorem Runs.region : s.region? r = some g := region?_eq h.launch h.member

theorem Runs.handle : l.handle = r.h := launch?_handle h.launch

theorem Runs.index_lt : r.m < l.members.length := (List.getElem?_eq_some_iff.mp h.member).1

theorem Runs.putRegion (g' : Region) : s.putRegion r g' = s.putLaunch { l with members := l.members.set r.m g' } := putRegion_eq h.launch g'

/-- A region replaced still runs. -/
theorem Runs.putRegion_runs (g' : Region) : Runs (s.putRegion r g') r { l with members := l.members.set r.m g' } g' where
  launch := by rw [h.putRegion]; exact launch?_putLaunch_same h.launch h.handle
  member := by simp [h.index_lt]
  state := h.state
  package := by rw [h.putRegion]; exact h.package
end

/-! ## Lists -/

theorem takeFirst_cons {α : Type} {q : α → Bool} {v : α} (vs : List α) (hv : q v = true) : takeFirst q (v :: vs) = some (v, vs) := by
  simp [takeFirst, hv]

/-- The oldest link to a site. -/
theorem nextLink_cons {g : Region} {k : Link} {rest : List Link} (hlinks : g.links = k :: rest) (hport : k.port = none) :
    g.nextLink k.src k.x k.y = some (k, rest) := by
  rw [Region.nextLink, hlinks]
  exact takeFirst_cons rest (by simp [hport])

/-- The oldest link to an exit port. -/
theorem exitLink_cons {g : Region} {k : Link} {rest : List Link} {i : Nat} (hlinks : g.links = k :: rest) (hport : k.port = some i) :
    takeFirst (fun (q : Link) => q.src == k.src && q.port == some i) g.links = some (k, rest) := by
  rw [hlinks]
  exact takeFirst_cons rest (by simp [hport])

/-! ## Tokens on their way (R61) -/

section
variable {s : State} {r : Rid} {l : Launch} {g : Region} (h : Runs s r l g)
include h

/-- A token for an element goes on a link to the site that its header names. -/
theorem route_site {t : Token} (src : Src) (x y : Nat) (ht : t.side ≠ 3) :
    route s r src x y t =
      s.putRegion r { g with links := g.links ++ [⟨src, ((x : Int) + t.dx).toNat, ((y : Int) + t.dy).toNat, none, t⟩] } := by
  rw [route, h.launch]
  simp only [h.member]
  rw [if_pos ht, h.putRegion]
  rfl

/-- A token for an exit port goes on a link to it. -/
theorem route_exit {t : Token} {p : Port} (src : Src) (x y : Nat) (ht : t.side = 3) (hsink : t.slot ≠ 31)
    (hp : g.ports[t.slot]? = some p) (htype : portType p.word = 4) :
    route s r src x y t = s.putRegion r { g with links := g.links ++ [⟨src, 0, 0, some t.slot, t⟩] } := by
  rw [route, h.launch]
  simp only [h.member]
  rw [if_neg (by simp [ht]), if_neg hsink, h.putRegion]
  simp only [hp, htype]
  rfl

/-- The head of an output queue leaves. -/
theorem execOutputTokenSend_tok {x y : Nat} {e : Elem} {t : Token} {rest : List OutItem} (he : g.elem? x y = some e)
    (hout : e.out = .tok t :: rest) :
    execOutputTokenSend ⟨r, x, y⟩ s =
      .next (route (s.putRegion r (g.putElem { e with out := rest })) r (.site x y) x y t) := by
  simp only [execOutputTokenSend, h.launch, h.region, he, h.live, hout]
  rfl

/-- A request at the head of an output queue becomes an access on its way to its memory-port tile (R24). -/
theorem execOutputTokenSend_global {x y : Nat} {e : Elem} {q : Request} {rest : List OutItem} (he : g.elem? x y = some e)
    (hout : e.out = .global q :: rest) :
    execOutputTokenSend ⟨r, x, y⟩ s = .next ({ s with freshId := s.freshId + 1 }.putRegion r { g.putElem { e with out := rest } with
      accs := g.accs ++ [Access.mk s.freshId q (g.portTile (bitsAt q.f.imm 4 4).toNat) .net 0 0 0 [] [] 0 false] }) := by
  simp only [execOutputTokenSend, h.launch, h.region, he, h.live, hout]
  rfl

/-- A completed set enters the ready queue where it has room (R23). -/
theorem execReadyQueueEntry_enters {x y : Nat} {e : Elem} {set : ReadySet} {rest : List ReadySet} (he : g.elem? x y = some e)
    (hpend : e.pend = set :: rest) (hroom : e.ready.length < 8) (hdone : set.done ≤ s.cycle) :
    execReadyQueueEntry ⟨r, x, y⟩ s =
      .next (s.putRegion r (g.putElem { e with pend := rest, ready := insertSet set e.kept e.ready })) := by
  simp only [execReadyQueueEntry, h.launch, h.region, he, h.live, hpend, hroom, hdone]
  rfl
end

/-! ## Completed sets (R23) -/

theorem insertSet_perm (set : ReadySet) (n : Nat) (q : List ReadySet) : (insertSet set n q).Perm (set :: q) := by
  induction q generalizing n with
  | nil => cases n <;> exact .refl _
  | cons a rest ih =>
    have behind (m : Nat) : (a :: insertSet set m rest).Perm (set :: a :: rest) := ((ih m).cons a).trans (.swap set a rest)
    cases n with
    | zero =>
      rw [insertSet]
      split
      · exact .refl _
      · exact behind 0
    | succ n => exact behind n

theorem foldl_insertSet_perm (n : Nat) (due q : List ReadySet) : (due.foldl (fun q r => insertSet r n q) q).Perm (due ++ q) := by
  induction due generalizing q with
  | nil => exact .refl _
  | cons a due ih =>
    calc ((a :: due).foldl (fun q r => insertSet r n q) q).Perm (due ++ insertSet a n q) := ih _
      _ |>.Perm (due ++ a :: q) := (insertSet_perm a n q).append_left due
      _ |>.Perm (a :: due ++ q) := List.perm_middle

/-- A completed set joins those that wait or are ready; none of them is lost. -/
theorem complete_perm (e : Elem) (now : Nat) (set : ReadySet) :
    ((e.complete now set).pend ++ (e.complete now set).ready).Perm (set :: (e.pend ++ e.ready)) := by
  rw [Elem.complete]
  generalize hp : insertSet set 0 e.pend = pend
  generalize hd : (pend.takeWhile fun q => decide (q.done ≤ now)) = due
  generalize ha : due.foldl (fun q r => insertSet r e.kept q) e.ready = all
  have hall : all.Perm (due ++ e.ready) := ha ▸ foldl_insertSet_perm e.kept due e.ready
  have hdue : due ++ pend.drop due.length = pend := List.prefix_iff_eq_append.mp (hd ▸ List.takeWhile_prefix _)
  calc (all.drop 8 ++ pend.drop due.length ++ all.take 8).Perm (all.take 8 ++ (all.drop 8 ++ pend.drop due.length)) := List.perm_append_comm
    _ |>.Perm (all ++ pend.drop due.length) := by rw [← List.append_assoc, List.take_append_drop]
    _ |>.Perm (due ++ e.ready ++ pend.drop due.length) := hall.append_right _
    _ |>.Perm (pend ++ e.ready) := by
      rw [List.append_assoc]
      exact (List.perm_append_comm.append_left due).trans (by rw [← List.append_assoc, hdue])
    _ |>.Perm (set :: (e.pend ++ e.ready)) := (hp ▸ insertSet_perm set 0 e.pend).append_right e.ready

@[simp] theorem complete_slotWord? (e : Elem) (now : Nat) (set : ReadySet) (ctx slot : Nat) :
    (e.complete now set).slotWord? ctx slot = e.slotWord? ctx slot := rfl

/-! ## Spans that an arrival closes (R198, R271) -/

/-- At a word other than SPANEND no set waits to report a span. -/
theorem spanSets_eq_zero {e : Elem} {slot : Nat} {tag : Word64} {w : SlotWord} (hw : e.slotWord? (tagCtx tag) slot = some w)
    (ho : opOf (bitsAt w 119 9) (decodeFields w).xmod ≠ some .spanend) : e.spanSets slot tag = 0 := by
  have hother : (opOf (bitsAt w 119 9) (decodeFields w).xmod == some .spanend) = false := beq_false_of_ne ho
  have hnone (l : Option Token) : (l.any fun _ => false) = false := by cases l <;> rfl
  simp [Elem.spanSets, countIf, hw, hother, hnone]

/-- A set of a SPANEND whose operand is data and no bubble counts. -/
theorem spanSets_complete {e : Elem} {now : Nat} {t : Token} {w : SlotWord} {set : ReadySet} (hw : e.slotWord? (tagCtx t.tag) t.slot = some w)
    (ho : opOf (bitsAt w 119 9) (decodeFields w).xmod = some .spanend) (hslot : set.slot = t.slot) (hraise : set.raise = none)
    (hl : set.l = some t) (hkind : t.kind = 0) (hpred : t.pred = true) :
    (e.complete now set).spanSets t.slot t.tag = e.spanSets t.slot t.tag + 1 := by
  simp only [Elem.spanSets, countIf, complete_slotWord?]
  rw [((complete_perm e now set).filter _).length_eq]
  simp [hw, ho, hslot, hraise, hl, hkind, hpred]

theorem spanArrives_none {s : State} {p : Site} {before after : Elem} {t : Token}
    (h : before.spanSets t.slot t.tag = after.spanSets t.slot t.tag) : s.spanArrives p before after t = s := by
  unfold State.spanArrives
  split
  · rfl
  · rw [if_neg (by omega)]

theorem spanArrives_closes {s : State} {p : Site} {l : Launch} {before after : Elem} {t : Token} (hl : s.launch? p.r.h = some l)
    (h : before.spanSets t.slot t.tag < after.spanSets t.slot t.tag) :
    s.spanArrives p before after t =
      s.putLaunch { l.closeSpan with spanDue := l.spanDue ++ [⟨p.r.m, p.x, p.y, t.slot, t.tag, l.openSpan⟩] } := by
  rw [State.spanArrives, hl]
  exact if_pos h

/-! ## A token enters its element (R16, R22, R289) -/

theorem setOf_left (ctx slot : Nat) (t : Token) (done : Nat) :
    setOf ctx slot [(0, t)] done none = ⟨ctx, slot, some t, none, none, [], done, none, none, none⟩ := rfl

theorem setOf_pair (ctx slot : Nat) (t u : Token) (done : Nat) :
    setOf ctx slot [(0, t), (1, u)] done none = ⟨ctx, slot, some t, some u, none, [], done, none, none, none⟩ := rfl

/-- A codebook token loads its latch, from either side (R289). -/
theorem arrive_codebook {now : Nat} {g : Region} {e : Elem} {op : Token → Payload} {t : Token} (hkind : t.kind = 1) (hsub : t.sub = 2) :
    arrive now g e op t = arrivedAt g { e with lat := { e.lat with cbk := op t } } := by
  rw [arrive, if_pos hkind, hsub]
  rfl

section
variable {now : Nat} {g : Region} {e : Elem} {op : Token → Payload} {t : Token} {w : SlotWord} {o : Op} (hkind : t.kind ≠ 1)
  (hw : e.slotWord? (tagCtx t.tag) t.slot = some w) (hop : opOf (bitsAt w 119 9) (decodeFields w).xmod = some o)
  (ho : o ∉ [.alloc, .ired, .fred, .kvpack, .call])
include hkind hw hop ho

/-- A token at an instruction whose operands are matched: on a side that it does not take, alone, or with partners (R20, R22). -/
theorem arrive_matched : arrive now g e op t =
    if !(sidesOf (decodeFields w).ar).contains t.side then
      arrivedAt g (e.complete now (setOf (tagCtx t.tag) t.slot [(t.side, t)] now (some (mkCause 1 0x12, t.side))))
    else if (sidesOf (decodeFields w).ar).length = 1 then
      arrivedAt g (e.complete now (setOf (tagCtx t.tag) t.slot [(t.side, t)] now none))
    else arriveOperand now g e (tagCtx t.tag) t.slot t.side (sidesOf (decodeFields w).ar) t := by
  rw [arrive, if_neg hkind, arriveSlot, hw]
  simp only [hop]
  split
  case h_1 | h_2 | h_3 | h_4 | h_5 => simp at ho
  case h_6 => rfl

/-- The left operand of an instruction that needs no other (R22). -/
theorem arrive_alone (har : (decodeFields w).ar = .trigger ∨ (decodeFields w).ar = .monadic) (hside : t.side = 0) :
    arrive now g e op t = arrivedAt g (e.complete now (setOf (tagCtx t.tag) t.slot [(0, t)] now none)) := by
  have hsides : sidesOf (decodeFields w).ar = [0] := by obtain h | h := har <;> rw [h] <;> rfl
  rw [arrive_matched hkind hw hop ho, hsides, hside]
  rfl

/-- The left operand of a dyadic instruction (R22). -/
theorem arrive_left (har : (decodeFields w).ar = .dyadic) (hside : t.side = 0) :
    arrive now g e op t = arriveOperand now g e (tagCtx t.tag) t.slot 0 [0, 1] t := by
  rw [arrive_matched hkind hw hop ho, har, hside]
  rfl
end

/-- An operand waits where nothing else does (R22). -/
theorem arriveOperand_waits {now : Nat} {g : Region} {e : Elem} {ctx slot : Nat} {t : Token} {b : Bool} (hstore : e.store = [])
    (hb : placeFor g e t.tag = some b) :
    arriveOperand now g e ctx slot 0 [0, 1] t = arrivedAt g { e with store := [⟨slot, 0, t, b, .operand⟩] } := by
  simp [arriveOperand, Elem.partners, hstore, takeFirst, Elem.summary, arrivedWait, Elem.wait, hb]

/-- An operand whose partner is the first that waits (R22). -/
theorem arriveOperand_matches {now : Nat} {g : Region} {e : Elem} {ctx slot : Nat} {t u : Token} {rest : List Entry}
    (hstore : e.store = ⟨slot, 1, u, false, .operand⟩ :: rest) (hu : u.tag = t.tag) :
    arriveOperand now g e ctx slot 0 [0, 1] t =
      arrivedAt g (({ e with store := rest } : Elem).complete now (setOf ctx slot [(0, t), (1, u)] now none)) := by
  simp [arriveOperand, Elem.partners, hstore, takeFirst, Entry.isOp, hu]

/-- The region that a token leaves its link in, for the element at a site (R155, R180). -/
def Region.linkTaken (g : Region) (rest : List Link) (x y : Nat) (tag : Word64) : Region :=
  { g with links := rest, deltas := g.deltas ++ [⟨.site x y, tagKey tag, 0, true, false⟩] }

/-- The payload of a token in clear (R403). -/
def clearPayload (s : State) (l : Launch) (g : Region) : Token → Payload := fun u => (openTok s l.sl (g.tagWorld u.tag) u).pay

section
variable {s : State} {r : Rid} {l : Launch} {g : Region} {x y : Nat} {e e' : Elem} {k : Link} {rest : List Link}
  (h : Runs s r l g) (he : g.elem? x y = some e) (hnext : g.nextLink k.src x y = some (k, rest)) (hopen : e.blockedTo ≤ s.cycle)
  (hsheets : g.sheets = []) (hheld : ∀ q ∈ l.causes, q.cause ≠ mkCause 3 2)
  (ha : arrive s.cycle (g.linkTaken rest x y k.tok.tag) e (clearPayload s l g) k.tok = arrivedAt (g.linkTaken rest x y k.tok.tag) e')
include h he hnext hopen hsheets hheld ha

/-- A token enters its element where neither a probe, nor a sheet, nor an exhausted landing stops it. -/
theorem execTokenArrival_enters : execTokenArrival ⟨r, x, y⟩ k.src s =
    .next ((s.putRegion r ((g.linkTaken rest x y k.tok.tag).putElem e')).spanArrives ⟨r, x, y⟩ e e' k.tok) := by
  have hstream : g.streamTok x y k.tok = none := by simp [Region.streamTok, Region.sheetAt, hsheets]
  have hstray : g.sheetStray x y k.tok = false := by simp [Region.sheetStray, Region.sheetAt, hsheets]
  have hlanding : l.landingHeld r.m x y = false := by
    rw [Launch.landingHeld, List.any_eq_false]
    intro q hq
    simp [hheld q hq]
  have hblocked : decide (s.cycle < e.blockedTo) = false := by simpa using hopen
  unfold Region.linkTaken clearPayload at ha
  simp only [execTokenArrival, h.launch, h.member, he, hnext, h.live, hstream, hstray, hlanding, hblocked, Bool.false_eq_true, if_false, ha]
  rfl

/-- An arrival that completes no SPANEND changes its region alone. -/
theorem execTokenArrival_quiet (hspans : e.spanSets k.tok.slot k.tok.tag = e'.spanSets k.tok.slot k.tok.tag) :
    execTokenArrival ⟨r, x, y⟩ k.src s = .next (s.putRegion r ((g.linkTaken rest x y k.tok.tag).putElem e')) := by
  rw [execTokenArrival_enters h he hnext hopen hsheets hheld ha, spanArrives_none hspans]

/-- An arrival that completes a SPANEND closes the open span (R198, R271). -/
theorem execTokenArrival_closes (hspans : e'.spanSets k.tok.slot k.tok.tag = e.spanSets k.tok.slot k.tok.tag + 1) :
    execTokenArrival ⟨r, x, y⟩ k.src s = .next (s.putLaunch { l with
      members := l.members.set r.m ((g.linkTaken rest x y k.tok.tag).putElem e')
      openSpan := l.openSpan + 1
      closedSpans := l.openSpan + 1
      spanDue := l.spanDue ++ [⟨r.m, x, y, k.tok.slot, k.tok.tag, l.openSpan⟩] }) := by
  rw [execTokenArrival_enters h he hnext hopen hsheets hheld ha,
    spanArrives_closes (h.putRegion_runs _).launch (by omega), h.putRegion, putLaunch_twice]
  · rfl
  · rfl
end

/-! ## Ports (R177, R178) -/

/-- Does a port hold a token for an attachment site? -/
def Region.entryWaits (g : Region) (ax ay i : Nat) : Bool :=
  match g.ports[i]? with
  | some p => portType p.word == 3 && portAx p.word == ax && portAy p.word == ay && !p.queue.isEmpty
  | none => false

/-- Every port below 31 has its turn, whichever was served last. -/
theorem mem_turnOrder (last : Nat) {i : Nat} (hi : i < 31) : i ∈ (List.range 31).map fun k => (last + 1 + k) % 31 := by
  rw [List.mem_map]
  exact ⟨(i + 31 - (last + 1) % 31) % 31, List.mem_range.mpr (Nat.mod_lt _ (by decide)), by omega⟩

/-- The one entry port that holds a token is the next that is served (R177). -/
theorem nextEntry_only {g : Region} {i : Nat} {p : Port} {t : Token} {rest : List Token} (hp : g.ports[i]? = some p) (hi : i < 31)
    (htype : portType p.word = 3) (hqueue : p.queue = t :: rest) (hothers : ∀ j q, j ≠ i → g.ports[j]? = some q → q.queue = []) :
    ∃ turns, nextEntry g (portAx p.word) (portAy p.word) =
      some (i, t, { g.putPort i { p with queue := rest } with turns := turns }) := by
  have hhere : g.entryWaits (portAx p.word) (portAy p.word) i = true := by simp [Region.entryWaits, hp, htype, hqueue]
  have honly (j : Nat) (hj : g.entryWaits (portAx p.word) (portAy p.word) j = true) : j = i := by
    by_contra hne
    cases hq : g.ports[j]? with
    | none => simp [Region.entryWaits, hq] at hj
    | some q => simp [Region.entryWaits, hq, hothers j q hne hq] at hj
  have hfind (last : Nat) : ((List.range 31).map fun k => (last + 1 + k) % 31).find?
      (g.entryWaits (portAx p.word) (portAy p.word)) = some i := by
    cases hf : ((List.range 31).map fun k => (last + 1 + k) % 31).find? (g.entryWaits (portAx p.word) (portAy p.word)) with
    | none => exact absurd hhere (by simpa using List.find?_eq_none.mp hf i (mem_turnOrder last hi))
    | some j => rw [honly j (List.find?_some hf)]
  rw [nextEntry]
  split
  next hnone => exact absurd ((hfind _).symm.trans hnone) (by simp)
  next j hsome =>
    obtain rfl : i = j := Option.some_inj.mp ((hfind _).symm.trans hsome)
    simp only [hp, hqueue]
    exact ⟨_, rfl⟩

section
variable {s : State} {r : Rid} {l : Launch} {g : Region} (h : Runs s r l g)
include h

theorem execEntryPortInject_enters {ax ay i : Nat} {t : Token} {g' : Region} (hnext : nextEntry g ax ay = some (i, t, g')) :
    execEntryPortInject r ax ay s = .next (route (s.putRegion r g') r (.port i) ax ay t) := by
  simp only [execEntryPortInject, h.launch, h.region, h.live, hnext]
  rfl

variable {i : Nat} {p : Port} {k : Link} {rest : List Link} (hlinks : g.links = k :: rest) (hport : k.port = some i)
  (hp : g.ports[i]? = some p)
include hlinks hport hp

/-- A token of the port's colour joins its queue (R178). -/
theorem execExitPortAccept_takes (hcol : portCol p.word = tagCol k.tok.tag) (hroom : p.queue.length < 16) :
    execExitPortAccept r k.src i s = .next (s.putRegion r
      ((({ g with links := rest } : Region).putPort i { p with queue := p.queue ++ [openTok s l.sl (g.tagWorld k.tok.tag) k.tok] }).count
        (.port i) k.tok.tag (if k.tok.counted then -1 else 0) false)) := by
  simp only [execExitPortAccept, h.launch, h.region, hp, exitLink_cons hlinks hport, h.live]
  simp only [hcol, ne_eq, not_true_eq_false, false_and, if_false, Bool.not_true, Bool.false_eq_true]
  rw [if_neg (by omega)]

/-- A token of a colour without an exit goes to the fault page (R178). -/
theorem execExitPortAccept_faults (hcol : portCol p.word ≠ tagCol k.tok.tag) (hexit : colExit (g.col (tagCol k.tok.tag)) = 31)
    (hi : i ≠ 31) :
    execExitPortAccept r k.src i s = .next ((s.putRegion r
      (({ g with links := rest } : Region).count (.port i) k.tok.tag (if k.tok.counted then -1 else 0) false)).deliver
        (siteFault s l g (g.tagWorld k.tok.tag) (mkCause 4 7) 0 (portAx p.word) (portAy p.word) 31 0 k.tok.tag 0)) := by
  simp only [execExitPortAccept, h.launch, h.region, hp, exitLink_cons hlinks hport, h.live]
  rw [if_neg (by simp), if_pos ⟨hcol.symm, by rw [hexit]; exact hi.symm⟩, if_pos hexit]
  rfl
end

/-- The census delta of a token that leaves at a port (R180). -/
theorem leavingDelta (t : Token) : (if t.counted then -1 else 0 : Int) = if t.kind = 1 then 0 else -1 := by
  by_cases hk : t.kind = 1 <;> simp [Token.counted, hk]

/-! ## Every place that a token goes to -/

/-- Settles O42: an equation for each place that a token goes to, from the arrival at its element to the exit port. -/
theorem tokensMoveAlongTheirPath : Obligations.TokensMoveAlongTheirPath := by
  unfold Obligations.TokensMoveAlongTheirPath
  intro s r l g h
  refine ⟨fun x y e he => ⟨?arrival, ?ready, ?output, ?request⟩, ?entry, ?exit⟩
  case ready => exact fun set rest hpend hroom hdone => execReadyQueueEntry_enters h he hpend hroom hdone
  case request => exact fun q rest hout => execOutputTokenSend_global h he hout
  case output =>
    intro t rest hout sent
    have hrun := h.putRegion_runs (g.putElem { e with out := rest })
    have hsend := execOutputTokenSend_tok h he hout
    refine ⟨fun hside => hsend.trans ?_, fun p hside hsink hp htype => hsend.trans ?_⟩
    · rw [route_site hrun _ _ _ hside, putRegion_twice _ _ h.region]
      rfl
    · rw [route_exit hrun _ _ _ hside hsink hp htype, putRegion_twice _ _ h.region]
      rfl
  case entry =>
    intro i p t rest hp hi htype hqueue hside hothers ax ay
    obtain ⟨turns, hnext⟩ := nextEntry_only hp hi htype hqueue hothers
    refine ⟨turns, (execEntryPortInject_enters h hnext).trans ?_⟩
    rw [route_site (h.putRegion_runs _) _ _ _ hside, putRegion_twice _ _ h.region]
    rfl
  case exit =>
    intro i p k rest hlinks hport hp d g1
    have hd : (if k.tok.counted then -1 else 0 : Int) = d := leavingDelta k.tok
    refine ⟨fun hcol hroom => ?_, fun hcol hexit hi => ?_⟩
    · have := execExitPortAccept_takes h hlinks hport hp hcol hroom
      rw [hd] at this
      exact this
    · have := execExitPortAccept_faults h hlinks hport hp hcol hexit hi
      rw [hd] at this
      exact this
  case arrival =>
    intro k rest hlinks hport hx hy hopen hsheets hheld t ctx g0 alone enters
    subst hx hy
    have hnext := nextLink_cons hlinks hport
    have quiet {e' : Elem} (ha : arrive s.cycle g0 e (clearPayload s l g) t = arrivedAt g0 e')
        (hspans : e.spanSets t.slot t.tag = e'.spanSets t.slot t.tag) : enters e' :=
      execTokenArrival_quiet h he hnext hopen hsheets hheld ha hspans
    have noSpan {e' : Elem} {w : SlotWord} (hw : e.slotWord? ctx t.slot = some w)
        (hother : opOf (bitsAt w 119 9) (decodeFields w).xmod ≠ some .spanend) (hslots : e'.slots = e.slots) :
        e.spanSets t.slot t.tag = e'.spanSets t.slot t.tag := by
      have hw' : e'.slotWord? ctx t.slot = some w := by rw [Elem.slotWord?, hslots]; exact hw
      rw [spanSets_eq_zero hw hother, spanSets_eq_zero hw' hother]
    refine ⟨fun hkind hsub hclear => ?codebook, fun w o hkind hw hop ho => ⟨fun har hside hspanend hdata hpred => ?spanend, fun hother =>
      ⟨fun har hside => ?alone, fun har hside => ⟨fun hstore b hb => ?waits, fun u rest' hstore hu => ?pairs⟩⟩⟩⟩
    case codebook =>
      have hpay : clearPayload s l g t = t.pay := by simp [clearPayload, openTok, hclear]
      exact quiet (hpay ▸ arrive_codebook hkind hsub) rfl
    case spanend =>
      subst hspanend
      exact execTokenArrival_closes h he hnext hopen hsheets hheld (arrive_alone hkind hw hop ho har hside)
        (spanSets_complete hw hop rfl rfl rfl hdata hpred)
    case alone => exact quiet (arrive_alone hkind hw hop ho har hside) (noSpan hw (by simpa [hop] using hother) rfl)
    case waits =>
      exact quiet ((arrive_left hkind hw hop ho har hside).trans (arriveOperand_waits hstore hb))
        (noSpan hw (by simpa [hop] using hother) rfl)
    case pairs =>
      exact quiet ((arrive_left hkind hw hop ho har hside).trans (arriveOperand_matches hstore hu))
        (noSpan hw (by simpa [hop] using hother) rfl)

end Sys2Proof.Machine
end

section
/-! SUPPORT. The integer instructions (R35, R36, R86 to R89): each sends its exact results fitted, its flags where it has two results. -/

namespace Sys2Proof.Machine

/-- A lane of a type that is not two's complement is no negative number (R33). -/
theorem laneInt_nonneg {t : ET} (h : etSigned t = false) (p : Payload) (k : Nat) : 0 ≤ laneInt t p k := by
  simp [laneInt, h]

/-- The flags of ADDS and SUBS mark the lanes outside the type's range (R88). -/
theorem laneU_rangeFlags (f : Fields) (x : Opnds) (g : Nat → Int) [∀ k, Decidable (g k < etMin f.et ∨ etMax f.et < g k)] (k : Nat)
    (hk : k < etLanes f.et) :
    laneU (etWidth f.et) (rangeFlags f x g) k = flagLane f x (fun k => g k < etMin f.et ∨ etMax f.et < g k) k :=
  laneU_predResult' _ _ _ _ _ hk (by simp)

/-- The divide-by-zero predicate marks the lanes whose divisor is the integer 0 (R36, R89). -/
theorem laneU_zeroDivFlags (f : Fields) (x : Opnds) (k : Nat) (hk : k < etLanes f.et) :
    laneU (etWidth f.et) (zeroDivFlags f x) k = flagLane f x (fun k => ib f x k = 0) k :=
  laneU_predResult' _ _ _ _ _ hk (by simp [ub, ib, laneInt_zero])

/-- The quotient of a lane by R36's table, which tests a dividend's sign where the type has negative numbers. -/
theorem divLane_eq (f : Fields) (x : Opnds) (k : Nat) :
    divLane f.et f.sat (ia f x k) (ib f x k) =
      if ib f x k = 0 then (if etSigned f.et ∧ ia f x k < 0 then etMin f.et else etMax f.et)
      else if etSigned f.et ∧ ia f x k = etMin f.et ∧ ib f x k = -1 then (if f.sat then etMax f.et else etMin f.et)
      else (ia f x k).tdiv (ib f x k) := by
  have hneg : (etSigned f.et = true ∧ ia f x k < 0) ↔ ia f x k < 0 := by
    cases hs : etSigned f.et
    case false => simp [ia, laneInt_nonneg hs]
    case true => simp
  simp [divLane, hneg, and_assoc]

/-- The remainder of a lane by R36's table. -/
theorem remLane_eq (t : ET) (a b : Int) :
    remLane t a b = if b = 0 then a else if etSigned t ∧ a = etMin t ∧ b = -1 then 0 else a.tmod b := by
  simp [remLane, and_assoc]

section
variable {i : Instr} {f : Fields} {s : State} {c : Ctx} (hi : Issues f s c (dests f).length) (hp : c.Plain)
include hi hp

/-- An instruction that sends fitted results and the flags of the lanes outside the range (R88). -/
theorem computesBoth_range (g : Opnds → Nat → Int) (he : exec i s = firePair f s fun x => (intResult f x (g x), rangeFlags f x (g x)))
    [∀ k, Decidable (g (operands c.e f c.set none) k < etMin f.et ∨ etMax f.et < g (operands c.e f c.set none) k)] :
    let x := operands c.e f c.set none
    ComputesBoth i f s c (dataLane f x fun k => fitted f (g x k)) (flagLane f x fun k => g x k < etMin f.et ∨ etMax f.et < g x k) :=
  computes_both hi hp _ he _ rfl _ _ (laneU_intResult f _ _) (laneU_rangeFlags f _ _)

/-- An instruction that sends results modulo 2^w and the divide-by-zero predicate (R36, R89). -/
theorem computesBoth_zeroDiv (g : Opnds → Nat → Int)
    (he : exec i s = firePair f s fun x => (laneResult f x fun k => wrapTo (etWidth f.et) (g x k), zeroDivFlags f x)) :
    let x := operands c.e f c.set none
    ComputesBoth i f s c (dataLane f x fun k => (g x k % 2 ^ etWidth f.et).toNat) (flagLane f x fun k => ib f x k = 0) :=
  computes_both hi hp _ he _ rfl _ _ (fun _ hk => laneU_laneResult' f _ _ _ hk (wrapTo_lt _ _)) (laneU_zeroDivFlags f _)
end

/-- MULHI's upper half is the product divided by 2^w and rounded down (R86). -/
theorem exec_mulhi (f : Fields) (s : State) :
    exec (.mulhi f) s = fireData f s fun x => intResult f x fun k => ia f x k * ib f x k / 2 ^ etWidth f.et := by
  have h (v : Int) : Int.fdiv v (2 ^ etWidth f.et) = v / 2 ^ etWidth f.et := Int.fdiv_eq_ediv_of_nonneg _ (by positivity)
  simp only [← h]
  rfl

theorem exec_min (f : Fields) (s : State) :
    exec (.min f) s = fireData f s fun x => intResult f x fun k => min (ia f x k) (ib f x k) := by
  simp only [min_def_lt]
  rfl

theorem exec_max (f : Fields) (s : State) :
    exec (.max f) s = fireData f s fun x => intResult f x fun k => max (ia f x k) (ib f x k) := by
  simp only [max_def_lt]
  rfl

theorem exec_abs (f : Fields) (s : State) : exec (.abs f) s = fireData f s fun x => intResult f x fun k => |ia f x k| := by
  simp only [Int.abs_eq_natAbs]
  rfl

theorem exec_div (f : Fields) (s : State) :
    exec (.div f) s = firePair f s fun x => (laneResult f x fun k => wrapTo (etWidth f.et) (
      if ib f x k = 0 then (if etSigned f.et ∧ ia f x k < 0 then etMin f.et else etMax f.et)
      else if etSigned f.et ∧ ia f x k = etMin f.et ∧ ib f x k = -1 then (if f.sat then etMax f.et else etMin f.et)
      else (ia f x k).tdiv (ib f x k)), zeroDivFlags f x) := by
  simp only [← divLane_eq]
  rfl

theorem exec_rem (f : Fields) (s : State) :
    exec (.rem f) s = firePair f s fun x => (laneResult f x fun k => wrapTo (etWidth f.et) (
      if ib f x k = 0 then ia f x k
      else if etSigned f.et ∧ ia f x k = etMin f.et ∧ ib f x k = -1 then 0
      else (ia f x k).tmod (ib f x k)), zeroDivFlags f x) := by
  simp only [← remLane_eq]
  rfl

/-- Settles O8: every instruction fires with exact lanes that are fitted or reduced once, and the flags with their own lanes. -/
theorem integerLanesAreExactThenFitted : Obligations.IntegerLanesAreExactThenFitted := by
  unfold Obligations.IntegerLanesAreExactThenFitted
  constructor
  · intro f s c hi hp x y lane
    exact ⟨computes_int hi hp (fun x k => ia f x k + ib f x k) rfl x rfl,
      computes_int hi hp (fun x k => ia f x k - ib f x k) rfl x rfl,
      computes_int hi hp (fun x k => ia f x k * ib f x k) rfl x rfl,
      computes_int hi hp _ (exec_mulhi f s) x rfl, computes_int hi hp _ (exec_min f s) x rfl,
      computes_int hi hp _ (exec_max f s) x rfl, computes_int hi hp _ (exec_abs f s) x rfl,
      computes_int hi hp (fun x k => -ia f x k) rfl x rfl,
      computes_mad hi hp (fun y k => ia f y k * ib f y k + ic f y k) rfl y rfl⟩
  · intro f s c hi hp x w outside low
    exact ⟨computesBoth_range hi hp (fun x k => ia f x k + ib f x k) rfl,
      computesBoth_range hi hp (fun x k => ia f x k - ib f x k) rfl,
      computesBoth_zeroDiv hi hp _ (exec_div f s), computesBoth_zeroDiv hi hp _ (exec_rem f s)⟩

end Sys2Proof.Machine
end

section
/-! SUPPORT. The floating-point instructions that compute lane by lane (R38, R40, R99 to R102, R105): which exact value each rounds, and
which code each selects. -/

namespace Sys2Proof.Machine

/-! ## Results rounded once (R99, R102, R105) -/

theorem XVal.sub_is {a b : XVal} {p q : ℚ} (r : Bool) (ha : a.is p) (hb : b.is q) : (a.add r b.neg).is (p - q) :=
  sub_eq_add_neg p q ▸ XVal.add_is r ha (XVal.neg_is hb)

theorem nan_sub (r : Bool) (a b : XVal) (h : a = .nan ∨ b = .nan) : a.add r b.neg = .nan :=
  nan_add r a _ (h.imp_right (neg_nan b))

/-- The root of a number below zero is NaN (R38, R102). -/
theorem sqrt_of_neg {v : XVal} {p : ℚ} (h : v.is p) (hp : p < 0) : v.sqrt = .nan := by
  cases v with
  | nan => exact h.elim
  | inf b => exact h.elim
  | zero b => exact absurd h hp.ne
  | num n d =>
    have hlt : (XVal.num n d).lt (.zero false) = true := (lt_is h (show (XVal.zero false).is 0 from rfl)).mpr hp
    exact if_pos (of_decide_eq_true hlt)

/-- A zero keeps its sign when it is rounded (R38). -/
theorem fround_zero (f : Fields) (h : etIsFloat f.et = true) (b : Bool) : fround f.et f.rnd f.sat (.zero b) = zeroOf f b := by
  simp [fround, froundX, signed, zeroOf, fmtOf_w f.et h]

section
variable {i : Instr} {f : Fields} {s : State} {c : Ctx} (hi : Issues f s c (dests f).length) (hp : c.Plain) (hf : etIsFloat f.et = true)
include hi hp hf

/-- An instruction that rounds one exact value for each lane (R99). -/
theorem floatLanes_rounds (g : Opnds → Nat → XVal) (he : exec i s = fireData f s fun x => floatResult f x (g x)) (out : Nat → Nat → Prop)
    (ho : ∀ k, out k (fround f.et f.rnd f.sat (g (operands c.e f c.set none) k))) : FloatLanes i f s c (operands c.e f c.set none) out :=
  floatLanes_of hi hp (fun x k => fround f.et f.rnd f.sat (g x k)) he _ rfl (fun _ => fround_lt f hf _) out ho

/-- An instruction that rounds an exact operation of two lanes. -/
theorem floatLanes_op (op : ℚ → ℚ → ℚ) (g : XVal → XVal → XVal)
    (he : exec i s = fireData f s fun x => floatResult f x fun k => g (fa f x k) (fb f x k))
    (hn : ∀ a b, a = .nan ∨ b = .nan → g a b = .nan) (ho : ∀ a b p q, a.is p → b.is q → (g a b).is (op p q)) :
    FloatLanes i f s c (operands c.e f c.set none) (FloatOp f (operands c.e f c.set none) op) :=
  floatLanes_rounds hi hp hf _ he _ fun k => floatOp_of f _ op g k hn ho
end

/-- Settles O12: each instruction rounds once an exact value, which the laws of exact values give as a rational number or as NaN. -/
theorem floatLanesRoundTheExactResultOnce : Obligations.FloatLanesRoundTheExactResultOnce := by
  unfold Obligations.FloatLanesRoundTheExactResultOnce
  intro f s c hi hp hf x y w
  refine ⟨floatLanes_op hi hp hf _ (XVal.add (isRdn f)) rfl (nan_add _) fun _ _ _ _ => XVal.add_is _,
    floatLanes_op hi hp hf _ (fun a b => a.add (isRdn f) b.neg) rfl (nan_sub _) fun _ _ _ _ => XVal.sub_is _,
    floatLanes_op hi hp hf _ XVal.mul rfl nan_mul fun _ _ _ _ => XVal.mul_is, ?fdiv, ?ffma, ?fsqrt, ?fscale⟩
  case fdiv =>
    exact floatLanes_rounds hi hp hf (fun x k => (fa f x k).div (fb f x k)) rfl _ fun k =>
      ⟨fun h => nan_of (nan_div _ _ h), fun p q ha hb hq => ⟨_, XVal.div_is ha hb hq, rfl⟩⟩
  case ffma =>
    refine floatLanesMad_of hi hp (fun x k => fround f.et f.rnd f.sat (((fa f x k).mul (fb f x k)).add (isRdn f) (fc f x k))) rfl y rfl
      (fun _ => fround_lt f hf _) _ fun k => ⟨fun h => nan_of (nan_add _ _ _ ?_), fun p q t ha hb ht =>
        ⟨_, XVal.add_is _ (XVal.mul_is ha hb) ht, rfl⟩⟩
    exact (or_assoc.mpr h).imp_left (nan_mul _ _)
  case fsqrt =>
    refine floatLanes_rounds hi hp hf (fun x k => (fa f x k).sqrt) rfl _ fun k =>
      ⟨fun h => nan_of ?_, fun p hneg h => nan_of (sqrt_of_neg h hneg), fun b h => ?_, fun p h0 h => ⟨_, sqrt_is hf h0 h, rfl⟩⟩
    · exact congrArg XVal.sqrt h
    · exact (congrArg (fun v => fround f.et f.rnd f.sat v.sqrt) h).trans (fround_zero f hf b)
  case fscale =>
    refine floatLanes_rounds hi hp hf (fun x k => fscaleVal w (fa f x k) (ub f x k)) rfl _ fun k =>
      ⟨fun h => nan_of ?_, fun p h hb => ⟨_, fscale_is h hb, rfl⟩⟩
    exact congrArg (fscaleVal w · (ub f x k)) h

/-! ## Selections (R100) -/

/-- FMIN and FMAX of two NaNs (R38). -/
theorem fminmax_nan_nan (f : Fields) (mx : Bool) {a b : Nat} (ha : fdecode f.et a = .nan) (hb : fdecode f.et b = .nan) :
    fminmax f.et mx a b = nanCode f := by
  simp [fminmax, ha, hb, XVal.isNan, nanCode]

theorem fminmax_nan_left {t : ET} (mx : Bool) {a b : Nat} (ha : fdecode t a = .nan) (hb : fdecode t b ≠ .nan) : fminmax t mx a b = b := by
  simp [fminmax, isNan_iff, ha, hb]

theorem fminmax_nan_right {t : ET} (mx : Bool) {a b : Nat} (ha : fdecode t a ≠ .nan) (hb : fdecode t b = .nan) : fminmax t mx a b = a := by
  simp [fminmax, isNan_iff, ha, hb]

/-- FMIN and FMAX of two lanes that are no NaN go by the order with −0 below +0. -/
theorem fminmax_of_not_nan {t : ET} (mx : Bool) {a b : Nat} (ha : fdecode t a ≠ .nan) (hb : fdecode t b ≠ .nan) :
    fminmax t mx a b = if (fdecode t a).ltZ (fdecode t b) = mx then b else a := by
  cases mx <;> cases h : (fdecode t a).ltZ (fdecode t b) <;> simp [fminmax, isNan_iff, ha, hb, h]

theorem XVal.is.ne_nan {a : XVal} {p : ℚ} (h : a.is p) : a ≠ .nan := by rintro rfl; exact h

theorem XVal.is_zero {a : XVal} (h : a.is 0) : ∃ b, a = .zero b := by
  cases a with
  | nan => exact h.elim
  | inf b => exact h.elim
  | zero b => exact ⟨b, rfl⟩
  | num n d =>
    obtain ⟨hn, hd, h0⟩ := h
    have hq : (n : ℚ) / d ≠ 0 := div_ne_zero (by exact_mod_cast hn) (by exact_mod_cast hd.ne')
    exact absurd h0.symm hq

/-- A lane smaller than the other: FMIN's result, and FMAX gives the other. -/
theorem fminmax_of_lt {t : ET} (mx : Bool) {a b : Nat} {p q : ℚ} (ha : (fdecode t a).is p) (hb : (fdecode t b).is q) (h : p < q) :
    fminmax t mx a b = if mx then b else a := by
  rw [fminmax_of_not_nan mx ha.ne_nan hb.ne_nan, (ltZ_is ha hb h.ne).mpr h]
  cases mx <;> rfl

theorem fminmax_of_gt {t : ET} (mx : Bool) {a b : Nat} {p q : ℚ} (ha : (fdecode t a).is p) (hb : (fdecode t b).is q) (h : q < p) :
    fminmax t mx a b = if mx then a else b := by
  have hlt : (fdecode t a).ltZ (fdecode t b) = false := Bool.eq_false_iff.mpr fun hh => h.not_gt ((ltZ_is ha hb h.ne').mp hh)
  rw [fminmax_of_not_nan mx ha.ne_nan hb.ne_nan, hlt]
  cases mx <;> rfl

/-- Of two zeros FMIN takes a −0 and FMAX a +0, whose codes are the larger and the smaller one (R38). -/
theorem fminmax_zeros {t : ET} (ht : etIsFloat t = true) (mx : Bool) {a b : Nat} (hla : a < 2 ^ etWidth t) (hlb : b < 2 ^ etWidth t)
    (ha : (fdecode t a).is 0) (hb : (fdecode t b).is 0) : fminmax t mx a b = if mx then min a b else max a b := by
  obtain ⟨u, hu⟩ := XVal.is_zero ha
  obtain ⟨v, hv⟩ := XVal.is_zero hb
  rw [fminmax_of_not_nan mx ha.ne_nan hb.ne_nan, hu, hv, fdecode_zero ht hla hu, fdecode_zero ht hlb hv]
  cases u <;> cases v <;> cases mx <;> simp [XVal.ltZ]

theorem nan_lt_width (t : ET) (ht : etIsFloat t = true) : (fmtOf t).nan < 2 ^ etWidth t := by
  obtain ⟨-, hnan, hw, -⟩ := fmtOf_facts t ht
  omega

/-- A selected code fits the lane. -/
theorem fminmax_lt {t : ET} (ht : etIsFloat t = true) (mx : Bool) {a b : Nat} (ha : a < 2 ^ etWidth t) (hb : b < 2 ^ etWidth t) :
    fminmax t mx a b < 2 ^ etWidth t := by
  have hnan := nan_lt_width t ht
  simp only [fminmax]
  split_ifs <;> assumption

theorem fsign_nan (f : Fields) (flip : Bool) {a : Nat} (h : fdecode f.et a = .nan) : fsign f.et flip a = nanCode f := by
  simp [fsign, h, XVal.isNan, nanCode]

theorem fabs_of_not_nan {t : ET} (ht : etIsFloat t = true) {a : Nat} (h : fdecode t a ≠ .nan) : fsign t false a = a % 2 ^ (etWidth t - 1) := by
  simp [fsign, isNan_iff, h, fmtOf_w t ht]

/-- Inverting the sign bit is adding it modulo the lane's width. -/
theorem fneg_of_not_nan {t : ET} (ht : etIsFloat t = true) {a : Nat} (ha : a < 2 ^ etWidth t) (h : fdecode t a ≠ .nan) :
    fsign t true a = (a + 2 ^ (etWidth t - 1)) % 2 ^ etWidth t := by
  obtain ⟨-, -, hw, -⟩ := fmtOf_facts t ht
  simp only [fsign, isNan_iff, h, fmtOf_w t ht, if_false, if_true]
  split
  · exact (Nat.mod_eq_of_lt (by omega)).symm
  · rw [Nat.mod_eq_sub_mod (by omega), Nat.mod_eq_of_lt (by omega)]
    omega

theorem fsign_lt {t : ET} (ht : etIsFloat t = true) (flip : Bool) {a : Nat} (ha : a < 2 ^ etWidth t) : fsign t flip a < 2 ^ etWidth t := by
  by_cases h : fdecode t a = .nan
  · simpa [fsign, h, XVal.isNan] using nan_lt_width t ht
  · cases flip
    · rw [fabs_of_not_nan ht h]
      exact (Nat.mod_le _ _).trans_lt ha
    · rw [fneg_of_not_nan ht ha h]
      exact Nat.mod_lt _ (Nat.two_pow_pos _)

section
variable {i : Instr} {f : Fields} {s : State} {c : Ctx} (hi : Issues f s c (dests f).length) (hp : c.Plain) (hf : etIsFloat f.et = true)
include hi hp hf

/-- An instruction that selects one of two codes (R100). -/
theorem floatLanes_minmax (mx : Bool) (he : exec i s = fireData f s fun x => laneResult f x fun k => fminmax f.et mx (ua f x k) (ub f x k))
    (out : Nat → Nat → Prop) (ho : ∀ k, out k (fminmax f.et mx (ua f (operands c.e f c.set none) k) (ub f (operands c.e f c.set none) k))) :
    FloatLanes i f s c (operands c.e f c.set none) out :=
  floatLanes_of hi hp (fun x k => fminmax f.et mx (ua f x k) (ub f x k)) he _ rfl
    (fun _ => fminmax_lt hf _ (laneU_lt _ _ _) (laneU_lt _ _ _)) _ ho

/-- An instruction that changes the sign of a code (R100). -/
theorem floatLanes_sign (flip : Bool) (he : exec i s = fireData f s fun x => laneResult f x fun k => fsign f.et flip (ua f x k))
    (out : Nat → Nat → Prop) (ho : ∀ k, out k (fsign f.et flip (ua f (operands c.e f c.set none) k))) :
    FloatLanes i f s c (operands c.e f c.set none) out :=
  floatLanes_of hi hp (fun x k => fsign f.et flip (ua f x k)) he _ rfl (fun _ => fsign_lt hf _ (laneU_lt _ _ _)) _ ho
end

/-! ## Compares (R101) -/

/-- A compare that is false of a NaN and the comparison of the numbers of finite lanes gives the flags of R101. -/
theorem floatFlags_compare {i : Instr} {f : Fields} {s : State} {c : Ctx} (hi : Issues f s c (dests f).length) (hp : c.Plain)
    (holds : ℚ → ℚ → Prop) (g : XVal → XVal → Bool) (he : exec i s = fireData f s fun x => predResult f x fun k => g (fa f x k) (fb f x k))
    (hn : ∀ a b, a = .nan ∨ b = .nan → g a b = false) (hg : ∀ a b p q, a.is p → b.is q → (g a b = true ↔ holds p q)) :
    let x := operands c.e f c.set none
    FloatFlags i f s c x fun k r => ((floatLane f x.a k = .nan ∨ floatLane f x.b k = .nan) → r = 0) ∧
      ∀ p q, (floatLane f x.a k).is p → (floatLane f x.b k).is q → (r = 1 ∧ holds p q ∨ r = 0 ∧ ¬ holds p q) := by
  refine floatFlags_of hi hp _ he _ rfl _ fun k => ⟨fun h => ?_, fun p q ha hb => ?_⟩
  · simp [hn (fa f _ k) (fb f _ k) h]
  · have := hg (fa f _ k) (fb f _ k) p q ha hb
    cases hgv : g (fa f _ k) (fb f _ k) <;> simp_all

/-- Smaller or equal, on numbers. -/
theorem le_is {a b : XVal} {p q : ℚ} (ha : a.is p) (hb : b.is q) : (a.lt b || a.eqv b) = true ↔ p ≤ q := by
  rw [Bool.or_eq_true, lt_is ha hb, eqv_is ha hb, le_iff_lt_or_eq]

theorem nan_le (a b : XVal) (h : a = .nan ∨ b = .nan) : (a.lt b || a.eqv b) = false := by simp [nan_lt a b h, nan_eqv a b h]

/-- Settles O13: FMIN, FMAX, FABS and FNEG by the cases of their codes, the compares by the order of the numbers. -/
theorem floatSelectionsAndCompares : Obligations.FloatSelectionsAndCompares := by
  unfold Obligations.FloatSelectionsAndCompares
  constructor
  · intro f s c hi hp hf x w select
    have hla (k : Nat) : ua f x k < 2 ^ w := laneU_lt _ _ _
    have hlb (k : Nat) : ub f x k < 2 ^ w := laneU_lt _ _ _
    refine ⟨?fmin, ?fmax, ?fabs, ?fneg⟩
    case fmin =>
      exact floatLanes_minmax hi hp hf false rfl _ fun k => ⟨fminmax_nan_nan f _, fminmax_nan_left _, fminmax_nan_right _,
        fun p q ha hb => ⟨fminmax_of_lt _ ha hb, fminmax_of_gt _ ha hb⟩, fminmax_zeros hf _ (hla k) (hlb k)⟩
    case fmax =>
      exact floatLanes_minmax hi hp hf true rfl _ fun k => ⟨fminmax_nan_nan f _, fminmax_nan_left _, fminmax_nan_right _,
        fun p q ha hb => ⟨fminmax_of_gt _ ha hb, fminmax_of_lt _ ha hb⟩, fminmax_zeros hf _ (hla k) (hlb k)⟩
    case fabs => exact floatLanes_sign hi hp hf false rfl _ fun k => ⟨fsign_nan f _, fabs_of_not_nan hf⟩
    case fneg => exact floatLanes_sign hi hp hf true rfl _ fun k => ⟨fsign_nan f _, fneg_of_not_nan hf (hla k)⟩
  · intro f s c hi hp hf x nan flag
    refine ⟨floatFlags_compare hi hp _ XVal.eqv rfl nan_eqv fun _ _ _ _ => eqv_is,
      floatFlags_compare hi hp _ XVal.lt rfl nan_lt fun _ _ _ _ => lt_is,
      floatFlags_compare hi hp _ (fun a b => a.lt b || a.eqv b) rfl nan_le fun _ _ _ _ => le_is, ?fcmpun⟩
    refine floatFlags_of hi hp (fun x k => (fa f x k).isNan || (fb f x k).isNan) rfl x rfl _ fun k => ?_
    have hn : ((fa f x k).isNan || (fb f x k).isNan) = true ↔ nan k := by
      rw [Bool.or_eq_true, isNan_iff, isNan_iff]
      rfl
    split
    case isTrue h => exact .inl ⟨rfl, hn.mp h⟩
    case isFalse h => exact .inr ⟨rfl, fun hk => h (hn.mpr hk)⟩

end Sys2Proof.Machine
end

section
/-! SUPPORT. The trees, butterflies and the rescaling factor (R50, R104, R106, R112, R113). -/

namespace Sys2Proof.Machine

/-! ## Trees (R50, R104) -/

/-- The tree over the 8 or 16 lanes of a type of 32 or 16 bits. -/
theorem treeFold_lanes {α : Type} (g : α → α → α) (d : α) (l : Nat → α) {n : Nat} (hn : n = 8 ∨ n = 16) :
    let four (o : Nat) : α := g (g (l o) (l (o + 1))) (g (l (o + 2)) (l (o + 3)))
    treeFold g d 8 ((List.range n).map l) =
      if n = 8 then g (four 0) (four 4) else g (g (four 0) (four 4)) (g (four 8) (four 12)) := by
  rcases hn with rfl | rfl
  · rfl
  · rfl

/-! ## HADX (R113) -/

/-- A lane of a data result, where the lane computes and its code fits. -/
theorem laneU_laneResult_on (f : Fields) (x : Opnds) (g : Nat → Nat) {k : Nat} (hk : k < etLanes f.et) (hon : laneOn f x k = true)
    (hg : g k < 2 ^ etWidth f.et) : laneU (etWidth f.et) (laneResult f x g) k = g k := by
  rw [laneU_laneResult _ _ _ _ hk, if_pos hon, Nat.mod_eq_of_lt hg]

theorem laneU_floatResult_on (f : Fields) (hf : etIsFloat f.et = true) (x : Opnds) (g : Nat → XVal) {k : Nat} (hk : k < etLanes f.et)
    (hon : laneOn f x k = true) : laneU (etWidth f.et) (floatResult f x g) k = fround f.et f.rnd f.sat (g k) :=
  laneU_laneResult_on f x _ hk hon (fround_lt f hf _)

theorem exec_hadx (f : Fields) (s : State) : exec (.hadx f) s = firePair f s fun x =>
    (floatResult f x fun k => (fa f x k).add (isRdn f) (fb f x k), floatResult f x fun k => (fa f x k).add (isRdn f) (fb f x k).neg) := rfl

/-! ## FRESC (R106) -/

theorem exec_fresc (f : Fields) (s : State) : exec (.fresc f) s = firePair f s fun x =>
    (laneResult f x fun k => fminmax .f32 true (ua f x k) (ub f x k), laneResult f x fun k => frescLane (ua f x k) (ub f x k)) := rfl

theorem frescLane_lt (a b : Nat) : frescLane a b < 2 ^ 32 := by
  simp only [frescLane]
  split_ifs
  · decide
  · decide
  · exact faithful_lt _ _ _ _

theorem frescLane_nan {a b : Nat} (h : fdecode .f32 a = .nan ∨ fdecode .f32 b = .nan) : frescLane a b = (fmtOf .f32).nan :=
  if_pos (by rwa [Bool.or_eq_true, isNan_iff, isNan_iff])

/-- The factor is 1.0 where the running maximum is not below the new lane. -/
theorem frescLane_stays {a b : Nat} {p q : ℚ} (ha : (fdecode .f32 a).is p) (hb : (fdecode .f32 b).is q) (h : q ≤ p) :
    frescLane a b = 0x3F800000 := by
  have hm : (fdecode .f32 (fminmax .f32 true a b)).is p := by
    rcases h.lt_or_eq with hlt | rfl
    · rwa [fminmax_of_gt true ha hb hlt, if_pos rfl]
    · rw [fminmax_of_not_nan true ha.ne_nan hb.ne_nan]
      split <;> assumption
  simp only [frescLane, is_not_nan ha, is_not_nan hb, (eqv_is ha hm).mpr rfl, Bool.or_self, if_true, Bool.false_eq_true, if_false]

/-! ## HADS (R112) -/

/-- The lanes of a after the first stages of HADS: stage b, where the mask names it, is the butterfly of stride 2^b. -/
def hadAfter (f : Fields) (v : List Nat) : Nat → List Nat
  | 0 => v
  | b + 1 => if bitAt f.xmod b then hadStage f (2 ^ b) (hadAfter f v b) else hadAfter f v b

@[simp] theorem length_hadStage (f : Fields) (s : Nat) (v : List Nat) : (hadStage f s v).length = v.length := by simp [hadStage]

@[simp] theorem length_hadAfter (f : Fields) (v : List Nat) (b : Nat) : (hadAfter f v b).length = v.length := by
  induction b with
  | zero => rfl
  | succ b ih =>
    rw [hadAfter]
    split
    · rw [length_hadStage, ih]
    · exact ih

theorem nthD_of_ge {v : List Nat} {k : Nat} (h : v.length ≤ k) : nthD v k = 0 := by simp [nthD, h]

/-- A lane after one butterfly: the sum with the lane a stride above, or the difference from the lane a stride below. -/
theorem nthD_hadStage (f : Fields) (s : Nat) {v : List Nat} {k : Nat} (h : k < v.length) :
    nthD (hadStage f s v) k =
      if k / s % 2 = 0 then faddCode f.et f.rnd f.sat (nthD v k) (if k + s < v.length then nthD v (k + s) else 0)
      else fround f.et f.rnd f.sat ((fdecode f.et (nthD v (k - s))).add (f.rnd == 2) (fdecode f.et (nthD v k)).neg) := by
  have hup : (if k + s < v.length then nthD v (k + s) else 0) = nthD v (k + s) :=
    ite_eq_left_iff.mpr fun hn => (nthD_of_ge (not_lt.mp hn)).symm
  rw [hup]
  simp [nthD, hadStage, h, isRdn]

theorem hadsResult_eq (f : Fields) (x : Opnds) :
    hadsResult f x = packLanes (etWidth f.et) (hadAfter f (lanesOf (etWidth f.et) x.a) 4) := rfl

/-- A lane after one more stage: the butterfly's where the mask names the stage, as before where it does not. -/
theorem nthD_hadAfter_succ (f : Fields) (v : List Nat) (b : Nat) {k : Nat} (hk : k < v.length) :
    nthD (hadAfter f v (b + 1)) k =
      if bitAt f.xmod b = true then
        (if k / 2 ^ b % 2 = 0 then faddCode f.et f.rnd f.sat (nthD (hadAfter f v b) k)
            (if k + 2 ^ b < v.length then nthD (hadAfter f v b) (k + 2 ^ b) else 0)
          else fround f.et f.rnd f.sat ((fdecode f.et (nthD (hadAfter f v b) (k - 2 ^ b))).add (f.rnd == 2)
            (fdecode f.et (nthD (hadAfter f v b) k)).neg))
      else nthD (hadAfter f v b) k := by
  rw [hadAfter]
  split
  · rw [nthD_hadStage f _ (by rwa [length_hadAfter]), length_hadAfter]
  · rfl

theorem length_lanesOf (t : ET) (p : Payload) : (lanesOf (etWidth t) p).length = etLanes t := by simp [lanesOf, etLanes]

theorem nthD_lanesOf {t : ET} (p : Payload) {k : Nat} (hk : k < etLanes t) : nthD (lanesOf (etWidth t) p) k = laneU (etWidth t) p k := by
  rw [etLanes] at hk
  simp [nthD, lanesOf, hk]

theorem laneU_packLanes_nthD {t : ET} {v : List Nat} (hv : v.length = etLanes t) {k : Nat} (hk : k < etLanes t) :
    laneU (etWidth t) (packLanes (etWidth t) v) k = nthD v k % 2 ^ etWidth t := by
  rw [← hv] at hk
  rw [laneU_packLanes _ _ _ hk (by rw [hv, etWidth_mul_etLanes])]
  simp [nthD, hk]

/-- Settles O15: trees by their shape on 8 and 16 lanes, HADX and FRESC lane by lane, HADS by the lanes after each of its stages. -/
theorem floatTreesAndButterflies : Obligations.FloatTreesAndButterflies := by
  unfold Obligations.FloatTreesAndButterflies
  intro f s c hi hp x l n add sub mx four tree only
  refine ⟨fun hn => ⟨?fsumr, ?fmaxr⟩, fun hf => ?hadx, fun ht => ?fresc, ?hads⟩
  case fsumr =>
    have h : fsumrResult f x = BitVec.ofNat 256 (tree add) := congrArg lane0 (treeFold_lanes _ _ _ hn)
    exact (fireData_plain hi hp (fsumrResult f)).trans (by rw [h])
  case fmaxr =>
    have h : fmaxrResult f x = BitVec.ofNat 256 (tree mx) := congrArg lane0 (treeFold_lanes _ _ _ hn)
    exact (fireData_plain hi hp (fmaxrResult f)).trans (by rw [h])
  case hadx =>
    refine ⟨_, _, (exec_hadx f s).trans (firePair_plain hi hp _), fun k hk hon => ⟨?_, ?_⟩⟩
    · rw [laneU_floatResult_on f hf x _ hk hon]
      exact floatOp_of f x _ (XVal.add (isRdn f)) k (nan_add _) fun _ _ _ _ => XVal.add_is _
    · rw [laneU_floatResult_on f hf x _ hk hon]
      exact floatOp_of f x _ (fun a b => a.add (isRdn f) b.neg) k (nan_sub _) fun _ _ _ _ => XVal.sub_is _
  case fresc =>
    have hw : etWidth f.et = 32 := congrArg etWidth ht
    have hmx : mx = fminmax .f32 true := congrArg (fminmax · true) ht
    have hnan : nanCode f = (fmtOf .f32).nan := congrArg (fun t => (fmtOf t).nan) ht
    have hdec (p : Payload) (k : Nat) : floatLane f p k = fdecode .f32 (laneU (etWidth f.et) p k) :=
      congrArg (fun t => fdecode t (laneU (etWidth f.et) p k)) ht
    refine ⟨_, _, (exec_fresc f s).trans (firePair_plain hi hp _), fun k hk hon => ?_⟩
    have hmax := laneU_laneResult_on f x (fun k => fminmax .f32 true (ua f x k) (ub f x k)) hk hon
      (ht ▸ fminmax_lt (t := .f32) rfl true (ht ▸ laneU_lt _ _ _) (ht ▸ laneU_lt _ _ _))
    have hfactor := laneU_laneResult_on f x (fun k => frescLane (ua f x k) (ub f x k)) hk hon (hw.symm ▸ frescLane_lt _ _)
    rw [hw] at hmax hfactor
    rw [hmx, hnan, hdec, hdec]
    exact ⟨hmax, fun h => hfactor.trans (frescLane_nan h), fun p q ha hb hle => hfactor.trans (frescLane_stays ha hb hle)⟩
  case hads =>
    have hlen : (lanesOf (etWidth f.et) x.a).length = n := length_lanesOf _ _
    refine ⟨hadsResult f x, fun b k => nthD (hadAfter f (lanesOf (etWidth f.et) x.a) b) k, fireData_plain hi hp (hadsResult f),
      fun k hk => nthD_lanesOf x.a hk, fun k hk => ?_, fun b _ k hk => ?_⟩
    · rw [hadsResult_eq, laneU_packLanes_nthD ((length_hadAfter _ _ _).trans hlen) hk]
    · have hstage := nthD_hadAfter_succ f (lanesOf (etWidth f.et) x.a) b (k := k) (by rwa [hlen])
      rwa [hlen] at hstage

end Sys2Proof.Machine
end

section
/-! SUPPORT. The conversions: which lanes one writes, from which lane and with which value of the generator (R44, R107). -/

namespace Sys2Proof.Machine

/-- One step of the generator for each lane in mode 4, none in the other modes (R44). -/
theorem xsAfter_succ (f : Fields) (xs : Word32) (n : Nat) :
    xsAfter f xs (n + 1) = xsAfter f (if f.rnd == 4 then xsStep xs else xs) n := by
  by_cases h : f.rnd = 4
  · simp [xsAfter, h]
  · have hb : (f.rnd == 4) = false := beq_false_of_ne h
    simp only [xsAfter, hb, if_neg h, Bool.false_eq_true, if_false]

theorem xsAfter_zero (f : Fields) (xs : Word32) : xsAfter f xs 0 = xs := by simp [xsAfter]

/-- A conversion over n lanes: the codes, each with the generator stepped once more, and n steps of the generator at the end. -/
theorem convGo_map (f : Fields) (g : Nat → Nat → Word32 → Nat) (n : Nat) (o p : Nat → Nat) (xs : Word32) :
    convGo f.rnd g ((List.range n).map fun i => (o i, p i)) xs =
      ((List.range n).map fun i => (o i, g (o i) (p i) (xsAfter f xs (i + 1))), xsAfter f xs n) := by
  induction n generalizing o p xs with
  | zero => simp [convGo, xsAfter_zero]
  | succ n ih =>
    have hrest := ih (fun i => o (i + 1)) (fun i => p (i + 1)) (if f.rnd == 4 then xsStep xs else xs)
    simp only [List.range_succ_eq_map, List.map_cons, List.map_map, Function.comp_def, Nat.succ_eq_add_one, convGo, hrest, xsAfter_succ,
      xsAfter_zero]

/-- The value at key j in a list whose keys run from o on. -/
theorem valAt_run (v : Nat → Nat) (n o j : Nat) :
    valAt j ((List.range n).map fun i => (o + i, v i)) = if o ≤ j ∧ j < o + n then v (j - o) else 0 := by
  induction n generalizing o v with
  | zero => exact (if_neg (by omega)).symm
  | succ n ih =>
    have hrest : (fun i => (o + i, v i)) ∘ Nat.succ = fun i => (o + 1 + i, v (i + 1)) :=
      funext fun i => congrArg (·, v (i + 1)) (Nat.succ_add_eq_add_succ o i).symm
    rw [List.range_succ_eq_map, List.map_cons, List.map_map, hrest, valAt, ih fun i => v (i + 1)]
    by_cases hj : o + 0 = j
    · rw [if_pos hj, if_pos (by omega), show j - o = 0 by omega]
    · rw [if_neg hj]
      by_cases hin : o + 1 ≤ j ∧ j < o + 1 + n
      · rw [if_pos hin, if_pos (by omega), show j - (o + 1) + 1 = j - o by omega]
      · rw [if_neg hin, if_neg (by omega)]

/-- The first result lane that a conversion writes (R107). -/
def convFirst (ns nr q : Nat) : Nat := if nr > ns then q * ns else 0
/-- The first source lane that a conversion reads (R107). -/
def convStart (ns nr q : Nat) : Nat := if nr < ns then q * nr else 0

/-- The lanes of a conversion run upwards from its first ones, as many as the type with fewer lanes has (R107). -/
theorem convLanes_eq_run (ns nr q : Nat) :
    convLanes ns nr q = (List.range (min ns nr)).map fun i => (convFirst ns nr q + i, convStart ns nr q + i) := by
  rcases lt_trichotomy ns nr with h | rfl | h
  · simp [convLanes, convFirst, convStart, h, h.le, h.not_gt]
  · simp [convLanes, convFirst, convStart]
  · simp [convLanes, convFirst, convStart, h, h.le, h.not_gt]

/-- The result lanes that are written are those of the run. -/
theorem convWrites_iff {ns nr j : Nat} (q : Nat) (hj : j < nr) :
    convWrites ns nr q j = true ↔ convFirst ns nr q ≤ j ∧ j < convFirst ns nr q + min ns nr := by
  by_cases h : nr > ns
  · simp [convWrites, convFirst, h, min_eq_left h.le]
  · simp [convWrites, convFirst, h, min_eq_right (not_lt.mp h), hj]

theorem convFrom_eq (ns nr q j : Nat) : convFrom ns nr q j = convStart ns nr q + (j - convFirst ns nr q) := by
  rcases lt_trichotomy ns nr with h | rfl | h
  · simp [convFrom, convFirst, convStart, h, h.not_gt]
  · simp [convFrom, convFirst, convStart]
  · simp [convFrom, convFirst, convStart, h, h.not_gt]

theorem convRank_eq (ns nr q j : Nat) : convRank ns nr q j = j - convFirst ns nr q + 1 := by
  by_cases h : nr > ns <;> simp [convRank, convFirst, h]

/-- The generator after a conversion (R44). -/
theorem convResult_xs (f : Fields) (src : ET) (q : Nat) (x : Opnds) (g : Nat → Nat → Word32 → Nat) :
    (convResult f src q x g).2 = xsAfter f x.xs (min (etLanes src) (etLanes f.et)) := by
  rw [convResult, convLanes_eq_run, convGo_map]

/-- A lane of a conversion's result (R107). -/
theorem laneU_convResult (f : Fields) (src : ET) (q : Nat) (x : Opnds) (g : Nat → Nat → Word32 → Nat) {j : Nat} (hj : j < etLanes f.et) :
    laneU (etWidth f.et) (convResult f src q x g).1 j =
      if convWrites (etLanes src) (etLanes f.et) q j then
        g j (convFrom (etLanes src) (etLanes f.et) q j) (xsAfter f x.xs (convRank (etLanes src) (etLanes f.et) q j)) % 2 ^ etWidth f.et
      else 0 := by
  rw [convResult, convLanes_eq_run, convGo_map, laneU_packLanes_range _ _ _ hj, valAt_run, convFrom_eq, convRank_eq]
  simp only [convWrites_iff q hj]
  split
  case isTrue h => rw [Nat.add_sub_cancel' h.1]
  case isFalse => exact Nat.zero_mod _

/-- An instruction that runs a conversion over its lanes sends the codes modulo the lane's width. -/
theorem converts_of {i : Instr} {f : Fields} {s : State} {c : Ctx} (hi : Issues f s c (dests f).length) (hp : c.Plain)
    (g : Opnds → Nat → Nat → Word32 → Nat) (he : exec i s = fireConv f s fun x => convResult f (convSrc f) (convQ f) x (g x))
    (code : Nat → Nat → Word32 → Nat) (hc : ∀ j i xs, g (operands c.e f c.set none) j i xs % 2 ^ etWidth f.et = code j i xs) :
    Converts i f s c code := by
  refine ⟨_, ?_, fun j hj => (laneU_convResult f (convSrc f) (convQ f) (operands c.e f c.set none) (g _) hj).trans (by rw [hc]; rfl)⟩
  rw [he, fireConv_plain hi hp, convResult_xs]
  rfl

/-- An integer code fits the lane. -/
theorem iroundX_lt (t : ET) (rnd : BitVec 3) (xs : Word32) (v : XVal) : iroundX t rnd xs v < 2 ^ etWidth t := by
  cases v with
  | nan => exact Nat.two_pow_pos _
  | inf b => exact wrapTo_lt _ _
  | zero b => exact Nat.two_pow_pos _
  | num n d => exact wrapTo_lt _ _

theorem roundTo_mod (f : Fields) (xs : Word32) (v : XVal) :
    roundTo f xs v % 2 ^ etWidth f.et =
      if etIsFloat f.et = true then froundX f.et f.rnd f.sat true xs v % 2 ^ etWidth f.et else iroundX f.et f.rnd xs v := by
  rw [roundTo]
  split
  · rfl
  · exact Nat.mod_eq_of_lt (iroundX_lt _ _ _ _)

/-- The value that DQNT scales: a code's entry in the codebook, a number or an integer (R33, R46). -/
theorem quantVal_eq (src : ET) (cbk a : Payload) (i : Nat) :
    quantVal src cbk a i =
      if src = .lut4 then fdecode .bf16 (laneU 16 cbk (laneU (etWidth src) a i))
      else if etIsFloat src = true then fdecode src (laneU (etWidth src) a i) else .ofInt (laneInt src a i) := by
  rw [quantVal]
  split
  case isTrue h => rw [h]; rfl
  case isFalse => rfl

/-- Settles O16: every conversion runs over the lanes of R107 with a rounding of its own. -/
theorem conversionLanes : Obligations.ConversionLanes := by
  unfold Obligations.ConversionLanes
  intro f s c hi hp x w src group scale float either lane
  refine ⟨?fcvt, ?icvt, ?fcvti, ?qnt, ?dqnt⟩
  case fcvt =>
    exact converts_of hi hp (fun x _ i xs => froundX f.et f.rnd f.sat true xs (fdecode src (laneU (etWidth src) x.a i))) rfl _
      fun _ _ _ => rfl
  case icvt => exact converts_of hi hp (fun x _ i xs => froundX f.et f.rnd f.sat true xs (.ofInt (laneInt src x.a i))) rfl _ fun _ _ _ => rfl
  case fcvti =>
    exact converts_of hi hp (fun x _ i xs => iroundX f.et f.rnd xs (fdecode src (laneU (etWidth src) x.a i))) rfl _
      fun _ _ _ => Nat.mod_eq_of_lt (iroundX_lt _ _ _ _)
  case qnt =>
    exact converts_of hi hp (fun x j i xs => roundTo f xs ((fdecode src (laneU (etWidth src) x.a i)).div (scaleAt f x.b j))) rfl _
      fun _ _ _ => roundTo_mod f _ _
  case dqnt =>
    refine converts_of hi hp (fun x _ i xs => roundTo f xs ((quantVal src x.cbk x.a i).mul (scaleAt f x.b i))) rfl _ fun _ i _ => ?_
    rw [roundTo_mod, quantVal_eq]
    rfl

end Sys2Proof.Machine
end

section
/-! SUPPORT. The decoder and the encoder undo each other: rows and opcodes (R52 to R54, R67), the lowest cause (R77), and the Xwenxus
words (R72 to R74). -/

namespace Sys2Proof.Machine

/-! ## Rows and their opcodes (R52, R67) -/

/-- A row and its fields are the two halves of a fabric instruction. -/
theorem split_ofOp (o : Op) (f : Fields) : (Instr.ofOp o f).split = some (o, f) := by
  cases o <;> rfl

theorem ofOp_of_split {i : Instr} {o : Op} {f : Fields} (h : i.split = some (o, f)) : Instr.ofOp o f = i := by
  cases i <;> cases h <;> rfl

/-- A fabric instruction is well formed where its word passes every check (R54, R78). -/
theorem wf_ofOp (o : Op) (f : Fields) : (Instr.ofOp o f).wf = true ↔ wordChecks o f = [] := by
  rw [Instr.wf, split_ofOp]
  exact List.isEmpty_iff

theorem encodeSlot_ofOp (o : Op) (f : Fields) : encodeSlot (Instr.ofOp o f) = some (encodeFields (opInfo o).opc f) := by
  rw [encodeSlot, split_ofOp]

/-- Every table entry stands at the opcode of its row (R67). -/
theorem opTable_opc : ∀ p ∈ opTable, (opInfo p.2).opc.toNat = p.1 := by
  decide +kernel

theorem mem_of_lookupOp {n : Nat} {o : Op} : ∀ {l : List (Nat × Op)}, lookupOp n l = some o → (n, o) ∈ l
  | (k, p) :: rest, h => by
    rw [lookupOp] at h
    split at h
    next hk =>
      obtain rfl := Option.some.inj h
      rw [beq_iff_eq.mp hk]
      exact List.mem_cons_self
    next => exact List.mem_cons_of_mem _ (mem_of_lookupOp h)

/-- The row that an opcode and XMOD name has that opcode (R67). -/
theorem opc_of_opOf {c : BitVec 9} {x : BitVec 10} {o : Op} (h : opOf c x = some o) : (opInfo o).opc = c := by
  rw [opOf] at h
  split at h
  next hc =>
    rw [beq_iff_eq.mp hc]
    split at h <;> obtain rfl := Option.some.inj h <;> rfl
  next =>
    split at h
    next hc =>
      rw [beq_iff_eq.mp hc]
      split at h <;> obtain rfl := Option.some.inj h <;> rfl
    next => exact BitVec.eq_of_toNat_eq (opTable_opc _ (mem_of_lookupOp h))

open Sys2Proof.Laws in
/-- The opcode and XMOD of a word that passes its row's checks name that row (R67, R316, R356). -/
theorem opOf_of_wordChecks {o : Op} {f : Fields} (h : wordChecks o f = []) : opOf (opInfo o).opc f.xmod = some o := by
  have named (hs : OneWord.Statement (Instr.ofOp o f)) : opOf (opInfo o).opc f.xmod = some o := by
    simp only [OneWord.Statement, split_ofOp, (wf_ofOp o f).mpr h, reduceCtorEq, false_or] at hs
    exact hs.2
  cases hshare : sharesOpcode o with
  | false => exact opOf_plain hshare f.xmod
  | true =>
    cases o <;> simp only [sharesOpcode, reduceCtorEq] at hshare
    case kvseqCreate => exact named (OneWord.kvseqCreate f)
    case kvseqAttach => exact named (OneWord.kvseqAttach f)
    case kvseqDetach => exact named (OneWord.kvseqDetach f)
    case ndropDecl => exact named (OneWord.ndropDecl f)
    case ndropOwn => exact named (OneWord.ndropOwn f)

/-! ## The lowest cause (R77) -/

/-- A list of causes has a lowest one among its members. -/
theorem exists_lowestCause {cs : List Cause} (h : cs ≠ []) :
    ∃ e, lowestCause cs = some e ∧ e ∈ cs ∧ ∀ d ∈ cs, e.toNat ≤ d.toNat := by
  induction cs with
  | nil => exact absurd rfl h
  | cons c cs ih =>
    by_cases hcs : cs = []
    · subst hcs
      exact ⟨c, rfl, List.mem_cons_self, by simp⟩
    obtain ⟨e, he, hmem, hmin⟩ := ih hcs
    by_cases hle : c.toNat ≤ e.toNat
    · refine ⟨c, by simp [lowestCause, he, hle], List.mem_cons_self, ?_⟩
      exact List.forall_mem_cons.mpr ⟨le_rfl, fun d hd => hle.trans (hmin d hd)⟩
    · refine ⟨e, by simp [lowestCause, he, hle], List.mem_cons_of_mem _ hmem, ?_⟩
      exact List.forall_mem_cons.mpr ⟨(not_le.mp hle).le, hmin⟩

/-! ## Slot words (R52 to R54) -/

theorem decodeFields_xmod (w : SlotWord) : (decodeFields w).xmod = bitsAt w 0 10 := rfl

theorem decodeSlot_unassigned {w : SlotWord} (h : opOf (bitsAt w 119 9) (bitsAt w 0 10) = none) :
    decodeSlot w = .error (.slot (mkCause 1 1)) := by
  simp only [decodeSlot, decodeFields_xmod, h]

theorem decodeSlot_accepts {w : SlotWord} {o : Op} (h : opOf (bitsAt w 119 9) (bitsAt w 0 10) = some o)
    (hc : wordChecks o (decodeFields w) = []) : decodeSlot w = .ok (Instr.ofOp o (decodeFields w)) := by
  simp only [decodeSlot, decodeFields_xmod, h, hc, lowestCause]

theorem decodeSlot_refuses {w : SlotWord} {o : Op} (h : opOf (bitsAt w 119 9) (bitsAt w 0 10) = some o)
    (hc : wordChecks o (decodeFields w) ≠ []) : ∃ c ∈ wordChecks o (decodeFields w),
      decodeSlot w = .error (.slot c) ∧ ∀ d ∈ wordChecks o (decodeFields w), c.toNat ≤ d.toNat := by
  obtain ⟨c, hlow, hmem, hmin⟩ := exists_lowestCause hc
  exact ⟨c, hmem, by simp only [decodeSlot, decodeFields_xmod, h, hlow], hmin⟩

/-- What the decoder takes is the row that the word names, which passes its checks. -/
theorem decodeSlot_eq_ok {w : SlotWord} {i : Instr} (h : decodeSlot w = .ok i) : ∃ o,
    opOf (bitsAt w 119 9) (bitsAt w 0 10) = some o ∧ wordChecks o (decodeFields w) = [] ∧ i = Instr.ofOp o (decodeFields w) := by
  cases hop : opOf (bitsAt w 119 9) (bitsAt w 0 10) with
  | none => rw [decodeSlot_unassigned hop] at h; cases h
  | some o =>
    by_cases hc : wordChecks o (decodeFields w) = []
    · rw [decodeSlot_accepts hop hc] at h
      exact ⟨o, rfl, hc, (Except.ok.inj h).symm⟩
    · obtain ⟨c, -, hrefused, -⟩ := decodeSlot_refuses hop hc
      rw [hrefused] at h
      cases h

theorem decodeSlot_encodeFields {o : Op} {f : Fields} (h : wordChecks o f = []) :
    decodeSlot (encodeFields (opInfo o).opc f) = .ok (Instr.ofOp o f) := by
  have hop : opOf (bitsAt (encodeFields (opInfo o).opc f) 119 9) (bitsAt (encodeFields (opInfo o).opc f) 0 10) = some o := by
    rw [encodeFields_opc, encodeFields_xmod]
    exact opOf_of_wordChecks h
  have hf := decodeFields_encodeFields (opInfo o).opc f
  rw [decodeSlot_accepts hop (by rw [hf]; exact h), hf]

theorem encodeSlot_of_decodeSlot {w : SlotWord} {i : Instr} (h : decodeSlot w = .ok i) : encodeSlot i = some w ∧ i.wf = true := by
  obtain ⟨o, hop, hc, rfl⟩ := decodeSlot_eq_ok h
  refine ⟨?_, (wf_ofOp o _).mpr hc⟩
  rw [encodeSlot_ofOp, opc_of_opOf hop, encodeFields_decodeFields]

/-! ## Xwenxus words (R72 to R74) -/

/-- A custom-0 word is its fields. -/
theorem exists_encodeR {w : Word32} (h : bitsAt w 0 7 = 0x0B) : ∃ f7 rs2 rs1 f3 rd, w = encodeR f7 rs2 rs1 f3 rd := by
  refine ⟨bitsAt w 25 7, bitsAt w 20 5, bitsAt w 15 5, bitsAt w 12 3, bitsAt w 7 5, BitVec.eq_of_getLsbD_eq fun i hi => ?_⟩
  rw [encodeR_bit, ← h]
  refine (ite_elim (fun h => bitsAt_bit0 h) fun _ => ?_).symm
  refine ite_elim (fun h => bitsAt_bit (by omega)) fun _ => ?_
  refine ite_elim (fun h => bitsAt_bit (by omega)) fun _ => ?_
  refine ite_elim (fun h => bitsAt_bit (by omega)) fun _ => ?_
  refine ite_elim (fun h => bitsAt_bit (by omega)) fun _ => ?_
  exact bitsAt_bit (by omega)

theorem decodeWx_not_custom0 {w : Word32} (h : bitsAt w 0 7 ≠ 0x0B) : decodeWx w = .error (.riscv w) := by
  simp only [decodeWx]
  rw [if_pos (by simpa using h)]

/-- The nine rows of the Xwenxus table: funct7, rs2 and funct3 (R73). -/
def WxRow (f7 : BitVec 7) (rs2 : BitVec 5) (f3 : BitVec 3) : Prop :=
  f7 = 0 ∧ (f3 = 1 ∨ f3 = 2 ∨ rs2 = 0) ∨ f7 = 1 ∧ f3 = 7 ∧ rs2 = 0

theorem bitVec3_cases (c : BitVec 3) : c = 0 ∨ c = 1 ∨ c = 2 ∨ c = 3 ∨ c = 4 ∨ c = 5 ∨ c = 6 ∨ c = 7 := by
  revert c; decide

open Sys2Proof.Laws in
/-- The word of an Xwenxus row decodes to its instruction (R73). -/
theorem decodeWx_of_oneWord {i : Instr} {w : Word32} (hs : i.split = none) (hi : OneWord.Statement i) (hw : encodeWx i = some w)
    (hn : ∀ v, i ≠ .illegalInstructionException v) : decodeWx w = .ok i := by
  simp only [OneWord.Statement, hs] at hi
  obtain hnone | ⟨v, hv⟩ | ⟨v, hv, hdec⟩ := hi
  · simp [hnone] at hw
  · exact absurd hv (hn v)
  · rwa [Option.some.inj (hw.symm.trans hv)]

open Sys2Proof.Laws in
theorem decodeWx_encodeWx {i : Instr} {w : Word32} (hw : encodeWx i = some w) (hn : ∀ v, i ≠ .illegalInstructionException v) :
    decodeWx w = .ok i := by
  cases i <;> simp only [encodeWx, reduceCtorEq] at hw
  case wxLaunch rd rs1 => exact decodeWx_of_oneWord rfl (OneWord.wxLaunch rd rs1) hw hn
  case wxPushtok rd rs1 rs2 => exact decodeWx_of_oneWord rfl (OneWord.wxPushtok rd rs1 rs2) hw hn
  case wxPulltok rd rs1 rs2 => exact decodeWx_of_oneWord rfl (OneWord.wxPulltok rd rs1 rs2) hw hn
  case wxCensus rd rs1 => exact decodeWx_of_oneWord rfl (OneWord.wxCensus rd rs1) hw hn
  case wxPurge rd rs1 => exact decodeWx_of_oneWord rfl (OneWord.wxPurge rd rs1) hw hn
  case wxSpanwait rd rs1 => exact decodeWx_of_oneWord rfl (OneWord.wxSpanwait rd rs1) hw hn
  case wxSummary rd rs1 => exact decodeWx_of_oneWord rfl (OneWord.wxSummary rd rs1) hw hn
  case wxFreeze rd rs1 => exact decodeWx_of_oneWord rfl (OneWord.wxFreeze rd rs1) hw hn
  case wxResume rd rs1 => exact decodeWx_of_oneWord rfl (OneWord.wxResume rd rs1) hw hn
  case illegalInstructionException v => exact absurd rfl (hn v)

/-- The instruction of a row of the Xwenxus table, from its fields (R73). -/
theorem exists_encodeWx {f7 : BitVec 7} {rs2 : BitVec 5} {f3 : BitVec 3} (h : WxRow f7 rs2 f3) (rs1 rd : BitVec 5) :
    ∃ i, encodeWx i = some (encodeR f7 rs2 rs1 f3 rd) ∧ ∀ v, i ≠ .illegalInstructionException v := by
  obtain ⟨rfl, rfl | rfl | rfl⟩ | ⟨rfl, rfl, rfl⟩ := h
  · exact ⟨.wxPushtok rd rs1 rs2, rfl, nofun⟩
  · exact ⟨.wxPulltok rd rs1 rs2, rfl, nofun⟩
  · obtain rfl | rfl | rfl | rfl | rfl | rfl | rfl | rfl := bitVec3_cases f3
    · exact ⟨.wxLaunch rd rs1, rfl, nofun⟩
    · exact ⟨.wxPushtok rd rs1 0, rfl, nofun⟩
    · exact ⟨.wxPulltok rd rs1 0, rfl, nofun⟩
    · exact ⟨.wxCensus rd rs1, rfl, nofun⟩
    · exact ⟨.wxPurge rd rs1, rfl, nofun⟩
    · exact ⟨.wxSpanwait rd rs1, rfl, nofun⟩
    · exact ⟨.wxSummary rd rs1, rfl, nofun⟩
    · exact ⟨.wxFreeze rd rs1, rfl, nofun⟩
  · exact ⟨.wxResume rd rs1, rfl, nofun⟩

theorem toNat_beq_toNat {n : Nat} (x y : BitVec n) : (x.toNat == y.toNat) = decide (x = y) := by
  rw [beq_eq_decide, decide_eq_decide, BitVec.toNat_inj]

/-- A custom-0 word in no row is the illegal-instruction exception (R74). -/
theorem decodeWx_illegal {f7 : BitVec 7} {rs2 : BitVec 5} {f3 : BitVec 3} (h : ¬ WxRow f7 rs2 f3) (rs1 rd : BitVec 5) :
    decodeWx (encodeR f7 rs2 rs1 f3 rd) = .ok (.illegalInstructionException (encodeR f7 rs2 rs1 f3 rd)) := by
  have hzero : (f7.toNat == 0) = decide (f7 = 0) := toNat_beq_toNat f7 0
  have hone : (f7.toNat == 1) = decide (f7 = 1) := toNat_beq_toNat f7 1
  have hrow : ¬ (f7 = 0 ∧ rs2 = 0) := fun e => h (.inl ⟨e.1, .inr (.inr e.2)⟩)
  have hpush : f3 = 1 → f7 ≠ 0 := fun e e7 => h (.inl ⟨e7, .inl e⟩)
  have hpull : f3 = 2 → f7 ≠ 0 := fun e e7 => h (.inl ⟨e7, .inr (.inl e)⟩)
  have hresume : f3 = 7 → ¬ (f7 = 1 ∧ rs2 = 0) := fun e e7 => h (.inr ⟨e7.1, e, e7.2⟩)
  simp only [decodeWx, encodeR_op, encodeR_f7, encodeR_f3, encodeR_rs1, encodeR_rs2, encodeR_rd, hzero, hone]
  obtain rfl | rfl | rfl | rfl | rfl | rfl | rfl | rfl := bitVec3_cases f3
  case inr.inl => simpa using hpush rfl
  case inr.inr.inl => simpa using hpull rfl
  case inr.inr.inr.inr.inr.inr.inr =>
    exact congrArg Except.ok ((if_neg (by simpa using hrow)).trans (if_neg (by simpa using hresume rfl)))
  all_goals simpa using hrow

theorem encodeWx_of_decodeWx {w : Word32} {i : Instr} (h : decodeWx w = .ok i) : encodeWx i = some w := by
  obtain ⟨f7, rs2, rs1, f3, rd, rfl⟩ := exists_encodeR (decodeWx_ok_custom0 h)
  by_cases hrow : WxRow f7 rs2 f3
  · obtain ⟨j, hj, hn⟩ := exists_encodeWx hrow rs1 rd
    obtain rfl := Except.ok.inj ((decodeWx_encodeWx hj hn).symm.trans h)
    exact hj
  · obtain rfl := Except.ok.inj ((decodeWx_illegal hrow rs1 rd).symm.trans h)
    rfl

/-! ## Bytes (R53, R72) -/

theorem decode_slotBytes (w : SlotWord) : decode (toBytes w 16) = decodeSlot w := by
  simp only [decode, ofBytes_toBytes (k := 16) w rfl]
  simp [toBytes]

theorem decode_wxBytes (w : Word32) : decode (toBytes w 4) = decodeWx w := by
  simp only [decode, ofBytes_toBytes (k := 4) w rfl]
  simp [toBytes]

/-- An Xwenxus instruction has no slot word. -/
theorem encodeSlot_eq_none_of_encodeWx {i : Instr} {w : Word32} (h : encodeWx i = some w) : encodeSlot i = none := by
  cases i <;> cases h <;> rfl

theorem exists_ofOp_of_encodeSlot {i : Instr} (h : (encodeSlot i).isSome = true) : ∃ o f, i = Instr.ofOp o f := by
  rw [encodeSlot] at h
  split at h
  next o f hs => exact ⟨o, f, (ofOp_of_split hs).symm⟩
  next => cases h

/-! ## The obligations -/

/-- Settles O3: the words' fields are read off. -/
theorem wordsFromTheTablesDecode : Obligations.WordsFromTheTablesDecode := by
  unfold Obligations.WordsFromTheTablesDecode
  refine ⟨⟨decodeFields 0x2022C240001000000008200E00000000, ?_, rfl, rfl, rfl, rfl⟩, rfl, rfl⟩
  decide +kernel

/-- Settles O1: a fabric row by the round trip of its fields and the row its opcode and XMOD name, an Xwenxus row by its own word. -/
theorem decodeOfEncodeIsTheInstruction : Obligations.DecodeOfEncodeIsTheInstruction := by
  unfold Obligations.DecodeOfEncodeIsTheInstruction
  rintro i hwf (hslot | ⟨hwx, hn⟩)
  · obtain ⟨o, f, rfl⟩ := exists_ofOp_of_encodeSlot hslot
    rw [encode, encodeSlot_ofOp]
    exact (decode_slotBytes _).trans (decodeSlot_encodeFields ((wf_ofOp o f).mp hwf))
  · obtain ⟨w, hw⟩ := Option.isSome_iff_exists.mp hwx
    rw [encode, encodeSlot_eq_none_of_encodeWx hw]
    simp only [hw]
    exact (decode_wxBytes w).trans (decodeWx_encodeWx hw hn)

/-- Settles O2: a slot word by its row and the row's checks, a custom-0 word by whether its fields are a row of the Xwenxus table. -/
theorem encodeOfDecodeIsTheWord : Obligations.EncodeOfDecodeIsTheWord := by
  unfold Obligations.EncodeOfDecodeIsTheWord
  refine ⟨fun w i => encodeSlot_of_decodeSlot, fun w i => encodeWx_of_decodeWx, fun w => decodeSlot_unassigned,
    fun w o => decodeSlot_refuses, fun w => decodeWx_not_custom0, fun w hw => ?_⟩
  obtain ⟨f7, rs2, rs1, f3, rd, rfl⟩ := exists_encodeR hw
  rw [encodeR_f7, encodeR_f3, encodeR_rs2]
  by_cases hrow : WxRow f7 rs2 f3
  · obtain ⟨i, hi, hn⟩ := exists_encodeWx hrow rs1 rd
    exact ⟨i, decodeWx_encodeWx hi hn, iff_of_false (hn _) (not_not.mpr hrow)⟩
  · exact ⟨_, decodeWx_illegal hrow rs1 rd, iff_of_true rfl hrow⟩

end Sys2Proof.Machine
end

section
/-! SUPPORT. Illegal instructions and the world registers of a hart (R74, R202, R399). -/

namespace Sys2Proof.Machine

theorem hartTrap_of_hart? {s : State} {h : Nat} {k : Hart} (hk : s.hart? h = some k) (code : Nat) (tval : Word64) :
    s.hartTrap h code tval = s.putHart h (k.trap code tval) := by
  simp only [State.hartTrap, hk]

/-- A privileged Xwenxus instruction in U-mode or VU-mode is the illegal-instruction exception with its word (R74, R202). -/
theorem wxRun_unprivileged {s : State} {h : Nat} {k : Hart} {i : Instr} {w : Word32} (hx : ExecutesAt s h k)
    (hmode : k.mode = .u ∨ k.mode = .vu) (hw : encodeWx i = some w) (act : Nat → Hart → State) :
    wxRun s false i act = .next (s.putHart h (k.trap 2 (w.setWidth 64))) := by
  have huser : (!false && (k.mode == .u || k.mode == .vu)) = true := by
    obtain hu | hvu := hmode
    · rw [hu]; rfl
    · rw [hvu]; rfl
  simp only [wxRun, hx.focus, hx.hart, huser, hw, Option.getD_some, if_true, hartTrap_of_hart? hx.hart]

/-- A custom-0 word outside the table is the illegal-instruction exception with that word (R74). -/
theorem execIllegalInstructionException_eq {s : State} {h : Nat} {k : Hart} (hx : ExecutesAt s h k) (w : Word32) :
    execIllegalInstructionException w s = .next (s.putHart h (k.trap 2 (w.setWidth 64))) := by
  simp only [execIllegalInstructionException, hx.focus, hartTrap_of_hart? hx.hart]

section
variable {s : State} {h : Nat} {k : Hart} (hk : s.hart? h = some k) (hwait : k.waiting = false) (hblock : k.blocked = false)
  (hclock : s.clocked = true)
include hk hwait hblock hclock

/-- A write of wxworld is the exception in every mode (R202). -/
theorem execWxworldWrite_eq (v : Word64) : execWxworldWrite h v s = .next (s.putHart h (k.trap 2 0)) := by
  simp [execWxworldWrite, hk, hwait, hblock, hclock, hartTrap_of_hart? hk]

/-- A write of wxvworld below M-mode is the exception of the CSR's privilege (R399). -/
theorem execWxvworldWrite_below_machine (hm : k.mode ≠ .m) (v : Word64) :
    execWxvworldWrite h v s = .next (s.putHart h (k.trap 2 0)) := by
  simp [execWxvworldWrite, hk, hwait, hblock, hclock, hm, hartTrap_of_hart? hk]

/-- A write of wxvworld in M-mode takes an existing world (R399, R412). -/
theorem execWxvworldWrite_machine (hm : k.mode = .m) {v : Word64} (hworld : bitAt (s.wcfg (bitsAt v 0 8)) 63 = true) :
    execWxvworldWrite h v s = .next (s.putHart h { k with wxvworld := (bitsAt v 0 8).setWidth 64 }).bumpLayout := by
  simp [execWxvworldWrite, State.setVworld, hk, hwait, hblock, hclock, hm, hworld]
end

/-- Settles O36: the exception of a word or of a privilege at the hart that executes it, and the two registers by the hart's mode. -/
theorem illegalInstructionsAndWorldRegisters : Obligations.IllegalInstructionsAndWorldRegisters := by
  unfold Obligations.IllegalInstructionsAndWorldRegisters
  intro s h k hk
  refine ⟨fun hfocus => ?executes, fun hwait hblock hclock => ?writes⟩
  case executes =>
    have hx : ExecutesAt s h k := ⟨hfocus, hk⟩
    refine ⟨execIllegalInstructionException_eq hx, fun hmode rd rs1 => ?_⟩
    exact ⟨wxRun_unprivileged hx hmode rfl _, wxRun_unprivileged hx hmode rfl _, wxRun_unprivileged hx hmode rfl _,
      wxRun_unprivileged hx hmode rfl _, wxRun_unprivileged hx hmode rfl _⟩
  case writes =>
    exact ⟨execWxworldWrite_eq hk hwait hblock hclock, execWxvworldWrite_below_machine hk hwait hblock hclock,
      fun hm v => execWxvworldWrite_machine hk hwait hblock hclock hm⟩

end Sys2Proof.Machine
end

section
/-! SUPPORT. Hardware errors, machine check, freeze pins, reset, power and temperature, and replay (R79, R371, R390, R391, R394, R438
to R440). -/

namespace Sys2Proof.Machine

/-! ## Machine check (R391) -/

theorem SameButSlices.seqNo {s t : State} (h : SameButSlices s t) : t.seqNo = s.seqNo := by
  have := congrArg State.seqNo h.rest; exact this

@[simp] theorem poke_seqNo (s : State) (pa : Nat) (bs : List Byte) : (s.poke pa bs).seqNo = s.seqNo :=
  (foldl_touch_same true (lineAddrs pa bs.length) s).seqNo

@[simp] theorem sendMsi_seqNo (s : State) (v : Word64) : (s.sendMsi v).seqNo = s.seqNo := by
  unfold State.sendMsi
  split
  · simp only
    split
    · exact poke_seqNo _ _ _
    · rfl
  · rfl

/-- Interrupt words to any number of harts change what stores to HBM change, and no record's number. -/
theorem foldl_sendMsi_same (ns : List Nat) (s : State) :
    SameButMemory s (ns.foldl (fun s _ => s.sendMsi (s.reg 0x8020)) s) ∧
      (ns.foldl (fun s _ => s.sendMsi (s.reg 0x8020)) s).seqNo = s.seqNo := by
  induction ns generalizing s with
  | nil => exact ⟨.rfl, rfl⟩
  | cons n ns ih =>
    obtain ⟨hsame, hseq⟩ := ih (s.sendMsi (s.reg 0x8020))
    exact ⟨(sendMsi_same s _).trans hsame, hseq.trans (sendMsi_seqNo s _)⟩

/-- What a machine check with the cause c leaves: the package in machine check with its record, launches and harts as they were
(R391). -/
structure Checked (s : State) (c : Cause) (t : State) : Prop where
  pkg : t.pkg = .machineCheck
  seqNo : t.seqNo = s.seqNo + 1
  record : t.mcRec = faultBits { bareFault s 0 c 0 0 with resp := 3 } s.seqNo
  launches : t.launches = s.launches
  harts : t.harts.length = s.harts.length

theorem machineCheck_checked (s : State) (c : Cause) : Checked s c (s.machineCheck c) := by
  obtain ⟨hsame, hseq⟩ := foldl_sendMsi_same (List.range s.harts.length) ({ s with pkg := .machineCheck }.writeMcRec c 3)
  have hpkg := congrArg State.pkg hsame.rest
  have hrec := congrArg State.mcRec hsame.rest
  exact ⟨hpkg, hseq, hrec, hsame.launches, congrArg List.length hsame.harts⟩

/-- A register of the package page has no part in a machine check. -/
theorem Checked.of_setReg {s t : State} {off : Nat} {v : Word64} {c : Cause} (h : Checked (s.setReg off v) c t) : Checked s c t :=
  ⟨h.pkg, h.seqNo, h.record, h.launches, h.harts⟩

/-! ## Errors in a region (R79, R371) -/

/-- An element whose word of a set is marked uncorrectable (R79). -/
def Elem.withBadWord (e : Elem) (set : ReadySet) : Elem :=
  { e with badWords := (32 * set.ctx + set.slot) :: e.badWords.filter (· != 32 * set.ctx + set.slot) }

theorem elem?_withBadWord {g : Region} {x y : Nat} {e : Elem} (he : g.elem? x y = some e) (set : ReadySet) :
    (g.putElem (e.withBadWord set)).elem? x y = some (e.withBadWord set) := by
  obtain ⟨hx, hy⟩ := elem?_xy he
  rw [elem?_putElem, if_pos ⟨hx.symm, hy.symm⟩, he, Option.map_some]

section
variable {s : State} {r : Rid} {l : Launch} {g : Region} (h : Runs s r l g)
include h

/-- A launch that runs holds a cause of class 12 (R371). -/
theorem holdError_eq (x y : Nat) (c : Cause) (slot : Nat) (tag : Word64) (dead : Bool) : s.holdError ⟨r, x, y⟩ c slot tag dead =
    s.putLaunch { l.hold ⟨c, r.m, x, y, slot, 0, tag, 0, s.cycle⟩ with hwDead := l.hwDead || dead } := by
  simp only [State.holdError, h.launch, h.live, if_true]

theorem launch?_holdError (x y : Nat) (c : Cause) (slot : Nat) (tag : Word64) (dead : Bool) :
    (s.holdError ⟨r, x, y⟩ c slot tag dead).launch? r.h =
      some { l.hold ⟨c, r.m, x, y, slot, 0, tag, 0, s.cycle⟩ with hwDead := l.hwDead || dead } := by
  rw [holdError_eq h]
  exact launch?_putLaunch_same h.launch h.handle

/-- An uncorrectable word is marked at its element, whose set stays in the ready queue, and the launch holds the cause 0xC.01 (R79). -/
theorem wordError_eq {x y : Nat} {e : Elem} {set : ReadySet} {rest : List ReadySet} (he : g.elem? x y = some e)
    (hready : e.ready = set :: rest) :
    s.wordError ⟨r, x, y⟩ = (s.putRegion r (g.putElem (e.withBadWord set))).holdError ⟨r, x, y⟩ (mkCause 12 1) set.slot
      ((set.toks.head?.map Token.tag).getD 0) false := by
  cases e
  cases hready
  simp only [State.wordError, h.region, he, h.launch, h.live, if_true]
  rfl

/-- A corrected error counts one, without a record while the count crosses no multiple of 2^16 (R79, R371). -/
theorem corrected_eq (hcount : (g.hwerr + 1) % 65536 ≠ 0) (x y : Nat) :
    s.corrected ⟨r, x, y⟩ = s.putRegion r { g with hwerr := (g.hwerr + 1) % 2 ^ 64 } := by
  have hmod : (g.hwerr + 1) % 2 ^ 64 % 65536 ≠ 0 := by omega
  simp only [State.corrected, h.launch, h.region, if_neg hmod]

theorem portSite_eq {n : Nat} (hn : n < g.ports.length) :
    s.portSite r n = some ⟨r, portAx (g.portWord n), portAy (g.portWord n)⟩ := by
  simp [State.portSite, h.region, hn]
end

/-! ## The codes of class 12 in a running package (R371, R391) -/

theorem next_if_running {s : State} (h : s.pkg = .running) (u : State) :
    (.next (if s.pkg != .running then s else u) : Host.Outcome State Fault Refusal) = .next u :=
  congrArg Host.Outcome.next (if_neg (by simp [h]))

section
variable {s : State} (h : s.pkg = .running)
include h

theorem exec_hardwareError_word (p : Site) : exec (.hardwareError 1 (.element p)) s = .next (s.wordError p) :=
  next_if_running h _

/-- A line of HBM is poisoned with the cause of its code (R371). -/
theorem exec_hardwareError_line {pa : Nat} (hpa : inHbm pa = true) {c : Nat} (hc : c = 4 ∨ c = 5) :
    exec (.hardwareError (BitVec.ofNat 6 c) (.line pa)) s = .next { s with
      poisoned := (lineOf pa, mkCause 12 c) :: s.poisoned.filter fun q => q.1 != lineOf pa } := by
  have hpoison (d : Cause) : s.poisonLine pa d = { s with
      poisoned := (lineOf pa, d) :: s.poisoned.filter fun q => q.1 != lineOf pa } := if_pos hpa
  obtain rfl | rfl := hc
  · rw [← hpoison]
    exact next_if_running h _
  · rw [← hpoison]
    exact next_if_running h _

/-- A corrected error at an element, a tile or a port is counted in its region (R79, R371). -/
theorem exec_hardwareError_corrected {r : Rid} {l : Launch} {g : Region} (hr : Runs s r l g) (hcount : (g.hwerr + 1) % 65536 ≠ 0)
    {x y : Nat} {p : ErrPlace}
    (hp : p = .element ⟨r, x, y⟩ ∨ p = .tile ⟨r, x, y⟩ ∨ ∃ n, n < g.ports.length ∧ p = .port r n) :
    exec (.hardwareError 6 p) s = .next (s.putRegion r { g with hwerr := (g.hwerr + 1) % 2 ^ 64 }) := by
  obtain rfl | rfl | ⟨n, hn, rfl⟩ := hp
  · rw [← corrected_eq hr hcount x y]
    exact next_if_running h _
  · rw [← corrected_eq hr hcount x y]
    exact next_if_running h _
  · refine (next_if_running h (((s.portSite r n).map s.corrected).getD s)).trans ?_
    rw [portSite_eq hr hn, Option.map_some, Option.getD_some, corrected_eq hr hcount]

theorem exec_hardwareError_shared : exec (.hardwareError 7 .shared) s = .next (s.machineCheck (mkCause 12 7)) :=
  next_if_running h _

theorem exec_packageMachineCheck : exec (.packageMachineCheck (mkCause 12 7)) s = .next (s.machineCheck (mkCause 12 7)) :=
  congrArg Host.Outcome.next (if_pos (by simp [h]))

/-- A temperature above the trip point is a machine check 0xE.08 (R439). -/
theorem exec_thermalTrip {temp : Nat} (ht : Config.tripPoint < temp) :
    exec (.thermalTrip temp) s = .next ((s.setReg 0x8118 (BitVec.ofNat 64 temp)).machineCheck (mkCause 14 8)) :=
  congrArg Host.Outcome.next (if_pos (by simp [h, ht]))

theorem clocked_of_running : s.clocked = true := by
  simp [State.clocked, h]

theorem exec_frzNAssert {n : Nat} (hn : 8 ≤ n) : exec (.frzNAssert n) s = .next s.packageFreeze :=
  congrArg Host.Outcome.next (if_pos (by simp [clocked_of_running h, hn]))

theorem exec_mctpFreeze : exec .mctpFreeze s = .next s.packageFreeze :=
  congrArg Host.Outcome.next (if_pos (clocked_of_running h))

/-! ## Power and temperature (R439) -/

/-- Throttling begins above a limit, with its record to world 0 (R439). -/
theorem exec_throttleEnter {power temp : Nat} (ht : s.throttled = false) (hover : s.overLimit power temp = true) :
    exec (.throttleEnter power temp) s =
      .next (({ s with throttled := true }.telemetry power temp).deliver (bareFault s 0 (mkCause 14 7) 0 0)) :=
  congrArg Host.Outcome.next (if_neg (by simp [h, ht, hover]))

/-- Throttling ends below both limits (R439). -/
theorem exec_throttleExit {power temp : Nat} (ht : s.throttled = true) (hover : s.overLimit power temp = false) :
    exec (.throttleExit power temp) s = .next ({ s with throttled := false }.telemetry power temp) :=
  congrArg Host.Outcome.next (if_neg (by simp [h, ht, hover]))
end

/-! ## Boot (R438) -/

/-- A component of a flash slot passes at its place n (R438). -/
def Component.Passes (n : Nat) (c : Component) : Prop :=
  Config.shake256 c.key = Config.vendorHash ∧ Config.dsaVerify c.key c.header c.sig = true ∧ Config.minVersion n ≤ c.version

theorem componentOk_iff (n : Nat) (c : Component) : componentOk n c = true ↔ Component.Passes n c := by
  simp only [componentOk, Component.Passes, Bool.and_eq_true, beq_iff_eq, decide_eq_true_eq, and_assoc]

theorem slotOk_iff (f : FlashSlot) : slotOk f = true ↔
    Component.Passes 0 f.firmware ∧ Component.Passes 1 f.monitor ∧ Component.Passes 2 f.eftan := by
  rw [slotOk, Bool.and_eq_true, Bool.and_eq_true, componentOk_iff, componentOk_iff, componentOk_iff, and_assoc]

theorem exec_mctpReset (s : State) : exec .mctpReset s = .next (s.boot s.flash.1 s.flash.2) := rfl

/-- What every boot leaves, whichever slot passes. -/
theorem boot_frame (s : State) (a b : FlashSlot) : (s.boot a b).launches = [] ∧ (s.boot a b).mem = State.reset.mem ∧
    (s.boot a b).regs = State.reset.regs ∧ (s.boot a b).harts = State.reset.harts ∧ (s.boot a b).flash = (a, b) := by
  unfold State.boot
  split
  · exact ⟨rfl, rfl, rfl, rfl, rfl⟩
  · split
    · exact ⟨rfl, rfl, rfl, rfl, rfl⟩
    · exact ⟨rfl, rfl, rfl, rfl, rfl⟩

theorem boot_first {s : State} {a : FlashSlot} (b : FlashSlot) (ha : slotOk a = true) :
    (s.boot a b).pkg = State.reset.pkg ∧ (s.boot a b).dice = slotDice a := by
  rw [State.boot, if_pos ha]
  exact ⟨rfl, rfl⟩

theorem boot_second {s : State} {a b : FlashSlot} (ha : ¬ slotOk a = true) (hb : slotOk b = true) :
    (s.boot a b).pkg = State.reset.pkg ∧ (s.boot a b).dice = slotDice b := by
  rw [State.boot, if_neg ha, if_pos hb]
  exact ⟨rfl, rfl⟩

theorem boot_neither {s : State} {a b : FlashSlot} (ha : ¬ slotOk a = true) (hb : ¬ slotOk b = true) :
    (s.boot a b).pkg = .offline ∧ (s.boot a b).booted = false := by
  rw [State.boot, if_neg ha, if_neg hb]
  exact ⟨rfl, rfl⟩

/-! ## Replay (R394) -/

theorem peek_mem (s : State) (pa n : Nat) : (s.peek pa n).mem = s.mem := (peek_same s pa n).mem

theorem peek_captureKey (s : State) (pa n : Nat) (w : BitVec 8) : (s.peek pa n).captureKey w = s.captureKey w := by
  have hkeys := congrArg State.keys (peek_same s pa n).rest
  have hof : (s.peek pa n).keysOf w = s.keysOf w :=
    congrArg (fun ks => (ks.find? fun k => k.world == w).getD
      ⟨w, Config.bootKey 0 w, Config.bootKey 1 w, Config.bootKey 2 w, 0, 0, none⟩) hkeys
  rw [State.captureKey, hof, State.captureKey]

/-- A replayed token is admitted at an open entry port whose colour is neither purged nor at its quota and whose queue has room
(R394). -/
theorem replayAdmit_admits {s : State} {l : Launch} {g : Region} {i : Nat} {p : Port} {t : Token} (hg : l.members[0]? = some g)
    (hp : g.ports[i]? = some p) (htype : portType p.word = 3) (hopen : p.closed = false)
    (hpurge : l.purging (portCol p.word) = false) (hquota : l.underQuota (portCol p.word) = true) (hroom : p.queue.length < 16) :
    s.replayAdmit l i t = some (s.admits l g i p t) := by
  simp [State.replayAdmit, hg, hp, htype, hopen, hpurge, hquota, hroom]

/-- The next entry of a replay into the running launch l, whose member 0 is g, stands at the address a. -/
structure ReplayStands (s : State) (r : Replay) (l : Launch) (g : Region) (a : Nat) : Prop where
  replay : s.replays.find? (fun q => q.target == r.target) = some r
  launch : s.launch? r.target = some l
  live : s.live l = true
  flows : l.draining = false
  member : l.members[0]? = some g
  ring : ∃ ring n, s.ring? l.world = some (ring, n) ∧ a = ring + 128 + 128 * (r.pos % n)

section
variable {s : State} {r : Replay} {l : Launch} {g : Region} {a : Nat} (h : ReplayStands s r l g a)
include h

/-- An entry in a held line is waited for (R261). -/
theorem execReplayEntry_held (hheld : s.areaHeld a 128 = true) : execReplayEntry r.target s = .next s := by
  obtain ⟨ring, n, hring, rfl⟩ := h.ring
  simp [execReplayEntry, h.replay, h.launch, hring, hheld]

section
variable (hfree : s.areaHeld a 128 = false)
include hfree

/-- An entry that fails its tag ends the replay with the record 0xE.06 (R394). -/
theorem execReplayEntry_badTag (hbad : openCapture (s.captureKey l.world) l.world (readBytes s.mem a 128) = none) :
    execReplayEntry r.target s = .next (((s.peek a 128).endReplay r.target).deliver
      (regionFault (s.peek a 128) l g l.world (mkCause 14 6) 0 0 0)) := by
  obtain ⟨ring, n, hring, rfl⟩ := h.ring
  simp only [execReplayEntry, h.replay, h.launch, hring, h.live, h.flows, hfree, peek_mem, peek_captureKey, hbad, h.member]
  rfl

section
variable {bs : List Byte} (hread : openCapture (s.captureKey l.world) l.world (readBytes s.mem a 128) = some bs)
include hread

/-- An entry that the captured launch's port did not take is passed over (R394). -/
theorem execReplayEntry_skips (hout : (bs.getD 77 0).toNat ≠ 0) :
    execReplayEntry r.target s = .next ((s.peek a 128).nextReplay r) := by
  obtain ⟨ring, n, hring, rfl⟩ := h.ring
  simp only [execReplayEntry, h.replay, h.launch, hring, h.live, h.flows, hfree, peek_mem, peek_captureKey, hread,
    Bool.not_true, Bool.or_false, Bool.false_eq_true, if_false]
  exact if_neg fun e => hout e.1

/-- An entry that the captured launch's port took is admitted at the target's, where the quota and the queue allow (R394). -/
theorem execReplayEntry_admits {p : Port} (hin : (bs.getD 77 0).toNat = 0)
    (hcaptured : (ofBytes 32 ((bs.drop 72).take 4) : Word32) = r.captured) (hp : g.ports[(bs.getD 76 0).toNat]? = some p)
    (htype : portType p.word = 3) (hopen : p.closed = false) (hpurge : l.purging (portCol p.word) = false)
    (hquota : l.underQuota (portCol p.word) = true) (hroom : p.queue.length < 16) :
    execReplayEntry r.target s =
      .next (((s.peek a 128).admits l g (bs.getD 76 0).toNat p (imageToken bs)).nextReplay r) := by
  obtain ⟨ring, n, hring, rfl⟩ := h.ring
  simp only [execReplayEntry, h.replay, h.launch, hring, h.live, h.flows, hfree, peek_mem, peek_captureKey, hread,
    Bool.not_true, Bool.or_false, Bool.false_eq_true, if_false]
  rw [if_pos ⟨hin, hcaptured⟩, replayAdmit_admits h.member hp htype hopen hpurge hquota hroom]
end
end
end

/-! ## The obligation -/

/-- Settles O58: an equation for each error by its code, for the pins and the management commands, for the boot by the slots that pass,
for the throttle by its limits, and for a replayed entry by what its tag and its port say. -/
theorem errorsAndThePackage : Obligations.ErrorsAndThePackage := by
  unfold Obligations.ErrorsAndThePackage
  intro s hpkg halts stops
  have halted {i : Instr} {t : State} {c : Cause} (hi : exec i s = .next t) (ht : Checked s c t) : halts i c :=
    ⟨t, hi, ht.pkg, ht.seqNo, ht.record, ht.launches, ht.harts⟩
  refine ⟨?word, fun pa hpa c hc => exec_hardwareError_line hpkg hpa hc, ?corrected, ?shared, ?check, ?trip, ?pin, ?freeze, ?boot,
    ?throttle, ?replay⟩
  case word =>
    intro r l g x y e set rest hr he hready hcauses
    have hr' := hr.putRegion_runs (g.putElem (e.withBadWord set))
    have hcycle : (s.putRegion r (g.putElem (e.withBadWord set))).cycle = s.cycle := by rw [hr.putRegion]; rfl
    have hlaunch := launch?_holdError hr' x y (mkCause 12 1) set.slot ((set.toks.head?.map Token.tag).getD 0) false
    have hexec := (exec_hardwareError_word hpkg ⟨r, x, y⟩).trans (congrArg Host.Outcome.next (wordError_eq hr he hready))
    refine ⟨_, _, _, hexec, hlaunch, region?_eq hlaunch hr'.member, ?_, elem?_withBadWord he set⟩
    simp [Launch.hold, hcauses, hcycle]
  case corrected => exact fun r l g x y hr hcount p => exec_hardwareError_corrected hpkg hr hcount
  case shared => exact halted (exec_hardwareError_shared hpkg) (machineCheck_checked _ _)
  case check => exact halted (exec_packageMachineCheck hpkg) (machineCheck_checked _ _)
  case trip => exact fun temp ht => halted (exec_thermalTrip hpkg ht) (machineCheck_checked _ _).of_setReg
  case pin => exact fun n hn => ⟨_, exec_frzNAssert hpkg hn, rfl, rfl, rfl, rfl⟩
  case freeze => exact ⟨_, exec_mctpFreeze hpkg, rfl, rfl, rfl, rfl⟩
  case boot =>
    intro a b passes good boots
    obtain ⟨hlaunches, hmem, hregs, hharts, hflash⟩ := boot_frame s a b
    refine ⟨⟨s.boot a b, rfl, hlaunches, hmem, hregs, hharts, hflash, fun ha => ?_, fun ha hb => ?_, fun ha hb => ?_⟩, fun hf => ?_⟩
    · exact boot_first b ((slotOk_iff a).mpr ha)
    · exact boot_second (mt (slotOk_iff a).mp ha) ((slotOk_iff b).mpr hb)
    · exact boot_neither (mt (slotOk_iff a).mp ha) (mt (slotOk_iff b).mp hb)
    · rw [exec_mctpReset, hf]
      rfl
  case throttle =>
    exact fun power temp => ⟨fun ht hover => exec_throttleEnter hpkg ht (decide_eq_true hover),
      fun ht hover => exec_throttleExit hpkg ht (decide_eq_false hover)⟩
  case replay =>
    intro h r rs l g ring n hreplays htarget hl hstate hdrain hmember hring a u found
    subst htarget
    have hstands : ReplayStands s r l g a :=
      { replay := by simp [hreplays]
        launch := hl
        live := by simp [State.live, hstate, hpkg]
        flows := by simp [Launch.draining, hdrain]
        member := hmember
        ring := ⟨ring, n, hring, rfl⟩ }
    refine ⟨execReplayEntry_held hstands, fun hfree => ⟨execReplayEntry_badTag hstands hfree, fun bs hread => ?_⟩⟩
    refine ⟨?skips, ?admits⟩
    case skips => exact execReplayEntry_skips hstands hfree hread
    case admits =>
      exact fun p hin hcaptured hp htype hopen hpurge hquota hroom =>
        execReplayEntry_admits hstands hfree hread hin hcaptured hp htype hopen hpurge hquota hroom

end Sys2Proof.Machine
end

section
/-! SUPPORT. Logical instructions, shifts and counts (R90 to R92), and the range of the integers that lanes hold (R33, R35). -/

namespace Sys2Proof.Machine

/-! ## Integers and the lanes that hold them (R33, R35) -/

/-- The bounds of a type lie around 0 and no further than 2^w from it (R33). -/
theorem etBounds (t : ET) : etMin t ≤ 0 ∧ 0 ≤ etMax t ∧ -(2 : Int) ^ etWidth t < etMin t ∧ etMax t < (2 : Int) ^ etWidth t := by
  cases t <;> decide

/-- A lane is a number of its type's range (R33). -/
theorem laneInt_mem_range (t : ET) (p : Payload) (k : Nat) : etMin t ≤ laneInt t p k ∧ laneInt t p k ≤ etMax t := by
  have hlt := laneU_lt (etWidth t) p k
  have hhalf := Nat.two_pow_pred_mul_two (etWidth_pos t)
  zify at hlt hhalf
  unfold laneInt etMin etMax toSigned
  cases etSigned t
  · simp only [Bool.false_eq_true, if_false]
    omega
  · simp only [if_true]
    split <;> rename_i h <;> zify at h <;> omega

/-- Modulo 2^w, the integer that a lane is read as is the lane. -/
theorem wrapTo_laneInt (t : ET) (p : Payload) (k : Nat) : wrapTo (etWidth t) (laneInt t p k) = laneU (etWidth t) p k := by
  have hlt : (laneU (etWidth t) p k : Int) < 2 ^ etWidth t := by exact_mod_cast laneU_lt (etWidth t) p k
  have hmod : laneInt t p k % 2 ^ etWidth t = laneU (etWidth t) p k := by
    rw [← Int.emod_eq_of_lt (Int.natCast_nonneg _) hlt]
    unfold laneInt toSigned
    split_ifs <;> simp
  rw [wrapTo, hmod, Int.toNat_natCast]

/-- A number of the type's range is fitted by SAT and without it alike (R35). -/
theorem fitted_of_mem_range (f : Fields) {v : Int} (h : etMin f.et ≤ v ∧ v ≤ etMax f.et) : fitted f v = wrapTo (etWidth f.et) v := by
  simp [fitted, wrapTo, not_lt.mpr h.1, not_lt.mpr h.2]

/-- A lane of a fits its lane as it is. -/
theorem fitted_ia (f : Fields) (x : Opnds) (k : Nat) : fitted f (ia f x k) = laneU (etWidth f.et) x.a k :=
  (fitted_of_mem_range f (laneInt_mem_range _ _ _)).trans (wrapTo_laneInt _ _ _)

/-! ## Shifts (R91) -/

/-- SHL by the width or more gives what fitting the exact product gives: the nearer bound under SAT, else 0. -/
theorem shlLane_eq_fitted (f : Fields) (v : Int) (m : Nat) : shlLane f.et f.sat v m = fitted f (v * 2 ^ m) := by
  rw [← fitInt_eq_fitted, shlLane]
  split
  case isTrue => rfl
  case isFalse hm =>
    obtain ⟨hmin, hmax, hlow, hhigh⟩ := etBounds f.et
    have hpow : (2 : Int) ^ etWidth f.et ≤ 2 ^ m := pow_le_pow_right₀ (by norm_num) (not_lt.mp hm)
    have hdvd : (2 : Int) ^ etWidth f.et ∣ v * 2 ^ m := Dvd.dvd.mul_left (pow_dvd_pow 2 (not_lt.mp hm)) v
    cases hsat : f.sat
    case false => simp [fitInt, wrapTo, Int.emod_eq_zero_of_dvd hdvd]
    case true =>
      rcases lt_trichotomy v 0 with hv | rfl | hv
      · have : v * 2 ^ m < etMin f.et := by nlinarith
        simp [fitInt, clampTo, hv, hv.ne, this]
      · simp [fitInt, clampTo, not_lt.mpr hmin, not_lt.mpr hmax, wrapTo]
      · have : etMax f.et < v * 2 ^ m := by nlinarith
        simp [fitInt, clampTo, hv.ne', not_lt.mpr hv.le, not_lt.mpr (hmin.trans (hmax.trans this.le)), this]

theorem shrLane_eq (w a m : Nat) : shrLane w a m = if m < w then a / 2 ^ m else 0 := by
  simp [shrLane, Nat.shiftRight_eq_div_pow]

/-- The two's complement reading of a w-bit number is that of the word with its bits. -/
theorem toInt_ofNat_eq_toSigned {w a : Nat} (hw : 0 < w) (ha : a < 2 ^ w) : (BitVec.ofNat w a).toInt = toSigned w a := by
  have hhalf := Nat.two_pow_pred_mul_two hw
  have hcond : 2 * a < 2 ^ w ↔ a < 2 ^ (w - 1) := by omega
  simp [BitVec.toInt_eq_toNat_cond, Nat.mod_eq_of_lt ha, hcond, toSigned]

/-- A w-bit number divided by 2^w or more and rounded down is its sign. -/
theorem toSigned_div_of_le {w a m : Nat} (ha : a < 2 ^ w) (hm : w ≤ m) :
    toSigned w a / 2 ^ m = if 2 ^ (w - 1) ≤ a then -1 else 0 := by
  have hlt : (a : Int) < 2 ^ w := by exact_mod_cast ha
  have hpow : (2 : Int) ^ w ≤ 2 ^ m := pow_le_pow_right₀ (by norm_num) hm
  rw [toSigned]
  by_cases h : a < 2 ^ (w - 1)
  · rw [if_pos h, if_neg (not_le.mpr h)]
    exact Int.ediv_eq_zero_of_lt (Int.natCast_nonneg a) (hlt.trans_le hpow)
  · rw [if_neg h, if_pos (not_lt.mp h), Int.ediv_eq_iff_of_pos (by positivity)]
    omega

/-- SAR is the arithmetic shift of the lane's word, for every count. -/
theorem sarLane_eq_sshiftRight {w a : Nat} (hw : 0 < w) (ha : a < 2 ^ w) (m : Nat) :
    sarLane w a m = ((BitVec.ofNat w a).sshiftRight m).toNat := by
  rw [BitVec.sshiftRight_eq, BitVec.toNat_ofInt, toInt_ofNat_eq_toSigned hw ha, Int.shiftRight_eq_div_pow, sarLane, wrapTo]
  push_cast
  split
  case isTrue => rw [Int.fdiv_eq_ediv_of_nonneg _ (by positivity)]
  case isFalse hm => rw [toSigned_div_of_le ha (not_lt.mp hm)]

/-- ROTL is the rotation of the lane's word: the bits that leave at the top enter below those that stay. -/
theorem rotlLane_eq_rotateLeft {w a : Nat} (hw : 0 < w) (ha : a < 2 ^ w) (m : Nat) :
    rotlLane w a m = ((BitVec.ofNat w a).rotateLeft m).toNat := by
  have hk : m % w ≤ w := (Nat.mod_lt m hw).le
  have hsplit : 2 ^ w = 2 ^ (m % w) * 2 ^ (w - m % w) := by rw [← Nat.pow_add, Nat.add_sub_cancel' hk]
  have hhigh : a * 2 ^ (m % w) % 2 ^ w = 2 ^ (m % w) * (a % 2 ^ (w - m % w)) := by
    rw [hsplit, Nat.mul_comm a, Nat.mul_mod_mul_left]
  have hlow : a / 2 ^ (w - m % w) < 2 ^ (m % w) := by rwa [Nat.div_lt_iff_lt_mul (Nat.two_pow_pos _), ← hsplit]
  rw [BitVec.toNat_rotateLeft, BitVec.toNat_ofNat, Nat.mod_eq_of_lt ha, Nat.shiftLeft_eq, Nat.shiftRight_eq_div_pow, hhigh,
    ← Nat.two_pow_add_eq_or_of_lt hlow, ← hhigh]
  rfl

/-! ## Counts (R92) -/

/-- The place of the highest one bit. -/
theorem size_eq_log2_succ {a : Nat} (ha : a ≠ 0) : a.size = a.log2 + 1 :=
  le_antisymm (Nat.size_le.mpr Nat.lt_log2_self) (Nat.lt_size.mpr (Nat.log2_self_le ha))

theorem clzLane_eq_sub_size (w a : Nat) : clzLane w a = w - a.size := by
  rw [clzLane]
  split
  case isTrue h => simp [h]
  case isFalse h => rw [size_eq_log2_succ h, Nat.sub_sub, Nat.add_comm]

theorem popcLane_eq_countP (w a : Nat) : popcLane w a = (List.range w).countP fun j => a.testBit j :=
  List.countP_eq_length_filter.symm

/-! ## The obligation -/

section
variable {i : Instr} {f : Fields} {s : State} {c : Ctx} (hi : Issues f s c (dests f).length) (hp : c.Plain)
include hi hp

/-- An instruction that computes a number lane by lane, each of which fits its lane (R81). -/
theorem computes_lanes (g : Opnds → Nat → Nat) (he : exec i s = fireData f s fun x => laneResult f x (g x)) {x : Opnds}
    (hx : operands c.e f c.set none = x) (hlt : ∀ k, g x k < 2 ^ etWidth f.et) : Computes i f s c (dataLane f x (g x)) :=
  computes_data hi hp _ he x hx _ fun k hk => laneU_laneResult' f x (g x) k hk (hlt k)

/-- An instruction that acts on the payload bits (R90). -/
theorem computes_bits (g : Opnds → Payload) (he : exec i s = fireData f s fun x => bitResult f x (g x)) {x : Opnds}
    (hx : operands c.e f c.set none = x) : Computes i f s c (dataLane f x fun k => laneU (etWidth f.et) (g x) k) :=
  computes_lanes hi hp (fun x k => laneU (etWidth f.et) (g x) k) he hx fun _ => laneU_lt _ _ _
end

theorem exec_shl (f : Fields) (s : State) :
    exec (.shl f) s = fireData f s fun x => laneResult f x fun k => fitted f (ia f x k * 2 ^ ub f x k) := by
  simp only [← shlLane_eq_fitted]
  rfl

theorem exec_shr (f : Fields) (s : State) : exec (.shr f) s = fireData f s fun x => laneResult f x fun k =>
    if ub f x k < etWidth f.et then ua f x k / 2 ^ ub f x k else 0 := by
  simp only [← shrLane_eq]
  rfl

theorem exec_sar (f : Fields) (s : State) : exec (.sar f) s = fireData f s fun x => laneResult f x fun k =>
    ((BitVec.ofNat (etWidth f.et) (ua f x k)).sshiftRight (ub f x k)).toNat := by
  have h (x : Opnds) (k : Nat) := sarLane_eq_sshiftRight (etWidth_pos f.et) (laneU_lt (etWidth f.et) x.a k) (ub f x k)
  simp only [ua, ← h]
  rfl

theorem exec_rotl (f : Fields) (s : State) : exec (.rotl f) s = fireData f s fun x => laneResult f x fun k =>
    ((BitVec.ofNat (etWidth f.et) (ua f x k)).rotateLeft (ub f x k)).toNat := by
  have h (x : Opnds) (k : Nat) := rotlLane_eq_rotateLeft (etWidth_pos f.et) (laneU_lt (etWidth f.et) x.a k) (ub f x k)
  simp only [ua, ← h]
  rfl

theorem exec_clz (f : Fields) (s : State) :
    exec (.clz f) s = fireData f s fun x => laneResult f x fun k => etWidth f.et - (ua f x k).size := by
  simp only [← clzLane_eq_sub_size]
  rfl

theorem exec_popc (f : Fields) (s : State) : exec (.popc f) s = fireData f s fun x => laneResult f x fun k =>
    (List.range (etWidth f.et)).countP fun j => (ua f x k).testBit j := by
  simp only [← popcLane_eq_countP]
  rfl

/-- Settles O9: the logical instructions take their lanes from the combined payload, the shifts are those of the lane's word or the
fitted product, the counts are at most the width. -/
theorem bitwiseAndShiftLanes : Obligations.BitwiseAndShiftLanes := by
  unfold Obligations.BitwiseAndShiftLanes
  intro f s c hi hp x w bits word
  have hcount {n : Nat} (h : n ≤ w) : n < 2 ^ w := h.trans_lt Nat.lt_two_pow_self
  refine ⟨computes_bits hi hp (fun x => x.a &&& x.b) rfl rfl, computes_bits hi hp (fun x => x.a ||| x.b) rfl rfl,
    computes_bits hi hp (fun x => x.a ^^^ x.b) rfl rfl, computes_bits hi hp (fun x => x.a &&& ~~~x.b) rfl rfl,
    computes_bits hi hp (fun x => ~~~x.a) rfl rfl, ?shl, ?shr, ?sar, ?rotl, ?clz, ?popc⟩
  case shl => exact computes_lanes hi hp _ (exec_shl f s) rfl fun _ => fitted_lt _ _
  case shr =>
    refine computes_lanes hi hp _ (exec_shr f s) rfl fun k => ?_
    split
    · exact (Nat.div_le_self _ _).trans_lt (laneU_lt _ _ _)
    · exact Nat.two_pow_pos _
  case sar => exact computes_lanes hi hp _ (exec_sar f s) rfl fun _ => BitVec.isLt _
  case rotl => exact computes_lanes hi hp _ (exec_rotl f s) rfl fun _ => BitVec.isLt _
  case clz => exact computes_lanes hi hp _ (exec_clz f s) rfl fun _ => hcount (Nat.sub_le _ _)
  case popc =>
    exact computes_lanes hi hp _ (exec_popc f s) rfl fun _ => hcount (List.countP_le_length.trans_eq List.length_range)

end Sys2Proof.Machine
end

section
/-! SUPPORT. Lane moves, PACK and UNPK (R94 to R96), and the results across lanes (R97). -/

namespace Sys2Proof.Machine

/-! ## Lane moves (R94, R96) -/

/-- SEL has no lane that its predicate leaves out: the predicate is its whole effect (R81). -/
theorem laneU_selected (f : Fields) (x : Opnds) {k : Nat} (hk : k < etLanes f.et) :
    laneU (etWidth f.et) (laneResult f { x with pOn := false } fun k =>
        if predLane (etWidth f.et) f.pinv x.p k then ua f x k else ub f x k) k =
      if predLane (etWidth f.et) f.pinv x.p k then laneU (etWidth f.et) x.a k else laneU (etWidth f.et) x.b k := by
  rw [laneU_laneResult_on f _ _ hk rfl]
  · rfl
  · split <;> exact laneU_lt _ _ _

/-! ## Lists of lanes -/

/-- The exact sum of the lanes, whose order does not matter. -/
theorem sumInt_eq_sum (ls : List Int) : sumInt ls = ls.sum := by
  induction ls with
  | nil => rfl
  | cons v vs ih => rw [sumInt, ih, List.sum_cons]

theorem sumInt_intLanes (f : Fields) (x : Opnds) : sumInt (intLanes f x) = ∑ k ∈ Finset.range (etLanes f.et), ia f x k :=
  sumInt_eq_sum _

theorem maxInt_eq_foldl (v : Int) (ls : List Int) : maxInt v ls = ls.foldl max v := by
  induction ls generalizing v with
  | nil => rfl
  | cons u us ih => rw [maxInt, ih, List.foldl_cons, max_def_lt]

theorem minInt_eq_foldl (v : Int) (ls : List Int) : minInt v ls = ls.foldl min v := by
  induction ls generalizing v with
  | nil => rfl
  | cons u us ih => rw [minInt, ih, List.foldl_cons, min_comm, min_def_lt]

/-- The largest of a start value and a list is one of them, and none is larger. -/
theorem maxInt_spec (v : Int) (ls : List Int) : maxInt v ls ∈ v :: ls ∧ ∀ u ∈ v :: ls, u ≤ maxInt v ls := by
  rw [← List.max?_eq_some_iff, List.max?_cons', maxInt_eq_foldl]

/-- The smallest of a start value and a list is one of them, and none is smaller. -/
theorem minInt_spec (v : Int) (ls : List Int) : minInt v ls ∈ v :: ls ∧ ∀ u ∈ v :: ls, minInt v ls ≤ u := by
  rw [← List.min?_eq_some_iff, List.min?_cons', minInt_eq_foldl]

/-- The lowest position is the first at which the list holds the value. -/
theorem firstIdx_eq_findIdx (v : Int) (ls : List Int) : firstIdx v ls = ls.findIdx (· == v) := by
  induction ls with
  | nil => rfl
  | cons u us ih => simp [firstIdx, ih, List.findIdx_cons, cond_eq_ite]

/-! ## Across the lanes (R97) -/

section
variable (f : Fields) (x : Opnds)

/-- The values from which the largest and the smallest are taken are those of the lanes. -/
theorem mem_lanes_iff (u : Int) : u ∈ ia f x 0 :: intLanes f x ↔ ∃ k < etLanes f.et, ia f x k = u := by
  have h0 := etLanes_pos f.et
  simp only [intLanes, List.mem_cons, List.mem_map, List.mem_range]
  exact ⟨fun h => h.elim (fun h => ⟨0, h0, h.symm⟩) id, Or.inr⟩

variable {f x} in
/-- A value among those of the lanes that stands in one relation to all of them is held by a lane. -/
theorem exists_extreme_lane {r : Int → Int → Prop} {v : Int}
    (h : v ∈ ia f x 0 :: intLanes f x ∧ ∀ u ∈ ia f x 0 :: intLanes f x, r u v) :
    ∃ k < etLanes f.et, ia f x k = v ∧ ∀ j < etLanes f.et, r (ia f x j) (ia f x k) := by
  obtain ⟨k, hk, rfl⟩ := (mem_lanes_iff f x v).mp h.1
  exact ⟨k, hk, rfl, fun j hj => h.2 _ ((mem_lanes_iff f x _).mpr ⟨j, hj, rfl⟩)⟩

/-- A lane holds the largest value. -/
theorem exists_largest_lane :
    ∃ k < etLanes f.et, ia f x k = maxInt (ia f x 0) (intLanes f x) ∧ ∀ j < etLanes f.et, ia f x j ≤ ia f x k :=
  exists_extreme_lane (maxInt_spec _ _)

/-- A lane holds the smallest value. -/
theorem exists_smallest_lane :
    ∃ k < etLanes f.et, ia f x k = minInt (ia f x 0) (intLanes f x) ∧ ∀ j < etLanes f.et, ia f x k ≤ ia f x j :=
  exists_extreme_lane (r := fun u v => v ≤ u) (minInt_spec _ _)

/-- The value that INDEX looks for: the smallest under MOD[0], else the largest. -/
def indexValue : Int := if bitAt f.mod 0 then minInt (ia f x 0) (intLanes f x) else maxInt (ia f x 0) (intLanes f x)

/-- A lane holds the value that INDEX looks for, and no lane exceeds it in INDEX's order. -/
theorem exists_lane_of_indexValue : ∃ k < etLanes f.et, ia f x k = indexValue f x ∧
    ∀ j < etLanes f.et, if bitAt f.mod 0 then ia f x k ≤ ia f x j else ia f x j ≤ ia f x k := by
  unfold indexValue
  split
  · exact exists_smallest_lane f x
  · exact exists_largest_lane f x

/-- The first lane of a value that some lane holds. -/
theorem firstIdx_intLanes {v : Int} (h : ∃ k < etLanes f.et, ia f x k = v) :
    firstIdx v (intLanes f x) < etLanes f.et ∧ ia f x (firstIdx v (intLanes f x)) = v ∧
      ∀ j < firstIdx v (intLanes f x), ia f x j ≠ v := by
  have hlen : (intLanes f x).length = etLanes f.et := by simp [intLanes]
  have hlt : (intLanes f x).findIdx (· == v) < (intLanes f x).length := by
    obtain ⟨k, hk, rfl⟩ := h
    exact List.findIdx_lt_length.mpr ⟨ia f x k, List.mem_map_of_mem (List.mem_range.mpr hk), beq_self_eq_true _⟩
  have hhere := List.findIdx_getElem (w := hlt)
  have hbefore {j : Nat} (hj : j < (intLanes f x).findIdx (· == v)) := List.not_of_lt_findIdx hj
  rw [firstIdx_eq_findIdx]
  refine ⟨hlt.trans_eq hlen, ?_, fun j hj => ?_⟩
  · simpa [intLanes] using hhere
  · simpa [intLanes] using hbefore hj
end

/-- A lane number is a number of every type that has lanes of 8 bits or more. -/
theorem laneNumber_mem_range {t : ET} (hw : 8 ≤ etWidth t) {k : Nat} (hk : k < etLanes t) : etMin t ≤ k ∧ (k : Int) ≤ etMax t := by
  have hmax : (etLanes t : Int) ≤ etMax t := by
    cases t
    case i4 | n4 | lut4 => exact absurd hw (by decide)
    all_goals decide
  exact ⟨(etBounds t).1.trans (Int.natCast_nonneg k), by omega⟩

theorem lane0Int_eq (f : Fields) (v : Int) : lane0Int f v = BitVec.ofNat 256 (fitted f v) := by
  rw [lane0Int, fitInt_eq_fitted, lane0]

/-- A lane number is fitted as it is. -/
theorem fitted_laneNumber (f : Fields) (hw : 8 ≤ etWidth f.et) {k : Nat} (hk : k < etLanes f.et) : fitted f k = k := by
  obtain ⟨-, -, -, hbound⟩ := etBounds f.et
  have hrange := laneNumber_mem_range hw hk
  rw [fitted_of_mem_range f hrange, wrapTo, Int.emod_eq_of_lt (Int.natCast_nonneg k) (hrange.2.trans_lt hbound), Int.toNat_natCast]

/-! ## The obligation -/

section
variable {i : Instr} {f : Fields} {s : State} {c : Ctx} (hi : Issues f s c (dests f).length) (hp : c.Plain)
include hi hp

/-- An instruction that fits one exact integer and puts it in lane 0 (R97). -/
theorem reduces_int (g : Opnds → Int) (he : exec i s = fireData f s fun x => lane0Int f (g x)) {n : Nat}
    (hn : fitted f (g (operands c.e f c.set none)) = n) : Reduces i f s c n := by
  subst hn
  exact ⟨by rw [he, fireData_plain hi hp, lane0Int_eq], fitted_lt _ _⟩
end

theorem exec_sel (f : Fields) (s : State) : exec (.sel f) s = fireData f s fun x => laneResult f { x with pOn := false } fun k =>
    if predLane (etWidth f.et) f.pinv x.p k then ua f x k else ub f x k := rfl

theorem exec_index (f : Fields) (s : State) :
    exec (.index f) s = fireData f s fun x => lane0Int f (firstIdx (indexValue f x) (intLanes f x)) := rfl

/-- Settles O11: the moves lane by lane; across the lanes, the sum of the list of lanes, its largest and smallest value, which some
lane holds, and the first lane that holds the value. -/
theorem laneMovesAndAcrossLaneResults : Obligations.LaneMovesAndAcrossLaneResults := by
  unfold Obligations.LaneMovesAndAcrossLaneResults
  constructor
  · intro f s c hi hp x w n src
    refine ⟨computes_data hi hp _ (exec_sel f s) x rfl _ fun _ => laneU_selected f x, ?bcast, ?lane, ?shuf, ?pack, ?unpk⟩
    case bcast => exact computes_lanes hi hp (fun x _ => ua f x (ub f x 0 % n)) rfl rfl fun _ => laneU_lt _ _ _
    case lane =>
      refine computes_lanes hi hp (fun x k => if k = (bitsAt f.xmod 0 6).toNat then ub f x 0 else ua f x k) rfl rfl fun k => ?_
      split <;> exact laneU_lt _ _ _
    case shuf => exact computes_lanes hi hp (fun x k => ua f x (ub f x k % n)) rfl rfl fun _ => laneU_lt _ _ _
    case pack => exact computes_int hi hp (fun x k => if k < n / 2 then laneInt src x.a k else laneInt src x.b (k - n / 2)) rfl x rfl
    case unpk =>
      exact computes_lanes hi hp (fun x k => wrapTo w (laneInt src x.a ((bitsAt f.xmod 0 1).toNat * n + k))) rfl rfl
        fun _ => wrapTo_lt _ _
  · intro f s c hi hp x v n
    refine ⟨?sumr, ?maxr, ?minr, fun hw => ?index⟩
    case sumr => exact reduces_int hi hp (fun x => sumInt (intLanes f x)) rfl (congrArg (fitted f) (sumInt_intLanes f x))
    case maxr =>
      obtain ⟨k, hk, hmax, hle⟩ := exists_largest_lane f x
      exact ⟨k, hk, hle, reduces_int hi hp (fun x => maxInt (ia f x 0) (intLanes f x)) rfl (hmax ▸ fitted_ia f x k)⟩
    case minr =>
      obtain ⟨k, hk, hmin, hle⟩ := exists_smallest_lane f x
      exact ⟨k, hk, hle, reduces_int hi hp (fun x => minInt (ia f x 0) (intLanes f x)) rfl (hmin ▸ fitted_ia f x k)⟩
    case index =>
      obtain ⟨m, hm, hvalue, hbest⟩ := exists_lane_of_indexValue f x
      obtain ⟨hk, hholds, hfirst⟩ := firstIdx_intLanes f x ⟨m, hm, hvalue⟩
      rw [hvalue, ← hholds] at hbest
      exact ⟨_, hk, hbest, fun j hj h => hfirst j hj (h.trans hholds),
        reduces_int hi hp _ (exec_index f s) (fitted_laneNumber f hw hk)⟩

end Sys2Proof.Machine
end

section
/-! SUPPORT. The approximate functions at the operands whose results R103 gives exactly. -/

namespace Sys2Proof.Machine

/-- A value that is a number below zero has a numerator below zero. -/
theorem exists_num_of_is_neg {v : XVal} {p : ℚ} (h : v.is p) (hp : p < 0) : ∃ n d, v = .num n d ∧ n < 0 := by
  have hlt : v.lt (.zero false) = true := (lt_is h (show (XVal.zero false).is 0 from rfl)).mpr hp
  cases v with
  | nan => exact h.elim
  | inf b => exact h.elim
  | zero b => exact absurd h hp.ne
  | num n d => exact ⟨n, d, rfl, of_decide_eq_true hlt⟩

theorem rsq_of_neg (n : Int) (d : Nat) (h : n < 0) : (XVal.num n d).rsq = .nan := if_pos h

theorem log2_of_neg (n : Int) (d : Nat) (h : n < 0) : (XVal.num n d).log2 = .nan := if_pos h

/-- What R103 gives exactly: the canonical NaN for a NaN operand, a result for each zero and each infinity, and, where the function has
one, the result for the numbers below zero. -/
def ExactAtSpecials (f : Fields) (x : Opnds) (zero inf : Bool → Nat) (below : Option Nat) (k r : Nat) : Prop :=
  (floatLane f x.a k = .nan → r = nanCode f) ∧ (∀ b, floatLane f x.a k = .zero b → r = zero b) ∧
    (∀ b, floatLane f x.a k = .inf b → r = inf b) ∧ ∀ v, below = some v → ∀ p < 0, (floatLane f x.a k).is p → r = v

/-! ## Codes of the exact results (R37, R38) -/

section
variable {f : Fields} (ht : f.et = .bf16 ∨ f.et = .f32)
include ht

/-- A zero keeps its sign. -/
theorem froundX_zero (b : Bool) : froundX f.et 0 f.sat false 0 (.zero b) = zeroOf f b := by
  rcases ht with h | h <;> simp [froundX, signed, zeroOf, h, fmtOf, etWidth]

/-- An infinite result that is no overflow stays infinite under SAT too (R42). -/
theorem froundX_inf (b : Bool) : froundX f.et 0 f.sat false 0 (.inf b) = infOf f b := by
  rcases ht with h | h <;> cases b <;> simp [froundX, infCode, signed, infOf, h, fmtOf, etWidth]

/-- 1 and −1 are representable on both types. -/
theorem froundX_one (b : Bool) : froundX f.et 0 f.sat false 0 (.num (if b then -1 else 1) 1) = oneOf f b := by
  have hcode (t : ET) (ht : t = .bf16 ∨ t = .f32) (sat : Bool) : froundX t 0 sat false 0 (.num (if b then -1 else 1) 1) =
      (if b then 2 ^ (etWidth t - 1) else 0) + (fmtOf t).bias * 2 ^ (fmtOf t).m := by
    rcases ht with rfl | rfl <;> cases b <;> cases sat <;> decide
  exact hcode f.et ht f.sat

/-! ## One function at its special operands -/

/-- A function that keeps NaN, whose values at zeros and infinities have the codes named, and which has no value below zero where a
result is named for it, gives the results of R103. -/
theorem exactAtSpecials_approx (fn : Nat) (g : XVal → XVal) {zero inf : Bool → Nat} {below : Option Nat} (hnan : g .nan = .nan)
    (hzero : ∀ b, froundX f.et 0 f.sat false 0 (g (.zero b)) = zero b) (hinf : ∀ b, froundX f.et 0 f.sat false 0 (g (.inf b)) = inf b)
    (hbelow : ∀ v ∈ below, v = nanCode f ∧ ∀ n d, n < 0 → g (.num n d) = .nan) (x : Opnds) (k : Nat) :
    ExactAtSpecials f x zero inf below k (approx fn f.et f.sat g (ua f x k)) := by
  have special {v : XVal} (h : floatLane f x.a k = v) (hv : (∀ n d, v ≠ .num n d) ∨ ∀ n d, g v ≠ .num n d) :
      approx fn f.et f.sat g (ua f x k) = froundX f.et 0 f.sat false 0 (g v) := by
    subst h
    exact approx_special fn f.et ht f.sat g _ hv
  refine ⟨fun h => ?nan, fun b h => ?zero, fun b h => ?inf, fun v hv p hp h => ?below⟩
  case nan =>
    rw [special h (.inl fun _ _ => nofun), hnan]
    rfl
  case zero => rw [special h (.inl fun _ _ => nofun), hzero]
  case inf => rw [special h (.inl fun _ _ => nofun), hinf]
  case below =>
    obtain ⟨n, d, hnum, hneg⟩ := exists_num_of_is_neg h hp
    obtain ⟨rfl, hroot⟩ := hbelow v hv
    rw [special hnum (.inr fun _ _ => hroot n d hneg ▸ nofun), hroot n d hneg]
    rfl
end

/-- An instruction that approximates such a function lane by lane. -/
theorem floatLanes_exactAtSpecials {i : Instr} {f : Fields} {s : State} {c : Ctx} (hi : Issues f s c (dests f).length) (hp : c.Plain)
    (ht : f.et = .bf16 ∨ f.et = .f32) (fn : Nat) (g : XVal → XVal)
    (he : exec i s = fireData f s fun x => laneResult f x fun k => approx fn f.et f.sat g (ua f x k)) (hnan : g .nan = .nan)
    (zero inf : Bool → Nat) (below : Option Nat) (hzero : ∀ b, froundX f.et 0 f.sat false 0 (g (.zero b)) = zero b)
    (hinf : ∀ b, froundX f.et 0 f.sat false 0 (g (.inf b)) = inf b)
    (hbelow : ∀ v ∈ below, v = nanCode f ∧ ∀ n d, n < 0 → g (.num n d) = .nan) :
    let x := operands c.e f c.set none
    FloatLanes i f s c x (ExactAtSpecials f x zero inf below) :=
  floatLanes_of hi hp (fun x k => approx fn f.et f.sat g (ua f x k)) he _ rfl (fun _ => approx_lt fn f.et ht _ _ _) _
    (exactAtSpecials_approx ht fn g hnan hzero hinf hbelow _)

/-! ## The obligation -/

/-- Settles O14: each function's value at NaN, the zeros, the infinities and the numbers below zero is a special value or 1, whose code does
not depend on the type's rounding. -/
theorem approximateFunctionsAtSpecialOperands : Obligations.ApproximateFunctionsAtSpecialOperands := by
  unfold Obligations.ApproximateFunctionsAtSpecialOperands
  intro f s c hi hp ht x at' nan
  have hzero := froundX_zero ht
  have hinf := froundX_inf ht
  have hone := froundX_one ht
  have negative {g : XVal → XVal} (hg : ∀ n d, n < 0 → g (.num n d) = .nan) :
      ∀ v ∈ some nan, v = nan ∧ ∀ n d, n < 0 → g (.num n d) = .nan :=
    fun v hv => ⟨(Option.some.inj hv).symm, hg⟩
  refine ⟨floatLanes_exactAtSpecials hi hp ht 0 .rcp rfl rfl (infOf f) (zeroOf f) none hinf hzero nofun,
    floatLanes_exactAtSpecials hi hp ht 1 .rsq rfl rfl (infOf f) (fun b => if b then nan else zeroOf f false) (some nan) hinf ?frsq
      (negative rsq_of_neg),
    floatLanes_exactAtSpecials hi hp ht 2 .exp2 rfl rfl (fun _ => oneOf f false) (fun b => if b then zeroOf f false else infOf f false) none
      (fun _ => hone false) ?fexp2 nofun,
    floatLanes_exactAtSpecials hi hp ht 3 .log2 rfl rfl (fun _ => infOf f true) (fun b => if b then nan else infOf f false) (some nan)
      (fun _ => hinf true) ?flog2 (negative log2_of_neg),
    floatLanes_exactAtSpecials hi hp ht 4 .tanh rfl rfl (zeroOf f) (oneOf f) none hzero hone nofun⟩
  case frsq => exact Bool.rec (hzero false) rfl
  case fexp2 => exact Bool.rec (hinf false) (hzero false)
  case flog2 => exact Bool.rec (hinf false) rfl

end Sys2Proof.Machine
end

section
/-! SUPPORT. Predicate results: what decides each lane of the compares, BITTST and the predicate instructions (R83, R93, R98, R136). -/

namespace Sys2Proof.Machine

/-- Two lanes of a type are the same integer exactly where their bits are the same (R33). -/
theorem laneInt_inj (t : ET) (p q : Payload) (j k : Nat) :
    laneInt t p j = laneInt t q k ↔ laneU (etWidth t) p j = laneU (etWidth t) q k := by
  constructor <;> intro h
  · rw [← wrapTo_laneInt, h, wrapTo_laneInt]
  · simp only [laneInt, h]

/-- The low w − 1 bits of a w-bit number are 0 for 0 and for its sign bit alone. -/
theorem mod_half_eq_zero_iff {w v : Nat} (hw : 0 < w) (hv : v < 2 ^ w) : v % 2 ^ (w - 1) = 0 ↔ v = 0 ∨ v = 2 ^ (w - 1) := by
  have hhalf := Nat.two_pow_pred_mul_two hw
  constructor
  · intro h
    obtain ⟨q, rfl⟩ := Nat.dvd_of_mod_eq_zero h
    have hq : q < 2 := Nat.lt_of_mul_lt_mul_left (hv.trans_eq hhalf.symm)
    interval_cases q
    · exact .inl (Nat.mul_zero _)
    · exact .inr (Nat.mul_one _)
  · rintro (rfl | rfl)
    · exact Nat.zero_mod _
    · exact Nat.mod_self _

/-- PSET's condition on a lane: any bit set, other than a sign bit alone where the type is floating (R136). -/
theorem psetLane_iff (f : Fields) (x : Opnds) (k : Nat) : psetLane f.et (ua f x k) = true ↔
    if etIsFloat f.et then ua f x k ≠ 0 ∧ ua f x k ≠ 2 ^ (etWidth f.et - 1) else ua f x k ≠ 0 := by
  unfold psetLane
  split
  · have hlt : ua f x k < 2 ^ etWidth f.et := laneU_lt _ _ _
    rw [bne_iff_ne, ne_eq, mod_half_eq_zero_iff (etWidth_pos _) hlt, not_or]
  · exact bne_iff_ne

/-- An instruction that sends a predicate, lane by lane (R81, R83). -/
theorem computes_flags {i : Instr} {f : Fields} {s : State} {c : Ctx} (hi : Issues f s c (dests f).length) (hp : c.Plain)
    (g : Opnds → Nat → Bool) (he : exec i s = fireData f s fun x => predResult f x (g x)) {x : Opnds}
    (hx : operands c.e f c.set none = x) {h : Nat → Prop} [∀ k, Decidable (h k)] (hg : ∀ k, g x k = true ↔ h k) :
    Computes i f s c (flagLane f x h) :=
  computes_data hi hp _ he x hx _ fun k hk => laneU_predResult' f x (g x) h k hk (hg k)

/-- Settles O10: each instruction decides its lanes by a test of the operands' lanes, which is the condition of its table. -/
theorem predicateLanes : Obligations.PredicateLanes := by
  unfold Obligations.PredicateLanes
  intro f s c hi hp x w u
  have hbits (k : Nat) : ua f x k = ub f x k ↔ ia f x k = ib f x k := (laneInt_inj _ _ _ _ _).symm
  refine ⟨?cmpeq, ?cmpne, ?cmplt, ?cmple, ?bittst, ?pset, ?pnot, ?pand, ?por⟩
  case cmpeq => exact computes_flags hi hp (fun x k => ua f x k == ub f x k) rfl rfl fun k => by rw [beq_iff_eq, hbits]
  case cmpne => exact computes_flags hi hp (fun x k => ua f x k != ub f x k) rfl rfl fun k => by rw [bne_iff_ne, ne_eq, hbits]
  case cmplt =>
    exact computes_flags hi hp (fun x k => if bitAt f.mod 0 then decide (ua f x k < ub f x k) else decide (ia f x k < ib f x k))
      rfl rfl fun k => by split <;> exact decide_eq_true_iff
  case cmple =>
    exact computes_flags hi hp (fun x k => if bitAt f.mod 0 then decide (ua f x k ≤ ub f x k) else decide (ia f x k ≤ ib f x k))
      rfl rfl fun k => by split <;> exact decide_eq_true_iff
  case bittst => exact computes_flags hi hp (fun x k => (ua f x k).testBit (ub f x k % w)) rfl rfl fun _ => Iff.rfl
  case pset => exact computes_flags hi hp (fun x k => psetLane f.et (ua f x k)) rfl rfl (psetLane_iff f x)
  case pnot => exact computes_flags hi hp (fun x k => ua f x k % 2 == 0) rfl rfl fun _ => beq_iff_eq
  case pand =>
    exact computes_flags hi hp (fun x k => ua f x k % 2 == 1 && predLane w f.pinv x.b k) rfl rfl fun k => by
      rw [Bool.and_eq_true, beq_iff_eq]
  case por =>
    exact computes_flags hi hp (fun x k => ua f x k % 2 == 1 || predLane w f.pinv x.b k) rfl rfl fun k => by
      rw [Bool.or_eq_true, beq_iff_eq]

end Sys2Proof.Machine
end

section
/-! SUPPORT. The flow and tag instructions that only send: what passes unchanged, what a choice sends, and which part of the tag is
read or replaced (R115 to R125, R256). -/

namespace Sys2Proof.Machine

section
variable {f : Fields} {s : State} {c : Ctx} {n : Nat} (hi : Issues f s c n)
include hi

/-- The operands that an issuing instruction reads are those of its fields. -/
theorem Issues.opnds_eq : c.opnds = operands c.e f c.set none := by rw [Ctx.opnds, hi.f_eq]

theorem Issues.length_toAll (v : Payload) : (c.toAll v).length = (dests f).length := by rw [toAll_length, hi.f_eq]

/-- A payload sent to all destinations, with its tag written out (R18, R25). -/
theorem Issues.toAll_eq (v : Payload) :
    c.toAll v = (dests f).map fun d => ⟨d, tagOp c.g.tagw f c.tag, true, 0, c.set.leftLast, 0, v⟩ := by
  simp only [Ctx.toAll, Ctx.data, hi.f_eq, (ctx?_tag hi.here).2]
end

theorem length_toDst_le (d : Dst) (m : Emit) : (toDst d m).length ≤ 1 := by
  unfold toDst
  split
  · exact le_rfl
  · exact Nat.zero_le _

theorem length_toDst_both (f : Fields) (m m' : Emit) : (toDst f.dst0 m ++ toDst f.dst1 m').length = (dests f).length := by
  cases h0 : f.dst0.v <;> cases h1 : f.dst1.v <;> simp [toDst, dests, h0, h1]

theorem length_toDst_dst0_le (f : Fields) (m : Emit) : (toDst f.dst0 m).length ≤ (dests f).length := dst0_le f m
theorem length_toDst_dst1_le (f : Fields) (m : Emit) : (toDst f.dst1 m).length ≤ (dests f).length := dst1_le f m

/-! ## NOP and the passing instructions (R115, R116, R121, R124, R125, R256) -/

/-- Settles O17: the passing instructions fire with their operand as the payload, TAGGET with a part of the matched tag. -/
theorem flowPassesItsOperand : Obligations.FlowPassesItsOperand := by
  unfold Obligations.FlowPassesItsOperand
  intro f s c hi hp a t passed part
  have hpass : fireData f s (fun x => x.a) = .next (c.issued c.e passed) := by rw [fireData_plain hi hp, hi.toAll_eq]
  have hpart : tagPart c.g.tagw f t = part := by
    unfold part
    rw [← toNat_bitsAt_low t 55, ← tagCol_div, ← tagCtx_div]
    rfl
  have htagget : c.all (lane0 (tagPart c.g.tagw f t)) = ⟨c.s, c.e, c.toAll (BitVec.ofNat 256 part), [], false⟩ := by rw [hpart]; rfl
  exact ⟨fire_sends hi hp _ c.e [] rfl rfl (Nat.zero_le _), hpass, hpass, hpass, hpass, hpass, hpass, hpass,
    fire_sends hi hp _ c.e _ htagget rfl (hi.length_toAll _).le⟩

/-! ## Choices (R117 to R120) -/

section
variable {f : Fields} {s : State} {c : Ctx} (hi : Issues f s c (dests f).length)
include hi

/-- STEER sends a to the destination that lane 0 of the predicate chooses (R117). -/
theorem exec_steer_to (hp : c.Plain) {d : Dst} (h : (if decide0 f (operands c.e f c.set none).b then f.dst0 else f.dst1) = d) :
    exec (.steer f) s = .next (c.issued c.e (toDst d (c.data d (operands c.e f c.set none).a))) := by
  refine fire_sends hi hp _ c.e _ ?_ rfl ?_
  · simp only [hi.opnds_eq, h]
    rfl
  · subst h
    split
    · exact length_toDst_dst0_le f _
    · exact length_toDst_dst1_le f _

/-- GATE sends what lane 0 of the predicate chooses: a, or a bubble (R118). -/
theorem exec_gate_sends (hp : c.Plain) {g : Dst → Emit} (h : (if decide0 f (operands c.e f c.set none).b
    then fun d => c.data d (operands c.e f c.set none).a else c.bubble) = g) :
    exec (.gate f) s = .next (c.issued c.e ((dests f).map g)) := by
  refine fire_sends hi hp _ c.e _ ?_ rfl (List.length_map _).le
  subst h
  simp only [hi.opnds_eq]
  split
  · rw [all_eff, Ctx.toAll, hi.f_eq]
  · rfl

/-- PICK sends the token that lane 0 of the predicate chooses, with its LAST (R120). -/
theorem exec_pick_sends (hp : c.Plain) {a b u : Token} (ha : c.set.l = some a) (hb : c.set.r = some b)
    (h : (if decide0 f (operands c.e f c.set none).p then a else b) = u) :
    exec (.pick f) s = .next (c.issued c.e ((dests f).map fun d => { c.data d u.pay with last := u.last })) := by
  refine fire_sends hi hp _ c.e _ ?_ rfl (List.length_map _).le
  subst h
  simp only [hi.opnds_eq, ha, hb]
  cases decide0 f (operands c.e f c.set none).p <;> rfl

/-- What MERGE sends to a destination for two tokens with these PRED bits: the true one, a bubble for two bubbles, a record for two
true ones (R119). -/
def Ctx.merged (c : Ctx) (a b : Token) : Bool → Bool → Dst → Emit
  | true, true => c.recordTo (mkCause 2 0xC) 0 0 0 c.tagOut
  | true, false => fun d => { c.data d a.pay with last := a.last }
  | false, true => fun d => { c.data d b.pay with last := b.last }
  | false, false => fun d => { c.bubble d with last := a.last || b.last }

/-- MERGE on two tokens that are neither error records nor control tokens (R119). -/
theorem exec_merge_tokens (hr : c.set.raise = none) (htoks : ∀ t ∈ c.set.toks, t.kind ≠ 2 ∧ t.kind ≠ 3) {a b : Token}
    (ha : c.set.l = some a) (hb : c.set.r = some b) {p q : Bool} (hp : a.pred = p) (hq : b.pred = q) :
    exec (.merge f) s = .next (c.issued c.e ((dests f).map (c.merged a b p q))) := by
  have hrecord : c.set.record? = none := ReadySet.record?_eq_none fun t ht => (htoks t ht).2
  have hcontrol : c.set.control = false := ReadySet.control_eq_false fun t ht => (htoks t ht).1
  refine fireRaw_sends hi hr _ c.e _ ?_ rfl (List.length_map _).le
  rw [mergeEffect]
  simp only [hrecord, hcontrol, ha, hb, hp, hq, Ctx.raise, hi.f_eq]
  cases p <;> cases q <;> rfl
end

/-! ## TAGSET (R123) -/

/-- A number needs more than w bits exactly where it is 2^w or more. -/
theorem le_log2_and_ne_zero_iff (w v : Nat) : (w ≤ Nat.log2 v ∧ v ≠ 0) ↔ 2 ^ w ≤ v := by
  constructor
  · rintro ⟨hlog, hv⟩
    exact (Nat.le_log2 hv).mp hlog
  · intro h
    have hv : v ≠ 0 := ((Nat.two_pow_pos w).trans_le h).ne'
    exact ⟨(Nat.le_log2 hv).mpr h, hv⟩

/-- The width of the part of the tag that TAGSET replaces. -/
def tagsetWidth (tagw : List Nat) (f : Fields) : Nat := if bitAt f.xmod 4 then 55 else fieldW tagw (bitsAt f.xmod 0 4).toNat

/-- The tag with that part replaced. -/
def tagsetTag (tagw : List Nat) (f : Fields) (v : Nat) (t : Word64) : Word64 :=
  if bitAt f.xmod 4 then setBits t 0 (BitVec.ofNat 55 v) else setField tagw (bitsAt f.xmod 0 4).toNat v t

/-- What TAGSET does with a value: the token with the part replaced where the value fits, 0x2.01 where it does not. -/
theorem exec_tagset (f : Fields) (s : State) : exec (.tagset f) s = fire f s fun c =>
    let v := laneU (etWidth f.et) c.opnds.b 0
    if 2 ^ tagsetWidth c.g.tagw f ≤ v then c.raise (mkCause 2 1)
    else c.sends ((dests f).map fun d => { c.data d c.opnds.a with tag := tagsetTag c.g.tagw f v c.tag }) := by
  simp only [← le_log2_and_ne_zero_iff]
  rfl

section
variable {f : Fields} {s : State} {c : Ctx} (hi : Issues f s c (dests f).length) (hp : c.Plain)
include hi hp

theorem exec_tagset_fits (h : laneU (etWidth f.et) (operands c.e f c.set none).b 0 < 2 ^ tagsetWidth c.g.tagw f) :
    exec (.tagset f) s =
      let x := operands c.e f c.set none
      let t := tagsetTag c.g.tagw f (laneU (etWidth f.et) x.b 0) c.tag
      .next (c.issued c.e ((dests f).map fun d => ⟨d, t, true, 0, c.set.leftLast, 0, x.a⟩)) := by
  rw [exec_tagset]
  refine fire_sends hi hp _ c.e _ ?_ rfl (List.length_map _).le
  simp only [hi.opnds_eq]
  exact if_neg h.not_ge

theorem exec_tagset_exceeds (h : 2 ^ tagsetWidth c.g.tagw f ≤ laneU (etWidth f.et) (operands c.e f c.set none).b 0) :
    exec (.tagset f) s = .next (c.issued c.e ((dests f).map (c.recordTo (mkCause 2 1) 0 0 0 c.tagOut))) := by
  rw [exec_tagset]
  refine fire_sends hi hp _ c.e _ ?_ rfl (List.length_map _).le
  simp only [hi.opnds_eq]
  rw [if_pos h, Ctx.raise, hi.f_eq]
  rfl
end

/-- Settles O19: each choice is made for every destination at once, so that each clause is a case of what the instruction sends. -/
theorem flowChoices : Obligations.FlowChoices := by
  unfold Obligations.FlowChoices
  intro f s c hi hr htoks x true0 sent toks
  refine ⟨fun hp => ⟨?steer1, ?steer0, ?gate1, ?gate0⟩,
    fun a b ha hb => ⟨fun hp => ?pick, ?left, ?right, ?none, ?both⟩, fun hp => ?tagset⟩
  case steer1 => exact fun h => exec_steer_to hi hp (if_pos h)
  case steer0 => exact fun h => exec_steer_to hi hp (if_neg h)
  case gate1 => exact fun h => exec_gate_sends hi hp (if_pos h)
  case gate0 => exact fun h => exec_gate_sends hi hp (if_neg h)
  case pick =>
    split
    · next h => exact exec_pick_sends hi hp ha hb (if_pos h)
    · next h => exact exec_pick_sends hi hp ha hb (if_neg h)
  case left | right | none | both => exact exec_merge_tokens hi hr htoks ha hb
  case tagset => exact ⟨exec_tagset_fits hi hp, exec_tagset_exceeds hi hp⟩

end Sys2Proof.Machine
end

section
/-! SUPPORT. The instructions with a state register: what a write leaves in it, lane by lane and register by register (R115, R131,
R137, R138). -/

namespace Sys2Proof.Machine

/-! ## State registers (R11) -/

@[simp] theorem sreg_setSreg_same (e : Elem) (ctx n : Nat) (v : Payload) : (e.setSreg ctx n v).sreg ctx n = v :=
  lookupD_setKey_same

theorem sreg_setSreg_other (e : Elem) (ctx : Nat) {m n : Nat} (v : Payload) (h : m ≠ n) :
    (e.setSreg ctx n v).sreg ctx m = e.sreg ctx m :=
  lookupD_setKey_other (by omega)

/-! ## Delay lines (R138) -/

/-- A shift changes state registers alone. -/
theorem delayShift_frame (e : Elem) (ctx n d : Nat) (a : Payload) : { delayShift e ctx n d a with st := e.st } = e := by
  obtain ⟨hkeep, hxs, hrep⟩ := delayShift_keep e ctx n d a
  simpa only [hxs, hrep] using hkeep

/-- A delay line takes its new value at its first register. -/
theorem sreg_delayShift_first (e : Elem) (ctx n d : Nat) (a : Payload) : (delayShift e ctx n d a).sreg ctx n = a := by
  induction d generalizing e with
  | zero => exact sreg_setSreg_same _ _ _ _
  | succ d ih => exact ih _

/-- The registers beyond a delay line stay. -/
theorem sreg_delayShift_beyond (e : Elem) (ctx n d : Nat) (a : Payload) {m : Nat} (h : n + d < m) :
    (delayShift e ctx n d a).sreg ctx m = e.sreg ctx m := by
  induction d generalizing e with
  | zero => exact sreg_setSreg_other e ctx a (by omega)
  | succ d ih => rw [delayShift, ih _ (by omega), sreg_setSreg_other _ _ _ (by omega)]

/-- Every later register of a delay line takes the value of the one before it. -/
theorem sreg_delayShift_next (e : Elem) (ctx n : Nat) (a : Payload) {i d : Nat} (h : i < d) :
    (delayShift e ctx n d a).sreg ctx (n + i + 1) = e.sreg ctx (n + i) := by
  induction d generalizing e with
  | zero => exact absurd h (Nat.not_lt_zero _)
  | succ d ih =>
    rw [delayShift]
    obtain hi | rfl := Nat.lt_succ_iff_lt_or_eq.mp h
    · rw [ih _ hi, sreg_setSreg_other _ _ _ (by omega)]
    · rw [sreg_delayShift_beyond _ _ _ _ _ (by omega), sreg_setSreg_same]

/-! ## Parts of a register -/

/-- The low bits replaced, and the bits above them kept (R5). -/
theorem toNat_setBits_low {n len : Nat} (w : BitVec n) (v : BitVec len) (h : len ≤ n) :
    (setBits w 0 v).toNat % 2 ^ len = v.toNat ∧ (setBits w 0 v).toNat / 2 ^ len = w.toNat / 2 ^ len := by
  have hhigh (u : BitVec n) : (bitsAt u len (n - len)).toNat = u.toNat / 2 ^ len := by
    have hlt : u.toNat / 2 ^ len < 2 ^ (n - len) := by
      rw [Nat.div_lt_iff_lt_mul (Nat.two_pow_pos len), ← Nat.pow_add, Nat.sub_add_cancel h]
      exact u.isLt
    rw [bitsAt, BitVec.extractLsb'_toNat, Nat.shiftRight_eq_div_pow, Nat.mod_eq_of_lt hlt]
  constructor
  · rw [← toNat_bitsAt_low, bitsAt_setBits_same w 0 v (by omega)]
  · rw [← hhigh, bitsAt_setBits_other w 0 v len (n - len) (by omega) (by omega) (by omega), hhigh]

/-- A payload with one lane replaced. -/
theorem laneU_setLane (t : ET) (p : Payload) (j : Nat) {v : Nat} (hv : v < 2 ^ etWidth t) {k : Nat} (hk : k < etLanes t) :
    laneU (etWidth t) (packLanes (etWidth t) ((lanesOf (etWidth t) p).set j v)) k = if k = j then v else laneU (etWidth t) p k := by
  have hlen : ((lanesOf (etWidth t) p).set j v).length = etLanes t := by rw [List.length_set, length_lanesOf]
  rw [laneU_packLanes _ _ _ (hlen.symm ▸ hk) (by rw [hlen, etWidth_mul_etLanes]), List.getElem_set]
  split <;> rename_i h
  · rw [if_pos h.symm, Nat.mod_eq_of_lt hv]
  · rw [if_neg (Ne.symm h)]
    simp [lanesOf, Nat.mod_eq_of_lt (laneU_lt _ _ _)]

/-- A payload with the lanes of a where a predicate is true. -/
theorem laneU_heldLanes (f : Fields) (st : Payload) (x : Opnds) {k : Nat} (hk : k < etLanes f.et) :
    laneU (etWidth f.et) (packLanes (etWidth f.et) ((List.range (256 / etWidth f.et)).map fun i =>
      if predLane (etWidth f.et) f.pinv x.b i then laneU (etWidth f.et) x.a i else laneU (etWidth f.et) st i)) k =
      if predLane (etWidth f.et) f.pinv x.b k = true then laneU (etWidth f.et) x.a k else laneU (etWidth f.et) st k := by
  refine (laneU_packLanes_range f.et _ k hk).trans (Nat.mod_eq_of_lt ?_)
  split <;> exact laneU_lt _ _ _

/-! ## SINK's count (R115) -/

/-- The count of a register after one more token. -/
def sinkCount (st : Payload) : BitVec 32 := bitsAt st 0 32 + 1

theorem toNat_sinkCount (st : Payload) : (sinkCount st).toNat = (st.toNat % 2 ^ 32 + 1) % 2 ^ 32 := by
  rw [sinkCount, BitVec.toNat_add, toNat_bitsAt_low]
  rfl

theorem sinkEffect_counts {c : Ctx} (h : c.set.leftLast = false) :
    let st := c.e.sreg c.set.ctx c.f.ssel.toNat
    sinkEffect c = ⟨c.s, c.e.setSreg c.set.ctx c.f.ssel.toNat (setBits st 0 (sinkCount st)), [], [], false⟩ :=
  if_neg (ne_true_of_eq_false h)

theorem sinkEffect_reports {c : Ctx} (h : c.set.leftLast = true) :
    let st := c.e.sreg c.set.ctx c.f.ssel.toNat
    sinkEffect c = ⟨c.s, c.e.setSreg c.set.ctx c.f.ssel.toNat (setBits st 0 (0 : BitVec 32)),
      toDst c.f.dst0 ⟨c.f.dst0, c.tagOut, true, 0, true, 0, lane0 (sinkCount st).toNat⟩, [], false⟩ :=
  if_pos h

/-! ## The obligation -/

section
variable {f : Fields} {s : State} {c : Ctx} (hi : Issues f s c (dests f).length) (hp : c.Plain)
include hi hp

/-- An instruction that writes its state register and sends one payload to all destinations. -/
theorem fire_writesSreg {own : Ctx → Effect} (n : Nat) {v u : Payload}
    (h : own c = { c.all u with e := c.e.setSreg c.set.ctx n v }) :
    fire f s own = .next (c.issued (c.e.setSreg c.set.ctx n v) (c.toAll u)) :=
  fire_sends hi hp own _ _ h rfl (hi.length_toAll u).le

theorem exec_sink_plain (h : bitAt f.xmod 0 = false) : exec (.sink f) s = .next (c.issued c.e []) :=
  fire_sends hi hp _ c.e [] (if_neg (ne_true_of_eq_false h)) rfl (Nat.zero_le _)

theorem exec_sink_counts (h : bitAt f.xmod 0 = true) (hlast : c.set.leftLast = false) :
    let st := c.e.sreg c.set.ctx f.ssel.toNat
    exec (.sink f) s = .next (c.issued (c.e.setSreg c.set.ctx f.ssel.toNat (setBits st 0 (sinkCount st))) []) := by
  refine fire_sends hi hp _ _ [] ((if_pos h).trans ?_) rfl (Nat.zero_le _)
  rw [sinkEffect_counts hlast, hi.f_eq]

theorem exec_sink_reports (h : bitAt f.xmod 0 = true) (hlast : c.set.leftLast = true) :
    let st := c.e.sreg c.set.ctx f.ssel.toNat
    exec (.sink f) s = .next (c.issued (c.e.setSreg c.set.ctx f.ssel.toNat (setBits st 0 (0 : BitVec 32)))
      (toDst f.dst0 ⟨f.dst0, c.tagOut, true, 0, true, 0, lane0 (sinkCount st).toNat⟩)) := by
  refine fire_sends hi hp _ _ _ ((if_pos h).trans ?_) rfl (length_toDst_dst0_le f _)
  rw [sinkEffect_reports hlast, hi.f_eq]

/-- COUNT sends lane j and writes its next value (R131). -/
theorem exec_count_plain :
    let w := etWidth f.et
    let st := c.e.sreg c.set.ctx f.ssel.toNat
    let j := (bitsAt f.xmod 0 3).toNat
    let next := if c.set.leftLast then 0 else (laneU w st j + laneU w (operands c.e f c.set none).b 0) % 2 ^ w
    exec (.count f) s = .next (c.issued (c.e.setSreg c.set.ctx f.ssel.toNat (packLanes w ((lanesOf w st).set j next)))
      (c.toAll (lane0 (laneU w st j)))) := by
  refine fire_writesSreg hi hp f.ssel.toNat ?_
  rw [hi.opnds_eq]

/-- HOLD writes what `v` is, by its arity, and sends a (R137). -/
theorem exec_hold_plain {v : Payload} (h : v =
    let w := etWidth f.et
    let x := operands c.e f c.set none
    let st := c.e.sreg c.set.ctx f.ssel.toNat
    if f.ar == .dyadic then
      packLanes w ((List.range (256 / w)).map fun i => if predLane w f.pinv x.b i then laneU w x.a i else laneU w st i)
    else x.a) :
    exec (.hold f) s = .next (c.issued (c.e.setSreg c.set.ctx f.ssel.toNat v) (c.toAll (operands c.e f c.set none).a)) := by
  refine fire_writesSreg hi hp f.ssel.toNat ?_
  rw [hi.opnds_eq, h]

/-- READS sends its register, and clears it under CLR (R137). -/
theorem exec_reads_plain :
    exec (.reads f) s = .next (c.issued (if bitAt f.xmod 0 then c.e.setSreg c.set.ctx f.ssel.toNat 0 else c.e)
      (c.toAll (c.e.sreg c.set.ctx f.ssel.toNat))) := by
  refine fire_sends hi hp _ _ _ rfl ?_ (hi.length_toAll _).le
  split <;> rfl

/-- DELAY sends the last register of its line and shifts the line (R138). -/
theorem exec_delay_plain :
    let d := (bitsAt f.xmod 0 2).toNat
    let n := f.ssel.toNat
    exec (.delay f) s = .next (c.issued (delayShift c.e c.set.ctx n d (operands c.e f c.set none).a)
      (c.toAll (c.e.sreg c.set.ctx (n + d)))) := by
  refine fire_sends hi hp _ _ _ ?_ ?_ (hi.length_toAll _).le
  · rw [hi.opnds_eq]
    rfl
  · have hframe := delayShift_frame c.e c.set.ctx f.ssel.toNat (bitsAt f.xmod 0 2).toNat (operands c.e f c.set none).a
    exact (congrArg Elem.out hframe :)
end

/-- Settles O20: what each instruction sends and writes, then the written payload's lanes and the delay line's registers. -/
theorem stateRegisterInstructions : Obligations.StateRegisterInstructions := by
  unfold Obligations.StateRegisterInstructions
  intro f s c hi hp x w n st set count
  have hcount : (sinkCount st).toNat = count % 2 ^ 32 := toNat_sinkCount st
  refine ⟨exec_sink_plain hi hp, fun hcnt hlast => ?counts, fun hcnt hlast => ?reports, fun hj => ?count, fun har => ?hold,
    fun har => ?holdLanes, exec_reads_plain hi hp, ?delay⟩
  case counts =>
    obtain ⟨hlow, hhigh⟩ := toNat_setBits_low st (sinkCount st) (by decide)
    exact ⟨_, exec_sink_counts hi hp hcnt hlast, hlow.trans hcount, hhigh⟩
  case reports =>
    obtain ⟨hlow, hhigh⟩ := toNat_setBits_low st (0 : BitVec 32) (by decide)
    exact ⟨_, hcount ▸ exec_sink_reports hi hp hcnt hlast, hlow, hhigh⟩
  case count =>
    refine ⟨_, exec_count_plain hi hp, fun k hk => laneU_setLane _ _ _ ?_ hk⟩
    split
    · exact Nat.two_pow_pos _
    · exact Nat.mod_lt _ (Nat.two_pow_pos _)
  case hold => exact exec_hold_plain hi hp (if_neg (by simpa using har)).symm
  case holdLanes => exact ⟨_, exec_hold_plain hi hp (if_pos (by simpa using har)).symm, fun k hk => laneU_heldLanes f st x hk⟩
  case delay =>
    exact ⟨_, delayShift_frame _ _ _ _ _, exec_delay_plain hi hp, sreg_delayShift_first _ _ _ _ _,
      fun d hd => sreg_delayShift_next _ _ _ _ hd⟩

end Sys2Proof.Machine
end

section
/-! SUPPORT. Frames: CALL's continuation, RET's, and the release token (R127 to R130). -/

namespace Sys2Proof.Machine

/-- Ordinary operands are neither error records nor control tokens, and none is a bubble. -/
theorem Ctx.Plain.checks {c : Ctx} (hp : c.Plain) : c.set.record? = none ∧ c.set.control = false ∧ c.set.bubbly = false :=
  ⟨ReadySet.record?_eq_none hp.record, ReadySet.control_eq_false hp.control, ReadySet.bubbly_eq_false hp.bubble⟩

/-- Operands stay ordinary whatever else an instruction sees. -/
theorem Ctx.Plain.congr_set {c d : Ctx} (hp : c.Plain) (h : d.set = c.set) : d.Plain :=
  ⟨h ▸ hp.raise, h ▸ hp.control, h ▸ hp.record, h ▸ hp.bubble⟩

/-- An instruction that treats its operands itself, changes the state and sends tokens completes. -/
theorem fireRaw_exact {f : Fields} {s : State} {c : Ctx} {n : Nat} (hi : Issues f s c n) (hr : c.set.raise = none) (own : Ctx → Effect)
    {u : State} {es : List Emit} (h : own c = ⟨u, c.e, es, [], false⟩) (hn : es.length ≤ n) :
    fireRaw f s own = .next (c.issuedIn u c.e es []) := by
  rw [fireRaw_plain hi hr own (by rw [h]) (by rw [h]; exact hn) (by rw [h]), h]

/-! ## RET's frame (R128 to R130) -/

@[simp] theorem setFrame_frameWaits (t : Tile) (pool : Word64) (m : Nat) (r : BitVec 128) :
    (t.setFrame pool m r).frameWaits = t.frameWaits := by simp only [Tile.setFrame, Tile.write]

/-- A freed frame for which no CALL waits changes its tile alone. -/
theorem serveFrame_of_no_waits (g : Region) {t : Tile} (h : t.frameWaits = []) (pool : Word64) (now : Nat) :
    g.serveFrame t pool now = g.putTile t := by rw [Region.serveFrame, h]

section
variable {c : Ctx} {t : Tile} {pool : Word64}

/-- The frame that RET's tag names. -/
def Ctx.retFrame (c : Ctx) : Nat := getField c.g.tagw (bitsAt c.f.xmod 0 4).toNat c.tag

/-- RET frees a valid frame and sends its operand to the continuation in the record (R130). -/
theorem retEffect_valid (htile : c.g.tile? (neighbour c.p.x c.p.y (bitsAt c.f.xmod 4 2).toNat).1
      (neighbour c.p.x c.p.y (bitsAt c.f.xmod 4 2).toNat).2 = some t) (hpool : t.pool? = some pool)
    (hframe : c.retFrame < poolFrames pool) (hvalid : frameV (t.frame pool c.retFrame) = true) (hwaits : t.frameWaits = [])
    (hbubbly : c.set.bubbly = false) (he : c.g.elem? c.p.x c.p.y = some c.e) :
    let r := t.frame pool c.retFrame
    retEffect c = ⟨c.s.putRegion c.p.r (c.g.putTile (t.setFrame pool c.retFrame (setBits r 95 (0 : BitVec 1)))), c.e,
      [⟨retDst r c.p.x c.p.y, bitsAt r 0 64, true, 0, c.set.leftLast, 0, c.opnds.a⟩], [], false⟩ := by
  have hserve (r : BitVec 128) : c.g.serveFrame (t.setFrame pool c.retFrame r) pool c.s.cycle =
      c.g.putTile (t.setFrame pool c.retFrame r) := serveFrame_of_no_waits c.g ((setFrame_frameWaits t _ _ _).trans hwaits) pool _
  have helem (u : Tile) : ((c.g.putTile u).elem? c.p.x c.p.y).getD c.e = c.e := congrArg (Option.getD · c.e) he
  unfold Ctx.retFrame at *
  simp only [retEffect, htile, hpool, hframe.not_ge, hvalid, hserve, helem, hbubbly, if_false]
  rfl
end

/-! ## RELEASE's first token (R127) -/

/-- Without DST1 a result goes to DST0, where that is valid. -/
theorem map_dests_noDst (f : Fields) (g : Dst → Emit) : (dests { f with dst1 := noDst }).map g = toDst f.dst0 (g f.dst0) := by
  cases h : f.dst0.v <;> simp [dests, toDst, noDst, h]

/-- What RELEASE sends to DST0 for an ordinary operand (R127). -/
theorem releaseFirst_plain {c : Ctx} (hp : c.Plain) : releaseFirst { c with f := { c.f with dst1 := noDst } } =
    c.sends (toDst c.f.dst0 (c.data c.f.dst0 (operands c.e c.f c.set none).a)) := by
  have hplain : Ctx.Plain { c with f := { c.f with dst1 := noDst } } := hp.congr_set rfl
  rw [releaseFirst, Ctx.standard_plain hplain, map_dests_noDst]
  rfl

/-! ## The instructions on ordinary operands -/

section
variable {f : Fields} {s : State} {c : Ctx} (hi : Issues f s c 2) (hp : c.Plain)
include hi hp

/-- CALL sends a with the frame in its tag (R128). -/
theorem exec_call_plain {m : Nat} (hm : c.set.frame = some m) : exec (.call f) s =
    .next (c.issued c.e (toDst f.dst0 ⟨f.dst0, setField c.g.tagw (bitsAt f.xmod 0 4).toNat m c.tag, true, 0, c.set.leftLast, 0,
      (operands c.e f c.set none).a⟩)) := by
  obtain ⟨hrecord, hcontrol, hbubbly⟩ := hp.checks
  refine fireRaw_sends hi hp.raise _ c.e _ ?_ rfl ((length_toDst_le _ _).trans (by decide))
  simp only [hrecord, hcontrol, hbubbly, hm, hi.opnds_eq]
  rfl

/-- RET does what its frame says (R130). -/
theorem exec_ret_plain {u : State} {m : Emit} (h : retEffect c = ⟨u, c.e, [m], [], false⟩) :
    exec (.ret f) s = .next (c.issuedIn u c.e [m] []) := by
  obtain ⟨hrecord, hcontrol, hbubbly⟩ := hp.checks
  refine fireRaw_exact hi hp.raise _ ?_ (Nat.le_succ 1)
  simp only [hrecord, hcontrol, hbubbly]
  exact h

/-- RELEASE sends a to DST0 and the release token to DST1 (R127). -/
theorem exec_release_plain : exec (.release f) s =
    .next (c.issued c.e (toDst f.dst0 (c.data f.dst0 (operands c.e f c.set none).a) ++
      [⟨f.dst1, c.tagOut, true, 2, c.set.leftLast, 1, 0⟩])) := by
  refine fireRaw_sends hi hp.raise _ c.e _ ?_ rfl ?_
  · rw [releaseFirst_plain hp, releaseToken, hi.f_eq]
    rfl
  · rw [List.length_append]
    exact Nat.succ_le_succ (length_toDst_le _ _)
end

/-- Settles O21: CALL and RELEASE only send, RET writes its frame's record back with V clear. -/
theorem callReturnRelease : Obligations.CallReturnRelease := by
  unfold Obligations.CallReturnRelease
  intro f s c hi hp x k sent
  refine ⟨fun m => exec_call_plain hi hp, ?ret, exec_release_plain hi hp⟩
  intro t pool d m r htile hpool hm hvalid hwaits
  obtain ⟨hs, hf, -, -, he, -⟩ := ctx?_some hi.here
  subst hs hf
  obtain ⟨-, -, hbubbly⟩ := hp.checks
  exact exec_ret_plain hi hp (retEffect_valid htile hpool hm hvalid hwaits hbubbly he)

end Sys2Proof.Machine
end

section
/-! SUPPORT. Instructions with more than one issue or operand set: the reductions' result at their exit token (R133, R135), and REPEAT's
copies and their number (R132). -/

namespace Sys2Proof.Machine

/-! ## Reductions (R133, R135) -/

/-- A reduction sees the tag of its exit token. -/
theorem atExit_eq {c : Ctx} {e : Token} (he : c.set.r = some e) :
    c.atExit = { c with
      tag := e.tag
      tagOut := tagOp c.g.tagw c.f e.tag } := by rw [Ctx.atExit, he]

/-- An issue that sends tokens alone does not depend on the tags that its instruction saw. -/
theorem Ctx.atExit_issued (c : Ctx) (e' : Elem) (es : List Emit) : c.atExit.issued e' es = c.issued e' es := by
  unfold Ctx.atExit
  split
  · rfl
  · simp only [Ctx.issued, Ctx.issuedIn, Ctx.sentIn, censusOfIssue, List.length_nil, List.range_zero, List.foldl_nil]

section
variable {c : Ctx} {e : Token} (he : c.set.r = some e)
include he

/-- A reduction that took an error record sends it, with the exit token's tag and LAST (R135). -/
theorem reduceEffect_record (hr : c.set.raise = none) {t : Token} (ht : c.set.l = some t) : reduceEffect c.atExit =
    c.atExit.sends ((dests c.f).map fun d => ⟨d, tagOp c.g.tagw c.f e.tag, true, 3, e.last, BitVec.ofNat 3 t.sub, t.pay⟩) := by
  rw [atExit_eq he]
  simp only [reduceEffect, hr, ht, he]
  rfl

/-- A reduction that reached a value sends it, with the exit token's tag and LAST (R133). -/
theorem reduceEffect_value (hp : c.Plain) (hl : c.set.l = none) {v : Payload} (hv : c.set.red = some v) : reduceEffect c.atExit =
    c.atExit.sends ((dests c.f).map fun d => ⟨d, tagOp c.g.tagw c.f e.tag, true, 0, e.last, 0, v⟩) := by
  rw [atExit_eq he]
  have hset : ({ c.set with
      l := none
      r := some e
      raise := none } : ReadySet) = c.set := by rw [← hl, ← he, ← hp.raise]
  have hlast : c.set.leftLast = e.last := by rw [ReadySet.leftLast, hl, he]
  have hplain (tag tagOut : Word64) : Ctx.Plain { c with
      tag := tag
      tagOut := tagOut } := hp.congr_set rfl
  simp only [reduceEffect, hp.raise, hl, he]
  rw [hset, Ctx.standard_plain (hplain _ _)]
  simp only [Ctx.all, Ctx.data, hlast, hv]
  rfl
end

section
variable {f : Fields} {s : State} {c : Ctx} (hi : Issues f s c (dests f).length)
include hi

/-- A reduction whose result only sends completes. -/
theorem fireReduce_sends (hcol : c.atExit.recolourRefused = false) (hep : c.atExit.needsAdvance = false) {es : List Emit}
    (h : reduceEffect c.atExit = c.atExit.sends es) (hn : es.length ≤ (dests f).length) :
    fireReduce f s = .next (c.issued c.e es) := by
  obtain ⟨hs, he⟩ := c.atExit_se
  have hroom := hi.room
  simp only [fireReduce, hi.here]
  rw [h, Ctx.finish_issuedIn _ _ (by simp only [Ctx.sends, he, List.length_nil]; omega) hcol hep rfl]
  exact congrArg _ ((c.atExit_issued c.atExit.e es).trans (by rw [he]))
end

/-! ## REPEAT (R132) -/

/-- An issue that keeps its set completes. -/
theorem fireRaw_keeps {f : Fields} {s : State} {c : Ctx} {n : Nat} (hi : Issues f s c n) (hr : c.set.raise = none) (own : Ctx → Effect)
    {e' : Elem} {es : List Emit} (h : own c = ⟨c.s, e', es, [], true⟩) (ho : e'.out = c.e.out) (hn : es.length ≤ n) :
    fireRaw f s own = .next (c.partIssued e' es) := by
  have hroom := hi.room
  simp only [fireRaw, hi.here, hr]
  rw [h, Ctx.finish_partIssued _ _ (by simp only [ho, List.length_nil]; omega) hi.colour hi.epoch rfl rfl rfl]

/-- The copy that REPEAT sends at its place. -/
def Ctx.repeatCopy (c : Ctx) (n : Nat) : Emit :=
  ⟨c.f.dst0, setField c.g.tagw (bitsAt c.f.xmod 0 4).toNat c.e.repPos c.tag, true, 0, decide (c.e.repPos + 1 = n), 0, c.opnds.a⟩

/-- The token that tells the number of copies. -/
def Ctx.repeatTotal (c : Ctx) (n : Nat) : Emit := ⟨c.f.dst1, c.tag, true, 0, true, 0, BitVec.ofNat 256 n⟩

section
variable {c : Ctx} {n : Nat} (hn : laneU (etWidth c.f.et) c.opnds.b 0 = n)
include hn

/-- A number above 65,536 or above the field's size raises 0x2.02. -/
theorem repeatEffect_exceeds (h : 65536 < n ∨ 2 ^ fieldW c.g.tagw (bitsAt c.f.xmod 0 4).toNat < n) :
    repeatEffect c = c.raise (mkCause 2 2) := by
  rw [repeatEffect, hn]
  exact if_pos h

variable (hmax : n ≤ 65536) (hfield : n ≤ 2 ^ fieldW c.g.tagw (bitsAt c.f.xmod 0 4).toNat) (hb : c.set.bubbly = false)
include hmax hfield hb

/-- One issue of REPEAT: the copy while there is one to send, the number of copies at the end, and the place of the next copy. -/
theorem repeatEffect_plain : repeatEffect c =
    let last := decide (n ≤ c.e.repPos + 1)
    ⟨c.s, { c.e with repPos := if last then 0 else c.e.repPos + 1 },
      (if c.e.repPos < n then toDst c.f.dst0 (c.repeatCopy n) else []) ++ (if last then toDst c.f.dst1 (c.repeatTotal n) else []),
      [], !last⟩ := by
  have hmod : n % 2 ^ 32 = n := Nat.mod_eq_of_lt (hmax.trans_lt (by decide))
  rw [repeatEffect, hn]
  refine (if_neg (by omega)).trans ?_
  simp only [hb, hmod]
  rfl

theorem repeatEffect_continues (h : c.e.repPos + 1 < n) :
    repeatEffect c = ⟨c.s, { c.e with repPos := c.e.repPos + 1 }, toDst c.f.dst0 (c.repeatCopy n), [], true⟩ := by
  rw [repeatEffect_plain hn hmax hfield hb]
  simp [h, Nat.lt_of_succ_lt h]

theorem repeatEffect_ends (h : c.e.repPos + 1 = n) :
    repeatEffect c =
      ⟨c.s, { c.e with repPos := 0 }, toDst c.f.dst0 (c.repeatCopy n) ++ toDst c.f.dst1 (c.repeatTotal n), [], false⟩ := by
  rw [repeatEffect_plain hn hmax hfield hb]
  simp [h.ge, Nat.lt_of_succ_le h.le]

theorem repeatEffect_copiesNone (h : n = 0) :
    repeatEffect c = ⟨c.s, { c.e with repPos := 0 }, toDst c.f.dst1 (c.repeatTotal n), [], false⟩ := by
  rw [repeatEffect_plain hn hmax hfield hb]
  simp [h]
end

section
variable {f : Fields} {s : State} {c : Ctx} {n : Nat} (hi : Issues f s c n) (hp : c.Plain) {e' : Elem} {es : List Emit}
include hi hp

/-- An issue of REPEAT with copies still to come keeps the set. -/
theorem exec_repeatTok_keeps (h : repeatEffect c = ⟨c.s, e', es, [], true⟩) (ho : e'.out = c.e.out) (hn : es.length ≤ n) :
    exec (.repeatTok f) s = .next (c.partIssued e' es) := by
  obtain ⟨hrecord, hcontrol, hbubbly⟩ := hp.checks
  refine fireRaw_keeps hi hp.raise _ ?_ ho hn
  simp only [hrecord, hcontrol, hbubbly]
  exact h

/-- The last issue of REPEAT consumes the set. -/
theorem exec_repeatTok_consumes (h : repeatEffect c = ⟨c.s, e', es, [], false⟩) (ho : e'.out = c.e.out) (hn : es.length ≤ n) :
    exec (.repeatTok f) s = .next (c.issued e' es) := by
  obtain ⟨hrecord, hcontrol, hbubbly⟩ := hp.checks
  refine fireRaw_sends hi hp.raise _ e' es ?_ ho hn
  simp only [hrecord, hcontrol, hbubbly]
  exact h
end

/-- Settles O22: a reduction's result at its exit token, and the cases of one issue of REPEAT. -/
theorem reduceAndRepeat : Obligations.ReduceAndRepeat := by
  unfold Obligations.ReduceAndRepeat
  constructor
  · intro f s c e t hi hr ht he hcol hep out
    obtain rfl : c.f = f := hi.f_eq
    have h : fireReduce c.f s = .next (c.issued c.e out) :=
      fireReduce_sends hi hcol hep (reduceEffect_record he hr ht) (List.length_map _).le
    exact ⟨h, h⟩
  · intro f s c hi hp x k n i sent copy total
    obtain rfl : c.f = f := hi.f_eq
    obtain ⟨-, -, hb⟩ := hp.checks
    refine ⟨fun e v hl he hv => ?reduced, fun hmax hfield => ⟨fun h => ?continues, fun h => ?ends, fun h => ?copiesNone⟩,
      fun h => ?exceeds⟩
    case reduced =>
      have hself := atExit_self hi.here hl
      have h := fireReduce_sends hi (hself.symm ▸ hi.colour) (hself.symm ▸ hi.epoch) (reduceEffect_value he hp hl hv)
        (List.length_map _).le
      exact ⟨h, h⟩
    case continues =>
      exact exec_repeatTok_keeps hi hp (repeatEffect_continues rfl hmax hfield hb h) rfl (length_toDst_dst0_le _ _)
    case ends => exact exec_repeatTok_consumes hi hp (repeatEffect_ends rfl hmax hfield hb h) rfl (length_toDst_both _ _ _).le
    case copiesNone =>
      exact exec_repeatTok_consumes hi hp (repeatEffect_copiesNone rfl hmax hfield hb h) rfl (length_toDst_dst1_le _ _)
    case exceeds => exact exec_repeatTok_consumes hi hp (repeatEffect_exceeds rfl h) rfl (List.length_map _).le

end Sys2Proof.Machine
end

section
/-! SUPPORT. The Xwenxus instructions on tokens (R177, R183, R203, R204): who may execute them, the tests of WX.PUSHTOK in their order, and
what an admitted token changes. -/

namespace Sys2Proof.Machine

section
variable {s : State} {h : Nat} {k : Hart} (hx : ExecutesAt s h k)
include hx

/-- An instruction that every mode may execute runs at its hart (R202). -/
theorem wxRun_user (i : Instr) (act : Nat → Hart → State) : wxRun s true i act = .next (act h k) := by
  simp [wxRun, hx.focus, hx.hart]

/-- A privileged instruction runs at a hart that is in neither user mode (R202). -/
theorem wxRun_privileged (hu : k.mode ≠ .u) (hvu : k.mode ≠ .vu) (i : Instr) (act : Nat → Hart → State) :
    wxRun s false i act = .next (act h k) := by
  simp [wxRun, hx.focus, hx.hart, hu, hvu]

/-- A status and the value above it go to rd (R204). -/
theorem wxDone_answered (rd : BitVec 5) (code above : Nat) : s.wxDone h rd code above = s.answered h k rd code above := by
  simp only [State.wxDone, State.hartDone, hx.hart, State.answered]
end

/-- Who may name a launch (R202). -/
theorem mayName_iff (k : Hart) (l : Launch) : k.mayName l = true ↔ k.Names l := by
  rw [Hart.mayName, Bool.or_eq_true, beq_iff_eq, Hart.Names, @eq_comm _ l.world]

/-- Is a launch over (R168)? -/
theorem Launch.past_iff (l : Launch) : l.past = true ↔ l.state = .retired ∨ l.state = .committed := by
  simp [Launch.past]

/-- A launch without CAPT captures nothing (R392). -/
theorem capture_off {l : Launch} (hcapt : l.capt = false) (s : State) (t : Token) (port src : Nat) (mark : BitVec 16) :
    s.capture l t port src mark = s := by
  simp [State.capture, hcapt]

/-- A world that does not seal leaves its tokens in clear (R403). -/
theorem sealTok_open {s : State} {w : BitVec 8} (hseal : s.sealedWorld w = false) (z : SealState) (p : BitVec 19) (t : Token) :
    sealTok s z w p t = (t, z) := by
  simp [sealTok, hseal]

/-! ## WX.PUSHTOK (R203, R204) -/

/-- What WX.PUSHTOK gives is what the tests on its port handle give. -/
theorem execWxPushtok_of_push {s t u : State} {h : Nat} {k : Hart} {rd rs1 rs2 : BitVec 5} {bs : List Byte} {code : Nat}
    (hx : ExecutesAt s h k) (hload : s.hartLoad h k (s.hartPa k .load) (k.reg rs1).toNat 64 64 = .ok (t, bs))
    (hpush : t.push k (k.reg rs2) bs = (u, code)) :
    execWxPushtok rd rs1 rs2 s = .next (u.hartDone h rd (BitVec.ofNat 64 code)) := by
  rw [execWxPushtok, wxRun_user hx, hload]
  simp only [hpush, State.wxDone, Nat.zero_add]

/-- May a hart push a token of a world into a launch: may it name the launch, and is the world its own where that seals (R202, R403)? -/
def Hart.MayPush (k : Hart) (t : State) (l : Launch) (w : BitVec 8) : Prop :=
  k.Names l ∧ (t.sealedWorld w = true → k.accessor.world = w)

theorem mayPush_iff (k : Hart) (t : State) (l : Launch) (w : BitVec 8) :
    (!k.mayName l || (t.sealedWorld w && k.accessor.world != w)) = true ↔ ¬ k.MayPush t l w := by
  rw [Hart.MayPush, ← mayName_iff]
  cases k.mayName l <;> cases t.sealedWorld w <;> simp

section
variable {t : State} {k : Hart} {v : Word64} {bs : List Byte} {l : Launch} {g : Region} {p : Port}

theorem push_no_launch (hl : t.launch? (selHandle v) = none) : t.push k v bs = (t, 11) := by
  simp only [State.push, hl]

section
variable (hl : t.launch? (selHandle v) = some l) (hg : l.members[0]? = some g)
include hl hg

theorem push_no_port (hp : g.ports[portNo v]? = none) : t.push k v bs = (t, 11) := by
  simp only [State.push, hl, hg, hp]

variable (hp : g.ports[portNo v]? = some p)
include hp

theorem push_not_entry (htype : portType p.word ≠ 3) : t.push k v bs = (t, 11) := by
  simp only [State.push, hl, hg, hp, if_pos htype]

variable (htype : portType p.word = 3)
include htype

theorem push_not_named (hname : ¬ k.MayPush t l (colWorld (g.col (portCol p.word)))) : t.push k v bs = (t, 10) := by
  simp only [State.push, hl, hg, hp, ne_eq, htype, not_true_eq_false, if_false, (mayPush_iff k t l _).mpr hname, if_true]

variable (hname : k.MayPush t l (colWorld (g.col (portCol p.word))))
include hname

/-- The tests on the handle and the image, on the launch and the port, and on the colour, in their order. -/
theorem push_named : t.push k v bs =
    if ¬ (bitsAt v 5 27 = 0 ∧ pushOk g p.word (imageToken bs) bs = true) then (t, 9)
    else if l.state = .retired ∨ l.state = .committed ∨ p.closed = true then (t, 5)
    else if l.state ≠ .running ∨ l.drainFrom.isSome = true then (t, 4)
    else if (imageToken bs).kind = 2 ∧ (imageToken bs).sub = 7 then
      (t.putLaunch (l.put 0 (g.putPort (portNo v) { p with closed := true })), 0)
    else if ∃ q ∈ l.purges, q.col = portCol p.word then (t, 3)
    else if l.underQuota (portCol p.word) = false then (t, 1)
    else if 16 ≤ p.queue.length ∨ l.replay = true then (t, 2)
    else (t.admits l g (portNo v) p (imageToken bs), 0) := by
  have hmay := mt (mayPush_iff k t l (colWorld (g.col (portCol p.word)))).mp (not_not_intro hname)
  simp only [State.push, hl, hg, hp, ne_eq, htype, not_true_eq_false, if_false, hmay, Bool.false_eq_true]
  simp only [portClean, Launch.past_iff, Launch.open', Launch.draining, closeRequest, Launch.purging, Bool.or_eq_true, Bool.and_eq_true,
    Bool.not_eq_true', Bool.and_eq_false_iff, Bool.not_eq_false', decide_eq_true_eq,
    beq_iff_eq, beq_eq_false_iff_ne, List.any_eq_true, or_assoc, not_and_or, Bool.not_eq_true, ne_eq]
end

/-- Without capture, in a world that does not seal, an admitted token takes the port's colour and joins the queue; it is counted, its
colour's admissions with it, and no member keeps its pair quiescent (R177, R180, R182, R183, R424). -/
theorem admits_plain (i : Nat) (tok : Token) (hcapt : l.capt = false) (hseal : t.sealedWorld (colWorld (g.col (portCol p.word))) = false) :
    let u := { tok with tag := setBits tok.tag 58 (BitVec.ofNat 6 (portCol p.word)) }
    let q := (g.putPort i { p with queue := p.queue ++ [u] }).count (.port i) u.tag (if u.kind = 1 then 0 else 1) false
    let ms := l.members.set 0 { q with admits := setKey (portCol p.word) (g.adm (portCol p.word) + 1) g.admits }
    t.admits l g i p tok = t.putLaunch { l with
      members := ms.map fun m => { m with
        quiet := m.quiet.filter (· != tagKey u.tag)
        zeroLast := m.zeroLast.filter (· != tagKey u.tag) }
      admitted := true } := by
  have hcount (u : Token) : (if u.counted then 1 else 0 : Int) = if u.kind = 1 then 0 else 1 := by
    by_cases hk : u.kind = 1 <;> simp [Token.counted, hk]
  rw [State.admits]
  simp only [capture_off hcapt, sealTok_open hseal, hcount]
  rfl
end

/-- Settles O40: one outcome for each test of WX.PUSHTOK, in the order in which it makes them. -/
theorem tokenPush : Obligations.TokenPush := by
  unfold Obligations.TokenPush
  intro s t h k rd rs1 rs2 bs l g p hx hload v i tok col gives
  have push {u : State} {code : Nat} (hpush : t.push k v bs = (u, code)) : gives u code := execWxPushtok_of_push hx hload hpush
  refine ⟨fun hl => push (push_no_launch hl), fun hl hg => ⟨fun hp => push (push_no_port hl hg hp), fun hp => ?_⟩⟩
  intro world mayName fit done close
  refine ⟨fun htype => push (push_not_entry hl hg hp htype), fun htype => ⟨fun hname => push (push_not_named hl hg hp htype hname), fun hname => ?_⟩⟩
  have tests := push_named (bs := bs) hl hg hp htype hname
  refine ⟨fun hfit => ?unfit, fun hfit => ⟨fun hdone => ?past, fun hdone => ⟨fun hstop => ?stopped, fun hrun hflow => ?_⟩⟩⟩
  case unfit => exact push (tests.trans (if_pos hfit))
  all_goals rw [if_neg (not_not_intro hfit)] at tests
  case past => exact push (tests.trans (if_pos hdone))
  all_goals rw [if_neg hdone] at tests
  case stopped => exact push (tests.trans (if_pos hstop))
  rw [if_neg (by simp [hrun, hflow])] at tests
  refine ⟨fun hclose => push (tests.trans (if_pos hclose)), fun hclose => ?_⟩
  rw [if_neg hclose] at tests
  refine ⟨fun hpurge => push (tests.trans (if_pos hpurge)), fun hpurge => ?_⟩
  rw [if_neg (by simpa using hpurge)] at tests
  refine ⟨fun hquota => push (tests.trans (if_pos hquota)), fun hquota => ?_⟩
  rw [if_neg (ne_false_of_eq_true hquota)] at tests
  refine ⟨fun hfull => push (tests.trans (if_pos (.inl hfull))), fun hroom hreplay hcapt hseal => ?_⟩
  rw [if_neg (by simp [hroom, hreplay])] at tests
  exact push (tests.trans (congrArg (·, 0) (admits_plain i tok hcapt hseal)))

end Sys2Proof.Machine
end

section
/-! SUPPORT. WX.PULLTOK at a running launch's exit port, and the parts in which WX.SUMMARY goes on (R178, R203 to R205, R388, R389). -/

namespace Sys2Proof.Machine

/-! ## WX.PULLTOK (R178, R205) -/

section
variable {s : State} {k : Hart} {v : Word64} {l : Launch} {g : Region} {p : Port} (hp : g.ports[portNo v]? = some p)
  (hrun : l.state = .running)
include hp hrun

/-- The tokens that wait at an exit port of a running launch are those of its queue. -/
theorem exitQueue_running : l.exitQueue g (portNo v) = p.queue := by
  simp [Launch.exitQueue, Launch.past, hrun, hp]

theorem setExitQueue_running (ts : List Token) : l.setExitQueue g (portNo v) ts = l.put 0 (g.putPort (portNo v) { p with queue := ts }) := by
  simp [Launch.setExitQueue, Launch.past, hrun, hp]

variable (hl : s.launch? (selHandle v) = some l) (hg : l.members[0]? = some g) (htype : portType p.word = 4) (hname : k.Names l)
  (hseal : s.sealedWorld (colWorld (g.col (portCol p.word))) = false) (hclean : bitsAt v 5 27 = 0)
include hl hg htype hname hseal hclean

/-- At a clean handle of an exit port that the hart may name, the queue alone decides. -/
theorem pullCheck_running : s.pullCheck k v = match p.queue with
    | [] => .error 6
    | t :: rest => .ok (l, g, t, rest) := by
  have hword : g.portWord (portNo v) = p.word := by simp [Region.portWord, hp]
  simp only [State.pullCheck, hl, hg, hword, htype, (mayName_iff k l).mpr hname, hseal, portClean, hclean, exitQueue_running hp hrun,
    ne_eq, not_true_eq_false, if_false, Bool.not_true, Bool.false_and, Bool.or_false, Bool.false_eq_true, beq_self_eq_true] <;> rfl
end

/-! ## WX.SUMMARY (R388, R389) -/

theorem setScan_of_hart? {s : State} {h : Nat} {k : Hart} (hk : s.hart? h = some k) (c : SumScan) :
    s.setScan h c = s.putHart h { k with scan := some c } := by
  simp only [State.setScan, hk]

/-- Has a sweep of each running launch that a summary covers ended (R388, R389)? -/
theorem sweptFor_iff (s : State) (a : Accessor) (c : SumScan) : s.sweptFor a c = true ↔
    ∀ l ∈ s.launches, (a.trust = true ∨ l.world = a.world) → l.state = .running → ∃ b ∈ c.blocks, b.1 = l.handle := by
  simp only [State.sweptFor, State.summaryOf, List.all_eq_true, List.mem_filter, Bool.or_eq_true, beq_iff_eq, bne_iff_ne, List.any_eq_true,
    and_imp, ne_eq, ← imp_iff_not_or]

section
variable {s : State} {h : Nat} {k : Hart} (hx : ExecutesAt s h k) (hu : k.mode ≠ .u) (hvu : k.mode ≠ .vu) (rd rs1 : BitVec 5)
include hx hu hvu

section
variable (hscan : k.scan = none)
include hscan

/-- A hart whose world has no launch gets NOPRIV (R204). -/
theorem execWxSummary_noLaunch (htrust : k.accessor.trust = false) (hnone : ∀ l ∈ s.launches, l.world ≠ k.accessor.world) :
    execWxSummary rd rs1 s = .next (s.answered h k rd 10 0) := by
  have hno : (s.launches.any fun l => l.world == k.accessor.world) = false := by simpa using hnone
  rw [execWxSummary, wxRun_privileged hx hu hvu]
  simp only [hscan, htrust, hno, Bool.not_false, Bool.and_self, if_true, wxDone_answered hx]

section
variable (hsome : k.accessor.trust = true ∨ ∃ l ∈ s.launches, l.world = k.accessor.world)
include hsome

/-- Else a buffer off the 4 KiB boundary is the misaligned-store exception, and the summary starts at one on it (R204, R389). -/
theorem execWxSummary_starts : execWxSummary rd rs1 s =
    .next (if (k.reg rs1).toNat % 4096 ≠ 0 then s.putHart h (k.trap 6 (k.reg rs1))
      else s.putHart h { k with scan := some ⟨s.laygen, s.cycle, [], none, false⟩ }) := by
  have hcovers : (!k.accessor.trust && !s.launches.any fun l => l.world == k.accessor.world) = false := by
    obtain htrust | hany := hsome
    · simp [htrust]
    · have : (s.launches.any fun l => l.world == k.accessor.world) = true := by simpa using hany
      simp [this]
  rw [execWxSummary, wxRun_privileged hx hu hvu]
  simp only [hscan, hcovers, Bool.false_eq_true, if_false, hartTrap_of_hart? hx.hart, setScan_of_hart? hx.hart]
end
end

section
variable {c : SumScan} (hscan : k.scan = some c)
include hscan

/-- Before its record is complete it waits for the sweeps (R389). -/
theorem execWxSummary_sweeps (hbody : c.body = none) : execWxSummary rd rs1 s =
    .next (if s.sweptFor k.accessor c then s.putHart h { k with scan := some { c with body := some (s.summary k.accessor c) } } else s) := by
  rw [execWxSummary, wxRun_privileged hx hu hvu]
  simp only [hscan, hbody, setScan_of_hart? hx.hart]

variable {bs : List Byte} {u : State} (hbody : c.body = some bs)
include hbody

/-- All of the record but its first 32 bytes is written first. -/
theorem execWxSummary_tail (htail : c.tail = false)
    (hstore : s.hartStore h k (s.hartPa k .store) ((k.reg rs1).toNat + 32) 1 (bs.drop 32) = .ok u) :
    execWxSummary rd rs1 s = .next (u.setScan h { c with tail := true }) := by
  rw [execWxSummary, wxRun_privileged hx hu hvu]
  simp only [hscan, hbody, htail, Bool.not_false, if_true, hstore]

/-- The first 32 bytes end the instruction. -/
theorem execWxSummary_head (htail : c.tail = true)
    (hstore : s.hartStore h k (s.hartPa k .store) (k.reg rs1).toNat 1 (s.summaryHead c bs) = .ok u) :
    execWxSummary rd rs1 s = .next (u.hartDone h rd (BitVec.ofNat 64 (2 ^ 32 * bs.length))) := by
  rw [execWxSummary, wxRun_privileged hx hu hvu]
  simp only [hscan, hbody, htail, Bool.not_true, Bool.false_eq_true, if_false, hstore]
  rfl
end
end

/-- The record begins with its signature and version (R388). -/
theorem summary_prefix (s : State) (a : Accessor) (c : SumScan) : ∃ rest, s.summary a c = leBytes 4 0x57585355 ++ leBytes 2 1 ++ rest := by
  unfold State.summary
  simp only [List.append_assoc]
  exact ⟨_, rfl⟩

/-- Its first 32 bytes are the record's but for CHANGED, which says whether the layout generation has moved (R389). -/
theorem summaryHead_spec (s : State) (c : SumScan) {bs : List Byte} (hlen : 32 ≤ bs.length) (hclear : bitAt (bs.getD 6 0) 0 = false) :
    (s.summaryHead c bs).length = 32 ∧ (bitAt ((s.summaryHead c bs).getD 6 0) 0 = true ↔ s.laygen ≠ c.gen) ∧
      ∀ i < 32, i ≠ 6 → (s.summaryHead c bs).getD i 0 = bs.getD i 0 := by
  unfold State.summaryHead
  simp only
  refine ⟨by simp; omega, ?_, fun i hi hne => ?_⟩
  · by_cases hgen : s.laygen = c.gen <;> simp_all [bitAt]
  · simp [List.getD, Ne.symm hne, hi]

/-- Settles O41: an exit queue decides what WX.PULLTOK gives, and the scan that WX.SUMMARY keeps says which part of it comes next. -/
theorem tokenPullAndSummary : Obligations.TokenPullAndSummary := by
  unfold Obligations.TokenPullAndSummary
  intro s h k rd rs1 rs2 hx v i
  refine ⟨?pull, ?summary⟩
  case pull =>
    intro l g p hl hg hp htype hname hseal hclean hrun
    have hcheck := pullCheck_running hp hrun hl hg htype hname hseal hclean
    refine ⟨fun hqueue => ?_, fun tok rest u hqueue hstore => ?_⟩
    · rw [hqueue] at hcheck
      change execWxPulltok rd rs1 rs2 s = _
      rw [execWxPulltok, wxRun_user hx, hcheck]
      exact congrArg Host.Outcome.next (wxDone_answered hx rd 6 0)
    · rw [hqueue] at hcheck
      change execWxPulltok rd rs1 rs2 s = _
      rw [execWxPulltok, wxRun_user hx, hcheck]
      simp only [tokenImage, hstore]
      rw [setExitQueue_running hp hrun]
      rfl
  case summary =>
    intro a covers at' goes scanning
    refine ⟨fun hu hvu => ⟨?none, ?start, fun c hscan => ⟨?swept, ?waits, fun bs u hbody => ⟨?tail, ?head⟩⟩⟩,
      fun c => summary_prefix s a c, fun c bs => summaryHead_spec s c⟩
    case none => exact execWxSummary_noLaunch hx hu hvu rd rs1
    case start =>
      intro hscan hsome
      have hstart := execWxSummary_starts hx hu hvu rd rs1 hscan hsome
      exact ⟨fun hoff => hstart.trans (congrArg _ (if_pos hoff)), fun hon => hstart.trans (congrArg _ (if_neg (not_not_intro hon)))⟩
    case swept =>
      intro hbody hall
      exact (execWxSummary_sweeps hx hu hvu rd rs1 hscan hbody).trans (congrArg _ (if_pos ((sweptFor_iff s a c).mpr hall)))
    case waits =>
      intro hbody ⟨l, hl, hcov, hrun, hno⟩
      refine (execWxSummary_sweeps hx hu hvu rd rs1 hscan hbody).trans (congrArg _ (if_neg fun hswept => ?_))
      obtain ⟨b, hb, hbl⟩ := (sweptFor_iff s a c).mp hswept l hl hcov hrun
      exact hno b hb hbl
    case tail => exact execWxSummary_tail hx hu hvu rd rs1 hscan hbody
    case head => exact execWxSummary_head hx hu hvu rd rs1 hscan hbody

end Sys2Proof.Machine
end

section
/-! SUPPORT. A queue of one launch at the placer, and the steps that follow a placement: the end of loading, a CTXNEXT that waits and the
commit of a span (R160, R167 to R173, R193, R200, R271). -/

namespace Sys2Proof.Machine

/-! ## Heads (R169, R170) -/

/-- Without a launch that waits at the head of a queue no decision becomes due. -/
theorem dueSince_of_no_head {s : State} (h : ∀ n, s.headAt n = none) (old : State) : s.dueSince old = s := by
  simp [State.dueSince, h]

theorem headAt_of_no_waiter {s : State} {l : Launch} (hs : s.launches = [l]) (hl : l.waits = false) (n : Nat) : s.headAt n = none := by
  simp [State.headAt, hs, earliest, hl]

/-- A due decision changes nothing else. -/
theorem dueSince_frame (s old : State) : { s.dueSince old with placeDue := s.placeDue } = s := by
  unfold State.dueSince
  simp only
  split <;> rfl

/-- A launch alone is the eligible head of its queue and of no other. -/
theorem head?_alone {s : State} {l : Launch} (hs : s.launches = [l]) (hl : l.waits = true) (n : Nat) :
    s.head? n = if l.queue = n then some l else none := by
  by_cases hn : l.queue = n <;> simp [State.head?, State.headAt, hs, earliest, hl, hn]

theorem range_filter_eq {n k : Nat} (hk : k < n) : (List.range n).filter (· == k) = [k] := by
  rw [List.filter_beq, List.count_eq_one_of_mem List.nodup_range (List.mem_range.mpr hk), List.replicate_one]

/-- A launch alone is the one head of its queue's priority, wherever the round-robin pointer stands. -/
theorem headsAt_alone {s : State} {l : Launch} (hs : s.launches = [l]) (hl : l.waits = true) (hq : l.queue < 64) (prio : Nat) :
    s.headsAt prio = if lqPrio (s.lq l.queue) = prio then [l.handle] else [] := by
  simp only [State.headsAt]
  generalize s.pointers.getD prio 0 = start
  have hturn : ∀ k ∈ List.range 64, (start + k) % 64 = l.queue ↔ k = (l.queue + 64 - start % 64) % 64 := by
    intro k hk
    rw [List.mem_range] at hk
    omega
  calc (List.range 64).filterMap _
      = ((List.range 64).filter (· == (l.queue + 64 - start % 64) % 64)).filterMap fun _ =>
          if lqPrio (s.lq l.queue) = prio then some l.handle else none := by
        rw [List.filterMap_filter]
        refine List.filterMap_congr fun k hk => ?_
        by_cases hk' : (start + k) % 64 = l.queue
        · simp only [head?_alone hs hl, hk', beq_iff_eq.mpr ((hturn k hk).mp hk'), if_true, Option.map_some]
        · simp [head?_alone hs hl, Ne.symm hk', mt (hturn k hk).mpr hk']
    _ = if lqPrio (s.lq l.queue) = prio then [l.handle] else [] := by
        rw [range_filter_eq (Nat.mod_lt _ (by decide))]
        split <;> simp_all

/-- A decision over one launch that waits tries it once (R170). -/
theorem decide'_alone {s : State} {l : Launch} (hs : s.launches = [l]) (hl : l.waits = true) (hq : l.queue < 64) (hres : s.reserved = []) :
    s.decide' = s.tryHead l.handle (lqPrio (s.lq l.queue)) := by
  have hlt : lqPrio (s.lq l.queue) < 4 := (bitsAt (s.lq l.queue) 58 2).isLt
  have hmay (p : Nat) : s.mayTry p l.handle = true := by simp [State.mayTry, hres]
  have hheads := headsAt_alone hs hl hq
  generalize lqPrio (s.lq l.queue) = prio at hlt hheads ⊢
  simp only [State.decide', hheads]
  interval_cases prio <;> simp [hmay]

/-! ## Trying the head (R162, R168, R170, R171, R405) -/

/-- Drawing a seal generation touches the trust block's counters and GENX alone (R405). -/
theorem drawGen_frame (s : State) (w : BitVec 8) : { (s.drawGen w).1 with keys := s.keys, regs := s.regs } = s := by
  unfold State.drawGen
  split
  · rfl
  · simp only
    split <;> rfl

theorem drawGen_launches (s : State) (w : BitVec 8) : (s.drawGen w).1.launches = s.launches := by
  have := congrArg State.launches (drawGen_frame s w); exact this
theorem drawGen_laygen (s : State) (w : BitVec 8) : (s.drawGen w).1.laygen = s.laygen := by
  have := congrArg State.laygen (drawGen_frame s w); exact this
theorem drawGen_placeDue (s : State) (w : BitVec 8) : (s.drawGen w).1.placeDue = s.placeDue := by
  have := congrArg State.placeDue (drawGen_frame s w); exact this
theorem drawGen_mem (s : State) (w : BitVec 8) : (s.drawGen w).1.mem = s.mem := by
  have := congrArg State.mem (drawGen_frame s w); exact this

/-- A launch that has found its place, with the seal generation drawn for it (R168, R405). -/
def State.asLoading (s : State) (l : Launch) (ms : List Region) : Launch := { l with
  members := ms
  state := .loading
  fails := 0
  placedNo := s.orderNo
  sl := match (s.drawGen l.world).2 with
    | some gen => { l.sl with gen := gen, prev := gen, epoch := false, seqs := [], prevClear := true }
    | none => l.sl }

/-- A launch alone that has found its place is LOADING there; the layout generation has advanced, and no decision has become due (R168,
R412). -/
theorem enterLoading_alone {s : State} {l : Launch} (hs : s.launches = [l]) (hscan : l.scanned = false) (ms : List Region) :
    (s.enterLoading l ms).launches = [s.asLoading l ms] ∧ (s.enterLoading l ms).laygen = s.laygen + 1 ∧
      (s.enterLoading l ms).placeDue = s.placeDue ∧ (s.enterLoading l ms).mem = s.mem := by
  have hone : ((s.drawGen l.world).1.putLaunch (s.asLoading l ms)).launches = [s.asLoading l ms] := by
    simp [State.putLaunch, drawGen_launches, hs, State.asLoading]
  have hdraw : (if l.scanned then (s, none) else s.drawGen l.world) = s.drawGen l.world := by simp [hscan]
  obtain ⟨u, hload, hu, hlaygen, hdue, hmem⟩ : ∃ u : State, s.enterLoading l ms = u.dueSince s ∧ u.launches = [s.asLoading l ms] ∧
      u.laygen = s.laygen + 1 ∧ u.placeDue = s.placeDue ∧ u.mem = s.mem := by
    rw [State.enterLoading, hdraw]
    exact ⟨_, rfl, hone, congrArg (· + 1) (drawGen_laygen s _), drawGen_placeDue s _, drawGen_mem s _⟩
  rw [hload, dueSince_of_no_head (headAt_of_no_waiter hu rfl)]
  exact ⟨hu, hlaygen, hdue, hmem⟩

/-- A launch that waits has no place beside which another would have to fit, and its own held ranges do not stop it (R161, R267). -/
theorem fitLaunch_beside_queued {k l : Launch} (hk : k.handle = l.handle) (hstate : k.state = .queued) :
    fitLaunch [k] [k] l = fitLaunch [] [] l := by
  simp [fitLaunch, heldClear, placedRegions, Launch.placed, hk, hstate]

/-- Alone, a launch that does not fit has no victims (R171). -/
theorem preempt_alone {s : State} {k l : Launch} (hs : s.launches = [k]) (hk : k.handle = l.handle) (hstate : k.state = .queued)
    (hfit : fitLaunch [] [] l = none) : s.preempt l = s := by
  have hstays : (s.launches.filter fun q => !(q.placed && q.toSaved)) = [k] := by simp [hs, Launch.placed, hstate]
  have hnone : fitLaunch s.launches [k] l = none := by rw [hs, fitLaunch_beside_queued hk hstate, hfit]
  have hvictims : [k].filter (victimFor s l) = [] := by simp [victimFor, hstate]
  simp only [State.preempt, hstays, hnone, hvictims, Option.isSome_none, Bool.false_eq_true, if_false, List.foldl_nil, takeVictims]

theorem launch?_alone {s : State} {l : Launch} (hs : s.launches = [l]) : s.launch? l.handle = some l := by simp [State.launch?, hs]

section
variable {s : State} {l : Launch} (hs : s.launches = [l]) (hseal : s.sealedWorld l.world = false) (prio : Nat)
include hs hseal

/-- A head that fits enters LOADING (R168, R170). -/
theorem tryHead_fits {ms : List Region} (hfit : fitLaunch [l] [l] l = some ms) : s.tryHead l.handle prio =
    { s with pointers := s.pointers.set prio ((l.queue + 1) % 64) }.enterLoading l ms := by
  rw [← hs] at hfit
  simp only [State.tryHead, launch?_alone hs, hseal, hfit, Bool.and_false, Bool.false_and, Bool.false_eq_true, if_false]

/-- One that does not counts a failure and stays where it is; nothing is reserved for it before its sixteenth (R170). -/
theorem tryHead_fails (hstate : l.state = .queued) (hres : s.reserved = []) (hfit : fitLaunch [l] [l] l = none) (hfails : l.fails < 15) :
    (s.tryHead l.handle prio).launches = [{ l with fails := l.fails + 1 }] ∧ (s.tryHead l.handle prio).reserved = [] ∧
      (s.tryHead l.handle prio).placeDue = s.placeDue ∧ (s.tryHead l.handle prio).laygen = s.laygen := by
  have halone : fitLaunch [] [] l = none := (fitLaunch_beside_queued rfl hstate).symm.trans hfit
  have hfew : ¬ 16 ≤ l.fails + 1 := by omega
  obtain ⟨u, htry, hu, hreserved, hdue, hlaygen⟩ : ∃ u : State, s.tryHead l.handle prio = u.preempt l ∧
      u.launches = [{ l with fails := l.fails + 1 }] ∧ u.reserved = [] ∧ u.placeDue = s.placeDue ∧ u.laygen = s.laygen := by
    rw [← hs] at hfit
    simp only [State.tryHead, launch?_alone hs, hseal, hfit, Bool.and_false, Bool.false_and, Bool.false_eq_true, if_false]
    exact ⟨_, rfl, by simp [State.putLaunch, hs], by simp [hfew, hres], rfl, rfl⟩
  rw [htry, preempt_alone (l := l) hu rfl hstate halone]
  exact ⟨hu, hreserved, hdue, hlaygen⟩
end

/-- The marks that YIELD made are gone (R198). -/
def State.endYields (s : State) : State :=
  { s with launches := s.launches.map fun l => { l with members := l.members.map fun g => { g with yielded := false } } }

theorem endYields_alone {s : State} {l : Launch} (hs : s.launches = [l]) :
    s.endYields.launches = [{ l with members := l.members.map fun g => { g with yielded := false } }] := by
  simp [State.endYields, hs]

/-- A placement decision over one launch that waits tries it, and ends the marks that YIELD made (R170, R198). -/
theorem execPlacementDecision_alone {s : State} {l : Launch} (hpkg : s.pkg = .running) (hs : s.launches = [l]) (hdue : 0 < s.placeDue)
    (hl : l.waits = true) (hq : l.queue < 64) (hres : s.reserved = []) : execPlacementDecision s =
      .next (({ s with placeDue := s.placeDue - 1 } : State).tryHead l.handle (lqPrio (s.lq l.queue))).endYields := by
  have hstops : ¬ (decide (s.placeDue = 0) || s.pkg != .running) = true := by simp [hpkg, Nat.ne_of_gt hdue]
  have hdecide := decide'_alone (s := { s with placeDue := s.placeDue - 1 }) hs hl hq hres
  exact (if_neg hstops).trans (congrArg (fun u => Host.Outcome.next (State.endYields u)) hdecide)

/-! ## After the placement -/

/-- The patterns of a launch are in place (R160, R168). -/
theorem execLoadComplete_runs {s : State} {h : Word32} {l : Launch} (hpkg : s.pkg = .running) (hl : s.launch? h = some l)
    (hstate : l.state = .loading) (hscan : l.scanned = false) : execLoadComplete h s = .next (s.putLaunch { l with
      state := .running
      members := l.members.map fun g => { g with sweepStart := s.cycle } }) := by
  simp [execLoadComplete, hl, hstate, hscan, hpkg]

/-- The oldest CTXNEXT that waits for a context loads it when it is free (R173, R200, R412). -/
theorem execCtxnextLoadComplete_loads {s : State} {r : Rid} {l : Launch} {g : Region} {q : CtxReq} {rest : List CtxReq}
    (h : Runs s r l g) (hreqs : g.ctxReqs = q :: rest) (hctx : q.ctx < 8) (hfree : g.ctx.getD q.ctx .free = .free)
    (hseal : s.sealedWorld l.world = false) : execCtxnextLoadComplete r (BitVec.ofNat 3 q.ctx) s = .next (answerAll
      (s.putLaunch (l.put r.m { g.withCtx q.ctx q.addr q.elems with ctxReqs := rest })).bumpLayout r (ctrlSender r.m) q.reply
      (BitVec.ofNat 256 (256 * q.ctx))) := by
  have hc : (BitVec.ofNat 3 q.ctx).toNat = q.ctx := by rw [BitVec.toNat_ofNat, Nat.mod_eq_of_lt hctx]
  have htake : takeFirst (fun k => k.ctx == q.ctx) g.ctxReqs = some (q, rest) := by
    rw [hreqs]
    exact takeFirst_cons rest (beq_self_eq_true _)
  simp only [execCtxnextLoadComplete, h.launch, h.region, hc, htake, h.live, hfree, hseal, Bool.not_true, bne_self_eq_false,
    Bool.false_and, Bool.or_false, Bool.false_eq_true, if_false, stat_to]
  rfl

/-! ## The commit of a span (R271) -/

/-- Without accesses, memory ports and tiles a region has no store to perform. -/
theorem storing_idle {g : Region} (h : g.accs = [] ∧ g.mports = [] ∧ g.tiles = []) (n : Nat) : g.storing n = false := by
  simp [Region.storing, h]

/-- A launch whose oldest closed span has committed (R193, R271). -/
def Launch.spanCommitted (l : Launch) : Launch := { l with
  committed := l.committed + 1
  held := l.held.map fun r => if r.active = some l.committed then { r with active := none } else r
  spanReplies := l.spanReplies.filter fun q => q.1 != l.committed
  state := if l.state == .retired && decide (l.committed + 1 = l.closedSpans) then .committed else l.state }

/-- With no reply waiting, the ranges, the count and the state are all that changes. -/
theorem spanCommitted_eq {l : Launch} (hreplies : l.spanReplies = []) : l.spanCommitted = { l with
    committed := l.committed + 1
    held := l.held.map fun q => if q.active = some l.committed then { q with active := none } else q
    state := if l.state = .retired ∧ l.committed + 1 = l.closedSpans then .committed else l.state } := by
  simp [Launch.spanCommitted, hreplies]

/-- Without routes no declaration closes. -/
theorem closeDeclarations_of_no_routes {s : State} (h : s.routes = []) (l : Launch) (n : Nat) : s.closeDeclarations l n = s := by
  simp [State.closeDeclarations, h]

/-- Nothing waits for the lines that are released. -/
theorem serveSys_of_no_waits {s : State} (h : s.sysWaits = []) : s.serveSys = s := by
  cases s
  cases h
  rfl

/-- A span whose stores are performed commits: its ranges and lines are released, and a retired launch whose spans have all committed
is over (R193, R271). -/
theorem execSpanCommit_commits {s : State} {h : Word32} {l : Launch} (hpkg : s.pkg = .running) (hl : s.launch? h = some l)
    (hclosed : l.committed < l.closedSpans) (hidle : ∀ g ∈ l.members, g.accs = [] ∧ g.mports = [] ∧ g.tiles = []) (hroutes : s.routes = [])
    (hreplies : l.spanReplies = []) (hwaits : s.sysWaits = []) : ∃ t, execSpanCommit h s = .next t ∧
      t.heldLines = s.heldLines.filter (fun k => !(k.r.h == h && k.span == l.committed)) ∧ t.mem = s.mem ∧
      t.launch? h = some l.spanCommitted := by
  have hgo : ¬ (s.pkg != .running || decide (l.closedSpans ≤ l.committed) || l.members.any fun g => g.storing l.committed) = true := by
    have hstores : ∀ g ∈ l.members, g.storing l.committed = false := fun g hg => storing_idle (hidle g hg) _
    simpa [hpkg, hclosed] using hstores
  obtain ⟨u, hexec, hlines, hmem, hlaunches, husys⟩ : ∃ u : State, execSpanCommit h s = .next (u.dueSince s).serveSys ∧
      u.heldLines = s.heldLines.filter (fun k => !(k.r.h == h && k.span == l.committed)) ∧ u.mem = s.mem ∧
      u.launches = (s.putLaunch l.spanCommitted).launches ∧ u.sysWaits = [] := by
    simp only [execSpanCommit, hl]
    rw [if_neg hgo, closeDeclarations_of_no_routes (s := s.putLaunch _) hroutes]
    refine ⟨{ s.putLaunch l.spanCommitted with heldLines := s.heldLines.filter fun k => !(k.r.h == h && k.span == l.committed) }, ?_,
      rfl, rfl, rfl, hwaits⟩
    rw [hreplies, Launch.spanCommitted, hreplies]
    rfl
  have hdue := dueSince_frame u s
  have hh : l.handle = h := launch?_handle hl
  rw [hexec, serveSys_of_no_waits (by have := congrArg State.sysWaits hdue; exact this.trans husys)]
  refine ⟨_, rfl, ?_, ?_, ?_⟩
  · have := congrArg State.heldLines hdue
    exact this.trans hlines
  · have := congrArg State.mem hdue
    exact this.trans hmem
  · have := congrArg State.launches hdue
    rw [State.launch?, this.trans hlaunches]
    exact launch?_putLaunch_same hl hh

/-- Settles O45: a decision over one head by whether it fits, and an equation for each of the steps after it. -/
theorem placementLoadingAndSpans : Obligations.PlacementLoadingAndSpans := by
  unfold Obligations.PlacementLoadingAndSpans
  intro s l hpkg
  refine ⟨fun hs hdue hstate hq hres hseal hscan => ?placement, fun h hl hstate hscan => execLoadComplete_runs hpkg hl hstate hscan,
    fun r g q rest hrun hreqs hctx hfree hseal => execCtxnextLoadComplete_loads hrun hreqs hctx hfree hseal, ?commit⟩
  case placement =>
    have hdecision := execPlacementDecision_alone hpkg hs hdue (by simp [Launch.waits, hstate]) hq hres
    refine ⟨fun ms hfit => ?fits, fun hfit hfails => ?fails⟩
    case fits =>
      rw [tryHead_fits (s := { s with placeDue := s.placeDue - 1 }) hs hseal _ hfit] at hdecision
      obtain ⟨hlaunches, hlaygen, hdue', hmem⟩ := enterLoading_alone (s := { s with
        placeDue := s.placeDue - 1
        pointers := s.pointers.set (lqPrio (s.lq l.queue)) ((l.queue + 1) % 64) }) hs hscan ms
      exact ⟨_, _, hdecision, endYields_alone hlaunches, rfl, rfl, rfl, rfl, hlaygen, hdue', hmem⟩
    case fails =>
      obtain ⟨hlaunches, hreserved, hdue', hlaygen⟩ := tryHead_fails (s := { s with placeDue := s.placeDue - 1 }) hs hseal
        (lqPrio (s.lq l.queue)) hstate hres hfit hfails
      exact ⟨_, _, hdecision, endYields_alone hlaunches, hstate, rfl, rfl, hreserved, hdue', hlaygen⟩
  case commit =>
    intro h hl hclosed hidle hroutes hreplies hwaits
    obtain ⟨t, hexec, hlines, hmem, hlaunch⟩ := execSpanCommit_commits hpkg hl hclosed hidle hroutes hreplies hwaits
    exact ⟨t, hexec, hlines, hmem, hlaunch.trans (congrArg some (spanCommitted_eq hreplies))⟩

end Sys2Proof.Machine
end

section
/-! SUPPORT. The region controller between a sweep and the end of a launch (R172, R174, R181 to R183, R186, R205). -/

namespace Sys2Proof.Machine

/-! ## Sweeps (R181 to R183, R186) -/

/-- A sweep without a late participant reads every change. -/
theorem readDeltas_all (ds : List Delta) : readDeltas [] ds = (ds, []) := by
  induction ds with
  | nil => rfl
  | cons d ds ih => simp [readDeltas, ih, lateAt]

/-- Adding to a key what it has gained changes that key alone. -/
theorem lookupD_addTo {α : Type} [Add α] (d v : α) (k n : Nat) (l : List (Nat × α)) :
    lookupD d n (setKey k (lookupD d k l + v) l) = if n = k then lookupD d k l + v else lookupD d n l := by
  by_cases h : n = k
  · rw [if_pos h, h, lookupD_setKey_same]
  · rw [if_neg h, lookupD_setKey_other h]

theorem nodup_eraseDups : (ks : List Nat) → ks.eraseDups.Nodup
  | [] => List.nodup_nil
  | k :: ks => by
    rw [List.eraseDups_cons, List.nodup_cons]
    exact ⟨by simp, nodup_eraseDups _⟩
termination_by ks => ks.length
decreasing_by exact Nat.lt_succ_of_le (List.length_filter_le _ _)

/-- Keys that are gained once each gain what is theirs; the others stay. -/
theorem lookupD_foldl_addTo (gain : Nat → Word32) (keys : List Nat) (hkeys : keys.Nodup) (l : List (Nat × Word32)) (n : Nat) :
    lookupD 0 n (keys.foldl (fun c k => setKey k (lookupD 0 k c + gain k) c) l) =
      if n ∈ keys then lookupD 0 n l + gain n else lookupD 0 n l := by
  induction keys generalizing l with
  | nil => simp
  | cons k keys ih =>
    obtain ⟨hk, hkeys⟩ := List.nodup_cons.mp hkeys
    rw [List.foldl_cons, ih hkeys, lookupD_addTo]
    by_cases hn : n = k
    · subst hn
      simp [hk]
    · simp [hn]

/-- No participant has a delta for a key that nothing changed. -/
theorem deltaSum_of_unchanged {ds : List Delta} {k : Nat} (h : ∀ d ∈ ds, d.key ≠ k) : deltaSum ds k = 0 := by
  have hnone : ds.filter (fun d => d.key == k) = [] := by simpa [List.filter_eq_nil_iff] using h
  simp [deltaSum, hnone]

/-- The census gains the sum of the participants' deltas, key by key (R181). -/
theorem lookupD_addCensus (census : List (Nat × Word32)) (ds : List Delta) (n : Nat) :
    lookupD 0 n (addCensus census ds) = lookupD 0 n census + BitVec.ofInt 32 (deltaSum ds n) := by
  rw [addCensus, lookupD_foldl_addTo (fun k => BitVec.ofInt 32 (deltaSum ds k)) _ (nodup_eraseDups _)]
  split
  · rfl
  · rename_i hn
    rw [deltaSum_of_unchanged fun d hd hk => hn (List.mem_eraseDups.mpr (List.mem_map.mpr ⟨d, hd, hk⟩))]
    simp

theorem readBit_iff (bit : Delta → Bool) (ds : List Delta) (c : Nat) :
    readBit bit ds c = true ↔ ∃ d ∈ ds, d.key % 64 = c ∧ bit d = true := by
  simp [readBit]

/-- The pairs that are quiescent after a sweep that left nothing unread (R182). -/
theorem mem_quietAfter {g : Region} {census : List (Nat × Word32)} {ds : List Delta} {k : Nat} (hk : k < 512) :
    k ∈ quietAfter g census ds [] ↔ lookupD 0 k census = 0 ∧
      (k ∈ g.quiet ∨ k ∈ g.zeroLast ∧ ∀ d ∈ ds, d.key % 64 = k % 64 → d.act = false) := by
  have hact : readBit Delta.act ds (k % 64) = false ↔ ∀ d ∈ ds, d.key % 64 = k % 64 → d.act = false := by
    rw [← Bool.not_eq_true, readBit_iff]
    simp
  simp [quietAfter, hk, hact]

/-- No admission is left unread. -/
theorem admitAfter_none (g : Region) : admitAfter g [] = [] := by
  simp [admitAfter, countIf]

/-- A table of the values that are not zero reads as the values. -/
theorem lookupD_nonzero (f : Nat → Nat) (ks : List Nat) (n : Nat) :
    lookupD 0 n ((ks.map fun c => (c, f c)).filter fun p => p.2 != 0) = if n ∈ ks then f n else 0 := by
  induction ks with
  | nil => rfl
  | cons k ks ih =>
    rw [List.map_cons, List.filter_cons]
    by_cases hzero : f k = 0 <;> by_cases hn : k = n
    · subst hn
      simp [hzero, ih]
    · simp [hzero, ih, Ne.symm hn]
    · subst hn
      simp [hzero, lookupD]
    · simp [hzero, lookupD, ih, hn, Ne.symm hn]

section
variable (g : Region)

/-- A sweep that reads every change leaves none, and no admission outside the census (R181 to R183). -/
theorem sweep_all : (g.sweep []).deltas = [] ∧ (g.sweep []).admits = [] ∧ (g.sweep []).sweeps = g.sweeps + 1 ∧
    (g.sweep []).elems = g.elems ∧ (g.sweep []).links = g.links ∧ (g.sweep []).census = addCensus g.census g.deltas ∧
    (g.sweep []).quiet = quietAfter g (addCensus g.census g.deltas) g.deltas [] := by
  simp only [Region.sweep, readDeltas_all, admitAfter_none, and_self]

/-- A colour that fired or has no token starts again; another's stall counter grows by the length of the sweep (R186). -/
theorem lookupD_sweep_stall {c : Nat} (hc : c < 64) : lookupD 0 c (g.sweep []).stall =
    if (∃ d ∈ g.deltas, d.key % 64 = c ∧ d.fire = true) ∨ (g.sweep []).censSum c = 0 then 0 else lookupD 0 c g.stall + g.sweepLen := by
  have hsum : ({ g with census := addCensus g.census g.deltas } : Region).censSum c = (g.sweep []).censSum c := by
    simp only [Region.sweep, readDeltas_all]
    rfl
  have hclear : (readBit Delta.fire g.deltas c || (g.sweep []).censSum c == 0) = true ↔
      (∃ d ∈ g.deltas, d.key % 64 = c ∧ d.fire = true) ∨ (g.sweep []).censSum c = 0 := by
    rw [Bool.or_eq_true, readBit_iff, beq_iff_eq]
  rw [← hsum] at hclear ⊢
  rw [← if_congr hclear rfl rfl]
  simp only [Region.sweep, readDeltas_all]
  rw [lookupD_nonzero, if_pos (List.mem_range.mpr hc)]
end

/-- A block of the summary leaves the launches and the memory (R389). -/
theorem noteBlock_frame (s : State) (h : Word32) : { s.noteBlock h with harts := s.harts } = s := by
  unfold State.noteBlock
  split
  · rfl
  · split
    · rfl
    · rfl

/-- A sweep ends (R181). -/
theorem execSweepEnd_ends {s : State} {r : Rid} {l : Launch} {g : Region} (h : Runs s r l g) (hdue : g.due = [])
    (htime : g.sweepStart + g.sweepLen ≤ s.cycle) : ∃ t, execSweepEnd r [] s = .next t ∧ t.region? r = some (g.sweep []) ∧ t.mem = s.mem := by
  have hgo : (s.live l && g.due.isEmpty && decide (g.sweepStart + g.sweepLen ≤ s.cycle)) = true := by simp [h.live, hdue, htime]
  obtain ⟨u, hexec, hlaunch, hmem⟩ : ∃ u : State, execSweepEnd r [] s = .next (u.noteBlock r.h) ∧
      u.launch? r.h = some { (l.put r.m (g.sweep [])) with sl := { l.sl with prevClear := (s.prevTokens l).isEmpty } } ∧ u.mem = s.mem := by
    simp only [execSweepEnd, h.launch, h.region, hgo, if_true]
    exact ⟨_, rfl, launch?_putLaunch_same h.launch h.handle, rfl⟩
  have hframe := noteBlock_frame u r.h
  have hlaunches := congrArg State.launches hframe
  refine ⟨_, hexec, ?_, ?_⟩
  · refine (region?_eq (l := { (l.put r.m (g.sweep [])) with sl := { l.sl with prevClear := (s.prevTokens l).isEmpty } }) ?_ ?_)
    · rw [← hlaunch]
      exact congrArg (List.find? _) hlaunches
    · simp [h.index_lt]
  · have := congrArg State.mem hframe
    exact this.trans hmem

/-- Is a pair quiescent in every member (R182, R424)? -/
theorem quietKey_iff (l : Launch) (k : Nat) : l.quietKey k = true ↔ ∀ g ∈ l.members, k ∈ g.quiet := by
  simp [Launch.quietKey]

theorem quietAll_iff (l : Launch) : l.quietAll = true ↔ ∀ g ∈ l.members, ∀ k < 512, k ∈ g.quiet := by
  simp only [Launch.quietAll, List.all_eq_true, List.mem_range, quietKey_iff]
  exact ⟨fun h g hg k hk => h k hk g hg, fun h k hk g hg => h g hg k hk⟩

/-! ## Stalled colours (R186) -/

theorem startPurge_first {l : Launch} {c : Nat} (h : ∀ p ∈ l.purges, p.col ≠ c) (ws : List Waiter) :
    l.startPurge c ws = { l with purges := l.purges ++ [⟨c, ws⟩] } := by
  have hno : l.purging c = false := by simpa [Launch.purging] using h
  simp only [Launch.startPurge, hno, Bool.false_eq_true, if_false]

theorem startPurge_joins {l : Launch} {c : Nat} (h : ∃ p ∈ l.purges, p.col = c) (ws : List Waiter) :
    l.startPurge c ws = { l with purges := l.purges.map fun p => if p.col = c then { p with waiters := p.waiters ++ ws } else p } := by
  simp only [Launch.startPurge, (l.purging_iff c).mpr h, if_true, beq_iff_eq]

section
variable {s : State} {r : Rid} {l : Launch} {g : Region} (h : Runs s r l g)
include h

/-- A colour past its horizon is stalled, recorded, and purged under AUTOP (R186). -/
theorem execStalledColour_stalls {col : BitVec 6} (hdue : col.toNat ∈ g.due) (hpurge : ∀ p ∈ l.purges, p.col ≠ col.toNat) :
    let c := col.toNat
    let l1 := l.put r.m { g with due := g.due.filter (· != c), stalled := g.stalled ++ [c] }
    execStalledColour r col s = .next
      ((s.putLaunch (if colAutop (g.col c) then { l1 with purges := l.purges ++ [⟨c, []⟩] } else l1)).deliver
        { regionFault s l g (colWorld (g.col c)) (mkCause 4 3) 1 0 0 with col := c }) := by
  have hgo : (s.live l && g.due.contains col.toNat) = true := by simp [h.live, hdue]
  simp only [execStalledColour, h.launch, h.region, hgo, if_true]
  rw [startPurge_first (l := l.put r.m _) hpurge]
  rfl

/-! ## Contexts (R172) -/

/-- A drained context becomes free and its slots empty (R172). -/
theorem execContextRetire_retires {ctx : BitVec 3} (hdrain : g.ctx.getD ctx.toNat .free = .draining)
    (hquiet : ∀ g' ∈ l.members, ∀ k < 64, (64 * ctx.toNat + k) ∈ g'.quiet) :
    execContextRetire r ctx s = .next (s.putRegion r { g with
      ctx := g.ctx.set ctx.toNat .free
      ctxCfg := g.ctxCfg.set ctx.toNat 0
      elems := g.elems.map fun e => { e with slots := e.slots.filter fun q => q.1 / 32 != ctx.toNat } }) := by
  have hpairs : ((List.range 64).all fun k => l.quietKey (64 * ctx.toNat + k)) = true := by
    simp only [List.all_eq_true, List.mem_range, quietKey_iff]
    exact fun k hk g' hg => hquiet g' hg k hk
  simp only [execContextRetire, h.launch, h.region, h.live, hdrain, hpairs, beq_self_eq_true, Bool.and_self, if_true]

/-! ## The end of a launch (R174, R205) -/

variable (hquiet : ∀ g' ∈ l.members, ∀ k < 512, k ∈ g'.quiet)
include hquiet

/-- The entry ports of an auto-closing launch close when all is quiescent (R174). -/
theorem execAutoClose_closes (hauto : l.autoc = true) (hadm : l.admitted = true) :
    execAutoClose r.h s = .next (s.putLaunch { l with members := l.members.map fun g' => g'.setClosed true }) := by
  have hgo : (s.live l && l.autoc && l.admitted && l.quietAll) = true := by
    simp [h.live, hauto, hadm, (quietAll_iff l).mpr hquiet]
  simp only [execAutoClose, h.launch, hgo, if_true]

/-- A closed, quiescent launch retires (R174). -/
theorem execRegionRetire_retires (hpurges : l.purges = [])
    (hclosed : ∀ g' ∈ l.members, ∀ p ∈ g'.ports, portType p.word = 3 → p.closed = true) :
    execRegionRetire r.h s = .next (s.retire l l.exitTokens) := by
  have hall : l.allClosed = true := by
    simp only [Launch.allClosed, List.all_eq_true, Bool.or_eq_true, bne_iff_ne, ne_eq, ← imp_iff_not_or]
    exact hclosed
  have hgo : (s.live l && l.allClosed && l.quietAll && l.purges.isEmpty) = true := by
    simp [h.live, hall, (quietAll_iff l).mpr hquiet, hpurges]
  simp only [execRegionRetire, h.launch, hgo, if_true]
end

/-- Harts that are woken change alone. -/
theorem wake_frame (s : State) (i : Nat) (rd : BitVec 5) (v : Word64) : { s.wake i rd v with harts := s.harts } = s := by
  unfold State.wake State.hartDone
  split
  · split
    · split <;> rfl
    · rfl
  · rfl

theorem wakeFreezers_frame (s : State) (l : Launch) (code : Nat) : { s.wakeFreezers l code with harts := s.harts } = s := by
  unfold State.wakeFreezers
  induction l.freezeWaiters generalizing s with
  | nil => rfl
  | cons w ws ih =>
    rw [List.foldl_cons]
    have hrest := ih (s.wake w.1 w.2 (BitVec.ofNat 64 code))
    have hone := wake_frame s w.1 w.2 (BitVec.ofNat 64 code)
    generalize s.wake w.1 w.2 (BitVec.ofNat 64 code) = u at hrest hone ⊢
    generalize List.foldl _ u ws = t at hrest ⊢
    cases s; cases t; cases u
    simp_all

/-- A retired launch: its last span closed, its exit tokens in its result store, its ports empty and closed (R193, R205). -/
theorem retire_leaves {s : State} {l : Launch} {h : Word32} (hl : s.launch? h = some l) (results : List (Nat × List Token)) :
    ∃ l', (s.retire l results).launch? h = some l' ∧ l'.state = .retired ∧ l'.closedSpans = l.openSpan + 1 ∧ l'.results = results ∧
      (∀ g ∈ l'.members, ∀ p ∈ g.ports, p.queue = [] ∧ p.closed = true) ∧ (s.retire l results).laygen = s.laygen + 1 := by
  have hframe := wakeFreezers_frame s l 4
  have hlaygen : (s.wakeFreezers l 4).laygen = s.laygen := by have := congrArg State.laygen hframe; exact this
  have hlaunches : (s.wakeFreezers l 4).launches = s.launches := by have := congrArg State.launches hframe; exact this
  have hl' : (s.wakeFreezers l 4).launch? h = some l := by rw [State.launch?, hlaunches]; exact hl
  have hh : l.handle = h := launch?_handle hl
  unfold State.retire
  simp only
  refine ⟨_, launch?_putLaunch_same hl' hh, rfl, rfl, rfl, ?_, congrArg (· + 1) hlaygen⟩
  simp

/-- Settles O43: the fields of a sweep one by one, and an equation for each step of the region controller. -/
theorem sweepsStallsAndRetirement : Obligations.SweepsStallsAndRetirement := by
  unfold Obligations.SweepsStallsAndRetirement
  intro s r l g h quietAll
  refine ⟨fun hdue htime => ?sweep, fun col hdue hpurge => execStalledColour_stalls h hdue hpurge,
    fun ctx hdrain hquiet => execContextRetire_retires h hdrain hquiet,
    fun hquiet hauto hadm => execAutoClose_closes h hquiet hauto hadm, fun hquiet hpurges hclosed => ?retire⟩
  case sweep =>
    obtain ⟨t, hexec, hregion, hmem⟩ := execSweepEnd_ends h hdue htime
    obtain ⟨hdeltas, hadmits, hsweeps, helems, hlinks, hcensus, hquiet⟩ := sweep_all g
    refine ⟨t, g.sweep [], hexec, hregion, hdeltas, hadmits, hsweeps, helems, hlinks, hmem, fun k => ?_, fun k hk => ?_,
      fun c hc => lookupD_sweep_stall g hc⟩
    · rw [hcensus, lookupD_addCensus]
    · rw [hquiet, hcensus, mem_quietAfter hk]
  case retire => exact ⟨execRegionRetire_retires h hquiet hpurges hclosed, retire_leaves h.launch l.exitTokens⟩

end Sys2Proof.Machine
end

section
/-! SUPPORT. The region instructions whose reply may wait at the region controller: LAUNCH, PURGE, SPANEND and CTXNEXT (R173, R187, R193,
R198, R271). -/

namespace Sys2Proof.Machine

/-- The launch of an issuing instruction, one more reply pending at its region controller (R198). -/
def Ctx.awaiting (c : Ctx) : Launch := { c.l with members := c.l.members.set c.p.r.m (c.g.count .ctrl c.tag 1 false) }

theorem pending_region {c : Ctx} {u : State} {g : Region} (hg : u.region? c.p.r = some g) :
    c.pending u = u.putRegion c.p.r (g.count .ctrl c.tag 1 false) := by
  simp only [Ctx.pending, hg]

/-- Where an arrival closed a span for the set that issues (R198, R271). -/
def SpanDue.For (d : SpanDue) (c : Ctx) : Prop :=
  d.m = c.p.r.m ∧ d.x = c.p.x ∧ d.y = c.p.y ∧ d.slot = c.set.slot ∧ d.tag = c.tag

section
variable {l : Launch} {c : Ctx}

/-- The model's test whether a span was closed for the set. -/
def SpanDue.isFor (c : Ctx) (e : SpanDue) : Bool := e.m == c.p.r.m && e.x == c.p.x && e.y == c.p.y && e.slot == c.set.slot && e.tag == c.tag

theorem isFor_iff (e : SpanDue) : e.isFor c = true ↔ e.For c := by
  simp [SpanDue.isFor, SpanDue.For, and_assoc]

theorem spanOf_isFor : l.spanOf c = match l.spanDue.find? (SpanDue.isFor c) with
    | some d => (d.span, { l with spanDue := l.spanDue.eraseP (SpanDue.isFor c) })
    | none => (l.openSpan, l.closeSpan) := rfl

/-- The first span that an arrival closed for the set. -/
theorem spanOf_due {d : SpanDue} {pre post : List SpanDue} (hdue : l.spanDue = pre ++ d :: post) (hd : d.For c) (hpre : ∀ e ∈ pre, ¬ e.For c) :
    l.spanOf c = (d.span, { l with spanDue := pre ++ post }) := by
  have hpre' (e) (he : e ∈ pre) : ¬ e.isFor c = true := mt (isFor_iff e).mp (hpre e he)
  have hd' : d.isFor c = true := (isFor_iff d).mpr hd
  rw [spanOf_isFor, hdue, List.find?_append, List.find?_eq_none.mpr hpre', List.find?_cons_of_pos hd', List.eraseP_append_right _ hpre',
    List.eraseP_cons_of_pos hd']
  rfl

/-- A set that no arrival brought closes the open span (log 36). -/
theorem spanOf_open (hnone : ∀ d ∈ l.spanDue, ¬ d.For c) : l.spanOf c = (l.openSpan, l.closeSpan) := by
  rw [spanOf_isFor, List.find?_eq_none.mpr fun d hd => mt (isFor_iff d).mp (hnone d hd)]
end

section
variable {f : Fields} {s : State} {c : Ctx} (hi : Issues f s c (dests f).length) (hp : c.Plain)
include hi

theorem Issues.launch : s.launch? c.p.r.h = some c.l := (ctx?_some hi.here).2.2.1

theorem Issues.region : s.region? c.p.r = some c.g :=
  region?_eq hi.launch (ctx?_some hi.here).2.2.2.1

theorem Issues.pending_eq : c.pending s = s.putLaunch c.awaiting := Machine.pending_eq hi.launch (ctx?_some hi.here).2.2.2.1

theorem Issues.awaits : (c.pending s).launch? c.p.r.h = some c.awaiting := by
  have hhandle : c.l.handle = c.p.r.h := launch?_handle hi.launch
  rw [hi.pending_eq]
  exact launch?_putLaunch_same hi.launch hhandle

/-- The waiting launch changed once more. -/
theorem Issues.pending_putLaunch {k : Launch} (hk : k.handle = c.l.handle) : (c.pending s).putLaunch k = s.putLaunch k := by
  rw [hi.pending_eq]
  exact putLaunch_twice s c.awaiting k hk.symm

theorem Issues.replyOf_eq : c.replyOf = ⟨c.p.r.m, c.p.x, c.p.y, c.set.slot, f, c.tag, c.set.leftLast⟩ := by
  rw [Ctx.replyOf, hi.f_eq]

include hp

/-- An instruction that leaves its reply to the region controller completes without a token. -/
theorem fire_defers {own : Ctx → Effect} {u : State} (h : own c = c.only u) : fire f s own = .next (c.issuedIn u c.e [] []) :=
  fire_exact hi hp own (h.trans (only_eff c u)) (Nat.zero_le _)

/-- LAUNCH submits its record and replies with the status and the handle (R198). -/
theorem execLaunch_submits : execLaunch f s =
    (let x := operands c.e f c.set none
     let r := (s.putLaunch c.awaiting).submit (x.b ++ x.a) (c.g.tagWorld c.tag) c.l.priv
     .next (c.issuedIn (answerAll r.1 c.p.r (ctrlSender c.p.r.m) c.replyOf
       (BitVec.ofNat 256 (2 ^ 32 * r.2.2.toNat + r.2.1.toNat))) c.e [] [])) := by
  refine fire_defers hi hp ?_
  simp only [hi.s_eq, hi.opnds_eq, hi.pending_eq]
  rfl

/-! ## PURGE (R187, R198) -/

theorem execPurge_unused (hv : colV (c.g.coltab.getD (bitsAt f.imm 0 6).toNat 0) = false) :
    execPurge f s = .next (c.issued c.e (c.toAll 11)) := by
  refine fire_sends hi hp _ c.e _ ?_ rfl (hi.length_toAll 11).le
  simp only [Region.col, immCol, hv, Bool.not_false, if_true]
  rfl

/-- The purge of a used colour starts or is joined, and its reply waits for it. -/
theorem execPurge_starts (hv : colV (c.g.coltab.getD (bitsAt f.imm 0 6).toNat 0) = true) :
    execPurge f s = .next (c.issuedIn (s.putLaunch (c.awaiting.startPurge (bitsAt f.imm 0 6).toNat [.reply c.replyOf])) c.e [] []) := by
  have hhandle (l : Launch) (col : Nat) (ws : List Waiter) : (l.startPurge col ws).handle = l.handle := by
    unfold Launch.startPurge
    split <;> rfl
  refine fire_defers hi hp ?_
  simp only [Region.col, immCol, hv, Bool.not_true, Bool.false_eq_true, if_false, hi.s_eq, hi.awaits]
  exact congrArg c.only (hi.pending_putLaunch (hhandle c.awaiting _ _))

/-! ## SPANEND (R193, R198, R271) -/

section
variable {d : SpanDue} {pre post : List SpanDue} (hdue : c.l.spanDue = pre ++ d :: post) (hd : d.For c) (hpre : ∀ e ∈ pre, ¬ e.For c)
include hdue hd hpre

/-- The reply waits for the span that the operand's arrival closed. -/
theorem execSpanend_waits (hopen : c.l.committed ≤ d.span) : execSpanend f s = .next (c.issuedIn
    (s.putLaunch { c.awaiting with spanDue := pre ++ post, spanReplies := c.l.spanReplies ++ [(d.span, c.replyOf)] }) c.e [] []) := by
  have hlate : ¬ d.span < c.l.committed := by omega
  refine fire_defers hi hp ?_
  simp only [spanOf_due hdue hd hpre, hlate, if_false, hi.s_eq, hi.awaits]
  rw [spanOf_due (l := c.awaiting) hdue hd hpre]
  exact congrArg c.only (hi.pending_putLaunch rfl)

/-- A span that has committed is reported at once. -/
theorem execSpanend_reports (hpast : d.span < c.l.committed) : execSpanend f s = .next (c.issuedIn
    (s.putLaunch { c.l with spanDue := pre ++ post }) c.e (c.toAll (BitVec.ofNat 256 (2 ^ 64 * (spanId c.p.r.h d.span).toNat))) []) := by
  refine fire_exact hi hp _ ?_ (hi.length_toAll _).le
  simp only [spanOf_due hdue hd hpre, hpast, if_true, stat_to]
  simp only [all_eff, hi.s_eq, hi.launch]
end

/-- The open span closes where no arrival has closed one for the set, and the reply waits for it (log 36). -/
theorem execSpanend_closes (hnone : ∀ d ∈ c.l.spanDue, ¬ d.For c) (hopen : c.l.committed ≤ c.l.openSpan) : execSpanend f s =
    .next (c.issuedIn (s.putLaunch { c.awaiting with
      spanReplies := c.l.spanReplies ++ [(c.l.openSpan, c.replyOf)]
      openSpan := c.l.openSpan + 1
      closedSpans := c.l.openSpan + 1 }) c.e [] []) := by
  have hlate : ¬ c.l.openSpan < c.l.committed := by omega
  refine fire_defers hi hp ?_
  simp only [spanOf_open hnone, hlate, if_false, hi.s_eq, hi.awaits]
  rw [spanOf_open (l := c.awaiting) hnone]
  exact congrArg c.only (hi.pending_putLaunch rfl)

/-! ## CTXNEXT (R173, R198) -/

/-- A configuration that loads waits for its context, a running context named for it draining. -/
theorem execCtxnext_queues {g : Region} {hs : List HeldRange} (hload : loadImage s c.l.world
    (bitsAt (operands c.e f c.set none).a 0 64 : Word64).toNat c.l.priv none [] (some c.g) = .ok g hs) :
    let o := (bitsAt f.mod 0 3).toNat
    ∃ n, execCtxnext f s = .next (c.issuedIn (s.putRegion c.p.r (({ c.g with
      ctx := if bitAt f.mod 3 && c.g.ctx.getD o .free == .running then c.g.ctx.set o .draining else c.g.ctx
      ctxReqs := c.g.ctxReqs ++ [⟨bitsAt (operands c.e f c.set none).a 0 64, if bitAt f.mod 3 then some o else none, n, g.elems, none,
        c.replyOf⟩] } : Region).count .ctrl c.tag 1 false)) c.e [] []) := by
  constructor
  apply fire_defers hi hp
  simp only [hi.s_eq, hi.opnds_eq, hload]
  rw [pending_region (region?_putRegion_same hi.region), putRegion_twice _ _ hi.region]

/-- One that does not load is answered with status 8, its fault record delivered. -/
theorem execCtxnext_rejects {r : FaultRec} (hload : (∃ e, loadImage s c.l.world (bitsAt (operands c.e f c.set none).a 0 64 : Word64).toNat
      c.l.priv none [] (some c.g) = .bad e ∧ r = rejectRecord s c.l.world e) ∨
    ∃ cause va, loadImage s c.l.world (bitsAt (operands c.e f c.set none).a 0 64 : Word64).toNat c.l.priv none [] (some c.g) =
      .unread cause va ∧ r = bareFault s c.l.world cause 0 (BitVec.ofNat 64 va)) :
    execCtxnext f s = .next (c.issuedIn (answerAll ((s.deliver r).putRegion c.p.r (c.g.count .ctrl c.tag 1 false)) c.p.r
      (ctrlSender c.p.r.m) c.replyOf 8) c.e [] []) := by
  have hregion : (s.deliver r).region? c.p.r = some c.g := (region?_deliver s r _).trans hi.region
  refine fire_defers hi hp ?_
  obtain ⟨e, hbad, rfl⟩ | ⟨cause, va, hunread, rfl⟩ := hload
  · simp only [hi.s_eq, hi.opnds_eq, hbad, pending_region hregion, stat_to']
  · simp only [hi.s_eq, hi.opnds_eq, hunread, pending_region hregion, stat_to']
end

/-- Settles O28: an equation for each instruction, by the colour, the span, the image that it names. -/
theorem regionControllerInstructions : Obligations.RegionControllerInstructions := by
  unfold Obligations.RegionControllerInstructions
  intro f s c hi hp x col q waiting l1 done refused
  have hq : c.replyOf = q := hi.replyOf_eq
  refine ⟨?launch, execPurge_unused hi hp, fun hv hnew => ?starts, fun hv hold => ?joins, ⟨fun d pre post hdue hd hpre => ⟨?waits, ?reports⟩, ?closes⟩,
    ?queues, fun e hbad => ?bad, fun cause va hunread => ?unread⟩
  case launch => exact hq ▸ execLaunch_submits hi hp
  case starts =>
    have := execPurge_starts hi hp hv
    rw [startPurge_first (l := c.awaiting) hnew, hq] at this
    exact this
  case joins =>
    have := execPurge_starts hi hp hv
    rw [startPurge_joins (l := c.awaiting) hold, hq] at this
    exact this
  case waits => exact fun hopen => hq ▸ execSpanend_waits hi hp hdue hd hpre hopen
  case reports => exact execSpanend_reports hi hp hdue hd hpre
  case closes => exact fun hnone hopen => hq ▸ execSpanend_closes hi hp hnone hopen
  case queues =>
    intro g hs hload
    obtain ⟨n, hexec⟩ := execCtxnext_queues hi hp hload
    rw [hq] at hexec
    refine ⟨n, _, _, hexec, fun hkeep => ?_, fun hdrain => ?_⟩
    · simp [hkeep]
    · refine ⟨by simp [hdrain], fun hrun => ?_, fun hrun => ?_⟩
      · exact if_pos (by rw [hdrain, hrun]; rfl)
      · exact if_neg (by simpa [hdrain] using hrun)
  case bad =>
    have := execCtxnext_rejects hi hp (.inl ⟨e, hbad, rfl⟩)
    rw [hq] at this
    exact this
  case unread =>
    have := execCtxnext_rejects hi hp (.inr ⟨cause, va, hunread, rfl⟩)
    rw [hq] at this
    exact this

end Sys2Proof.Machine
end

section
/-! SUPPORT. What a purge of a colour leaves of a region, and how it ends (R187, R188, R198, R204). -/

namespace Sys2Proof.Machine

/-! ## Elements without the tokens of a colour -/

/-- No token of a colour waits at the element or in its output queue (R187). -/
def Elem.Without (c : Nat) (e : Elem) : Prop := (∀ n ∈ e.store, tagCol n.tok.tag ≠ c) ∧ ∀ t, .tok t ∈ e.out → tagCol t.tag ≠ c

/-- What takeFirst leaves was there, and so was what it takes. -/
theorem takeFirst_subset {α : Type} {q : α → Bool} {vs : List α} {v : α} {rest : List α} (h : takeFirst q vs = some (v, rest)) :
    v ∈ vs ∧ ∀ a ∈ rest, a ∈ vs := by
  induction vs generalizing rest with
  | nil => exact absurd h (by simp [takeFirst])
  | cons a vs ih =>
    by_cases ha : q a = true
    · obtain ⟨rfl, rfl⟩ : a = v ∧ vs = rest := by simpa [takeFirst_cons vs ha] using h
      exact ⟨List.mem_cons_self, fun b hb => List.mem_cons_of_mem _ hb⟩
    · obtain ⟨rest', hrest, rfl⟩ : ∃ r, takeFirst q vs = some (v, r) ∧ a :: r = rest := by
        simpa [takeFirst, ha, Option.map_eq_some_iff] using h
      obtain ⟨hv, hsub⟩ := ih hrest
      exact ⟨List.mem_cons_of_mem _ hv, fun b hb => by
        obtain rfl | hb := List.mem_cons.mp hb
        · exact List.mem_cons_self
        · exact List.mem_cons_of_mem _ (hsub b hb)⟩

section
variable {c : Nat} {e : Elem}

theorem Elem.Without.restrict (h : e.Without c) {st : List Entry} (hsub : ∀ n ∈ st, n ∈ e.store) : ({ e with store := st } : Elem).Without c :=
  ⟨fun n hn => h.1 n (hsub n hn), h.2⟩

theorem Elem.Without.setSreg (h : e.Without c) (ctx n : Nat) (v : Payload) : (e.setSreg ctx n v).Without c := h

theorem Elem.Without.putRed (h : e.Without c) (r : Reduction) : (e.putRed r).Without c := h

theorem Elem.Without.complete (h : e.Without c) (now : Nat) (set : ReadySet) : (e.complete now set).Without c := h

theorem Elem.Without.wait (h : e.Without c) {g : Region} {slot side : Nat} {t : Token} {use : EntryUse} {e' : Elem}
    (ht : tagCol t.tag ≠ c) (hwait : e.wait g slot side t use = some e') : e'.Without c := by
  obtain ⟨b, -, rfl⟩ := Option.map_eq_some_iff.mp hwait
  refine ⟨fun n hn => ?_, h.2⟩
  obtain hn | hn := List.mem_append.mp hn
  · exact h.1 n hn
  · rw [List.mem_singleton.mp hn]
    exact ht

theorem Elem.Without.addOperand (h : e.Without c) (o : Op) (f : Fields) (r : Reduction) (v : Payload) : (addOperand o f e r v).1.Without c := by
  unfold Machine.addOperand
  simp only
  split <;> exact h

theorem Elem.Without.addOrdered (h : e.Without c) (f : Fields) (op : Token → Payload) (r : Reduction) (t : Token) :
    (addOrdered f op e r t).1.Without c := by
  unfold Machine.addOrdered
  split
  · exact h.addOperand _ f r _
  · exact h

/-- The ordered window gives up tokens and takes none. -/
theorem Elem.Without.drainWindow (h : e.Without c) (tagw : List Nat) (k : Nat) (f : Fields) (op : Token → Payload) (n : Nat) (r : Reduction)
    (used : List Token) : (drainWindow tagw k f op n e r used).1.Without c := by
  induction n generalizing e r used with
  | zero => exact h
  | succ n ih =>
    rw [Machine.drainWindow]
    split
    · exact h
    · next heq => exact ih ((h.restrict (takeFirst_subset heq).2).addOrdered f op r _) _ _

theorem Elem.Without.drainAll (h : e.Without c) (tagw : List Nat) (k : Nat) (f : Fields) (op : Token → Payload) (n : Nat) (r : Reduction)
    (used : List Token) : (drainAll tagw k f op n e r used).1.Without c := by
  induction n generalizing e r used with
  | zero => exact h
  | succ n ih =>
    rw [Machine.drainAll]
    split
    · exact h
    · exact ih ((h.restrict fun m hm => List.mem_of_mem_filter hm).addOrdered f op r _) _ _

theorem Elem.Without.takeOrdered (h : e.Without c) {g : Region} {f : Fields} {op : Token → Payload} {r : Reduction} {t : Token}
    {x : Elem × Reduction × List Token} (ht : tagCol t.tag ≠ c) (hx : takeOrdered g f op e r t = some x) : x.1.Without c := by
  unfold Machine.takeOrdered at hx
  simp only at hx
  split at hx
  · exact Option.some.inj hx ▸ (h.addOrdered f op r t).drainWindow _ _ _ _ _ _ _
  · split at hx
    · exact Option.some.inj hx ▸ h
    · split at hx
      · exact Option.some.inj hx ▸ h
      · obtain ⟨e', hwait, rfl⟩ := Option.map_eq_some_iff.mp hx
        exact h.wait ht hwait

/-- A token of another colour that waits or is taken leaves none of the colour. -/
theorem Elem.Without.takeReduce (h : e.Without c) {o : Op} {g : Region} {f : Fields} {op : Token → Payload} {r : Reduction} {side : Nat}
    {t : Token} {x : Elem × Reduction × List Token} (ht : tagCol t.tag ≠ c) (hx : takeReduce o g f op e r side t = some x) :
    x.1.Without c := by
  have hpass (b : Bool) (r' r2 : Reduction) (tagw : List Nat) (k : Nat) (used : List Token) :
      (if b then Machine.drainWindow tagw k f op 64 e r' used else (e, r2, used)).1.Without c := by
    split
    · exact h.drainWindow _ _ _ _ _ _ _
    · exact h
  unfold Machine.takeReduce at hx
  simp only at hx
  split at hx
  · exact Option.some.inj hx ▸ h
  · split at hx
    · split at hx
      · exact Option.some.inj hx ▸ hpass _ _ _ _ _ _
      · exact Option.some.inj hx ▸ hpass _ _ _ _ _ _
    · split at hx
      · exact Option.some.inj hx ▸ hpass _ _ _ _ _ _
      · split at hx
        · exact h.takeOrdered ht hx
        · split at hx
          · exact Option.some.inj hx ▸ h
          · exact Option.some.inj hx ▸ h.addOperand _ _ _ _

/-- An instance that completes gives up the tokens of its window. -/
theorem Elem.Without.finishReduce (h : e.Without c) {o : Op} {now : Nat} {g : Region} {f : Fields} {op : Token → Payload} {r : Reduction}
    {x : Elem × List Token} (hx : finishReduce o now g f op e r = some x) : x.1.Without c := by
  have hdrained (b : Bool) (k : Nat) (y : Reduction × List Token) (p : Entry → Bool) :
      (if b then Machine.drainAll g.tagw k f op 64 e r [] else ({ e with store := e.store.filter p }, y)).1.Without c := by
    split
    · exact h.drainAll _ _ _ _ _ _ _
    · exact h.restrict fun m hm => List.mem_of_mem_filter hm
  unfold Machine.finishReduce at hx
  simp only at hx
  split at hx
  · exact absurd hx (by simp)
  · split at hx
    · exact absurd hx (by simp)
    · exact Option.some.inj hx ▸ hdrained _ _ _ _

theorem Elem.Without.reduceOne (h : e.Without c) {o : Op} {now : Nat} {g : Region} {f : Fields} {op : Token → Payload} {ctx slot side : Nat}
    {t : Token} {x : Elem × List Token} (ht : tagCol t.tag ≠ c) (hx : reduceOne o now g f op ctx slot e side t = some x) :
    x.1.Without c := by
  have hactive (b : Bool) (key : Word64) : (if b then e.activate f ctx slot key else e).Without c := by
    split <;> exact h
  unfold Machine.reduceOne at hx
  simp only at hx
  split at hx
  · exact Option.some.inj hx ▸ hactive _ _
  · split at hx
    · obtain ⟨e', hwait, rfl⟩ := Option.map_eq_some_iff.mp hx
      exact (hactive _ _).wait ht hwait
    · split at hx
      · exact Option.some.inj hx ▸ hactive _ _
      · split at hx
        · exact absurd hx (by simp)
        · next htake =>
          have htaken := (hactive _ _).takeReduce (x := (_, _, _)) ht htake
          split at hx
          · exact Option.some.inj hx ▸ htaken
          · next hfinish =>
            have hfinished := (htaken.putRed _).finishReduce hfinish
            exact Option.some.inj hx ▸ hfinished

/-- The tokens that wait at a reduction are none of the colour, and so neither are those that stay. -/
theorem Elem.Without.runReduce (h : e.Without c) {o : Op} {now : Nat} {g : Region} {f : Fields} {op : Token → Payload} {ctx slot n : Nat}
    {used : List Token} {x : Elem × List Token} (hx : runReduce o now g f op ctx slot n e used = some x) : x.1.Without c := by
  induction n generalizing e used with
  | zero => exact Option.some.inj hx ▸ h
  | succ n ih =>
    rw [Machine.runReduce] at hx
    split at hx
    · exact Option.some.inj hx ▸ h
    · next heq =>
      obtain ⟨hmem, hsub⟩ := takeFirst_subset heq
      split at hx
      · exact absurd hx (by simp)
      · next hone => exact ih ((h.restrict hsub).reduceOne (h.1 _ hmem) hone) hx

theorem Elem.Without.nextReductions (h : e.Without c) (g : Region) (op : Token → Payload) (now : Nat) (ended : List (Nat × Nat)) :
    (g.nextReductions op now ended e).1.Without c := by
  refine List.foldlRecOn (motive := fun x : Elem × List Token => x.1.Without c) ended _ h fun x hx p _ => ?_
  simp only
  split
  · next hrun =>
    have hran := hx.runReduce hrun
    exact hran
  · exact hx
end

/-- A purge takes the tokens of its colour from an element (R187). -/
theorem discard_without (e : Elem) (c : Nat) : (e.discard c).Without c := by
  refine ⟨fun n hn => ?_, fun t ht => ?_⟩
  · have := (List.mem_filter.mp hn).2
    simpa [Token.of] using this
  · have := (List.mem_filter.mp ht).2
    simpa [OutItem.of, Token.of] using this

/-! ## Regions without the tokens of a colour -/

/-- What a purge of a colour leaves of a region: no token of the colour on its links, in its port queues or at its elements, no reply of an
access of it, and none of its counts (R187). -/
structure Region.Purged (g : Region) (c : Nat) : Prop where
  links : ∀ k ∈ g.links, tagCol k.tok.tag ≠ c
  ports : ∀ q ∈ g.ports, ∀ k ∈ q.queue, tagCol k.tag ≠ c
  elems : ∀ e ∈ g.elems, e.Without c
  accs : ∀ a ∈ g.accs, tagCol a.req.tag = c → a.mute = true ∧ a.left = true
  quiet : ∀ k ∈ g.quiet, k % 64 ≠ c
  census : ∀ k, k % 64 = c → lookupD 0 k g.census = 0
  admits : lookupD 0 c g.admits = 0

section
variable {g : Region} {c : Nat} (h : g.Purged c)
include h

theorem Region.Purged.putTile (t : Tile) : (g.putTile t).Purged c := { h with }

theorem Region.Purged.count (src : Src) (tag : Word64) (d : Int) (fire : Bool) : (g.count src tag d fire).Purged c := { h with }

theorem Region.Purged.putElem {e : Elem} (he : e.Without c) : (g.putElem e).Purged c :=
  have helems : ∀ k ∈ (g.putElem e).elems, k.Without c := by
    intro k hk
    obtain ⟨k, hmem, rfl⟩ := List.mem_map.mp hk
    split
    · exact he
    · exact h.elems k hmem
  { h with elems := helems }

theorem Region.Purged.serveFrame (t : Tile) (pool : Word64) (now : Nat) : (g.serveFrame t pool now).Purged c := by
  unfold Region.serveFrame
  split
  · exact h.putTile t
  · split
    · next helem =>
      split
      · exact (h.putTile _).putElem ((h.elems _ (List.mem_of_find?_eq_some helem)).complete _ _)
      · exact h.putTile t
    · exact h.putTile t
end

theorem Region.Purged.serveFrames {g : Region} {c : Nat} (h : g.Purged c) (x y now n : Nat) : (g.serveFrames x y now n).Purged c := by
  induction n generalizing g with
  | zero => exact h
  | succ n ih =>
    rw [Region.serveFrames]
    split
    · exact h
    · split
      · exact h
      · split
        · exact h
        · exact ih (h.serveFrame _ _ _)

/-- An association list without the keys of a test looks up the default there. -/
theorem lookupD_filter_none {α : Type} (d : α) {k : Nat} {p : Nat × α → Bool} (hp : ∀ v, p (k, v) = false) (vs : List (Nat × α)) :
    lookupD d k (vs.filter p) = d := by
  induction vs with
  | nil => rfl
  | cons v vs ih =>
    by_cases hv : p v = true
    · have hne : v.1 ≠ k := fun heq => by
        subst heq
        exact absurd hv (by simp [hp v.2])
      rw [List.filter_cons_of_pos hv, lookupD, if_neg hne, ih]
    · rw [List.filter_cons_of_neg hv, ih]

theorem purgeAccs_mute {as : List Access} {c : Nat} {a : Access} (ha : a ∈ purgeAccs as c) (hc : tagCol a.req.tag = c) :
    a.mute = true ∧ a.left = true := by
  obtain ⟨b, hb, rfl⟩ := List.mem_map.mp ha
  have hkeep := (List.mem_filter.mp hb).2
  by_cases hof : b.req.of c = true
  · have hleft : b.left = true := by simpa [hof] using hkeep
    rw [if_pos hof]
    exact ⟨rfl, hleft⟩
  · rw [if_neg hof] at hc
    exact absurd (beq_iff_eq.mpr hc) hof

/-- A region after a purge of the colour (R187). -/
theorem discard_purged (g : Region) (op : Token → Payload) (now c : Nat) : (g.discard op now c).Purged c := by
  refine List.foldlRecOn (motive := fun g : Region => g.Purged c) _ _ ?_ fun g hg u _ => hg.count _ _ _ _
  refine List.foldlRecOn (motive := fun g : Region => g.Purged c) _ _ ?_ fun g hg t _ => hg.serveFrames _ _ _ _
  exact {
    links := fun k hk => by simpa [Token.of] using (List.mem_filter.mp hk).2
    ports := fun q hq k hk => by
      obtain ⟨q, -, rfl⟩ := List.mem_map.mp hq
      simpa [Token.of] using (List.mem_filter.mp hk).2
    elems := fun e he => by
      obtain ⟨x, hx, rfl⟩ := List.mem_map.mp he
      obtain ⟨e, -, rfl⟩ := List.mem_map.mp hx
      exact (discard_without e c).nextReductions _ _ _ _
    accs := fun a ha => purgeAccs_mute ha
    quiet := fun k hk => by simpa using (List.mem_filter.mp hk).2
    census := fun k hk => lookupD_filter_none _ (fun v => by simp [hk]) _
    admits := lookupD_filter_none _ (fun v => by simp) _ }

/-! ## The purge's end -/

theorem dropFaces_frame (s : State) (p : Pit) (gone : Face → Bool) : { s.dropFaces p gone with pits := s.pits } = s := by
  unfold State.dropFaces
  simp only
  split <;> rfl

/-- Faces without answers: the launches and the memory stay (R364). -/
theorem dropAskers_keeps (s : State) (fs : List FaceTo) : (s.dropAskers fs).launches = s.launches ∧ (s.dropAskers fs).mem = s.mem := by
  refine List.foldlRecOn (motive := fun u : State => u.launches = s.launches ∧ u.mem = s.mem) _ _ ⟨rfl, rfl⟩ fun u hu p _ => ?_
  have hframe := dropFaces_frame u p fun f => fs.contains f.who
  exact ⟨(congrArg State.launches hframe).trans hu.1, (congrArg State.mem hframe).trans hu.2⟩

/-- The launch at a purge's end; one that is to be saved drains as soon as no purge runs (R187, R385). -/
def Launch.purged (l : Launch) (s : State) (c : Nat) : Launch :=
  let l1 := { l with
    members := l.members.map fun g => g.discard (fun u => (openTok s l.sl (g.tagWorld u.tag) u).pay) s.cycle c
    purges := (l.purges.filter fun q => q.col != c).map fun q => { q with waiters := q.waiters.filter fun w => !w.of c }
    spanReplies := l.spanReplies.filter fun q => tagCol q.2.tag != c
    spanDue := l.spanDue.filter fun d => tagCol d.tag != c }
  if l1.toSaved && l1.purges.isEmpty && l1.drainFrom.isNone then l1.drain s.cycle else l1

theorem purged_handle (l : Launch) (s : State) (c : Nat) : (l.purged s c).handle = l.handle := by
  unfold Launch.purged
  simp only
  split <;> rfl

theorem purged_purges (l : Launch) (s : State) (c : Nat) : ∀ q ∈ (l.purged s c).purges, q.col ≠ c := by
  have hpurges : (l.purged s c).purges = (l.purges.filter fun q => q.col != c).map fun q => { q with waiters := q.waiters.filter fun w => !w.of c } := by
    unfold Launch.purged
    simp only
    split <;> rfl
  rw [hpurges]
  intro q hq
  obtain ⟨q, hmem, rfl⟩ := List.mem_map.mp hq
  simpa using (List.mem_filter.mp hmem).2

theorem purged_members (l : Launch) (s : State) (c : Nat) : ∀ g ∈ (l.purged s c).members, g.Purged c := by
  have hmembers : (l.purged s c).members =
      l.members.map fun g => g.discard (fun u => (openTok s l.sl (g.tagWorld u.tag) u).pay) s.cycle c := by
    unfold Launch.purged
    simp only
    split <;> rfl
  rw [hmembers]
  intro g hg
  obtain ⟨g, -, rfl⟩ := List.mem_map.mp hg
  exact discard_purged g _ _ c

/-- The purge's end: the launch purged, the operations that waited act, the record, the answers (R187, R188, R198, R297). -/
theorem execPurgeComplete_ends {s : State} {h : Word32} {l : Launch} {col : BitVec 6} {p : Purge} (hl : s.launch? h = some l)
    (hlive : s.live l = true) (hp : l.purges.find? (fun q => q.col == col.toNat) = some p) :
    let c := col.toNat
    let n := l.members.foldl (fun a g => a + g.doomed c) (countIf (fun k => k.h == h && k.tok.of c) s.stnToks)
    let u := (({ s with stnToks := s.stnToks.filter fun k => !(k.h == h && k.tok.of c) } : State).putLaunch (l.purged s c)).dropAskers
      ((l.members.zip l.rids).flatMap fun q => q.1.doomedAskers q.2 c)
    execPurgeComplete h col s = .next (p.waiters.foldl (fun t w => t.answerPurge h c n w) ((l.rids.foldl State.settleSheets u).purgeRecord h c n)) := by
  simp only [execPurgeComplete, hl, hp, hlive, Bool.not_true, Bool.false_eq_true, if_false]
  rfl

/-- Settles O44: what `Launch.purged` leaves of the launch, and who is told. -/
theorem purgesEmptyTheirColour : Obligations.PurgesEmptyTheirColour := by
  unfold Obligations.PurgesEmptyTheirColour
  intro s h l g col p hr c hp n
  refine ⟨⟨_, l.purged s c, execPurgeComplete_ends hr.launch hr.live hp, ?_⟩, fun u l2 g2 hl2 hg2 => ⟨fun hexit => ?_, fun hexit => ?_⟩,
    fun u q hq => ?_, fun u i k rd hk hblocked => ?_⟩
  · obtain ⟨hlaunches, hmem⟩ := dropAskers_keeps
      (({ s with stnToks := s.stnToks.filter fun k => !(k.h == h && k.tok.of c) } : State).putLaunch (l.purged s c))
      ((l.members.zip l.rids).flatMap fun q => q.1.doomedAskers q.2 c)
    refine ⟨?_, hmem, purged_purges l s c, fun g' hg' => ?_⟩
    · have hthere : ({ s with stnToks := s.stnToks.filter fun k => !(k.h == h && k.tok.of c) } : State).launch? h = some l := hr.launch
      rw [State.launch?, hlaunches]
      exact launch?_putLaunch_same hthere ((purged_handle l s c).trans hr.handle)
    · obtain ⟨links, ports, elems, accs, quiet, census, admits⟩ := purged_members l s c g' hg'
      exact ⟨links, ports, elems, accs, quiet, census, admits⟩
  · simp only [State.purgeRecord, hl2, hg2, hexit, if_true]
  · simp only [State.purgeRecord, hl2, hg2, hexit, if_false]
    rfl
  · rw [State.answerPurge, if_neg hq, stat_to]
  · simp only [State.answerPurge, State.wake, hk, hblocked, if_true, State.hartDone, State.answered, Nat.add_zero]

end Sys2Proof.Machine
end

section
/-! SUPPORT. The region instructions on the colour table and the entry ports: CENSUS, COLGET, CTOK, QUOTA, HORIZON, COLSET and YIELD
(R198, R199). -/

namespace Sys2Proof.Machine

/-! ## Fields and flags as numbers -/

/-- A flag is 1 where its condition holds, else 0. -/
theorem toNat_flag {b : Bool} {p : Prop} (h : b = true ↔ p) : (p → b.toNat = 1) ∧ (¬ p → b.toNat = 0) :=
  ⟨fun hp => by rw [h.mpr hp]; rfl, fun hp => by rw [Bool.eq_false_iff.mpr (mt h.mp hp)]; rfl⟩

/-- The bits outside a field that is replaced stay. -/
theorem getLsbD_setBits_other {n len : Nat} (w : BitVec n) {lo : Nat} (v : BitVec len) {i : Nat} (h : lo + len ≤ n) (hi : i < lo ∨ lo + len ≤ i) :
    (setBits w lo v).getLsbD i = w.getLsbD i := by
  by_cases hn : i < n
  · rw [getLsbD_setBits w lo v i hn h, if_neg (by omega)]
  · rw [BitVec.getLsbD_of_ge _ _ (by omega), BitVec.getLsbD_of_ge _ _ (by omega)]

/-- QUOTA's entry has the new quota (R198). -/
theorem colQuota_setBits (e : BitVec 256) (q : BitVec 32) : colQuota (setBits e 192 q) = q.toNat := by
  rw [colQuota, bitsAt_setBits_same e 192 q (by decide)]

/-- The entry that HORIZON makes of an old one (R198). -/
def horizonEntry (e : BitVec 256) (hzn : BitVec 5) (autop : BitVec 1) : BitVec 256 := setBits (setBits e 249 hzn) 254 autop

theorem colHzn_horizonEntry (e : BitVec 256) (hzn : BitVec 5) (autop : BitVec 1) : colHzn (horizonEntry e hzn autop) = hzn.toNat := by
  rw [colHzn, horizonEntry, bitsAt_setBits_other _ 254 autop 249 5 (by decide) (by decide) (.inl (by decide)),
    bitsAt_setBits_same e 249 hzn (by decide)]

theorem colAutop_horizonEntry (e : BitVec 256) (hzn : BitVec 5) (autop : BitVec 1) :
    colAutop (horizonEntry e hzn autop) = autop.getLsbD 0 := by
  rw [colAutop, bitAt, horizonEntry, getLsbD_setBits _ 254 autop 254 (by decide) (by decide), if_pos (by decide)]

theorem getLsbD_horizonEntry_other (e : BitVec 256) (hzn : BitVec 5) (autop : BitVec 1) {n : Nat} (h : n < 249 ∨ n = 255) :
    (horizonEntry e hzn autop).getLsbD n = e.getLsbD n := by
  rw [horizonEntry, getLsbD_setBits_other _ autop (by decide) (by omega), getLsbD_setBits_other _ hzn (by decide) (by omega)]

/-! ## The census (R198) -/

/-- Is a colour quiescent in a context, or in all of them? -/
theorem quiet_iff (quiet : List Nat) (cx col : Nat) (all : Bool) :
    (if all then (List.range 8).all fun k => quiet.contains (64 * k + col) else quiet.contains (64 * cx + col)) = true ↔
      if all then ∀ k < 8, (64 * k + col) ∈ quiet else (64 * cx + col) ∈ quiet := by
  cases all <;> simp

/-- The number that CENSUS and WX.CENSUS read, by its flags and the count (R198, R204). -/
theorem censusWord_eq (q st pu : Bool) (n : Nat) :
    (if q then 2 ^ 8 else 0) + (if st then 2 ^ 9 else 0) + (if pu then 2 ^ 10 else 0) + 2 ^ 32 * n =
      2 ^ 8 * q.toNat + 2 ^ 9 * st.toNat + 2 ^ 10 * pu.toNat + 2 ^ 32 * n := by
  cases q <;> cases st <;> cases pu <;> rfl

theorem censusBits_eq (l : Launch) (g : Region) (cens : Word32) (cx col : Nat) (all : Bool) :
    censusBits l g (fun k => g.quiet.contains k) cens cx col all =
      2 ^ 8 * (if all then (List.range 8).all fun k => g.quiet.contains (64 * k + col) else g.quiet.contains (64 * cx + col)).toNat +
        2 ^ 9 * (g.stalled.contains col).toNat + 2 ^ 10 * (l.purging col).toNat + 2 ^ 32 * cens.toNat :=
  censusWord_eq _ _ _ _

/-! ## What each instruction does -/

/-- The first check that fails: an unused colour, then a foreign world (R198; log 34). -/
theorem colourCheck_eq (c : Ctx) (k : Nat) : c.colourCheck k =
    if colV (c.g.col k) = false then 11 else if colWorld (c.g.col k) ≠ c.g.tagWorld c.tag then 10 else 0 := by
  simp only [Ctx.colourCheck, Bool.not_eq_true', bne_iff_ne]

/-- Does CTOK name a port: an entry port, chosen by its number or by 31 (R198)? -/
def Ctx.ctokNames (c : Ctx) (f : Fields) (i : Nat) : Bool :=
  portType (c.g.portWord i) == 3 && ((bitsAt f.imm 0 5).toNat == 31 || i == (bitsAt f.imm 0 5).toNat)

/-- The state after an issue that replaces an entry of its region's colour table, advances the layout generation and replies (R199). -/
def Ctx.recoloured (c : Ctx) (s : State) (col : Nat) (e : BitVec 256) (v : Payload) : State :=
  c.issuedIn (s.putRegion c.p.r (c.g.setCol col e)).bumpLayout c.e (c.toAll v) []

section
variable {f : Fields} {s : State} {c : Ctx} (hi : Issues f s c (dests f).length) (hp : c.Plain)
include hi hp

/-- An instruction that only replies completes. -/
theorem fire_replies {own : Ctx → Effect} {v : Payload} (h : own c = c.all v) : fire f s own = .next (c.issued c.e (c.toAll v)) :=
  fire_sends hi hp own c.e _ (h.trans (all_eff c v)) rfl (hi.length_toAll v).le

/-- One that changes its region completes. -/
theorem fire_changesRegion {own : Ctx → Effect} {g : Region} {v : Payload} (h : own c = c.region g v) :
    fire f s own = .next (c.issuedIn (s.putRegion c.p.r g) c.e (c.toAll v) []) := by
  rw [region_eff, hi.s_eq] at h
  exact fire_exact hi hp own h (hi.length_toAll v).le

/-- One that replaces an entry of the colour table completes. -/
theorem fire_recolours {own : Ctx → Effect} {col : Nat} {e : BitVec 256} {v : Payload} (h : own c = c.recolourTable col e v) :
    fire f s own = .next (c.recoloured s col e v) := by
  rw [recolour_eff, hi.s_eq] at h
  exact fire_exact hi hp own h (hi.length_toAll v).le

theorem execCensus_refused (hbad : c.colourCheck (immCol f) ≠ 0) :
    execCensus f s = .next (c.issued c.e (c.toAll (BitVec.ofNat 256 (c.colourCheck (immCol f))))) := by
  refine fire_replies hi hp ?_
  rw [if_pos hbad, stat_zero]

/-- The census as of the last sweep, with the colour's flags and the number of sweeps. -/
theorem execCensus_reads (hok : c.colourCheck (immCol f) = 0) :
    let cx := (bitsAt f.imm 6 3).toNat
    let all := bitAt f.imm 9
    let v := if all then c.g.censSum (immCol f) else c.g.cens cx (immCol f)
    execCensus f s = .next (c.issued c.e (c.toAll (BitVec.ofNat 256
      (censusBits c.l c.g (fun k => c.g.quiet.contains k) v cx (immCol f) all + 2 ^ 64 * c.g.sweeps.toNat)))) := by
  refine fire_replies hi hp ?_
  simp only [if_neg (not_not_intro hok), stat_to]

theorem execColget_refused (hbad : c.colourCheck (immCol f) ≠ 0) : execColget f s = .next (c.issued c.e (c.toAll 0)) :=
  fire_replies hi hp (congrArg c.all (if_neg hbad))

theorem execColget_reads (hok : c.colourCheck (immCol f) = 0) : execColget f s = .next (c.issued c.e (c.toAll (c.g.col (immCol f)))) :=
  fire_replies hi hp (congrArg c.all (if_pos hok))

/-- CTOK gives the first failing check of its ports. -/
theorem execCtok_refused {i : Nat} (hlt : i < c.g.ports.length) (hname : c.ctokNames f i = true)
    (hbad : c.colourCheck (portCol (c.g.portWord i)) ≠ 0)
    (hfirst : ∀ j < i, c.ctokNames f j = true → c.colourCheck (portCol (c.g.portWord j)) = 0) :
    execCtok f s = .next (c.issued c.e (c.toAll (BitVec.ofNat 256 (c.colourCheck (portCol (c.g.portWord i)))))) := by
  have hcode := firstBad_at (c.ctokNames f) (fun i => c.colourCheck (portCol (c.g.portWord i))) _ i hlt hname hbad hfirst
  refine fire_replies hi hp (Eq.trans (if_pos (ne_of_eq_of_ne hcode hbad)) ?_)
  rw [stat_zero]
  exact congrArg (fun n => c.all (BitVec.ofNat 256 n)) hcode

/-- Else CTOK closes or reopens its ports and no others. -/
theorem execCtok_sets (hok : ∀ i < c.g.ports.length, c.ctokNames f i = true → c.colourCheck (portCol (c.g.portWord i)) = 0) :
    ∃ ps : List Port, execCtok f s = .next (c.issuedIn (s.putRegion c.p.r { c.g with ports := ps }) c.e (c.toAll 0) []) ∧
      ∀ i, ps[i]? = (c.g.ports[i]?).map fun p => if c.ctokNames f i then { p with closed := !bitAt f.mod 0 } else p := by
  have hcode : firstBad (((List.range c.g.ports.length).filter (c.ctokNames f)).map fun i => c.colourCheck (portCol (c.g.portWord i))) = 0 := by
    refine firstBad_zero _ fun k hk => ?_
    obtain ⟨i, hmem, rfl⟩ := List.mem_map.mp hk
    obtain ⟨hlt, hname⟩ := List.mem_filter.mp hmem
    exact hok i (List.mem_range.mp hlt) hname
  obtain ⟨ps, hfold, hps⟩ := foldl_setClosed (c.ctokNames f) (!bitAt f.mod 0) c.g.ports.length c.g
  refine ⟨ps, fire_changesRegion hi hp (Eq.trans (if_neg (not_not_intro hcode)) (congrArg (fun g => c.region g 0) hfold)), fun i => ?_⟩
  rw [hps i]
  cases hport : c.g.ports[i]? with
  | none => rfl
  | some p =>
    have hlt : i < c.g.ports.length := (List.getElem?_eq_some_iff.mp hport).1
    simp only [Option.map_some, hlt, and_true]

/-- The entry of an unused colour is no one's to change (log 33). -/
theorem exec_recolour_unused (hv : colV (c.g.col (immCol f)) = false) :
    let refused := Host.Outcome.next (c.issued c.e (c.toAll 11))
    execQuota f s = refused ∧ execHorizon f s = refused ∧ execColset f s = refused := by
  refine ⟨fire_replies hi hp ?_, fire_replies hi hp ?_, fire_replies hi hp ?_⟩ <;>
    simp only [hv, Bool.not_false, if_true] <;> rfl

section
variable (hv : colV (c.g.col (immCol f)) = true)
include hv

theorem execQuota_sets : execQuota f s = .next (c.recoloured s (immCol f)
    (setBits (c.g.col (immCol f)) 192 (bitsAt (operands c.e f c.set none).a 0 32)) (BitVec.ofNat 256 (2 ^ 32 * colQuota (c.g.col (immCol f))))) := by
  refine fire_recolours hi hp ?_
  simp only [hv, hi.opnds_eq, stat_to, Bool.not_true, Bool.false_eq_true, if_false]

theorem execHorizon_sets : execHorizon f s = .next (c.recoloured s (immCol f)
    (horizonEntry (c.g.col (immCol f)) (bitsAt f.imm 6 5) (bitsAt f.imm 11 1)) 0) := by
  refine fire_recolours hi hp ?_
  simp only [hv, Bool.not_true, Bool.false_eq_true, if_false]
  rfl

/-- COLSET takes the entry that it makes, unless that breaks a check of the colour table. -/
theorem execColset_checks : let e' := colsetEntry (bitsAt f.xmod 0 5) (c.g.col (immCol f)) (operands c.e f c.set none).a
    execColset f s = .next (if colourOk (c.g.ports.map Port.image) (immCol f) e' = false ∨ (c.g.multiw = true ∧ colWsize e' = 0)
      then c.issued c.e (c.toAll 9)
      else c.recoloured s (immCol f) e' 0) := by
  intro e'
  have htest : (!colourOk (c.g.ports.map Port.image) (immCol f) e' || (c.g.multiw && colWsize e' == 0)) = true ↔
      colourOk (c.g.ports.map Port.image) (immCol f) e' = false ∨ (c.g.multiw = true ∧ colWsize e' = 0) := by
    simp only [Bool.or_eq_true, Bool.not_eq_true', Bool.and_eq_true, beq_iff_eq]
  split
  · next hbad =>
    refine fire_replies hi hp ?_
    simp only [hv, hi.opnds_eq, Bool.not_true, Bool.false_eq_true, if_false]
    exact if_pos (htest.mpr hbad)
  · next hfit =>
    refine fire_recolours hi hp ?_
    simp only [hv, hi.opnds_eq, Bool.not_true, Bool.false_eq_true, if_false]
    exact if_neg (mt htest.mp hfit)
end

theorem execYield_marks : execYield f s =
    .next (c.issuedIn (s.putRegion c.p.r { c.g with yielded := true }) c.e (c.toAll (operands c.e f c.set none).a) []) :=
  fire_changesRegion hi hp (by rw [hi.opnds_eq])
end

/-- Settles O27: the reply or the change of each instruction by the checks of its colours, then the fields of the entry that it makes. -/
theorem colourTableInstructions : Obligations.ColourTableInstructions := by
  unfold Obligations.ColourTableInstructions
  intro f s c hi hp a col e check replied recoloured named all cx quiet
  have hcheck : check = c.colourCheck := funext fun k => (colourCheck_eq c k).symm
  rw [hcheck]
  refine ⟨fun hbad => ⟨execCensus_refused hi hp hbad, execColget_refused hi hp hbad⟩, fun hok => ⟨execColget_reads hi hp hok, ?census⟩,
    fun i hlt hname => execCtok_refused hi hp hlt hname, execCtok_sets hi hp, exec_recolour_unused hi hp,
    fun hv => ⟨?quota, ?horizon, ?colset⟩, execYield_marks hi hp⟩
  case census =>
    have hcensus := execCensus_reads hi hp hok
    simp only [censusBits_eq] at hcensus
    obtain ⟨hq, hnq⟩ := toNat_flag (quiet_iff c.g.quiet cx col all)
    obtain ⟨hst, hnst⟩ := toNat_flag (List.contains_iff_mem (as := c.g.stalled) (a := col))
    obtain ⟨hpu, hnpu⟩ := toNat_flag (c.l.purging_iff col)
    exact ⟨_, _, _, hcensus, hq, hnq, hst, hnst, hpu, fun hno => hnpu fun ⟨p, hp, hcol⟩ => hno p hp hcol⟩
  case quota =>
    exact ⟨_, execQuota_sets hi hp hv, (colQuota_setBits e _).trans (toNat_bitsAt_low a 32),
      fun n hn => getLsbD_setBits_other e _ (by decide) hn⟩
  case horizon =>
    exact ⟨_, execHorizon_sets hi hp hv, colHzn_horizonEntry e _ _, (colAutop_horizonEntry e _ _).trans (bitsAt_bit (len := 1) (i := 11) (by decide)),
      fun n hn => getLsbD_horizonEntry_other e _ _ hn⟩
  case colset =>
    have hcolset := execColset_checks hi hp hv
    refine ⟨_, fun n hn => (colsetEntry_bit _ e a n hn).trans ?_, fun hbad => hcolset.trans (congrArg _ (if_pos hbad)),
      fun hfit hw => hcolset.trans (congrArg _ (if_neg ?_))⟩
    · refine if_congr ?_ rfl rfl
      simp only [bitAt, bitsAt_bit0 (w := f.xmod) (len := 5), Nat.reduceLT]
    · rintro (hunfit | ⟨hmulti, hzero⟩)
      · exact Bool.false_ne_true (hunfit.symm.trans hfit)
      · exact hw.elim (fun hno => Bool.false_ne_true (hno.symm.trans hmulti)) (· hzero)

end Sys2Proof.Machine
end

section
/-! SUPPORT. The Xwenxus instructions that name a launch by a selector: WX.CENSUS, WX.PURGE, WX.SPANWAIT, WX.FREEZE and WX.RESUME, their
tests in the order of R204, and that a resume leaves the harts alone (R187, R204, R379, R382, R396). -/

namespace Sys2Proof.Machine

/-! ## The tests on a selector (R194, R204) -/

/-- Does a region use the colour and the context of a selector (R192, R194)? -/
def Region.Uses (g : Region) (v : Word64) : Prop :=
  colV (g.col (selCol v)) = true ∧ (selAllcx v = true ∨ bitAt g.ctxmask (selCx v) = true)

/-- Has a launch not entered RUNNING since it was last placed? -/
theorem not_begun_iff (l : Launch) : l.begun = false ↔ l.state = .queued ∨ l.state = .placing ∨ l.state = .loading := by
  simp only [Launch.begun, Bool.not_eq_false', Bool.or_eq_true, beq_iff_eq, or_assoc]

theorem selClean_iff (v : Word64) : selClean v = true ↔ bitsAt v 20 12 = 0 ∧ bitsAt v 6 10 = 0 := by
  simp [selClean]

section
variable {s : State} {k : Hart} {v : Word64}

theorem censusCode_no_launch (hl : s.launch? (selHandle v) = none) : s.censusCode k v = 11 := by
  simp only [State.censusCode, hl]

theorem purgeCode_no_launch (hl : s.launch? (selHandle v) = none) : s.purgeCode k v = 11 := by
  simp only [State.purgeCode, hl]

theorem regionSel_no_launch (hl : s.launch? (selHandle v) = none) : s.regionSel k v = .error 11 := by
  simp only [State.regionSel, hl]

section
variable {l : Launch} (hl : s.launch? (selHandle v) = some l)
include hl

section
variable {g : Region} (hg : l.members[0]? = some g)
include hg

theorem censusCode_unused (hno : ¬ g.Uses v) : s.censusCode k v = 11 := by
  have htest : (!colV (g.col (selCol v)) || (!selAllcx v && !bitAt g.ctxmask (selCx v))) = true := by
    rw [Region.Uses] at hno
    cases hcol : colV (g.col (selCol v)) <;> simp_all
  simp only [State.censusCode, hl, hg, htest, if_true]

/-- The tests that follow on a used colour and context. -/
theorem censusCode_used (huse : g.Uses v) : s.censusCode k v =
    if k.mayName l = false then 10 else if ¬ (bitsAt v 20 12 = 0 ∧ bitsAt v 6 10 = 0) then 9
    else if l.state = .queued ∨ l.state = .placing ∨ l.state = .loading then 4 else 0 := by
  obtain ⟨hcol, hctx⟩ := huse
  have htest : (!colV (g.col (selCol v)) || (!selAllcx v && !bitAt g.ctxmask (selCx v))) = false := by
    obtain hall | hone := hctx
    · simp [hcol, hall]
    · simp [hcol, hone]
  simp only [State.censusCode, hl, hg, htest, Bool.false_eq_true, if_false, ← selClean_iff, ← not_begun_iff, Bool.not_eq_true', Bool.not_eq_true]

theorem purgeCode_unused (hno : colV (g.col (selCol v)) = false) : s.purgeCode k v = 11 := by
  simp only [State.purgeCode, hl, hg, hno, Option.any_some, Bool.not_false, if_true]

theorem purgeCode_used (hcol : colV (g.col (selCol v)) = true) : s.purgeCode k v =
    if k.mayName l = false then 10 else if selAllcx v = true ∨ ¬ (bitsAt v 20 12 = 0 ∧ bitsAt v 6 10 = 0) then 9
    else if l.state ≠ .running then 4 else 0 := by
  simp only [State.purgeCode, hl, hg, hcol, Option.any_some, Bool.not_true, Bool.false_eq_true, if_false, ← selClean_iff,
    Bool.not_eq_true', Bool.not_eq_true, Bool.or_eq_true, bne_iff_ne]
end

/-- The first tests of WX.FREEZE and WX.RESUME. -/
theorem regionSel_launch : s.regionSel k v =
    if k.mayName l = false then .error 10 else if (bitsAt v 0 32 : BitVec 32) ≠ 0 then .error 9 else .ok l := by
  simp only [State.regionSel, hl, Bool.not_eq_true', bne_iff_ne]
end
end

/-! ## The flags of the census (R204, R424) -/

theorem stalled_iff (l : Launch) (col : Nat) : (l.members.any fun g => g.stalled.contains col) = true ↔ ∃ g ∈ l.members, col ∈ g.stalled := by
  simp

theorem censusRead_eq (l : Launch) (v : Word64) : l.censusRead v =
    2 ^ 8 * (if selAllcx v then (List.range 8).all fun c => l.quietKey (64 * c + selCol v) else l.quietKey (64 * selCx v + selCol v)).toNat +
      2 ^ 9 * (l.members.any fun g => g.stalled.contains (selCol v)).toNat + 2 ^ 10 * (l.purging (selCol v)).toNat +
      2 ^ 32 * (l.census (selCx v) (selCol v) (selAllcx v)).toNat :=
  censusWord_eq _ _ _ _

/-! ## The operands that BRKs held go on (R382, R396) -/

theorem hart?_releaseOne (s : State) (p : Site) (set : ReadySet) (h : Nat) : (s.releaseOne p set).hart? h = s.hart? h := by
  unfold State.releaseOne
  repeat' split
  all_goals rfl

theorem hart?_releaseBrk (s : State) (handle : Word32) (h : Nat) : (s.releaseBrk handle).hart? h = s.hart? h := by
  unfold State.releaseBrk
  split
  · rfl
  · exact List.foldlRecOn _ _ (motive := fun u => u.hart? h = s.hart? h) rfl fun u hu _ _ => (hart?_releaseOne u _ _ h).trans hu

/-- A resume changes no hart. -/
theorem hart?_resume (s : State) (l : Launch) (h : Nat) : (s.resume l).hart? h = s.hart? h :=
  hart?_releaseBrk _ _ h

theorem blockHart_of_hart? {s : State} {h : Nat} {k : Hart} (hk : s.hart? h = some k) : s.blockHart h = s.putHart h { k with blocked := true } := by
  simp only [State.blockHart, hk]

/-! ## What each instruction gives -/

section
variable {s : State} {h : Nat} {k : Hart} (hx : ExecutesAt s h k) (rd rs1 : BitVec 5)
include hx

/-- A status other than 0 of WX.CENSUS stands alone. -/
theorem execWxCensus_status {code : Nat} (hcode : s.censusCode k (k.reg rs1) = code) (hne : code ≠ 0) :
    execWxCensus rd rs1 s = .next (s.answered h k rd code 0) := by
  rw [execWxCensus, wxRun_user hx]
  simp only [hcode, if_neg hne, wxDone_answered hx]

theorem execWxCensus_reads {l : Launch} (hcode : s.censusCode k (k.reg rs1) = 0) (hl : s.launch? (selHandle (k.reg rs1)) = some l) :
    execWxCensus rd rs1 s = .next (s.answered h k rd 0 (l.censusRead (k.reg rs1))) := by
  rw [execWxCensus, wxRun_user hx]
  simp only [hcode, if_true, hl, Option.map_some, Option.getD_some, wxDone_answered hx]

theorem execWxSpanwait_no_launch (hl : s.launch? (selHandle (k.reg rs1)) = none) :
    execWxSpanwait rd rs1 s = .next (s.answered h k rd 11 0) := by
  rw [execWxSpanwait, wxRun_user hx]
  simp only [hl, wxDone_answered hx]

/-- WX.SPANWAIT answers once the span has committed; until then the hart stays at it. -/
theorem execWxSpanwait_launch {l : Launch} (hl : s.launch? (selHandle (k.reg rs1)) = some l) : execWxSpanwait rd rs1 s =
    .next (if k.mayName l = false then s.answered h k rd 10 0
      else if (bitsAt (k.reg rs1) 0 32 : BitVec 32).toNat < l.committed then s.answered h k rd 0 0 else s) := by
  rw [execWxSpanwait, wxRun_user hx]
  simp only [hl, wxDone_answered hx, Bool.not_eq_true']

variable (hu : k.mode ≠ .u) (hvu : k.mode ≠ .vu)
include hu hvu

theorem execWxPurge_status {code : Nat} (hcode : s.purgeCode k (k.reg rs1) = code) (hne : code ≠ 0) :
    execWxPurge rd rs1 s = .next (s.answered h k rd code 0) := by
  rw [execWxPurge, wxRun_privileged hx hu hvu]
  simp only [hcode, wxDone_answered hx]
  split
  · rw [if_pos hne]
  · rfl

/-- The first purge of a colour starts, and the hart is blocked (R187). -/
theorem execWxPurge_starts {l : Launch} (hcode : s.purgeCode k (k.reg rs1) = 0) (hl : s.launch? (selHandle (k.reg rs1)) = some l)
    (hnew : ∀ p ∈ l.purges, p.col ≠ selCol (k.reg rs1)) : execWxPurge rd rs1 s =
      .next ((s.putLaunch { l with purges := l.purges ++ [⟨selCol (k.reg rs1), [.hart h rd]⟩] }).putHart h { k with blocked := true }) := by
  rw [execWxPurge, wxRun_privileged hx hu hvu]
  simp only [hcode, hl, ne_eq, not_true_eq_false, if_false, startPurge_first hnew]
  exact congrArg _ (blockHart_of_hart? hx.hart)

/-- A status that the first tests give is that of both instructions. -/
theorem execWxFreeze_status {code : Nat} (hsel : s.regionSel k (k.reg rs1) = .error code) :
    execWxFreeze rd rs1 s = .next (s.answered h k rd code 0) := by
  rw [execWxFreeze, wxRun_privileged hx hu hvu]
  simp only [hsel, wxDone_answered hx]

theorem execWxResume_status {code : Nat} (hsel : s.regionSel k (k.reg rs1) = .error code) :
    execWxResume rd rs1 s = .next (s.answered h k rd code 0) := by
  rw [execWxResume, wxRun_privileged hx hu hvu]
  simp only [hsel, wxDone_answered hx]

section
variable {l : Launch} (hsel : s.regionSel k (k.reg rs1) = .ok l)
include hsel

/-- WX.FREEZE of a RUNNING launch asks for the freeze and blocks the hart (R379). -/
theorem execWxFreeze_running (hrun : l.state = .running) : execWxFreeze rd rs1 s = .next ((s.putLaunch { l with
      freezeReq := true
      freezeWaiters := l.freezeWaiters ++ [(h, rd)] }).putHart h { k with blocked := true }) := by
  rw [execWxFreeze, wxRun_privileged hx hu hvu]
  simp only [hsel, hrun, beq_self_eq_true, if_true]
  exact congrArg _ (blockHart_of_hart? hx.hart)

theorem execWxFreeze_stopped (hstop : l.state ≠ .running) :
    execWxFreeze rd rs1 s = .next (s.answered h k rd (if l.state = .frozen then 0 else 4) 0) := by
  rw [execWxFreeze, wxRun_privileged hx hu hvu]
  simp only [hsel, beq_eq_false_iff_ne.mpr hstop, Bool.false_eq_true, if_false, beq_iff_eq, wxDone_answered hx]

/-- WX.RESUME restarts a FROZEN launch without a dead word (R382). -/
theorem execWxResume_restarts (hfrozen : l.state = .frozen) (hlive : l.hwDead = false) :
    execWxResume rd rs1 s = .next ((s.resume l).answered h k rd 0 0) := by
  have hhart : (s.resume l).hart? h = some k := (hart?_resume s l h).trans hx.hart
  rw [execWxResume, wxRun_privileged hx hu hvu]
  simp only [hsel, hfrozen, hlive, beq_self_eq_true, Bool.not_false, Bool.and_self, if_true, State.wxDone, State.hartDone, hhart, State.answered]

theorem execWxResume_refused (hno : l.state = .frozen → l.hwDead = true) :
    execWxResume rd rs1 s = .next (s.answered h k rd (if l.state = .running then 0 else 4) 0) := by
  have htest : (l.state == .frozen && !l.hwDead) = false := by simpa using hno
  rw [execWxResume, wxRun_privileged hx hu hvu]
  simp only [hsel, htest, Bool.false_eq_true, if_false, beq_iff_eq, wxDone_answered hx]
end
end

/-- Settles O38: one outcome for each test of the five instructions, in the order in which they make them. -/
theorem xwenxusConditions : Obligations.XwenxusConditions := by
  unfold Obligations.XwenxusConditions
  intro s h k rd rs1 hx hu hvu v hd col cx low gives mayName five
  have census {code : Nat} (hcode : s.censusCode k v = code) (hne : code ≠ 0) : gives (.wxCensus rd rs1) code 0 :=
    execWxCensus_status hx rd rs1 hcode hne
  have purge {code : Nat} (hcode : s.purgeCode k v = code) (hne : code ≠ 0) : gives (.wxPurge rd rs1) code 0 :=
    execWxPurge_status hx rd rs1 hu hvu hcode hne
  have both {code : Nat} (hsel : s.regionSel k v = .error code) : gives (.wxFreeze rd rs1) code 0 ∧ gives (.wxResume rd rs1) code 0 :=
    ⟨execWxFreeze_status hx rd rs1 hu hvu hsel, execWxResume_status hx rd rs1 hu hvu hsel⟩
  refine ⟨fun hl => ⟨census (censusCode_no_launch hl) (by decide), purge (purgeCode_no_launch hl) (by decide),
    execWxSpanwait_no_launch hx rd rs1 hl, both (regionSel_no_launch hl)⟩, fun l g hl hg => ?_⟩
  intro used clean
  have hspan := execWxSpanwait_launch hx rd rs1 hl
  have hsel := regionSel_launch (k := k) hl
  have hcensus (huse : used) := censusCode_used (k := k) hl hg huse
  have hpurge (huse : used) := purgeCode_used (k := k) hl hg huse.1
  have hnamed (hname : mayName l) : ¬ k.mayName l = false := ne_false_of_eq_true ((mayName_iff k l).mpr hname)
  refine ⟨fun hno => census (censusCode_unused hl hg hno) (by decide), fun hno => purge (purgeCode_unused hl hg hno) (by decide),
    fun huse hname => ?foreign, fun huse hname hdirty => ?reserved, fun huse hname hclean => ?selected, fun hname => ?named⟩
  case foreign =>
    have hname' : k.mayName l = false := Bool.eq_false_iff.mpr (mt (mayName_iff k l).mp hname)
    rw [if_pos hname'] at hspan hsel
    exact ⟨census ((hcensus huse).trans (if_pos hname')) (by decide), purge ((hpurge huse).trans (if_pos hname')) (by decide), hspan, both hsel⟩
  case reserved =>
    refine ⟨census ((hcensus huse).trans ?_) (by decide), purge ((hpurge huse).trans ?_) (by decide)⟩ <;> rw [if_neg (hnamed hname)]
    · exact if_pos hdirty
    · exact if_pos (.inr hdirty)
  case selected =>
    have hcode := hcensus huse
    have hcode' := hpurge huse
    rw [if_neg (hnamed hname)] at hcode hcode'
    rw [if_neg (not_not_intro hclean)] at hcode
    have htest (hone : bitAt v 19 = false) : ¬ (selAllcx v = true ∨ ¬ clean) :=
      fun hbad => hbad.elim (fun hall => Bool.false_ne_true (hone.symm.trans hall)) (· hclean)
    refine ⟨fun hearly => census (hcode.trans (if_pos hearly)) (by decide), fun hqueued hplacing hloading => ?reads,
      fun hall => purge (hcode'.trans (if_pos (.inl hall))) (by decide), fun hone hstop => ?stopped, fun hone hrun hnew => ?starts⟩
    case reads =>
      have hread := execWxCensus_reads hx rd rs1 (hcode.trans (if_neg (by simp [hqueued, hplacing, hloading]))) hl
      rw [censusRead_eq] at hread
      obtain ⟨hst, hnst⟩ := toNat_flag (stalled_iff l col)
      obtain ⟨hpu, hnpu⟩ := toNat_flag (l.purging_iff col)
      exact ⟨_, _, _, hread, Bool.toNat_le _, hst, fun hno => hnst fun ⟨g, hg, hmem⟩ => hno g hg hmem,
        hpu, fun hno => hnpu fun ⟨p, hp, hcol⟩ => hno p hp hcol⟩
    case stopped =>
      rw [if_neg (htest hone)] at hcode'
      exact purge (hcode'.trans (if_pos hstop)) (by decide)
    case starts =>
      rw [if_neg (htest hone), if_neg (not_not_intro hrun)] at hcode'
      exact execWxPurge_starts hx rd rs1 hu hvu hcode' hl hnew
  case named =>
    rw [if_neg (hnamed hname)] at hspan hsel
    refine ⟨fun hpast => hspan.trans (congrArg _ (if_pos hpast)), fun hopen => hspan.trans (congrArg _ (if_neg (Nat.not_lt.mpr hopen))),
      fun hlow => both (hsel.trans (if_pos hlow)), fun hlow => ?_⟩
    rw [if_neg (not_not_intro hlow)] at hsel
    refine ⟨fun hfrozen => ?_, fun hrun hfrozen => ?_, execWxFreeze_running hx rd rs1 hu hvu hsel, fun hrun => ?_, fun hfrozen hdead => ?_,
      execWxResume_restarts hx rd rs1 hu hvu hsel⟩
    · have := execWxFreeze_stopped hx rd rs1 hu hvu hsel (by simp [hfrozen])
      rwa [if_pos hfrozen] at this
    · have := execWxFreeze_stopped hx rd rs1 hu hvu hsel hrun
      rwa [if_neg hfrozen] at this
    · have := execWxResume_refused hx rd rs1 hu hvu hsel (by simp [hrun])
      rwa [if_pos hrun] at this
    · have := execWxResume_refused hx rd rs1 hu hvu hsel fun _ => hdead
      rwa [if_neg (by simp [hfrozen])] at this

end Sys2Proof.Machine
end

section
/-! SUPPORT. WX.LAUNCH: the tests of a launch record in the order of R196, and the launch that one which passes them queues (R193, R196,
R204, R405). -/

namespace Sys2Proof.Machine

/-- May a hart of a world submit a record: is it trusted, or the record without PRIV and of its world (R196)? -/
def MaySubmit (r : BitVec 512) (world : BitVec 8) (trust : Bool) : Prop :=
  trust = true ∨ (bitAt r 149 = false ∧ bitsAt r 136 8 = world)

theorem maySubmit_iff (r : BitVec 512) (world : BitVec 8) (trust : Bool) :
    (!trust && (bitAt r 149 || (bitsAt r 136 8 : BitVec 8) != world)) = false ↔ MaySubmit r world trust := by
  simp [MaySubmit, or_iff_not_imp_left]

/-- Is a record's queue enabled for its world and priority (R167, R196)? -/
def State.QueueOpen (s : State) (r : BitVec 512) : Prop :=
  let lq := s.lq (bitsAt r 128 6).toNat
  lqEn lq = true ∧ lqWorld lq = bitsAt r 136 8 ∧ (bitsAt r 134 2).toNat ≤ lqPrio lq

theorem queueOpen_iff (s : State) (r : BitVec 512) :
    (!lqEn (s.lq (bitsAt r 128 6).toNat) || lqWorld (s.lq (bitsAt r 128 6).toNat) != bitsAt r 136 8 ||
      decide (lqPrio (s.lq (bitsAt r 128 6).toNat) < (bitsAt r 134 2).toNat)) = false ↔ s.QueueOpen r := by
  simp [State.QueueOpen, and_assoc]

/-- The state with the launch of a record queued under a handle, in place of the committed launch that had it (R193, R196). -/
def State.queueLaunch (s : State) (r : BitVec 512) (h : Word32) (ms : List Region) (held : List HeldRange) : State :=
  let s1 := s.dropDeclarations h
  let s2 : State := { s1 with
    launches := (s1.launches.filter fun k => k.handle != h) ++ [newLaunch r h ms held s.orderNo]
    nextHandle := h + 1
    orderNo := s1.orderNo + 1 }
  s2.dueSince s

/-- The handle names the queued launch. -/
theorem launch?_queueLaunch (s : State) (r : BitVec 512) (h : Word32) (ms : List Region) (held : List HeldRange) :
    (s.queueLaunch r h ms held).launch? h = some (newLaunch r h ms held s.orderNo) := by
  have hframe (u old : State) : (u.dueSince old).launches = u.launches := (congrArg State.launches (dueSince_frame u old) :)
  have hothers : ((s.dropDeclarations h).launches.filter fun k => k.handle != h).find? (fun k => k.handle == h) = none := by
    simp
  rw [State.queueLaunch, State.launch?, hframe, List.find?_append, hothers]
  simp [newLaunch]

/-- What follows the load of a record's image: a failed one leaves its fault record, and one that loads is queued under the first free
handle, unless its world seals and has no generation left (R196, R405). -/
def State.afterLoad (s : State) (r : BitVec 512) : LoadedLaunch → State × BitVec 8 × Word32
  | .unread cause va => (s.deliver (bareFault s (bitsAt r 136 8) cause 0 (BitVec.ofNat 64 va)), 8, 0)
  | .bad e => (s.deliver (rejectRecord s (bitsAt r 136 8) e), 8, 0)
  | .ok ms held =>
    if s.sealedWorld (bitsAt r 136 8) && s.genx (bitsAt r 136 8) then (s, 8, 0)
    else
      let n := s.freeHandle (s.launches.length + 1) s.nextHandle
      (s.queueLaunch r n ms held, 0, n)

/-! ## The tests of a record (R196) -/

section
variable {s : State} {r : BitVec 512} {world : BitVec 8} {trust : Bool}

theorem submit_malformed (hbad : recordOk r = false) : s.submit r world trust = (s, 9, 0) := by
  simp only [State.submit, hbad, Bool.not_false, if_true]

variable (hok : recordOk r = true)
include hok

theorem submit_not_allowed (hno : ¬ MaySubmit r world trust) : s.submit r world trust = (s, 10, 0) := by
  have htest := Bool.eq_true_of_not_eq_false (mt (maySubmit_iff r world trust).mp hno)
  simp only [State.submit, hok, htest, Bool.not_true, Bool.false_eq_true, if_false, if_true]

variable (hmay : MaySubmit r world trust)
include hmay

theorem submit_queue_closed (hno : ¬ s.QueueOpen r) : s.submit r world trust = (s, 7, 0) := by
  have htest := Bool.eq_true_of_not_eq_false (mt (queueOpen_iff s r).mp hno)
  simp only [State.submit, hok, (maySubmit_iff r world trust).mpr hmay, htest, Bool.not_true, Bool.false_eq_true, if_false, if_true]

/-- A record without a colour table of its own that passes these tests gives what its image's load gives (R195). -/
theorem submit_loads (hopen : s.QueueOpen r) (hcoltab : (bitsAt r 64 64 : Word64) = 0) : s.submit r world trust =
    s.afterLoad r (loadLaunch s (bitsAt r 136 8) (bitsAt r 0 64).toNat (bitAt r 149) none (recOverrides r)) := by
  rw [State.submit]
  -- The loader is a variable here: the kernel would unfold it where a match waits for its result.
  obtain ⟨load, hvar⟩ : ∃ load, loadLaunch = load := ⟨_, rfl⟩
  rw [hvar]
  simp only [hok, (maySubmit_iff r world trust).mpr hmay, (queueOpen_iff s r).mpr hopen, hcoltab, Bool.not_true, Bool.false_eq_true, if_false,
    if_true]
  cases load s (bitsAt r 136 8) (bitsAt r 0 64).toNat (bitAt r 149) none (recOverrides r) <;> rfl
end

/-- WX.LAUNCH answers with what its record's submission gives (R204). -/
theorem execWxLaunch_of_submit {s t u : State} {h : Nat} {k : Hart} {rd rs1 : BitVec 5} {bs : List Byte} {code : BitVec 8} {n : Word32}
    (hx : ExecutesAt s h k) (hu : k.mode ≠ .u) (hvu : k.mode ≠ .vu)
    (hload : s.hartLoad h k (s.hartPa k .load) (k.reg rs1).toNat 64 64 = .ok (t, bs))
    (hsubmit : t.submit (ofBytes 512 bs) k.accessor.world k.accessor.trust = (u, code, n)) :
    execWxLaunch rd rs1 s = .next (u.hartDone h rd (BitVec.ofNat 64 (2 ^ 32 * n.toNat + code.toNat))) := by
  rw [execWxLaunch, wxRun_privileged hx hu hvu, hload]
  simp only [hsubmit, State.wxDone]

/-- Settles O39: one outcome for each test of a launch record, in the order of R196. -/
theorem launchSubmission : Obligations.LaunchSubmission := by
  unfold Obligations.LaunchSubmission
  intro s t h k rd rs1 bs hx hu hvu hread r w lq open' allowed gives
  have submits {u : State} {code : BitVec 8} {n : Word32} (hsubmit : t.submit r k.accessor.world k.accessor.trust = (u, code, n)) :
      gives u code.toNat (2 ^ 32 * n.toNat) := execWxLaunch_of_submit hx hu hvu hread hsubmit
  refine ⟨fun hbad => submits (submit_malformed hbad), fun hok hno => submits (submit_not_allowed hok hno),
    fun hok hmay hno => submits (submit_queue_closed hok hmay hno),
    fun hok hmay hopen hcoltab => ?_⟩
  have loads {x : LoadedLaunch} (hload : loadLaunch t w (bitsAt r 0 64).toNat (bitAt r 149) none (recOverrides r) = x) :
      t.submit r k.accessor.world k.accessor.trust = t.afterLoad r x :=
    (submit_loads hok hmay hopen hcoltab).trans (congrArg _ hload)
  refine ⟨fun cause va hload => submits (loads hload), fun e hload => submits (loads hload), fun ms held hload =>
    ⟨fun hseal hspent => submits ((loads hload).trans (if_pos ?_)), fun hleft => ?_⟩⟩
  · rw [hseal, hspent, Bool.and_self]
  · exact ⟨_, _, _, submits ((loads hload).trans (if_neg (ne_true_of_eq_false hleft))), launch?_queueLaunch t r _ ms held,
      rfl, rfl, rfl, rfl, rfl, rfl, rfl⟩

end Sys2Proof.Machine
end

section
/-! SUPPORT. CPWAIT, CPPTR, MFENCE and OWNPASS at their issue: what goes on at once, and what waits at the channel or among the accesses of
the region (R253, R255, R257; log 7). -/

namespace Sys2Proof.Machine

/-- A transfer is past a CPWAIT's operand, in the 2^31 numbers after it, or is the operand's with WPTR at its bytes or above (R255). -/
theorem meets_iff (k : Chan) (v : Payload) : k.meets v = true ↔
    (0 < (k.num - bitsAt v 32 32).toNat ∧ (k.num - bitsAt v 32 32).toNat ≤ 2 ^ 31) ∨
      ((k.num - bitsAt v 32 32).toNat = 0 ∧ v.toNat % 2 ^ 32 ≤ k.wptr) := by
  simp only [Chan.meets, low32, toNat_bitsAt_low, Bool.or_eq_true, Bool.and_eq_true, bne_iff_ne, beq_iff_eq, decide_eq_true_eq,
    Nat.pos_iff_ne_zero]

/-- The accesses of a context and colour that the region has accepted and not performed are among its pending ids (R257). -/
theorem mem_pendingIds {g : Region} {a : Access} {key : Nat} (ha : a ∈ g.accs) (hnet : a.stage ≠ .net) (hfence : a.req.op ≠ .mfence)
    (hpass : a.req.op ≠ .ownpass) (hkey : tagKey a.req.tag = key) : a.id ∈ g.pendingIds key := by
  have hmem : a ∈ g.accs.filter fun b => b.stage != .net && b.req.op != .mfence && b.req.op != .ownpass && tagKey b.req.tag == key := by
    simp [ha, hnet, hfence, hpass, hkey]
  exact List.mem_append_left _ (List.mem_append_left _ (List.mem_map_of_mem hmem))

/-- The state in which an operation waits at its element among the accesses of its region, one more reply pending (log 7). -/
def Ctx.fenced (c : Ctx) (s : State) (a : Access) : State :=
  let g := c.g.count (.site c.p.x c.p.y) c.tag 1 true
  { s.putRegion c.p.r { g with accs := c.g.accs ++ [{ a with id := s.freshId }] } with freshId := s.freshId + 1 }

theorem putRegion_freshId (s : State) (r : Rid) (g : Region) : (s.putRegion r g).freshId = s.freshId := by
  unfold State.putRegion
  split <;> rfl

theorem await_eff (c : Ctx) (a : Access) : c.await c.g a = ⟨c.fenced c.s a, c.e, [], [], false⟩ := by
  simp only [Ctx.await, Ctx.sends, Ctx.fenced, putRegion_freshId]
  rfl

section
variable {f : Fields} {s : State} {c : Ctx} (hi : Issues f s c (dests f).length) (hp : c.Plain)
include hi hp

/-- An instruction that gives an error record in place of its result completes. -/
theorem fire_raises {own : Ctx → Effect} {cause : Cause} (h : own c = c.raise cause) :
    fire f s own = .next (c.issued c.e ((dests f).map (c.recordTo cause 0 0 0 c.tagOut))) := by
  rw [Ctx.raise, hi.f_eq] at h
  exact fire_sends hi hp own c.e _ h rfl (List.length_map _).le

/-- An instruction that waits among the accesses of its region completes without a token. -/
theorem fire_awaits {own : Ctx → Effect} {a : Access} (h : own c = c.await c.g a) :
    fire f s own = .next (c.issuedIn (c.fenced s a) c.e [] []) := by
  rw [await_eff, hi.s_eq] at h
  exact fire_exact hi hp own h (Nat.zero_le _)

theorem execMfence_waits : execMfence f s = .next (c.issuedIn (c.fenced s
    (settledAcc (c.request .mfence) 0 (c.g.pendingIds (tagKey c.tag)) s.cycle c.l.openSpan)) c.e [] []) :=
  fire_awaits hi hp (by rw [hi.s_eq])

/-! ## OWNPASS (R253) -/

theorem execOwnpass_empty (hempty : s.regEntry c.g.die (c.g.portTile (c.request .ownpass).port) (c.request .ownpass).passEnt = none) :
    execOwnpass f s = .next (c.issued c.e ((dests f).map (c.recordTo (mkCause 5 0xD) 0 0 0 c.tagOut))) := by
  refine fire_raises hi hp ?_
  simp only [hi.s_eq, hempty]

theorem execOwnpass_waits (howned : (s.regEntry c.g.die (c.g.portTile (c.request .ownpass).port) (c.request .ownpass).passEnt).isSome = true) :
    execOwnpass f s = .next (c.issuedIn (c.fenced s
      (settledAcc (c.request .ownpass) (c.g.portTile (c.request .ownpass).port) [] s.cycle c.l.openSpan)) c.e [] []) := by
  obtain ⟨e, he⟩ := Option.isSome_iff_exists.mp howned
  refine fire_awaits hi hp ?_
  simp only [hi.s_eq, he]

end

/-! ## CPWAIT and CPPTR (R255) -/

section
variable {f : Fields} {s : State} {c : Ctx} (hi : Issues f s c (dests f).length)
include hi

/-- The tile that a request's DIR names is its element's neighbour (R128). -/
theorem Issues.dirTile_eq (o : Op) : c.g.dirTile (c.request o) (c.request o).dir0 =
    c.g.tile? (neighbour c.p.x c.p.y (bitsAt f.xmod 0 2).toNat).1 (neighbour c.p.x c.p.y (bitsAt f.xmod 0 2).toNat).2 := by
  simp only [Region.dirTile, Request.dir0, Ctx.request, hi.f_eq]

/-- The channel that a request names. -/
theorem Issues.request_ch (o : Op) : (c.request o).ch = (bitsAt f.xmod 2 1).toNat := by
  simp only [Request.ch, Ctx.request, hi.f_eq]

variable (hp : c.Plain)
include hp

theorem execCpwait_noTile (hnone : c.g.dirTile (c.request .cpwait) (c.request .cpwait).dir0 = none) :
    execCpwait f s = .next (c.issued c.e ((dests f).map (c.recordTo (mkCause 5 0xD) 0 0 0 c.tagOut))) :=
  fire_raises hi hp (by simp only [hnone])

theorem execCpptr_noTile (hnone : c.g.dirTile (c.request .cpptr) (c.request .cpptr).dir0 = none) :
    execCpptr f s = .next (c.issued c.e ((dests f).map (c.recordTo (mkCause 5 0xD) 0 0 0 c.tagOut))) :=
  fire_raises hi hp (by simp only [hnone])

section
variable {t : Tile} (ht : c.g.dirTile (c.request .cpwait) (c.request .cpwait).dir0 = some t)
include ht

theorem execCpwait_goesOn (hmet : (t.chan (c.request .cpwait).ch).meets (c.request .cpwait).a = true) :
    execCpwait f s = .next (c.issued c.e (c.toAll (c.request .cpwait).a)) :=
  fire_replies hi hp (by simp only [ht, hmet, if_true])

theorem execCpwait_waits (hunmet : ¬ (t.chan (c.request .cpwait).ch).meets (c.request .cpwait).a = true) :
    execCpwait f s = .next (c.issuedIn (s.putRegion c.p.r ((c.g.putTile (t.putChan (c.request .cpwait).ch
      { t.chan (c.request .cpwait).ch with waits := (t.chan (c.request .cpwait).ch).waits ++ [c.request .cpwait] })).count
        (.site c.p.x c.p.y) c.tag 1 true)) c.e [] []) :=
  fire_defers hi hp (by simp only [ht, hunmet, Bool.false_eq_true, if_false, hi.s_eq])
end

theorem execCpptr_reads {t : Tile} (ht : c.g.dirTile (c.request .cpptr) (c.request .cpptr).dir0 = some t) :
    execCpptr f s = .next (c.issued c.e (c.toAll
      (packLanes 32 [(t.chan (c.request .cpptr).ch).wptr, (t.chan (c.request .cpptr).ch).num.toNat]))) :=
  fire_replies hi hp (by simp only [ht])
end

/-- Settles O30: an equation for each instruction, by the tile, the channel or the registry entry that it finds. -/
theorem waitingInstructions : Obligations.WaitingInstructions := by
  unfold Obligations.WaitingInstructions
  intro f s c hi hp d ch noTile counted awaits
  refine ⟨fun hnone => ⟨execCpwait_noTile hi hp ?_, execCpptr_noTile hi hp ?_⟩, fun t ht => ?channel,
    ⟨_, execMfence_waits hi hp, fun a ha hnet hfence hpass hkey => mem_pendingIds ha hnet hfence hpass hkey⟩, ?pass⟩
  · rw [hi.dirTile_eq]; exact hnone
  · rw [hi.dirTile_eq]; exact hnone
  case channel =>
    have htile (o : Op) : c.g.dirTile (c.request o) (c.request o).dir0 = some t := (hi.dirTile_eq o).trans ht
    have hmeets := meets_iff (t.chan (c.request .cpwait).ch) (c.request .cpwait).a
    have hwaits := execCpwait_waits hi hp (htile .cpwait)
    rw [hi.request_ch] at hmeets hwaits
    refine ⟨fun hmet => execCpwait_goesOn hi hp (htile .cpwait) ?_, fun hunmet => hwaits (mt hmeets.mp hunmet), _,
      execCpptr_reads hi hp (htile .cpptr), ?_, ?_⟩
    · rw [hi.request_ch]; exact hmeets.mpr hmet
    · rw [hi.request_ch]; exact laneU_packLanes 32 _ 0 (by simp) (by simp)
    · have hnum : (t.chan ch).num.toNat < 2 ^ 32 := (t.chan ch).num.isLt
      rw [hi.request_ch, laneU_packLanes 32 _ 1 (by simp) (by simp)]
      exact Nat.mod_eq_of_lt hnum
  case pass =>
    have hent : (c.request .ownpass).passEnt = (bitsAt f.imm 0 4).toNat := by simp only [Request.passEnt, Ctx.request, hi.f_eq]
    intro q entry
    refine ⟨fun hempty => execOwnpass_empty hi hp ?_, fun howned => execOwnpass_waits hi hp ?_⟩
    · rw [hent]; exact hempty
    · rw [hent]; exact howned

end Sys2Proof.Machine
end

section
/-! SUPPORT. Accesses at their home slice (R244, R246, R248, R263, R371): what serving a line, settling a group and answering leave of
memory, of the package's registers and of everything else. -/

namespace Sys2Proof.Machine

/-! ## What an access at home slices changes (R232) -/

theorem homeSlice_lt (pa : Nat) : homeSlice pa < 256 := by
  unfold homeSlice
  simp only
  have hdie (b : BitVec 2) : b.toNat < 4 := b.isLt
  have hslice (b : BitVec 6) : b.toNat < 64 := b.isLt
  have := hdie (bitsAt (BitVec.ofNat 64 pa) 38 2)
  have := hslice (bitsAt (BitVec.ofNat 64 pa) 7 6 ^^^ bitsAt (BitVec.ofNat 64 pa) 13 6 ^^^ bitsAt (BitVec.ofNat 64 pa) 19 6 ^^^
    bitsAt (BitVec.ofNat 64 pa) 25 6 ^^^ bitsAt (BitVec.ofNat 64 pa) 31 6)
  omega

theorem SameRegs.refl (s : State) : SameRegs s s := fun _ _ => rfl

theorem SameRegs.trans {s t u : State} (h : SameRegs s t) (k : SameRegs t u) : SameRegs s u :=
  fun off hoff => (k off hoff).trans (h off hoff)

theorem sameRegs_of_regs {s t : State} (h : t.regs = s.regs) : SameRegs s t := fun off _ => by rw [State.reg, h, State.reg]

theorem sameRegs_setReg (s : State) {off : Nat} (hoff : 0x2000 ≤ off ∧ off < 0x2800) (v : Word64) : SameRegs s (s.setReg off v) :=
  fun k hk => lookupD_setKey_other (by omega)

theorem reach_regs (s : State) (pa : Nat) (write : Bool) : (s.reach pa write).1.regs = s.regs := by
  unfold State.reach
  simp only
  split <;> rfl

/-- A demand access may count a bypass in its slice's SLC_BYPASS, and changes no other register. -/
theorem touch_regs (s : State) (pa : Nat) (write : Bool) : SameRegs s (s.touch pa write) := by
  have hreach : SameRegs s (s.reach pa write).1 := sameRegs_of_regs (reach_regs s pa write)
  have hslice := homeSlice_lt pa
  unfold State.touch
  simp only
  split
  · exact hreach.trans (sameRegs_setReg _ ⟨by omega, by omega⟩ _)
  · exact hreach

theorem foldl_touch_regs (write : Bool) (ls : List Nat) (s : State) : SameRegs s (ls.foldl (fun s a => s.touch a write) s) := by
  induction ls generalizing s with
  | nil => exact .refl s
  | cons a ls ih => exact (touch_regs s a write).trans (ih _)

theorem poke_regs (s : State) (pa : Nat) (bs : List Byte) : SameRegs s (s.poke pa bs) :=
  (foldl_touch_regs true (lineAddrs pa bs.length) s).trans (sameRegs_of_regs rfl)

/-! ## What an access leaves at its home slice (R263) -/

/-- The n bytes at an address are the ones stored there, or the old ones; the other bytes, the launches, the harts and the registers stay
as they were. -/
structure ServedAt (pa n : Nat) (stored : Option (List Byte)) (s u : State) : Prop where
  launches : u.launches = s.launches
  regs : SameRegs s u
  harts : u.harts = s.harts
  others : ∀ b, (b < pa ∨ pa + n ≤ b) → cellRead u.mem b = cellRead s.mem b
  bytes : readBytes u.mem pa n = stored.getD (readBytes s.mem pa n)

theorem servedAt_of_slices {s u : State} (h : SameButSlices s u) (hregs : SameRegs s u) (pa n : Nat) : ServedAt pa n none s u :=
  ⟨h.launches, hregs, h.harts, fun b _ => by rw [h.mem], by rw [h.mem]; rfl⟩

theorem peek_servedAt (s : State) (pa n : Nat) : ServedAt pa n none s (s.peek pa n) :=
  servedAt_of_slices (peek_same s pa n) (foldl_touch_regs false _ s) pa n

theorem touch_servedAt (s : State) (pa n : Nat) : ServedAt pa n none s (s.touch pa false) :=
  servedAt_of_slices (touch_same s pa false) (touch_regs s pa false) pa n

theorem length_toBytes {w : Nat} (v : BitVec w) (n : Nat) : (toBytes v n).length = n := by simp [toBytes]

theorem poke_servedAt {s : State} (hmem : Memory.wf s.mem = true) (pa : Nat) {w : Nat} (v : BitVec w) (n : Nat) :
    ServedAt pa n (some (toBytes v n)) s (s.poke pa (toBytes v n)) where
  launches := (poke_same s pa _).launches
  regs := poke_regs s pa _
  harts := (poke_same s pa _).harts
  others b hb := by
    rw [poke_mem]
    exact cellRead_writeBytes_other hmem (by rwa [length_toBytes])
  bytes := by
    have := readBytes_writeBytes (bs := toBytes v n) (a := pa) hmem
    rw [length_toBytes] at this
    rw [poke_mem, this]
    rfl

/-- Stamps read before a store leave nothing in memory. -/
theorem ServedAt.after_slices {pa n : Nat} {stored : Option (List Byte)} {s t u : State} (h : ServedAt pa n stored t u)
    (hs : SameButSlices s t) (hregs : SameRegs s t) : ServedAt pa n stored s u where
  launches := h.launches.trans hs.launches
  regs := hregs.trans h.regs
  harts := h.harts.trans hs.harts
  others b hb := (h.others b hb).trans (by rw [hs.mem])
  bytes := h.bytes.trans (by rw [hs.mem])

/-! ## Answers (R240) -/

theorem putRegion_mem (s : State) (r : Rid) (g : Region) : (s.putRegion r g).mem = s.mem := by
  unfold State.putRegion
  split <;> rfl

theorem mapRegion_mem (s : State) (r : Rid) (f : Region → Region) : (s.mapRegion r f).mem = s.mem := by
  unfold State.mapRegion
  split
  · rfl
  · exact putRegion_mem _ _ _

/-- The answer of an access changes traffic alone. -/
theorem answerAcc_traffic (s : State) (r : Rid) (a : Access) (x : Ans) : s.SameButTraffic (s.answerAcc r a x) := by
  unfold State.answerAcc
  split
  · exact .refl s
  split
  · exact .refl s
  simp only
  split
  · exact answerAll_traffic _ _ _ _ _
  · exact answer_traffic _ _ _ _ _
  · exact answerRecord_traffic _ _ _ _ _ _
  · exact answerBubble_traffic _ _ _ _

theorem perform_mem (s : State) (r : Rid) (a : Access) (x : Ans) : (s.perform r a x).mem = s.mem :=
  (answerAcc_traffic _ r a x).mem.trans (mapRegion_mem s r _)

/-! ## The gate of an access where no line is held (R268 to R270, R326) -/

section
variable {s : State} (hu : Unheld s)
include hu

theorem Unheld.engineHolds (line : Nat) : s.engineHolds line = false := by simp only [State.engineHolds, hu.engine, List.any_nil]

theorem Unheld.lineForeign (line : Nat) (who : Option Rid) : s.lineForeign line who = false := by
  simp only [State.lineForeign, hu.lines, List.any_nil]

theorem Unheld.lineBusy (line : Nat) (who : Option Rid) (store : Option Nat) : s.lineBusy line who store = false := by
  simp only [State.lineBusy, hu.lines, List.any_nil]

theorem Unheld.lineTurn (line since id : Nat) : s.lineTurn line since id = true := by
  simp only [State.lineTurn, hu.waits, List.any_nil, Bool.not_false]

theorem Unheld.rangeAt {l : Launch} (hl : l ∈ s.launches) (m : Nat) (w : BitVec 8) (va : Nat) : l.rangeAt m w va = none := by
  simp only [Launch.rangeAt, hu.ranges l hl, List.zipIdx_nil, List.find?_nil, Option.map_none]

theorem Unheld.inHeld (w : BitVec 8) (va pa : Nat) : s.inHeld w va pa = false := by
  have hdeclared : s.declared w va = false := by
    refine List.any_eq_false.mpr fun l hl => ?_
    simp [hu.rangeAt hl]
  simp only [State.inHeld, hdeclared, State.lineHeld, hu.lines, List.any_nil, Bool.or_false]

theorem Unheld.holdFor (r : Rid) (w : BitVec 8) (va span : Nat) : s.holdFor r w va span = some s := by
  unfold State.holdFor
  split
  · rfl
  · rename_i l hl
    rw [hu.rangeAt (List.mem_of_find?_eq_some hl)]

/-- Nothing keeps an access back. -/
theorem Unheld.gate (r : Rid) (g : Region) (a : Access) : s.gate r g a = .go s := by
  have hnever (pas : List Nat) : (pas.any fun _ => false) = false := by simp
  unfold State.gate
  simp only [hu.inHeld, hu.engineHolds, hu.lineForeign, hu.lineBusy, hu.lineTurn, hu.holdFor, hnever, Bool.not_true, Bool.or_false,
    Bool.false_eq_true, if_false]
  split
  · rfl
  split
  · rfl
  split <;> rfl
end

/-! ## Loads, stores and atomics at their line (R244, R248, R371) -/

/-- The operations of one line: loads, stores and atomics. -/
def isLineOp : Op → Bool
  | .ld | .ldv | .st | .atadd | .atmin | .atmax | .atand | .ator | .atxor | .atswp | .atcas | .attsb => true
  | _ => false

theorem isLineOp_of_isAtomic {o : Op} (h : isAtomic o = true) : isLineOp o = true := by
  unfold isAtomic at h
  split at h
  case h_10 => cases h
  all_goals rfl

/-- They are no commands of an engine, name no lines and announce nothing. -/
theorem isLineOp_only {o : Op} (h : isLineOp o = true) : isKv o = false ∧ namesLines o = false ∧ o ≠ .nann ∧ o ≠ .massacc := by
  unfold isLineOp at h
  split at h
  case h_13 => cases h
  all_goals exact ⟨rfl, rfl, nofun, nofun⟩

theorem not_onPage {pa : Nat} (h : pa ≤ 2 ^ 40) : onPage pa = false := by
  have hquot : pa / 2 ^ 40 ≤ 1 := Nat.div_le_of_le_mul (by omega)
  simp only [onPage, Bool.or_eq_false_iff, beq_eq_false_iff_ne]
  omega

section
variable {s : State} {who : Accessor} {q : Request} {pa : Nat} (hpage : onPage pa = false)
include hpage

theorem lineOp_ld (hop : q.op = .ld) (hgood : s.poison? pa q.len = none) :
    s.lineOp who q pa = some (s.peek pa q.len, .all (ofBytes 256 (readBytes s.mem pa q.len))) := by
  simp only [State.lineOp, State.loadAt, hop, hpage, hgood, Bool.false_eq_true, if_false, if_true]

theorem lineOp_ldv (hop : q.op = .ldv) (hgood : s.poison? pa q.len = none) : s.lineOp who q pa = some (s.peek pa q.len,
    .each [(q.f.dst0, ofBytes 256 (readBytes s.mem pa q.len)), (q.f.dst1, lane0 ((s.peek pa q.len).stampOf pa).toNat)]) := by
  simp only [State.lineOp, State.loadAt, hop, hpage, hgood, Bool.false_eq_true, if_false, reduceCtorEq]

theorem lineOp_st (hop : q.op = .st) : s.lineOp who q pa = some (s.poke pa (toBytes q.a q.len), .all 0) := by
  simp only [State.lineOp, State.storeAt, hop, hpage, Bool.false_eq_true, if_false, Option.map_some]

theorem lineOp_poisoned {c : Cause} (hop : q.op = .ld ∨ isAtomic q.op = true) (hpoison : s.poison? pa q.len = some c) :
    s.lineOp who q pa = some (s.peek pa q.len, .record c) := by
  obtain hop | hop := hop
  · simp only [State.lineOp, State.loadAt, hop, hpage, hpoison, Bool.false_eq_true, if_false]
  · unfold State.lineOp
    simp only [hpage, hpoison, Bool.false_eq_true, if_false]
    split <;> simp_all [isAtomic]

theorem lineOp_atomic (hop : isAtomic q.op = true) (hgood : s.poison? pa q.len = none) {out new : Nat}
    (hstep : atomicStep q (readNat s.mem pa q.len) = (out, new)) :
    s.lineOp who q pa = some (s.poke pa (toBytes (BitVec.ofNat (8 * q.len) new) q.len), .all (lane0 out)) := by
  unfold State.lineOp
  simp only [hpage, hgood, hstep, Bool.false_eq_true, if_false]
  split <;> simp_all [isAtomic]
end

/-! ## At the home slice (R263) -/

section
variable {s : State} {r : Rid} {l : Launch} {g : Region} {a : Access} {pa : Nat} (hr : Runs s r l g) (ha : g.acc? a.id = some a)
  (hu : Unheld s) (hpas : a.pas = [pa])
include hr ha hu hpas

/-- A load, a store or an atomic at its home slice is performed with what its line gives. -/
theorem execHomeSliceAccess_serves (hstage : a.stage = .slice) (hop : isLineOp a.req.op = true) {u : State} {x : Ans}
    (hline : s.lineOp (fabricAccessor l g a.req.tag) a.req pa = some (u, x)) :
    execHomeSliceAccess r a.id s = .next (u.perform r a x) := by
  obtain ⟨hkv, hlines, hnann, hmass⟩ := isLineOp_only hop
  have hserve : s.serveAcc r l g a = some (u.perform r a x) := by
    simp only [State.serveAcc, hlines, hnann, hmass, hpas, List.headD_cons, hline, Option.map_some, Bool.false_eq_true, if_false]
  simp only [execHomeSliceAccess, hr.launch, hr.region, ha, hstage, hr.package, hkv, hu.gate, hserve, Option.getD_some, bne_self_eq_false,
    beq_self_eq_true, Bool.or_false, Bool.not_true, Bool.false_eq_true, if_false]

/-- A conditional store that is the last of its group, alone in it, is settled and answered (R246). -/
theorem execCmstGroupSettle_alone (halone : g.accs = [a]) (hstage : a.stage = .settled) (hop : a.req.op = .cmst) (hchain : a.req.chain = 15)
    (hlast : a.req.last = true) : execCmstGroupSettle r a.id s = .next ((s.settleGroup (g.tagWorld a.req.tag) [a]).1.perform r a
      (s.settleGroup (g.tagWorld a.req.tag) [a]).2) := by
  have hgroup : g.cmstGroup a = some [a] := by
    simp [Region.cmstGroup, halone, hstage, hop, hchain, hlast, uptoLast]
  simp only [execCmstGroupSettle, hr.region, ha, hop, hstage, hr.package, hgroup, hpas, hu.engineHolds, bne_self_eq_false, Bool.or_false,
    List.any_cons, List.any_nil, List.foldl_cons, List.foldl_nil, Bool.false_eq_true, if_false]
end

section
variable {s : State} {a : Access} {pa : Nat} (hu : Unheld s) (hpas : a.pas = [pa]) (hpage : onPage pa = false) (w : BitVec 8)
include hu hpas hpage

/-- A member alone in its group writes and gives 1 where its stamp matches, and gives 0 where not (R246). -/
theorem settleGroup_alone : s.settleGroup w [a] = if s.stampOf pa = bitsAt a.req.b 0 64 then
    ((s.touch pa false).poke pa (toBytes a.req.a a.req.len), .all (lane0 1)) else (s.touch pa false, .all 0) := by
  have hslices : ([homeSlice pa].eraseDups).length = 1 := rfl
  simp [State.settleGroup, hpas, hpage, hu.inHeld, hslices]
end

/-- Settles O48: an access is performed with what its line or its group gives, which says what is in memory after it. -/
theorem accessesAtTheirHomeSlice : Obligations.AccessesAtTheirHomeSlice := by
  unfold Obligations.AccessesAtTheirHomeSlice
  intro s r l g a pa hr ha hu hmem hpas hbound n w old v int served home
  have hpage : onPage pa = false := not_onPage (by omega)
  have serves {i : Instr} {u : State} {x : Ans} {stored : Option (List Byte)} (h : exec i s = .next (u.perform r a x))
      (hat : ServedAt pa n stored s u) : served i x stored :=
    ⟨_, u, h, rfl, perform_mem u r a x, hat.launches, hat.regs, hat.harts,
      fun b hb => (congrArg (cellRead · b) (perform_mem u r a x)).trans (hat.others b hb),
      (congrArg (readBytes · pa n) (perform_mem u r a x)).trans hat.bytes⟩
  refine ⟨fun hstage => ?slice, fun hstage hop halone hchain hlast => ?group⟩
  case slice =>
    have lands {u : State} {x : Ans} {stored : Option (List Byte)} (hop : isLineOp a.req.op = true)
        (hline : s.lineOp (fabricAccessor l g a.req.tag) a.req pa = some (u, x)) (hat : ServedAt pa n stored s u) : home x stored :=
      serves (execHomeSliceAccess_serves hr ha hu hpas hstage hop hline) hat
    have atomic (hop : isAtomic a.req.op = true) (hgood : s.poison? pa n = none) {out new : Nat} (hstep : atomicStep a.req old = (out, new)) :
        home (.all (BitVec.ofNat 256 out)) (some (toBytes (BitVec.ofNat (8 * n) new) n)) :=
      lands (isLineOp_of_isAtomic hop) (lineOp_atomic hpage hop hgood hstep) (poke_servedAt hmem pa _ n)
    refine ⟨fun c hpoison hop => ?poisoned, fun hgood => ⟨fun hop => ?ld, fun hop => ?ldv, fun new hnew => ?old, fun hop => ?attsb⟩, fun hop => ?st⟩
    case poisoned =>
      have hline : isLineOp a.req.op = true := hop.elim (fun h => by rw [h]; rfl) isLineOp_of_isAtomic
      exact lands hline (lineOp_poisoned hpage hop hpoison) (peek_servedAt s pa n)
    case ld => exact lands (by rw [hop]; rfl) (lineOp_ld hpage hop hgood) (peek_servedAt s pa n)
    case ldv => exact lands (by rw [hop]; rfl) (lineOp_ldv hpage hop hgood) (peek_servedAt s pa n)
    case st => exact lands (by rw [hop]; rfl) (lineOp_st hpage hop) (poke_servedAt hmem pa _ n)
    case attsb =>
      refine atomic (by rw [hop]; rfl) hgood ?_
      simp only [atomicStep, hop, Nat.shiftRight_eq_div_pow]
      rfl
    case old =>
      obtain ⟨hop, hint, rfl⟩ | ⟨hop, rfl⟩ | ⟨hop, rfl⟩ | ⟨hop, rfl⟩ | ⟨hop, rfl⟩ | ⟨hop, rfl⟩ | ⟨hop, rfl⟩ | ⟨hop, rfl⟩ := hnew
      · refine atomic (by rw [hop]; rfl) hgood ?_
        simp only [atomicStep, hop, hint, Bool.false_eq_true, if_false]
        rfl
      all_goals
        refine atomic (by rw [hop]; rfl) hgood ?_
        simp only [atomicStep, hop]
        rfl
  case group =>
    have hsettle := execCmstGroupSettle_alone hr ha hu hpas halone hstage hop hchain hlast
    rw [settleGroup_alone hu hpas hpage] at hsettle
    by_cases hstamp : s.stampOf pa = bitsAt a.req.b 0 64
    · rw [if_pos hstamp] at hsettle
      rw [if_pos hstamp, if_pos hstamp]
      have htouch := touch_same s pa false
      have hwf : Memory.wf (s.touch pa false).mem = true := by rw [htouch.mem]; exact hmem
      exact serves hsettle ((poke_servedAt hwf pa a.req.a n).after_slices htouch (touch_regs s pa false))
    · rw [if_neg hstamp] at hsettle
      rw [if_neg hstamp, if_neg hstamp]
      exact serves hsettle (touch_servedAt s pa n)

end Sys2Proof.Machine
end

section
/-! SUPPORT. AGSET and AGGO (R251 to R253): what joining a generator's queue comes to, what the model binds or starts, and where its tests of
windows and registry entries agree with those of the state before the issue. -/

namespace Sys2Proof.Machine

/-! ## The queues of generators -/

theorem serveGen_no_request {s : State} {r : Rid} {x y n : Nat}
    (h : ∀ g, s.region? r = some g → ∀ t, g.tile? x y = some t → (t.gen n).queue = []) : s.serveGen r x y n = none := by
  unfold State.serveGen
  cases hg : s.region? r with
  | none => rfl
  | some g =>
    cases ht : g.tile? x y with
    | none => simp only [Option.bind_some, ht, Option.bind_none]
    | some t => simp only [Option.bind_some, ht, h g hg t ht]

/-- One request that joins idle generators and cannot be served waits. -/
theorem serveAll_waits {s : State} {r : Rid} {g : Region} {t : Tile} {n : Nat} {k : Gen} (hg : s.region? r = some (g.putTile (t.putGen n k)))
    (hqueues : ∀ u ∈ g.tiles, ∀ k ∈ u.gens, k.queue = []) (ht : t ∈ g.tiles) (hs : s.serveGen r t.x t.y n = none) :
    s.serveAllGens r = s := by
  have helse (x y m : Nat) (hne : ¬ (x = t.x ∧ y = t.y ∧ m = n)) : s.serveGen r x y m = none := by
    refine serveGen_no_request fun g' hg' u hu => ?_
    obtain rfl := Option.some.inj (hg.symm.trans hg')
    rw [tile?_putTile] at hu
    split at hu
    case isTrue hxy =>
      obtain ⟨-, -, rfl⟩ := Option.map_eq_some_iff.mp hu
      rw [gen_putGen_other _ _ _ _ fun hm => hne ⟨hxy.1, hxy.2, hm⟩]
      exact gen_mem (hqueues t ht)
    case isFalse => exact gen_mem (hqueues u (List.mem_of_find?_eq_some hu))
  rw [State.serveAllGens, hg]
  simp only
  cases (g.putTile (t.putGen n k)).genQueued with
  | zero => rfl
  | succ fuel =>
    rw [State.serveGens, hg]
    simp only
    rw [find_none _ (fun x y m => s.serveGen r x y m)]
    intro u _ m
    by_cases hne : u.x = t.x ∧ u.y = t.y ∧ m = n
    · obtain ⟨hx, hy, rfl⟩ := hne
      rw [hx, hy]
      exact hs
    · exact helse _ _ _ hne

/-- A generator's queue taken back. -/
theorem putGen_restores {t : Tile} {n : Nat} (hn : n < t.gens.length) (k : Gen) : (t.putGen n k).putGen n (t.gen n) = t := by
  have hgen : t.gen n = t.gens[n] := by simp [Tile.gen, hn]
  simp [Tile.putGen, hgen]

/-! ## An AGSET or AGGO joins its generator -/

/-- The issuing region, one more reply pending at the element (R180). -/
def Ctx.counted (c : Ctx) : Region := c.g.count (.site c.p.x c.p.y) c.tag 1 true

/-- A generator with one request in its queue. -/
def Gen.holding (k : Gen) (q : Request) : Gen := { k with queue := [q] }

/-- The request in the queue of its generator. -/
def Ctx.queued (c : Ctx) (o : Op) (t : Tile) : Region :=
  c.counted.putTile (t.putGen (c.request o).genNo ((t.gen (c.request o).genNo).holding (c.request o)))

section
variable {f : Fields} {s : State} {c : Ctx} (hi : Issues f s c (dests f).length) (hp : c.Plain)
include hi hp

theorem fireGen_noTile {o : Op} (hnone : c.g.dirTile (c.request o) (c.request o).dir0 = none) :
    fireGen o f s = .next (c.issued c.e ((dests f).map (c.recordTo (mkCause 5 0xD) 0 0 0 c.tagOut))) :=
  fire_raises hi hp (by simp only [hnone])

section
variable {o : Op} {t : Tile} (htile : c.g.dirTile (c.request o) (c.request o).dir0 = some t) (hn : (c.request o).genNo < t.gens.length)
  (hqueues : ∀ u ∈ c.g.tiles, ∀ k ∈ u.gens, k.queue = [])
include htile hqueues

theorem fireGen_joins : fireGen o f s = .next (c.issuedIn ((s.putRegion c.p.r (c.queued o t)).serveAllGens c.p.r) c.e [] []) := by
  have hempty : (t.gen (c.request o).genNo).queue = [] := gen_mem (hqueues t (List.mem_of_find?_eq_some htile))
  refine fire_defers hi hp ?_
  simp only [htile, hempty, List.nil_append, hi.s_eq]
  rfl

include hn

/-- A running nest keeps the request waiting (R251, R252). -/
theorem fireGen_waits (hrun : (t.gen (c.request o).genNo).nest.isSome = true) :
    fireGen o f s = .next (c.issuedIn (s.putRegion c.p.r (c.queued o t)) c.e [] []) := by
  have hstays : (s.putRegion c.p.r (c.queued o t)).serveAllGens c.p.r = s.putRegion c.p.r (c.queued o t) :=
    serveAll_none (g := c.counted) (k := (t.gen (c.request o).genNo).holding (c.request o)) (region?_putRegion_same hi.region) hrun hn
      (List.mem_of_find?_eq_some htile) hqueues
  rw [fireGen_joins hi hp htile hqueues, hstays]

/-- An idle generator serves the request in the state in which its region is put back, or keeps it. -/
theorem fireGen_serves (hsites : (c.g.tiles.map fun u => (u.x, u.y)).Nodup) (hidle : (t.gen (c.request o).genNo).nest = none) {x : GenStep}
    (hx : (if o == .agset then (s.putRegion c.p.r c.counted).bindGen c.p.r c.counted t (c.request o)
      else (s.putRegion c.p.r c.counted).startNest c.p.r c.counted t (c.request o)) = x) :
    fireGen o f s = .next (c.issuedIn
      ((x.served (s.putRegion c.p.r c.counted) c.p.r (c.request o)).getD (s.putRegion c.p.r (c.queued o t))) c.e [] []) := by
  have hmem : t ∈ c.g.tiles := List.mem_of_find?_eq_some htile
  have hq : (s.putRegion c.p.r (c.queued o t)).region? c.p.r = some (c.queued o t) := region?_putRegion_same hi.region
  have hback : (c.queued o t).putTile t = c.counted := (putTile_twice c.counted (t.putGen _ _) t rfl rfl).trans (putTile_self hsites hmem)
  have htile' : (c.queued o t).tile? t.x t.y = some (t.putGen (c.request o).genNo ((t.gen (c.request o).genNo).holding (c.request o))) := by
    obtain ⟨hx, hy⟩ := tile?_xy htile
    have : c.counted.tile? t.x t.y = some t := by rw [hx, hy]; exact htile
    rw [Ctx.queued, tile?_putTile, if_pos ⟨rfl, rfl⟩, this]
    rfl
  have hgen := gen_putGen_same t (c.request o).genNo ((t.gen (c.request o).genNo).holding (c.request o)) hn
  have hrest : { (t.gen (c.request o).genNo).holding (c.request o) with queue := [] } = t.gen (c.request o).genNo := by
    rw [← gen_mem (m := (c.request o).genNo) (hqueues t hmem)]
    rfl
  have hserve : (s.putRegion c.p.r (c.queued o t)).serveGen c.p.r t.x t.y (c.request o).genNo =
      x.served (s.putRegion c.p.r c.counted) c.p.r (c.request o) := by
    refine serveGen_eq (q := c.request o) (rest := []) (t1 := t) hq htile' (by rw [hgen]; rfl) (by rw [hgen]; exact hidle) ?_ ?_ ?_
    · rw [hgen, hrest]
      exact putGen_restores hn _
    · rw [hback, putRegion_twice _ _ hi.region]
    · rw [hback]; exact hx
  have hfour : (c.request o).genNo < 4 := (bitsAt (c.request o).f.xmod 2 2).isLt
  rw [fireGen_joins hi hp htile hqueues]
  cases hserved : x.served (s.putRegion c.p.r c.counted) c.p.r (c.request o) with
  | none =>
    rw [serveAll_waits (g := c.counted) hq hqueues hmem (hserve.trans hserved)]
    rfl
  | some u =>
    rw [serveAll_one (g := c.counted) hq rfl hmem hsites hn hfour hqueues (hserve.trans hserved)]
    rfl
end
end

/-! ## The regions of a die after one of them is put back (R193) -/

/-- A region without its census deltas. -/
def Region.still (g : Region) : Region := { g with deltas := [] }

/-- The members of a launch that lie on a die, without their deltas. -/
def Launch.stillOnDie (l : Launch) (die : Nat) : List (Rid × Region) :=
  ((l.members.map Region.still).zipIdx.filter fun q => q.1.die == die).map fun q => (⟨l.handle, q.2⟩, q.1)

theorem onDie_still (s : State) (die : Nat) : (s.onDie die).map (fun q => (q.1, q.2.still)) =
    (s.launches.filter Launch.placed).flatMap fun l => l.stillOnDie die := by
  have hdie (g : Region) : g.still.die = g.die := rfl
  simp only [State.onDie, Launch.stillOnDie, List.map_flatMap, List.map_map, List.zipIdx_map, List.filter_map, Function.comp_def, Prod.map,
    hdie, id]

/-- A launch, or the one put in its place. -/
def Launch.orPut (k l : Launch) : Launch := if k.handle == l.handle then l else k

theorem putLaunch_launches (s : State) (l : Launch) : (s.putLaunch l).launches = s.launches.map (Launch.orPut · l) := rfl

/-- Where every launch has a handle of its own, one that is put back changes no other. -/
theorem orPut_of_nodup {s : State} {h : Word32} {k l l' : Launch} (hhandles : (s.launches.map Launch.handle).Nodup) (hk : k ∈ s.launches)
    (hl : s.launch? h = some l) (hl' : l'.handle = l.handle) : k.orPut l' = if k = l then l' else k := by
  by_cases hsame : k = l
  · rw [if_pos hsame, hsame, Launch.orPut, if_pos (by simp [hl'])]
  · have hother : k.handle ≠ l'.handle := fun h => hsame
      (List.inj_on_of_nodup_map hhandles hk (List.mem_of_find?_eq_some hl) (h.trans hl'))
    rw [if_neg hsame, Launch.orPut, if_neg (by simp [hother])]

section
variable {s : State} {r : Rid} {g g' : Region} (hhandles : (s.launches.map Launch.handle).Nodup) (hg : s.region? r = some g)
  (hstill : g'.still = g.still)
include hhandles hg hstill

/-- Where every launch has a handle of its own, a region put back with more deltas leaves the others of its die in place. -/
theorem onDie_putRegion (die : Nat) : ((s.putRegion r g').onDie die).map (fun q => (q.1, q.2.still)) =
    (s.onDie die).map fun q => (q.1, q.2.still) := by
  obtain ⟨l, hl, hm⟩ := region?_eq_some.mp hg
  obtain ⟨hlt, rfl⟩ := List.getElem?_eq_some_iff.mp hm
  have hmembers : (l.members.set r.m g').map Region.still = l.members.map Region.still := by
    rw [List.map_set, hstill, ← List.getElem_map Region.still, List.set_getElem_self]
    simpa using hlt
  have hback (k : Launch) (hk : k ∈ s.launches) : (k.orPut (l.put r.m g')).placed = k.placed ∧
      (k.orPut (l.put r.m g')).stillOnDie die = k.stillOnDie die := by
    rw [orPut_of_nodup hhandles hk hl (launchPut_handle l r.m g')]
    split
    case isTrue hsame =>
      rw [hsame]
      exact ⟨rfl, by simp only [Launch.stillOnDie, launchPut_members, hmembers, launchPut_handle]⟩
    case isFalse => exact ⟨rfl, rfl⟩
  have hplaced : s.launches.filter (Launch.placed ∘ (Launch.orPut · (l.put r.m g'))) = s.launches.filter Launch.placed :=
    List.filter_congr fun k hk => (hback k hk).1
  rw [State.putRegion, hl, onDie_still, onDie_still, putLaunch_launches, List.filter_map, List.flatMap_map, hplaced]
  exact List.flatMap_congr fun k hk => (hback k (List.mem_of_mem_filter hk)).2

theorem any_onDie_putRegion (die : Nat) {P : Rid × Region → Bool} (hP : ∀ i k, P (i, Region.still k) = P (i, k)) :
    ((s.putRegion r g').onDie die).any P = (s.onDie die).any P := by
  have h (u : State) : (u.onDie die).any P = ((u.onDie die).map fun q => (q.1, q.2.still)).any P := by
    rw [List.any_map]
    exact congrArg _ (funext fun q => (hP q.1 q.2).symm)
  rw [h, h, onDie_putRegion hhandles hg hstill]

theorem windowTaken_putRegion (die tile num x y n : Nat) :
    (s.putRegion r g').windowTaken r die tile num x y n = s.windowTaken r die tile num x y n :=
  any_onDie_putRegion hhandles hg hstill die fun _ _ => rfl

theorem entryTaken_putRegion (die tile ent x y n : Nat) :
    (s.putRegion r g').entryTaken r die tile ent x y n = s.entryTaken r die tile ent x y n :=
  any_onDie_putRegion hhandles hg hstill die fun _ _ => rfl
end

/-- The state with the next number for a window or an access. -/
def State.numbered (s : State) (n : Nat) : State := { s with freshId := n }

theorem putRegion_numbered (s : State) (r : Rid) (g : Region) (n : Nat) : (s.numbered n).putRegion r g = (s.putRegion r g).numbered n := by
  have hlaunch : (s.numbered n).launch? r.h = s.launch? r.h := rfl
  rw [State.putRegion, State.putRegion, hlaunch]
  cases s.launch? r.h <;> rfl

/-! ## AGSET and AGGO at an idle generator (R251 to R253) -/

section
variable {s : State} {r : Rid} {g : Region} {t : Tile} {q : Request}

/-- The generator's new binding in place, the windows of its old one given up. -/
def Region.bound (g : Region) (t : Tile) (q : Request) : Region :=
  (g.unbind t.x t.y q.genNo).putTile (t.putGen q.genNo { t.gen q.genNo with desc := q.a, base := bitsAt q.k 0 64, bind := some q })

theorem bindGen_local (hkind : q.kind = 0) : s.bindGen r g t q = .set (s.putRegion r (g.bound t q)) := if_pos hkind

theorem bindGen_taken (hkind : q.kind ≠ 0) (htaken : s.windowTaken r g.die (g.portTile q.port) q.window t.x t.y q.genNo = true) :
    s.bindGen r g t q = .wait := (if_neg hkind).trans (if_pos htaken)

theorem bindGen_owned (hkind : q.kind ≠ 0) (hfree : s.windowTaken r g.die (g.portTile q.port) q.window t.x t.y q.genNo = false)
    (hown : q.own = true) (howned : s.entryTaken r g.die (g.portTile q.port) q.ent t.x t.y q.genNo = true) :
    s.bindGen r g t q = .fail (mkCause 5 0xA) := by
  refine (if_neg hkind).trans ((if_neg (ne_true_of_eq_false hfree)).trans (if_pos ?_))
  rw [hown, howned, Bool.and_self]

/-- The memory-port tile with the window bound to the generator, empty, and with OWN the entry claimed. -/
def Region.withWindow (g : Region) (t : Tile) (q : Request) (id : Nat) : MPort :=
  let m := ((g.bound t q).mport (g.portTile q.port)).putWindow ⟨id, q.window, t.x, t.y, q.genNo, q.kind == 2, 0, 0, [], none, []⟩
  if q.own then { m with registry := g.claim t q :: m.registry.filter fun e => e.ent != q.ent } else m

theorem bindGen_window (hkind : q.kind ≠ 0) (hfree : s.windowTaken r g.die (g.portTile q.port) q.window t.x t.y q.genNo = false)
    (hfit : q.own = true → s.entryTaken r g.die (g.portTile q.port) q.ent t.x t.y q.genNo = false) : s.bindGen r g t q =
      .set (((s.numbered (s.freshId + 1)).putRegion r ((g.bound t q).putMport (g.withWindow t q s.freshId))).loseWindow r g.die
        (g.portTile q.port) q.window) := by
  refine (if_neg hkind).trans ((if_neg (ne_true_of_eq_false hfree)).trans (if_neg ?_))
  rw [Bool.and_eq_true]
  exact fun h => ne_true_of_eq_false (hfit h.1) h.2

theorem startNest_unfit (hunfit : ∀ b, (t.gen q.genNo).bind = some b → g.genReady t q.genNo b = false) :
    s.startNest r g t q = .fail (mkCause 5 0xD) := by
  unfold State.startNest
  simp only
  split
  case h_1 => rfl
  case h_2 b hbind => exact if_pos (by simp [hunfit b hbind])

/-- The region with the nest in place, its window empty. -/
def Region.started (g : Region) (t : Tile) (q b : Request) : Region :=
  let g1 := g.putTile (t.putGen q.genNo { t.gen q.genNo with nest := some ⟨q, 0, none⟩ })
  match g.genWindow t q.genNo b with
  | some w => g1.putWindow (g.portTile b.port) { w with head := 0, tail := 0, units := [], wait := none, pages := [] }
  | none => g1

theorem startNest_starts {b : Request} (hbind : (t.gen q.genNo).bind = some b) (hready : g.genReady t q.genNo b = true) :
    s.startNest r g t q = .started (s.putRegion r (g.started t q b)) := by
  unfold State.startNest
  simp only
  split
  case h_1 hnone => exact absurd (hnone.symm.trans hbind) nofun
  case h_2 b' hb =>
    obtain rfl := Option.some.inj (hb.symm.trans hbind)
    exact if_neg (by simp [hready])
end

section
variable {f : Fields} {s : State} {c : Ctx} (hi : Issues f s c (dests f).length) (hp : c.Plain)

section
include hi

theorem Issues.windowTaken_counted (hhandles : (s.launches.map Launch.handle).Nodup) (die tile num x y n : Nat) :
    (s.putRegion c.p.r c.counted).windowTaken c.p.r die tile num x y n = s.windowTaken c.p.r die tile num x y n :=
  windowTaken_putRegion (g' := c.counted) hhandles hi.region rfl die tile num x y n

theorem Issues.entryTaken_counted (hhandles : (s.launches.map Launch.handle).Nodup) (die tile ent x y n : Nat) :
    (s.putRegion c.p.r c.counted).entryTaken c.p.r die tile ent x y n = s.entryTaken c.p.r die tile ent x y n :=
  entryTaken_putRegion (g' := c.counted) hhandles hi.region rfl die tile ent x y n
end

section
variable {t : Tile} (htile : c.g.dirTile (c.request .agset) (c.request .agset).dir0 = some t) (hn : (c.request .agset).genNo < t.gens.length)
  (hsites : (c.g.tiles.map fun u => (u.x, u.y)).Nodup) (hqueues : ∀ u ∈ c.g.tiles, ∀ k ∈ u.gens, k.queue = [])
  (hidle : (t.gen (c.request .agset).genNo).nest = none)
include hi hp htile hn hsites hqueues hidle

/-- AGSET of a local nest (KIND 0) is answered at once. -/
theorem execAgset_local (hkind : (c.request .agset).kind = 0) : execAgset f s = .next (c.issuedIn (answerAll
    (s.putRegion c.p.r (c.counted.bound t (c.request .agset))) c.p.r (elementSender c.p.r.m (c.request .agset))
    ((c.request .agset).reply c.p.r.m) 0) c.e [] []) := by
  refine (fireGen_serves hi hp htile hn hqueues hsites hidle (bindGen_local hkind)).trans ?_
  rw [putRegion_twice _ _ hi.region]
  rfl

variable (hhandles : (s.launches.map Launch.handle).Nodup) (hkind : (c.request .agset).kind ≠ 0)
include hhandles hkind

/-- AGSET waits for a window that another running stream holds. -/
theorem execAgset_taken (htaken : s.windowTaken c.p.r c.g.die (c.g.portTile (c.request .agset).port) (c.request .agset).window t.x t.y
    (c.request .agset).genNo = true) : execAgset f s = .next (c.issuedIn (s.putRegion c.p.r (c.queued .agset t)) c.e [] []) :=
  fireGen_serves hi hp htile hn hqueues hsites hidle
    (bindGen_taken hkind ((hi.windowTaken_counted hhandles _ _ _ _ _ _).trans htaken))

variable (hfree : s.windowTaken c.p.r c.g.die (c.g.portTile (c.request .agset).port) (c.request .agset).window t.x t.y
  (c.request .agset).genNo = false)
include hfree

/-- AGSET of a registry entry that another generator owns fails. -/
theorem execAgset_owned (hown : (c.request .agset).own = true) (howned : s.entryTaken c.p.r c.g.die (c.g.portTile (c.request .agset).port)
    (c.request .agset).ent t.x t.y (c.request .agset).genNo = true) : execAgset f s = .next (c.issuedIn (answerRecord
      (s.putRegion c.p.r c.counted) c.p.r (elementSender c.p.r.m (c.request .agset)) ((c.request .agset).reply c.p.r.m) (mkCause 5 0xA) 0)
      c.e [] []) :=
  fireGen_serves hi hp htile hn hqueues hsites hidle
    (bindGen_owned hkind ((hi.windowTaken_counted hhandles _ _ _ _ _ _).trans hfree) hown
      ((hi.entryTaken_counted hhandles _ _ _ _ _ _).trans howned))

/-- AGSET binds a free window, empty, and with OWN claims its entry. -/
theorem execAgset_window (hfit : (c.request .agset).own = true → s.entryTaken c.p.r c.g.die (c.g.portTile (c.request .agset).port)
    (c.request .agset).ent t.x t.y (c.request .agset).genNo = false) : execAgset f s = .next (c.issuedIn (answerAll
      (((s.numbered (s.freshId + 1)).putRegion c.p.r ((c.counted.bound t (c.request .agset)).putMport
        (c.counted.withWindow t (c.request .agset) s.freshId))).loseWindow c.p.r c.g.die (c.g.portTile (c.request .agset).port)
        (c.request .agset).window) c.p.r (elementSender c.p.r.m (c.request .agset)) ((c.request .agset).reply c.p.r.m) 0) c.e [] []) := by
  refine (fireGen_serves hi hp htile hn hqueues hsites hidle
    (bindGen_window hkind ((hi.windowTaken_counted hhandles _ _ _ _ _ _).trans hfree)
      fun hown => (hi.entryTaken_counted hhandles _ _ _ _ _ _).trans (hfit hown))).trans ?_
  rw [putRegion_freshId, putRegion_numbered, putRegion_twice _ _ hi.region, ← putRegion_numbered]
  rfl
end

section
variable {t : Tile} (htile : c.g.dirTile (c.request .aggo) (c.request .aggo).dir0 = some t) (hn : (c.request .aggo).genNo < t.gens.length)
  (hsites : (c.g.tiles.map fun u => (u.x, u.y)).Nodup) (hqueues : ∀ u ∈ c.g.tiles, ∀ k ∈ u.gens, k.queue = [])
  (hidle : (t.gen (c.request .aggo).genNo).nest = none)
include hi hp htile hn hsites hqueues hidle

/-- AGGO fails without a binding that is fit. -/
theorem execAggo_unfit (hunfit : ∀ b, (t.gen (c.request .aggo).genNo).bind = some b → c.g.genReady t (c.request .aggo).genNo b = false) :
    execAggo f s = .next (c.issuedIn (answerRecord (s.putRegion c.p.r c.counted) c.p.r (elementSender c.p.r.m (c.request .aggo))
      ((c.request .aggo).reply c.p.r.m) (mkCause 5 0xD) 0) c.e [] []) :=
  fireGen_serves hi hp htile hn hqueues hsites hidle (startNest_unfit hunfit)

/-- AGGO starts a nest whose binding is fit. -/
theorem execAggo_starts {b : Request} (hbind : (t.gen (c.request .aggo).genNo).bind = some b)
    (hready : c.g.genReady t (c.request .aggo).genNo b = true) :
    execAggo f s = .next (c.issuedIn (s.putRegion c.p.r (c.counted.started t (c.request .aggo) b)) c.e [] []) := by
  refine (fireGen_serves hi hp htile hn hqueues hsites hidle (startNest_starts hbind hready)).trans ?_
  rw [putRegion_twice _ _ hi.region]
  rfl
end
end

end Sys2Proof.Machine
end

section
/-! SUPPORT. AGSET where two launches have one handle: the state that refutes O29. -/

namespace Sys2Proof.Machine

/-- AGSET with KIND 1: generator 0 of the tile to the east is bound to window 0 of memory-port tile 0. -/
def agsetEast : Fields := { decodeFields 0 with xmod := 0x11 }

/-- An element that issues, and east of it a tile whose generators are idle. -/
def idleRegion : Region := { slotRegion 0 with tiles := [loadTile [] 1 0] }

/-- Generator 1 of the tile runs a nest through window 0. -/
def streamingRegion : Region := { slotRegion 0 with
  tiles := [(loadTile [] 1 0).putGen 1 ⟨0, 0, none, some ⟨⟨.aggo, agsetEast, 0, 0, 0, 0, false, false, 0, 0, 0, 0, []⟩, 0, none⟩, [], 0⟩]
  mports := [⟨0, [], [⟨0, 0, 1, 0, 1, false, 0, 0, [], none, []⟩], []⟩] }

/-- A launch of one region that runs, with handle 0. -/
def runningLaunch (g : Region) : Launch := { newLaunch 0 0 [g] [] 0 with state := .running }

/-- Two launches with handle 0 in place on one die. -/
def sharedHandle : State := { State.reset with
  launches := [runningLaunch idleRegion, runningLaunch streamingRegion]
  focus := .elem ⟨⟨0, 0⟩, 0, 0⟩ }

/-- What the AGSET of the first launch's element sees. -/
def sharedHandleCtx : Ctx :=
  ⟨sharedHandle, ⟨⟨0, 0⟩, 0, 0⟩, runningLaunch idleRegion, idleRegion, { Elem.empty 0 0 with slots := [(0, 0)], ready := [zeroSet 0] },
    agsetEast, zeroSet 0, 0, 0⟩

theorem sharedHandle_issues : Issues agsetEast sharedHandle sharedHandleCtx (dests agsetEast).length where
  here := by decide +kernel
  room := by decide +kernel
  colour := by decide +kernel
  epoch := by decide +kernel

theorem sharedHandle_plain : sharedHandleCtx.Plain where
  raise := by decide +kernel
  control := by decide +kernel
  record := by decide +kernel
  bubble := by decide +kernel

/-- An issue takes no number for a new window. -/
theorem issuedIn_freshId (c : Ctx) (u : State) (e : Elem) (es : List Emit) (rs : List OutItem) : (c.issuedIn u e es rs).freshId = u.freshId := by
  unfold Ctx.issuedIn Ctx.sentIn
  split <;> rfl

/-- The window binds, and takes a number, though a stream of the second launch holds it: the second launch is replaced when the first one,
with the request in its generator's queue, is put back. -/
theorem sharedHandle_binds : (match exec (.agset agsetEast) sharedHandle with
    | .next t => some t.freshId
    | _ => none) = some 1 := by
  decide +kernel

/-- Refutes O29: where two launches have one handle, which R193 excludes and the statement does not, AGSET does not wait for the window
that the second one's stream holds. The clauses on windows and entries hold where each launch has a handle of its own (`execAgset_taken`,
`execAgset_owned`, `execAgset_window`), the others in every state (`fireGen_noTile`, `fireGen_waits`, `execAgset_local`, `execAggo_unfit`,
`execAggo_starts`). -/
theorem not_generatorInstructions : ¬ Obligations.GeneratorInstructions := by
  unfold Obligations.GeneratorInstructions
  intro h
  obtain ⟨-, hgen⟩ := h agsetEast sharedHandle sharedHandleCtx sharedHandle_issues sharedHandle_plain
  obtain ⟨-, hidle⟩ := hgen (loadTile [] 1 0) (by decide +kernel) (by decide +kernel) (by decide +kernel) (by decide +kernel)
  obtain ⟨⟨-, hwaits, -⟩, -⟩ := hidle (by decide +kernel)
  have hwaits := hwaits (by decide +kernel) (by decide +kernel)
  have hbinds := sharedHandle_binds
  simp only [hwaits, issuedIn_freshId, putRegion_freshId] at hbinds
  exact absurd hbinds (by decide +kernel)

end Sys2Proof.Machine
end

section
/-! SUPPORT. The accesses of harts and of the host, piece by piece (R262, R263, R269, R436, R445): when one may go, what a piece does at
its home slice, and what the access then comes to. -/

namespace Sys2Proof.Machine

/-! ## Addresses of HBM (R229) -/

theorem mapped_of_lt {pa : Nat} (h : pa < 2 ^ 40) : mapped pa = true := by
  simp only [mapped, Nat.div_eq_of_lt h, beq_self_eq_true, Bool.true_or]

theorem inHbm_of_lt {pa : Nat} (h : pa < 2 ^ 40) : inHbm pa = true := decide_eq_true h

theorem mapped_eq_false {pa : Nat} (h : pa / 2 ^ 40 ∉ [0, 0x800, 0x900]) : mapped pa = false := by
  simpa [mapped, and_assoc] using h

/-- A piece of at least one byte stays in its line (R262). -/
theorem lineAddrs_pieceLen {a n : Nat} (hn : 0 < n) : lineAddrs a (pieceLen a n) = [128 * (a / 128)] := by
  have hpos : pieceLen a n ≠ 0 := by simp only [pieceLen]; omega
  have hline : (a + pieceLen a n - 1) / 128 - a / 128 = 0 := by simp only [pieceLen]; omega
  simp [lineAddrs, hpos, hline]

/-! ## Bytes of a word (R34) -/

theorem bytesToNat_byte : ∀ (bs : List Byte) (j : Nat), bytesToNat bs / 2 ^ (8 * j) % 256 = (bs.getD j 0).toNat
  | [], j => by simp [bytesToNat]
  | b :: bs, 0 => by simp [bytesToNat, Nat.add_mul_mod_self_left, Nat.mod_eq_of_lt b.isLt]
  | b :: bs, j + 1 => by
    have hbyte : b.toNat / 2 ^ 8 = 0 := Nat.div_eq_of_lt b.isLt
    rw [Nat.mul_succ, Nat.add_comm (8 * j), Nat.pow_add, ← Nat.div_div_eq_div_mul, bytesToNat, show (256 : Nat) = 2 ^ 8 from rfl,
      Nat.add_mul_div_left _ _ (by decide), hbyte, Nat.zero_add]
    exact bytesToNat_byte bs j

/-- The bytes of the word that bytes make are those bytes. -/
theorem toBytes_ofBytes {n : Nat} {bs : List Byte} (h : 8 * bs.length ≤ n) : toBytes (ofBytes n bs) bs.length = bs := by
  refine List.ext_getElem (length_toBytes _ _) fun j hj hj' => ?_
  have hwidth : 8 * j + 8 ≤ n := by omega
  simp only [toBytes, List.getElem_map, List.getElem_range]
  apply BitVec.eq_of_toNat_eq
  have hbyte := bytesToNat_byte bs j
  rw [List.getD_eq_getElem _ _ hj'] at hbyte
  rw [byteAt_toNat, ofBytes, BitVec.toNat_ofNat, ← hbyte, show (256 : Nat) = 2 ^ 8 from rfl, ← Nat.mod_mul_right_div_self,
    ← Nat.mod_mul_right_div_self, ← Nat.pow_add, Nat.mod_mod_of_dvd _ (Nat.pow_dvd_pow 2 hwidth)]

/-! ## What an access at a home slice keeps (R263) -/

theorem SameButSlices.hostParts {s t : State} (h : SameButSlices s t) : t.hostParts = s.hostParts := by
  have := congrArg State.hostParts h.rest; exact this

theorem SameButMemory.hostParts {s t : State} (h : SameButMemory s t) : t.hostParts = s.hostParts := by
  have := congrArg State.hostParts h.rest; exact this

theorem SameButMemory.busWaits {s t : State} (h : SameButMemory s t) : t.busWaits = s.busWaits := by
  have := congrArg State.busWaits h.rest; exact this

/-- A store writes exactly its bytes. -/
theorem poke_bytes {s : State} (hmem : Memory.wf s.mem = true) (pa : Nat) (bs : List Byte) :
    readBytes (s.poke pa bs).mem pa bs.length = bs ∧
      ∀ q, (q < pa ∨ pa + bs.length ≤ q) → cellRead (s.poke pa bs).mem q = cellRead s.mem q := by
  rw [poke_mem]
  exact ⟨readBytes_writeBytes hmem, fun q hq => cellRead_writeBytes_other hmem hq⟩

/-! ## When an access may go (R269, R270, R326) -/

/-- No line is held and no access waits at one, of the fabric, of a hart or of the host. -/
structure BusFree (s : State) : Prop where
  lines : s.heldLines = []
  engine : s.kvHolds = []
  bus : s.busWaits = []
  waits : ∀ line, s.waitsAt line = []

/-- Where no line is held an access goes at once and leaves the state alone. -/
theorem BusFree.busTry {s : State} (hf : BusFree s) (hart : Option Nat) (va pa n : Nat) (op : BusOp) :
    s.busTry hart va pa n op = (s, true) := by
  have hengine (line : Nat) : s.engineHolds line = false := by simp only [State.engineHolds, hf.engine, List.any_nil]
  have hforeign (line : Nat) : s.lineForeign line none = false := by simp only [State.lineForeign, hf.lines, List.any_nil]
  have hturn (line since id : Nat) : s.lineTurn line since id = true := by
    simp only [State.lineTurn, hf.waits, List.any_nil, Bool.not_false]
  have hnever (l : List Nat) : (l.any fun _ => false) = false := by simp
  have hnone (l : List Nat) : (l.find? fun _ => false) = none := by simp
  have hkeep : { s with busWaits := [] } = s := by rw [← hf.bus]
  simp only [State.busTry, hengine, hforeign, hturn, hnever, hnone, hf.bus, Bool.not_true, Bool.false_eq_true, if_false,
    List.filter_nil, hkeep]

/-- An access of one line that a region holds begins to wait there. -/
theorem busTry_foreign {s : State} {pa m line : Nat} (hline : hbmLines pa m = [128 * line]) (hengine : s.kvHolds = [])
    (hbus : s.busWaits = []) (hheld : ∃ q ∈ s.heldLines, q.line = line) (hart : Option Nat) (va : Nat) (op : BusOp) :
    s.busTry hart va pa m op = ({ s with
      busWaits := [⟨s.freshId, hart, va, 128 * line, op, s.cycle⟩]
      freshId := s.freshId + 1 }, false) := by
  have hfree (line : Nat) : s.engineHolds line = false := by simp only [State.engineHolds, hengine, List.any_nil]
  have hforeign : s.lineForeign (lineOf (128 * line)) none = true := by
    obtain ⟨q, hq, rfl⟩ := hheld
    exact List.any_eq_true.mpr ⟨q, hq, by simp [lineOf]⟩
  simp [State.busTry, hline, hfree, hforeign, hbus]

/-! ## A hart's access: when it goes on, and what it comes to -/

theorem putHart_twice (s : State) (h : Nat) (a b : Hart) : (s.putHart h a).putHart h b = s.putHart h b := by
  simp only [State.putHart, List.set_set]

/-- A hart has nothing of an access on its way. -/
def Hart.Fresh (k : Hart) : Prop := k.blocked = false ∧ k.part = none

/-- An access of a hart stands where earlier pieces have done the bytes `got` (R262). -/
def Hart.Begun (k : Hart) (pa n : Nat) (op : BusOp) (store : Bool) (got : List Byte) : Prop :=
  k.Fresh ∧ got = [] ∨ k.blocked = true ∧ k.mem = some (pa, op) ∧ k.part = some ⟨pa, n, store, got⟩ ∧ got.length < n

theorem Hart.Begun.length_lt {k : Hart} {pa n : Nat} {op : BusOp} {store : Bool} {got : List Byte} (hb : k.Begun pa n op store got)
    (hn : 0 < n) : got.length < n := by
  obtain ⟨-, rfl⟩ | ⟨-, -, -, hlt⟩ := hb
  · exact hn
  · exact hlt

/-- The bytes that are done, of a load, or of a store of bytes that begin with them. -/
theorem Hart.Begun.done {k : Hart} {pa n : Nat} {op : BusOp} {store : Bool} {got : List Byte} (hb : k.Begun pa n op store got)
    {bs : List Byte} (hbs : store = true → bs.take got.length = got) : k.done pa n store bs = got := by
  obtain ⟨⟨-, hpart⟩, rfl⟩ | ⟨-, -, hpart, -⟩ := hb
  · simp only [Hart.done, hpart]
  · have hbegins : (!store || bs.take got.length == got) = true := by cases store <;> simp_all
    simp only [Hart.done, hpart, hbegins, and_self, if_true]

theorem exec_hartMemoryAccess (h pa : Nat) (op : BusOp) (s : State) :
    exec (.hartMemoryAccess h pa op) s = execHartMemoryAccess h pa op s := rfl

/-- A hart begins an access, or goes on with the one that is on its way, and does not wait at a held line yet. -/
structure Accesses (s : State) (h : Nat) (k : Hart) (pa : Nat) (op : BusOp) : Prop where
  clock : s.clocked = true
  hart : s.hart? h = some k
  awake : k.waiting = false
  scan : k.scan = none
  size : hartSize (busSize op) = true
  turn : k.Fresh ∨ k.blocked = true ∧ k.mem = some (pa, op)
  moving : ∀ b ∈ s.busWaits, b.hart ≠ some h

section
variable {s t u : State} {h pa : Nat} {k q : Hart} {op : BusOp} (ha : Accesses s h k pa op)
include ha

theorem Accesses.index : h < s.harts.length := (List.getElem?_eq_some_iff.mp ha.hart).1

/-- The hart after it is replaced. -/
theorem Accesses.putHart (hharts : u.harts = s.harts) (q : Hart) : (u.putHart h q).hart? h = some q := by
  rw [State.hart?, putHart_harts, hharts, List.getElem?_set_self ha.index]

/-- Nothing keeps the hart from its access. -/
theorem Accesses.guard : (k.waiting || !s.clocked || !hartSize (busSize op) || (k.blocked && k.mem != some (pa, op)) ||
    (!k.blocked && k.part.isSome) || k.scan.isSome) = false := by
  obtain ⟨hblocked, hpart⟩ | ⟨hblocked, hmem⟩ := ha.turn
  · simp [ha.awake, ha.clock, ha.size, ha.scan, hblocked, hpart]
  · simp [ha.awake, ha.clock, ha.size, ha.scan, hblocked, hmem]

/-- A hart whose access is over takes what it loaded. -/
theorem Accesses.exec_ok {v : Word64} (hres : s.hartAccess h k pa op = .ok (t, v)) (hq : t.hart? h = some q) :
    exec (.hartMemoryAccess h pa op) s = .next (t.putHart h { q.drop with mdr := v }) := by
  simp only [exec_hartMemoryAccess, execHartMemoryAccess, ha.hart, ha.guard, hres, hq, Bool.false_eq_true, if_false]

/-- A hart that has done a piece, or waits at a held line, stays at its access. -/
theorem Accesses.exec_stays (hres : s.hartAccess h k pa op = .error t) (hq : t.hart? h = some q)
    (hstays : q.part.isSome = true ∨ ∃ b ∈ t.busWaits, b.hart = some h) :
    exec (.hartMemoryAccess h pa op) s = .next (t.putHart h { q with blocked := true, mem := some (pa, op) }) := by
  have hcond : (q.part.isSome || t.busWaits.any fun b => b.hart == some h) = true := by simpa using hstays
  simp only [exec_hartMemoryAccess, execHartMemoryAccess, ha.hart, ha.guard, hres, hq, hcond, Bool.false_eq_true, if_false, if_true]

/-- A hart that has taken an exception is done with its access. -/
theorem Accesses.exec_trap {code : Nat} {tval : Word64} (hres : s.hartAccess h k pa op = .error t)
    (ht : SameButMemory (s.putHart h (k.trap code tval)) t) : exec (.hartMemoryAccess h pa op) s = .next t := by
  obtain ⟨-, hpart, -, -⟩ := k.trap_drops_pending code tval
  have hq : t.hart? h = some (k.trap code tval) := by
    rw [State.hart?, ht.harts]
    exact ha.putHart rfl _
  have hcond : ((k.trap code tval).part.isSome || t.busWaits.any fun b => b.hart == some h) = false := by
    rw [hpart, ht.busWaits]
    simpa using ha.moving
  simp only [exec_hartMemoryAccess, execHartMemoryAccess, ha.hart, ha.guard, hres, hq, hcond, Bool.false_eq_true, if_false]

/-- A piece that leaves the state u: with bytes left the hart stays at its access, with what is done; after the last one it takes v (R262,
R263). -/
theorem Accesses.exec_piece {n : Nat} {store : Bool} {all : List Byte} {v : Word64} (hharts : u.harts = s.harts)
    (hres : s.hartAccess h k pa op =
      if all.length < n then .error (u.setPart h (some ⟨pa, n, store, all⟩)) else .ok (u.setPart h none, v)) :
    if all.length < n then
      exec (.hartMemoryAccess h pa op) s =
        .next (u.putHart h { k with part := some ⟨pa, n, store, all⟩, blocked := true, mem := some (pa, op) })
    else exec (.hartMemoryAccess h pa op) s = .next (u.putHart h { k.drop with mdr := v }) := by
  have hu : u.hart? h = some k := by rw [State.hart?, hharts]; exact ha.hart
  have hset (p : Option HartPart) : u.setPart h p = u.putHart h { k with part := p } := by simp only [State.setPart, hu]
  split
  case isTrue hleft =>
    rw [if_pos hleft, hset] at hres
    rw [ha.exec_stays hres (ha.putHart hharts _) (.inl rfl), putHart_twice]
  case isFalse hlast =>
    rw [if_neg hlast, hset] at hres
    rw [ha.exec_ok hres (ha.putHart hharts _), putHart_twice]
    rfl
end

/-! ## Loads and stores of a hart -/

section
variable {s : State} {h pa n : Nat} {k : Hart} {v : Word64}

/-- A load at an unmapped address is an access fault. -/
theorem exec_load_unmapped (ha : Accesses s h k pa (.load n)) (hf : k.Fresh) (hpa : mapped pa = false) :
    exec (.hartMemoryAccess h pa (.load n)) s = .next (s.putHart h (k.trap 5 (BitVec.ofNat 64 pa))) := by
  refine ha.exec_trap ?_ .rfl
  simp [State.hartAccess, State.hartLoad, State.loadPiece, Nat.mod_one, Hart.done, hf.2, hpa, hartTrap_of_hart? ha.hart, Except.map]

/-- A store at an unmapped address is an access fault. -/
theorem exec_store_unmapped (ha : Accesses s h k pa (.store n v)) (hf : k.Fresh) (hpa : mapped pa = false) :
    exec (.hartMemoryAccess h pa (.store n v)) s = .next (s.putHart h (k.trap 7 (BitVec.ofNat 64 pa))) := by
  refine ha.exec_trap ?_ .rfl
  simp [State.hartAccess, State.hartStore, State.storePiece, Nat.mod_one, Hart.done, hf.2, hpa, hartTrap_of_hart? ha.hart, Except.map]

/-- The bytes of a piece in HBM are read at their home slice. -/
theorem loadPiece_free (hf : BusFree s) {a m : Nat} (hm : 0 < m) (ha : a + m ≤ 2 ^ 40) (hgood : s.poison? a m = none) (va : Nat) :
    s.loadPiece h k va a m = .ok (s.peek a m, readBytes s.mem a m) := by
  simp [State.loadPiece, hf.busTry, mapped_of_lt (show a < 2 ^ 40 by omega), mapped_of_lt (show a + m - 1 < 2 ^ 40 by omega),
    not_onPage (show a ≤ 2 ^ 40 by omega), hgood]

/-- The bytes of a piece in HBM are written at their home slice. -/
theorem storePiece_free (hf : BusFree s) {a : Nat} {bs : List Byte} (hm : 0 < bs.length) (ha : a + bs.length ≤ 2 ^ 40) (va : Nat) :
    s.storePiece h k va a bs = .ok (s.poke a bs) := by
  simp [State.storePiece, hf.busTry, mapped_of_lt (show a < 2 ^ 40 by omega), mapped_of_lt (show a + bs.length - 1 < 2 ^ 40 by omega),
    not_onPage (show a ≤ 2 ^ 40 by omega)]

/-- A piece of a load in HBM adds its bytes to those that are done. -/
theorem hartAccess_load (hf : BusFree s) (hn : 0 < n) (hpa : pa + n ≤ 2 ^ 40) {got : List Byte} (hb : k.Begun pa n (.load n) false got)
    (hgood : s.poison? (pa + got.length) (pieceLen (pa + got.length) (n - got.length)) = none) :
    let a := pa + got.length
    let m := pieceLen a (n - got.length)
    let all := got ++ readBytes s.mem a m
    s.hartAccess h k pa (.load n) =
      if all.length < n then .error ((s.peek a m).setPart h (some ⟨pa, n, false, all⟩))
      else .ok ((s.peek a m).setPart h none, ofBytes 64 all) := by
  intro a m all
  have hlt := hb.length_lt hn
  have hm : 0 < m ∧ a + m ≤ pa + n := by simp only [m, pieceLen, a]; omega
  have hpiece := loadPiece_free (h := h) (k := k) hf hm.1 (hm.2.trans hpa) hgood a
  have hdone : k.done pa n false [] = got := hb.done nofun
  simp only [State.hartAccess, State.hartLoad, Nat.mod_one, ne_eq, not_true_eq_false, if_false, hdone]
  rw [hpiece]
  exact apply_ite (Except.map _) _ _ _

/-- A piece of a store in HBM writes the bytes that follow those that are done. -/
theorem hartAccess_store (hf : BusFree s) (hn : 0 < n) (hpa : pa + n ≤ 2 ^ 40) {j : Nat} (hj : j ≤ n)
    (hb : k.Begun pa n (.store n v) true ((toBytes v n).take j)) :
    let m := pieceLen (pa + j) (n - j)
    let u := s.poke (pa + j) (((toBytes v n).drop j).take m)
    let all := (toBytes v n).take (j + m)
    s.hartAccess h k pa (.store n v) =
      if all.length < n then .error (u.setPart h (some ⟨pa, n, true, all⟩)) else .ok (u.setPart h none, k.mdr) := by
  intro m u all
  have hlen := length_toBytes v n
  have htake : ((toBytes v n).take j).length = j := by rw [List.length_take, hlen]; omega
  have hlt : j < n := by have := hb.length_lt hn; omega
  have hm : 0 < m ∧ j + m ≤ n := by simp only [m, pieceLen]; omega
  have hbytes : (((toBytes v n).drop j).take m).length = m := by rw [List.length_take, List.length_drop, hlen]; omega
  have hpiece := storePiece_free (h := h) (k := k) (bs := ((toBytes v n).drop j).take m) hf (a := pa + j) (by omega) (by omega) (pa + j)
  have hdone : k.done pa n true (toBytes v n) = (toBytes v n).take j := hb.done fun _ => by rw [htake]
  simp only [State.hartAccess, State.hartStore, Nat.mod_one, ne_eq, not_true_eq_false, if_false, hlen, hdone, htake]
  rw [hpiece]
  exact apply_ite (Except.map _) _ _ _

/-- A load at a line that a region holds waits there (R269). -/
theorem exec_load_held (ha : Accesses s h k pa (.load n)) (hn : 0 < n) (hf : k.Fresh) (hpa : pa + n ≤ 2 ^ 40) (hengine : s.kvHolds = [])
    (hbus : s.busWaits = []) (hheld : ∃ q ∈ s.heldLines, q.line = pa / 128) :
    exec (.hartMemoryAccess h pa (.load n)) s =
      .next { s.putHart h { k with blocked := true, mem := some (pa, .load n) } with
        busWaits := [⟨s.freshId, some h, pa, 128 * (pa / 128), .load (pieceLen pa n), s.cycle⟩]
        freshId := s.freshId + 1 } := by
  have hm : 0 < pieceLen pa n ∧ pieceLen pa n ≤ n := by simp only [pieceLen]; omega
  have hline : hbmLines pa (pieceLen pa n) = [128 * (pa / 128)] := by
    simp [hbmLines, lineAddrs_pieceLen hn, inHbm_of_lt (show 128 * (pa / 128) < 2 ^ 40 by omega)]
  have htry := busTry_foreign hline hengine hbus hheld (some h) pa (.load (pieceLen pa n))
  have hres : s.hartAccess h k pa (.load n) = .error { s with
      busWaits := [⟨s.freshId, some h, pa, 128 * (pa / 128), .load (pieceLen pa n), s.cycle⟩]
      freshId := s.freshId + 1 } := by
    simp [State.hartAccess, State.hartLoad, State.loadPiece, Nat.mod_one, Hart.done, hf.2, mapped_of_lt (show pa < 2 ^ 40 by omega),
      mapped_of_lt (show pa + pieceLen pa n - 1 < 2 ^ 40 by omega), htry, Except.map]
  exact ha.exec_stays hres ha.hart (.inr ⟨_, List.mem_singleton_self _, rfl⟩)
end

/-! ## Atomics of a hart (R248, R269) -/

section
variable {s : State} {h pa n : Nat} {k : Hart} {v : Word64} {op : AmoOp} (ha : Accesses s h k pa (.amo n op v)) (halign : pa % n = 0)
  (hpa : pa < 2 ^ 40)
include ha halign hpa

/-- An atomic is one step: it stores its result and gives the old value. -/
theorem exec_amo_free (hf : BusFree s) (hdecl : s.lineDeclared (pa / 128) = false) (hgood : s.poison? pa n = none) :
    let old : Word64 := ofBytes 64 (readBytes s.mem pa n)
    exec (.hartMemoryAccess h pa (.amo n op v)) s =
      .next ((s.poke pa (toBytes (amoResult op n old v) n)).putHart h { k.drop with mdr := old }) := by
  intro old
  have hheld : s.lineHeld pa = false := by simp only [State.lineHeld, hf.lines, List.any_nil]
  have hres : s.hartAccess h k pa (.amo n op v) = .ok (s.poke pa (toBytes (amoResult op n old v) n), old) := by
    simp [State.hartAccess, State.hartAmo, halign, inHbm_of_lt hpa, hheld, lineOf, hdecl, hf.busTry, hgood, old]
  refine ha.exec_ok hres ?_
  rw [State.hart?, (poke_same s pa _).harts]
  exact ha.hart

/-- In a declared held range an atomic is an access fault, with a record to the hart's world. -/
theorem exec_amo_declared (hdecl : s.lineDeclared (pa / 128) = true) :
    exec (.hartMemoryAccess h pa (.amo n op v)) s = .next ((s.putHart h (k.trap 7 (BitVec.ofNat 64 pa))).deliver
      (bareFault s k.accessor.world (mkCause 6 2) h (BitVec.ofNat 64 pa))) := by
  refine ha.exec_trap ?_ (deliver_same _ _)
  simp [State.hartAccess, State.hartAmo, halign, inHbm_of_lt hpa, lineOf, hdecl, hartTrap_of_hart? ha.hart]
end

/-! ## The host attach (R436, R445) -/

theorem exec_hostAccess (pa : Nat) (op : HostOp) (s : State) : exec (.hostAccess pa op) s = execHostAccess pa op s := rfl

section
variable {s : State} {pa d : Nat} {op : HostOp} (hclock : s.clocked = true) (hattached : Config.hostAttached = true)
  (hd : d < hostSize op) (hpa : pa + hostSize op ≤ 2 ^ 40)
  (hstand : s.hostParts.find? (fun p => p.1 == pa && p.2.1 == op) = none ∧ d = 0 ∨
    s.hostParts.find? (fun p => p.1 == pa && p.2.1 == op) = some (pa, op, d))
include hclock hattached hd hpa hstand

/-- A host access in HBM does the piece at the bytes that are done, and stays on its way while bytes are left. -/
theorem exec_hostAccess_piece {t : State} (hpiece : s.hostPiece (pa + d) (hostPieceOp op d) = (t, true)) (hparts : t.hostParts = s.hostParts) :
    let rest := s.hostParts.filter fun p => !(p.1 == pa && p.2.1 == op)
    exec (.hostAccess pa op) s = .next { t with hostParts := if d + 8 < hostSize op then rest ++ [(pa, op, d + 8)] else rest } := by
  have hdone : ((s.hostParts.find? fun p => p.1 == pa && p.2.1 == op).map fun p => p.2.2).getD 0 = d := by
    obtain ⟨hfind, rfl⟩ | hfind := hstand <;> rw [hfind] <;> rfl
  have hsize : hostSize op ≠ 0 := by omega
  have hfirst : hostMaps pa = true := by rw [hostMaps, inHbm_of_lt (by omega), Bool.true_or]
  have hlast : hostMaps (pa + hostSize op - 1) = true := by rw [hostMaps, inHbm_of_lt (by omega), Bool.true_or]
  simp only [exec_hostAccess, execHostAccess, hdone, hclock, hattached, hsize, hfirst, hlast, hpiece, hparts, Bool.not_true, Bool.or_false,
    Bool.false_eq_true, decide_false, if_false]
end

/-- A piece of a host's load leaves nothing but its read at the home slices. -/
theorem hostPiece_load {s : State} (hf : BusFree s) {a : Nat} (ha : a ≤ 2 ^ 40) (n : Nat) : s.hostPiece a (.load n) = (s.peek a n, true) := by
  simp [State.hostPiece, hf.busTry, not_onPage ha]

/-- A piece of a host's store writes its bytes. -/
theorem hostPiece_store {s : State} (hf : BusFree s) {a : Nat} (ha : a ≤ 2 ^ 40) {bs : List Byte} (hbs : bs.length ≤ 8) :
    s.hostPiece a (.store bs.length (ofBytes 64 bs)) = (s.poke a bs, true) := by
  simp [State.hostPiece, hf.busTry, not_onPage ha, toBytes_ofBytes (n := 64) (bs := bs) (by omega)]

/-- Settles O37: each access goes by what its next piece comes to, where nothing is held, at a held line, and at an unmapped address. -/
theorem hartAndHostAccesses : Obligations.HartAndHostAccesses := by
  unfold Obligations.HartAndHostAccesses
  intro s hclock
  refine ⟨fun h pa n k v hk hwait hscan hsize hmoving => ?hart, fun hattached hlines hengine hbus hwaits pa d op hd hpa => ?host⟩
  case hart =>
    intro run fresh begun pieces free
    have hn : 0 < n := by omega
    have hsize' : hartSize n = true := by obtain rfl | rfl | rfl | rfl := hsize <;> rfl
    have haccess (op : BusOp) (hop : busSize op = n) (hturn : k.Fresh ∨ k.blocked = true ∧ k.mem = some (pa, op)) : Accesses s h k pa op :=
      ⟨hclock, hk, hwait, hscan, hop.symm ▸ hsize', hturn, hmoving⟩
    have hturn {op : BusOp} {store : Bool} {got : List Byte} (hb : k.Begun pa n op store got) :
        k.Fresh ∨ k.blocked = true ∧ k.mem = some (pa, op) := hb.imp And.left fun ⟨hblocked, hmem, _⟩ => ⟨hblocked, hmem⟩
    have hbusFree (hf : free) : BusFree s := ⟨hf.1, hf.2.1, hf.2.2.1, hf.2.2.2⟩
    refine ⟨fun hout hf => ?unmapped, fun hpa hf => ⟨fun got hb => ?load, fun j hb hj => ?store⟩,
      fun halign hpa hf op => ?atomic, fun hheld hpa hengine hbus hf => ?held⟩
    case unmapped =>
      have hout := mapped_eq_false hout
      exact ⟨exec_load_unmapped (haccess _ rfl (.inl hf)) hf hout, exec_store_unmapped (haccess _ rfl (.inl hf)) hf hout⟩
    case load =>
      intro a m all hgood
      exact ⟨(haccess _ rfl (hturn hb)).exec_piece (peek_same s a m).harts (hartAccess_load (hbusFree hf) hn hpa hb hgood), peek_mem s a m⟩
    case store =>
      intro a m bs
      refine ⟨(haccess _ rfl (hturn hb)).exec_piece (poke_same s a bs).harts (hartAccess_store (hbusFree hf) hn hpa hj hb), fun hmem => ?_⟩
      have hlen : bs.length = m := by
        simp only [bs, m, List.length_take, List.length_drop, length_toBytes]
        omega
      exact hlen ▸ poke_bytes hmem a bs
    case atomic =>
      have ha := haccess (.amo n op v) rfl (.inl hf)
      exact ⟨fun hfree => exec_amo_free ha halign (by omega) (hbusFree hfree), exec_amo_declared ha halign (by omega)⟩
    case held => exact exec_load_held (haccess _ rfl (.inl hf)) hn hf hpa hengine hbus hheld
  case host =>
    intro mine hstand rest after
    have hf : BusFree s := ⟨hlines, hengine, hbus, hwaits⟩
    have hat : pa + d ≤ 2 ^ 40 := by omega
    constructor
    · rintro n rfl
      exact exec_hostAccess_piece hclock hattached hd hpa hstand (hostPiece_load hf hat _) (peek_same _ _ _).hostParts
    · rintro bs rfl
      have hlen : ((bs.drop d).take 8).length = min 8 (bs.length - d) := by rw [List.length_take, List.length_drop]
      have hpiece := hostPiece_store hf hat (bs := (bs.drop d).take 8) (by omega)
      rw [hlen] at hpiece
      exact exec_hostAccess_piece hclock hattached hd hpa hstand hpiece (poke_same _ _ _).hostParts

end Sys2Proof.Machine
end

section
/-! SUPPORT. MMA, MSWAP, MZERO, MDRAIN and the side-band instructions at their issue (R291, R296, R297, R300, R301, R303). -/

namespace Sys2Proof.Machine

/-! ## A pass begins (R291, R296) -/

/-- The streams that a pass of a tag takes are streams of its sheet with that tag, claimed by its ready set. -/
theorem claimed_of_mem_filterMap {is : List (Bool × Nat)} {streams : List Stream} {tag : Word64} {k : Stream}
    (hk : k ∈ is.filterMap fun i => streams.find? fun k => k.row == i.1 && k.idx == i.2 && k.tag == tag && k.stage == .claimed) :
    k ∈ streams ∧ k.tag = tag ∧ k.stage = .claimed := by
  obtain ⟨i, -, hi⟩ := List.mem_filterMap.mp hk
  have hp := List.find?_some hi
  simp only [Bool.and_eq_true, beq_iff_eq] at hp
  exact ⟨List.mem_of_find?_eq_some hi, hp.1.2, hp.2⟩

/-- Advancing streams leaves the operations alone. -/
theorem advance_ops (h : Sheet) (tag : Word64) (a b : StreamStage) : (h.advance tag a b).ops = h.ops := by
  have hops := congrArg Sheet.ops (advance_keep h tag a b)
  exact hops

/-! ## Bank operations (R297, R300) -/

/-- An operation joins those of a sheet. -/
def Sheet.join (h : Sheet) (o : SheetOp) : Sheet := { h with ops := h.ops ++ [o] }

/-- An operation that has joined waits where an earlier one is on its bank. -/
theorem opWaits_join (h : Sheet) (o : SheetOp) (bank : Nat) : (h.join o).opWaits h.ops.length bank = h.ops.any fun k => k.bank' == bank := by
  simp [Sheet.opWaits, Sheet.join]

/-- Operations without an MZERO leave none that acts. -/
theorem nextZero_of_no_mzero {h : Sheet} (hz : ∀ b : BankOp, .bank b ∈ h.ops → b.op ≠ .mzero) : h.nextZero = none :=
  nextZero_none fun b hb ho => absurd ho (hz b hb)

/-- After operations without an MZERO, the one that has joined is all that may act. -/
theorem nextZero_join {h : Sheet} (hz : ∀ b : BankOp, .bank b ∈ h.ops → b.op ≠ .mzero) (b : BankOp) :
    (h.join (.bank b)).nextZero = if b.op = .mzero ∧ ∀ k ∈ h.ops, k.bank' ≠ b.bank then some (h.ops.length, b) else none := by
  rw [Sheet.nextZero]
  simp only [Sheet.join, List.length_append, List.length_singleton, List.range_succ, List.findSome?_append]
  rw [List.findSome?_eq_none_iff.mpr ?early, Option.none_or]
  · have hw := opWaits_join h (.bank b) b.bank
    rw [Sheet.join] at hw
    by_cases hb : b.op = .mzero <;> by_cases hfree : ∀ k ∈ h.ops, k.bank' ≠ b.bank <;> simp_all
  case early =>
    intro i hi
    rw [List.getElem?_append_left (List.mem_range.mp hi)]
    split
    · rename_i k hk
      simp [hz k (List.mem_of_getElem? hk)]
    · rfl

/-- The region of an issuing corner with a sheet in its place and the issue's operation counted (R296). -/
def Ctx.withSheet (c : Ctx) (h : Sheet) : Region := (c.g.putSheet h).count (.site c.p.x c.p.y) c.tag 1 true

/-- The sheet of the issuing corner after it is replaced. -/
theorem Ctx.sheet?_withSheet {c : Ctx} {h : Sheet} (hs : c.g.sheet? c.p.x c.p.y = some h) (h' : Sheet) (hx : h'.x = h.x) (hy : h'.y = h.y) :
    (c.withSheet h').sheet? c.p.x c.p.y = some h' := by
  change (c.g.putSheet h').sheet? c.p.x c.p.y = some h'
  obtain ⟨hcx, hcy⟩ := sheet?_xy hs
  rw [sheet?_putSheet, if_pos ⟨hcx.symm.trans hx.symm, hcy.symm.trans hy.symm⟩, hs]
  rfl

/-- What the issue of a bank operation leaves: it has joined the sheet's, and those that need not wait act. -/
def Ctx.bankIssued (c : Ctx) (s : State) (h : Sheet) (b : BankOp) : State :=
  (s.putRegion c.p.r (c.withSheet (h.join (.bank b)))).settleOps c.p.r c.p.x c.p.y (h.ops.length + 1)

section
variable {f : Fields} {s : State} {c : Ctx} {n : Nat} {h : Sheet} {b : BankOp}

theorem Issues.region? (hi : Issues f s c n) : s.region? c.p.r = some c.g := by
  obtain ⟨-, -, hl, hg, -, -⟩ := ctx?_some hi.here
  exact region?_eq hl hg

/-- The bank that a bank operation's word names (R300). -/
def Sheet.bankOf (h : Sheet) (f : Fields) : Nat := if bitAt f.xmod 0 then 1 - h.act else h.act

/-- The reply of an issuing corner (R198). -/
def Ctx.cornerReply (c : Ctx) (f : Fields) : Reply := ⟨c.p.r.m, c.p.x, c.p.y, c.set.slot, f, c.tag, c.set.leftLast⟩

theorem fireBank_plain (hi : Issues f s c n) (hp : c.Plain) (hs : c.g.sheet? c.p.x c.p.y = some h) (o : Op) :
    fireBank o f s = .next (c.issuedIn (c.bankIssued s h ⟨o, c.cornerReply f, h.bankOf f, none⟩) c.e [] []) := by
  rw [fireBank]
  refine fire_exact hi hp _ ?_ (Nat.zero_le _)
  simp only [hs, only_eff, Ctx.bankIssued, hi.s_eq, List.length_append, List.length_singleton]
  rfl

/-- Where no operation may act, one joins the others and waits. -/
theorem bankIssued_waits (hi : Issues f s c n) (hs : c.g.sheet? c.p.x c.p.y = some h) (hz : (h.join (.bank b)).nextZero = none) :
    c.bankIssued s h b = s.putRegion c.p.r (c.withSheet (h.join (.bank b))) :=
  settle_none (region?_putRegion_same hi.region?) (c.sheet?_withSheet hs (h.join (.bank b)) rfl rfl) hz _

/-- An MZERO with no earlier operation to wait for zeroes its bank at once, where that belongs to nobody else (R300). -/
theorem bankIssued_acts (hi : Issues f s c n) (hs : c.g.sheet? c.p.x c.p.y = some h)
    (hz : ∀ b : BankOp, .bank b ∈ h.ops → b.op ≠ .mzero) (hb : b.op = .mzero) (hfree : ∀ k ∈ h.ops, k.bank' ≠ b.bank)
    (howner : (h.bankState b.bank).owner = none) :
    c.bankIssued s h b = answerAll ((s.putRegion c.p.r (c.withSheet (h.join (.bank b)))).putRegion c.p.r (c.withSheet (h.zeroBank b.bank)))
      c.p.r (h.sender c.p.r.m b.reply.slot) b.reply 0 := by
  have hforeign : (h.join (.bank b)).foreignTo b = false := by
    have : (h.join (.bank b)).bankState b.bank = h.bankState b.bank := rfl
    rw [Sheet.foreignTo, this, howner]
  have hput : (c.withSheet (h.join (.bank b))).putSheet (h.zeroBank b.bank) = c.withSheet (h.zeroBank b.bank) :=
    congrArg (fun g : Region => g.count (.site c.p.x c.p.y) c.tag 1 true) (putSheet_twice c.g (h.join (.bank b)) (h.zeroBank b.bank) rfl rfl)
  have hops : { h.join (.bank b) with ops := (h.join (.bank b)).ops.eraseIdx h.ops.length } = h := by
    simp [Sheet.join, List.eraseIdx_append_of_length_le]
  have hregion := region?_putRegion_same (g' := c.withSheet (h.join (.bank b))) hi.region?
  have hnext : (h.join (.bank b)).nextZero = some (h.ops.length, b) := by rw [nextZero_join hz, if_pos ⟨hb, hfree⟩]
  obtain ⟨g', hg', ht⟩ := (answerAll_traffic ((s.putRegion c.p.r (c.withSheet (h.join (.bank b)))).putRegion c.p.r (c.withSheet (h.zeroBank b.bank)))
      c.p.r (h.sender c.p.r.m b.reply.slot) b.reply 0).region (region?_putRegion_same hregion)
  have hsheet' : g'.sheet? c.p.x c.p.y = some (h.zeroBank b.bank) := by
    rw [Region.sheet?, ht.sheets]
    exact c.sheet?_withSheet hs (h.zeroBank b.bank) rfl rfl
  rw [Ctx.bankIssued, State.settleOps, hregion]
  simp only [c.sheet?_withSheet hs (h.join (.bank b)) rfl rfl, hnext, hforeign, Bool.false_eq_true, if_false, hops, hput]
  exact settle_none hg' hsheet' (nextZero_of_no_mzero (h := h.zeroBank b.bank) hz) _
end

/-! ## Side-band tokens (R303) -/

/-- MSCALE, MCODE and MEPI send their operand as a side-band token. -/
theorem fireSide_plain {f : Fields} {s : State} {c : Ctx} (hi : Issues f s c (dests f).length) (hp : c.Plain) (sub : BitVec 3) :
    fireSide sub f s = .next (c.issued c.e ((dests f).map fun d => ⟨d, c.tagOut, true, 1, false, sub, (operands c.e f c.set none).a⟩)) := by
  have htag := (ctx?_tag hi.here).2
  have hi' : Issues { f with bub := false } s { c with f := { f with bub := false } } (dests f).length := by
    refine ⟨?_, hi.room, ?_, ?_⟩
    · rw [ctx?_setBub hi.here, htag]; rfl
    · have := hi.colour; rw [Ctx.recolourRefused, hi.f_eq] at this; exact this
    · have := hi.epoch; rw [Ctx.needsAdvance, hi.f_eq] at this; exact this
  exact fire_sends hi' ⟨hp.raise, hp.control, hp.record, hp.bubble⟩ _ _ _ rfl rfl (by rw [List.length_map])

theorem exec_mma (f : Fields) (s : State) : exec (.mma f) s = execMma f s := rfl
theorem exec_mswap (f : Fields) (s : State) : exec (.mswap f) s = execMswap f s := rfl
theorem exec_mzero (f : Fields) (s : State) : exec (.mzero f) s = execMzero f s := rfl
theorem exec_mdrain (f : Fields) (s : State) : exec (.mdrain f) s = execMdrain f s := rfl

/-- Settles O31: each instruction by what its issue leaves of the sheet; a bank operation by whether one may act. -/
theorem matrixInstructionsAtIssue : Obligations.MatrixInstructionsAtIssue := by
  unfold Obligations.MatrixInstructionsAtIssue
  intro f s c hi hp q counted sent
  refine ⟨fun h hs => ⟨?mma, ?mswap, fun hz => ⟨?mdrain, ?mzeroWaits, ?mzeroActs⟩⟩, fireSide_plain hi hp _, fireSide_plain hi hp _, fireSide_plain hi hp _⟩
  case mma =>
    let mine := h.inputs.filterMap fun i => h.streams.find? fun k => k.row == i.1 && k.idx == i.2 && k.tag == c.tag && k.stage == .claimed
    let p : Pass := ⟨{ q with last := true }, h.act, false, (mine.filterMap Stream.cause).head?, List.replicate (h.rs * h.cs) ⟨0, 0, 0, 0⟩,
      mine.map fun k => ⟨k.row, k.idx, k.buf, 0, false, false, false, [], []⟩⟩
    refine ⟨(h.advance c.tag .claimed .running).join (.pass p), p, ?_, ?_, ?_, rfl, rfl, rfl, rfl, fun k hk => ?_⟩
    · rw [exec_mma, execMma, fireRaw_plain hi hp.raise] <;> simp only [hs, only_eff, hi.s_eq]
      · rfl
      · exact Nat.zero_le _
    · rw [Sheet.join, advance_ops]
    · rw [← advance_ops h c.tag .claimed .running]; exact advance_keep h c.tag .claimed .running
    · obtain ⟨m, hm, rfl⟩ := List.mem_map.mp hk
      obtain ⟨hmem, htag, hstage⟩ := claimed_of_mem_filterMap hm
      exact ⟨rfl, rfl, rfl, m, hmem, rfl, rfl, rfl, htag, hstage⟩
  case mswap =>
    rw [exec_mswap, execMswap]
    refine fire_exact hi hp _ ?_ (by rw [toAll_length, hi.f_eq])
    simp only [hs, all_eff, hi.s_eq]
  case mdrain =>
    rw [exec_mdrain, execMdrain, fireBank_plain hi hp hs, bankIssued_waits hi hs]
    · rfl
    · rw [nextZero_join hz, if_neg fun hb => by simp at hb]
  case mzeroWaits =>
    rintro ⟨k, hk, hbank⟩
    rw [exec_mzero, execMzero, fireBank_plain hi hp hs, bankIssued_waits hi hs]
    · rfl
    · rw [nextZero_join hz, if_neg fun hb => hb.2 k hk hbank]
  case mzeroActs =>
    intro hfree howner _
    rw [exec_mzero, execMzero, fireBank_plain hi hp hs, bankIssued_acts hi hs hz rfl hfree howner]
    rfl

end Sys2Proof.Machine
end

section
/-! SUPPORT. The system instructions (R396): each is its effect on ordinary operands. -/

namespace Sys2Proof.Machine

theorem exec_trap (f : Fields) (s : State) : exec (.trap f) s = execTrap f s := rfl
theorem exec_brk (f : Fields) (s : State) : exec (.brk f) s = execBrk f s := rfl
theorem exec_fault (f : Fields) (s : State) : exec (.fault f) s = execFault f s := rfl
theorem exec_mark (f : Fields) (s : State) : exec (.mark f) s = execMark f s := rfl

/-- A launch without CAPT set captures nothing (R392). -/
theorem capture_of_not_capt (s : State) {l : Launch} (hl : l.capt = false) (t : Token) (port src : Nat) (mark : BitVec 16) :
    s.capture l t port src mark = s := by
  simp [State.capture, hl]

/-- An instruction that passes its operand on and changes the state otherwise. -/
theorem fire_passing {f : Fields} {s : State} {c : Ctx} (hi : Issues f s c (dests f).length) (hp : c.Plain) (own : Ctx → Effect) {u : State}
    {v : Payload} (h : own c = ⟨u, c.e, c.toAll v, [], false⟩) : fire f s own = .next (c.issuedIn u c.e (c.toAll v) []) :=
  fire_exact hi hp own h (by rw [toAll_length, hi.f_eq])

/-- Settles O34: each instruction's effect on ordinary operands. -/
theorem systemInstructions : Obligations.SystemInstructions := by
  unfold Obligations.SystemInstructions
  intro f s c hi hp a code record k errs
  have hs := hi.s_eq
  have ha : c.opnds.a = a := by rw [Ctx.opnds, hi.f_eq]
  have hsite (x : Cause) (extra : Word64) : c.siteRecord x extra = record x extra := by rw [Ctx.siteRecord, hs]; rfl
  have hlen : errs.length ≤ (dests f).length := by rw [List.length_map]
  refine ⟨?trap, ?brk, fun hrec => ?fault, fun hrec => ?faultRec, fun hcapt => ?unmarked, fun t ht => ?marked⟩
  case trap =>
    rw [exec_trap, execTrap]
    refine fire_passing hi hp _ ?_
    simp only [ha, all_eff, hsite, hs]
    rfl
  case brk =>
    let g := c.set.toks.foldl (fun g t => g.count (.site c.p.x c.p.y) t.tag 1 true) c.g
    refine ⟨(c.l.put c.p.r.m g).hold ⟨mkCause 13 2, c.p.r.m, c.p.x, c.p.y, c.set.slot, 0, c.tag, code.setWidth 64, s.cycle⟩,
      { c.e with held := c.e.held ++ c.e.ready.take 1 }, ?_, rfl, rfl, rfl, rfl⟩
    rw [exec_brk, execBrk, fire_plain hi hp _ rfl (Nat.zero_le _) rfl, ← hs]
    rfl
  case fault =>
    rw [exec_fault, execFault]
    refine fire_exact hi hp _ ?_ hlen
    simp only [hrec, Bool.false_eq_true, if_false, ha, Ctx.sends, hs]
    rfl
  case faultRec =>
    rw [exec_fault, execFault]
    refine fire_exact hi hp _ ?_ hlen
    simp only [hrec, if_true, ha, Ctx.sends, hsite, hs]
    rfl
  case unmarked =>
    rw [exec_mark, execMark]
    refine fire_passing hi hp _ ?_
    cases hl : c.set.l with
    | none => simp only [ha, all_eff, hs]
    | some t => simp only [ha, all_eff, hs, capture_of_not_capt s hcapt]
  case marked =>
    rw [exec_mark, execMark]
    refine fire_passing hi hp _ ?_
    simp only [ht, ha, all_eff, hs]
    rfl

end Sys2Proof.Machine
end

section
/-! SUPPORT. The state after reset (R438): its launch queues, worlds and harts. -/

namespace Sys2Proof.Machine

/-- After reset a package register reads its default (R445). -/
theorem reset_reg (off : Nat) : State.reset.reg off = regDefault off := rfl

/-- A launch queue's registers have no default of their own (R438). -/
theorem regDefault_low {off : Nat} (h : off < 0x4000) : regDefault off = 0 := by
  rw [regDefault, if_neg (by omega), if_neg (by omega), if_neg (by omega)]

/-- Above WRLD_CFG of world 0 no register has a default of its own. -/
theorem regDefault_high {off : Nat} (h : 0xA000 < off) : regDefault off = 0 := by
  rw [regDefault, if_neg (by omega), if_neg (by omega), if_neg (by omega)]

/-- After reset WRLD_CFG has V set for world 0 only (R438). -/
theorem reset_wcfg_v (w : BitVec 8) : bitAt (State.reset.wcfg w) 63 = true ↔ w = 0 := by
  constructor
  · intro h
    by_contra hw
    have hpos : 0 < w.toNat := Nat.pos_of_ne_zero fun h0 => hw (BitVec.eq_of_toNat_eq h0)
    rw [State.wcfg, reset_reg, regDefault_high (by omega)] at h
    exact absurd h (by decide)
  · rintro rfl
    decide

/-- A hart other than hart 0 waits after reset (R438). -/
theorem reset_hart_waits {h : Nat} {k : Hart} (h0 : 0 < h) (hk : State.reset.hart? h = some k) : k.waiting = true := by
  obtain ⟨n, rfl⟩ : ∃ n, h = n + 1 := ⟨h - 1, by omega⟩
  have hmem : k ∈ List.replicate 31 (Hart.reset false) := List.mem_of_getElem? (i := n) hk
  rw [(List.mem_replicate.mp hmem).2]
  rfl

/-- Settles O5: register by register, and hart 0 apart from the others. -/
theorem resetLeavesTheMonitorRunning : Obligations.ResetLeavesTheMonitorRunning := by
  unfold Obligations.ResetLeavesTheMonitorRunning
  refine ⟨rfl, fun n hn => ?_, reset_wcfg_v, Hart.reset true, rfl, rfl, rfl, fun h k h0 hk => reset_hart_waits h0 hk⟩
  rw [reset_reg, regDefault_low (by omega)]
  decide

end Sys2Proof.Machine
end

section
/-! SUPPORT. Fault records: what delivering one leaves of the counters, the interrupt words and the fault page (R374, R375), and the layout of
a record (R376). -/

namespace Sys2Proof.Machine

/-! ## The layout of a record (R376) -/

theorem bitsAt_append_low {m n lo len : Nat} (a : BitVec m) (b : BitVec n) (h : lo + len ≤ n) : bitsAt (a ++ b) lo len = bitsAt b lo len :=
  bitsAt_eq fun i hi => by
    rw [BitVec.getLsbD_append, if_pos (by omega), bitsAt, BitVec.getLsbD_extractLsb', decide_eq_true hi, Bool.true_and]

theorem bitsAt_append_high {m n lo len : Nat} (a : BitVec m) (b : BitVec n) (h : n ≤ lo) : bitsAt (a ++ b) lo len = bitsAt a (lo - n) len :=
  bitsAt_eq fun i hi => by
    rw [BitVec.getLsbD_append, if_neg (by omega), bitsAt, BitVec.getLsbD_extractLsb', decide_eq_true hi, Bool.true_and]
    congr 1
    omega

theorem bitsAt_all {n : Nat} (w : BitVec n) : bitsAt w 0 n = w := bitsAt_eq fun i _ => by rw [Nat.zero_add]

/-- A fault record's fields side by side (R376). -/
theorem bitsAt_faultBits (r : FaultRec) (seq : Word32) (lo len : Nat) : bitsAt (faultBits r seq) lo len =
    bitsAt (n := 128 + 64 + 64 + 64 + 26 + 6 + 3 + 2 + 5 + 7 + 6 + 9 + 8 + 32 + 2 + 7 + 6 + 9 + 1 + 2 + 19 + 32 + 10)
      ((0 : BitVec 128) ++ BitVec.ofNat 64 r.cycle ++ r.extra ++ r.tag ++ (0 : BitVec 26) ++ BitVec.ofNat 6 r.col ++ BitVec.ofNat 3 r.ctx ++
        BitVec.ofNat 2 r.side ++ BitVec.ofNat 5 r.slot ++ BitVec.ofNat 7 r.ax ++ BitVec.ofNat 6 r.ay ++ (0 : BitVec 9) ++ r.world ++ r.handle ++
        BitVec.ofNat 2 r.die ++ BitVec.ofNat 7 r.x ++ BitVec.ofNat 6 r.y ++ (0 : BitVec 9) ++ (1 : BitVec 1) ++ BitVec.ofNat 2 r.resp ++
        (0 : BitVec 19) ++ seq ++ r.cause) lo len := rfl

/-- V of a fault record is set. -/
theorem faultBits_v (r : FaultRec) (seq : Word32) : bitAt (faultBits r seq) 63 = true := by
  have hv : bitsAt (faultBits r seq) 63 1 = 1 := by
    rw [bitsAt_faultBits]
    simp (disch := omega) only [bitsAt_append_low, bitsAt_append_high, Nat.reduceSub, bitsAt_all]
  have h0 := congrArg (fun b : BitVec 1 => b.getLsbD 0) hv
  simpa [bitsAt, bitAt] using h0

/-! ## What a store to HBM changes (R231, R232, R371) -/

/-- Two states that differ in what a store to HBM can change, at most. -/
structure SameButStore (s t : State) : Prop where
  rest : { t with slices := s.slices, mezz := s.mezz, regs := s.regs, mem := s.mem, poisoned := s.poisoned } = s

theorem SameButStore.trans {s t u : State} (h : SameButStore s t) (k : SameButStore t u) : SameButStore s u := by
  constructor
  have h1 := h.rest
  have h2 := k.rest
  cases s; cases t; cases u
  simp_all

section
variable {s t : State} (h : SameButStore s t)
include h
theorem SameButStore.seqNo : t.seqNo = s.seqNo := by have := congrArg State.seqNo h.rest; exact this
theorem SameButStore.lostRec : t.lostRec = s.lostRec := by have := congrArg State.lostRec h.rest; exact this
theorem SameButStore.msis : t.msis = s.msis := by have := congrArg State.msis h.rest; exact this
end

theorem SameButSlices.store {s t : State} (h : SameButSlices s t) : SameButStore s t := by
  constructor
  have h1 := h.rest
  cases s; cases t
  simp_all

theorem poke_store (s : State) (pa : Nat) (bs : List Byte) : SameButStore s (s.poke pa bs) := by
  have h := (foldl_touch_same true (lineAddrs pa bs.length) s).store
  unfold State.poke
  exact h.trans ⟨Eq.refl _⟩

theorem writeRecord_store (s : State) (page : Nat) (bits : BitVec 512) : SameButStore s (s.writeRecord page bits) := by
  unfold State.writeRecord
  simp only
  split
  · exact (poke_store _ _ _).trans (poke_store _ _ _)
  · exact poke_store _ _ _

/-! ## Bytes and words in memory (R34) -/

theorem bytesToNat_toBytes {n : Nat} (w : BitVec n) (k : Nat) : bytesToNat (toBytes w k) = w.toNat % 2 ^ (8 * k) := by
  have h := bytesToNat_map w k 0
  rw [Nat.mul_zero, pow_zero, Nat.div_one] at h
  exact h

theorem getElem_readBytes {m : List Host.Cell} : ∀ {n a i : Nat} (h : i < (readBytes m a n).length), (readBytes m a n)[i] = cellRead m (a + i)
  | 0, _, _, h => by simp at h
  | n + 1, a, 0, _ => by simp [readBytes]
  | n + 1, a, i + 1, h => by
    simp only [readBytes, List.getElem_cons_succ]
    rw [getElem_readBytes, Nat.add_assoc, Nat.add_comm 1 i]

/-- A byte that a store writes. -/
theorem cellRead_writeBytes_at {m : List Host.Cell} {a i : Nat} {bs : List Byte} (w : Memory.wf m = true) (h : i < bs.length) :
    cellRead (writeBytes m a bs) (a + i) = bs[i] := by
  have hlen : i < (readBytes (writeBytes m a bs) a bs.length).length := by rw [length_readBytes]; exact h
  rw [← getElem_readBytes hlen]
  simp only [readBytes_writeBytes w]

theorem readNat_congr {m k : List Host.Cell} {a n : Nat} (h : ∀ b, a ≤ b → b < a + n → cellRead m b = cellRead k b) :
    readNat m a n = readNat k a n := by
  rw [readNat, readBytes_congr h, readNat]

/-- A 4-byte word that a store writes. -/
theorem readNat_writeBytes_word {m : List Host.Cell} (w : Memory.wf m = true) (a : Nat) (v : BitVec 32) :
    readNat (writeBytes m a (toBytes v 4)) a 4 = v.toNat := by
  have h := readBytes_writeBytes (bs := toBytes v 4) (a := a) w
  rw [length_toBytes] at h
  rw [readNat, h, bytesToNat_toBytes, Nat.mod_eq_of_lt (by have := v.isLt; omega)]

/-! ## Interrupt words (R375) -/

/-- Where an interrupt word goes. -/
def msiPlace (v : Word64) : Nat := (bitsAt v 2 50).toNat * 4

/-- A byte that sending an interrupt word leaves alone. -/
def MsiSpares (v : Word64) (a : Nat) : Prop := bitAt v 0 = true → inHbm (msiPlace v) = true → a < msiPlace v ∨ msiPlace v + 4 ≤ a

theorem sendMsi_off {s : State} {v : Word64} (h : bitAt v 0 = false) : s.sendMsi v = s := by rw [State.sendMsi, h]; rfl

theorem sendMsi_msis {s : State} {v : Word64} (h : bitAt v 0 = true) : (s.sendMsi v).msis = s.msis ++ [(msiPlace v, (bitsAt v 52 11).toNat)] := by
  rw [State.sendMsi, if_pos h]
  simp only
  split
  · rw [(poke_store _ _ _).msis]; rfl
  · rfl

theorem sendMsi_lostRec (s : State) (v : Word64) : (s.sendMsi v).lostRec = s.lostRec := by
  rw [State.sendMsi]
  split
  · simp only
    split
    · rw [(poke_store _ _ _).lostRec]
    · rfl
  · rfl

theorem sendMsi_mem {s : State} {v : Word64} (h : bitAt v 0 = true) (hin : inHbm (msiPlace v) = true) :
    (s.sendMsi v).mem = writeBytes s.mem (msiPlace v) (toBytes ((bitsAt v 52 11).setWidth 32) 4) := by
  rw [State.sendMsi, if_pos h]
  simp only
  rw [if_pos (by exact hin), poke_mem]
  rfl

theorem sendMsi_word {s : State} {v : Word64} (w : Memory.wf s.mem = true) (h : bitAt v 0 = true) (hin : inHbm (msiPlace v) = true) :
    readNat (s.sendMsi v).mem (msiPlace v) 4 = (bitsAt v 52 11).toNat := by
  rw [sendMsi_mem h hin, readNat_writeBytes_word w, BitVec.toNat_setWidth, Nat.mod_eq_of_lt]
  have := (bitsAt v 52 11).isLt
  omega

theorem cellRead_sendMsi {s : State} {v : Word64} {a : Nat} (w : Memory.wf s.mem = true) (h : MsiSpares v a) :
    cellRead (s.sendMsi v).mem a = cellRead s.mem a := by
  by_cases hv : bitAt v 0 = true
  · by_cases hin : inHbm (msiPlace v) = true
    · rw [sendMsi_mem hv hin, cellRead_writeBytes_other w (by rw [length_toBytes]; exact h hv hin)]
    · rw [State.sendMsi, if_pos hv]
      simp only
      rw [if_neg (by exact hin)]
  · rw [sendMsi_off (by simpa using hv)]

/-! ## The fault page (R375) -/

/-- The page has room for a record: HEAD is less than 63 ahead of TAIL, modulo 63·2^26. -/
def PageRoom (m : List Host.Cell) (page : Nat) : Prop := ((readNat m page 4 : ℤ) - readNat m (page + 4) 4) % 4227858432 < 63

/-- Where the next record goes. -/
def recordPlace (m : List Host.Cell) (page : Nat) : Nat := page + 64 + 64 * (readNat m page 4 % 63)

theorem pageRoom_iff (m : List Host.Cell) (page : Nat) : PageRoom m page ↔
    (readNat m page 4 + pageModulus - readNat m (page + 4) 4 % pageModulus) % pageModulus < 63 := by
  rw [PageRoom, pageModulus]
  omega

section
variable {s : State} {page : Nat} (bits : BitVec 512)

theorem writeRecord_mem_room (h : PageRoom s.mem page) : (s.writeRecord page bits).mem =
    writeBytes (writeBytes s.mem (recordPlace s.mem page) (toBytes bits 64)) page
      (toBytes (BitVec.ofNat 32 ((readNat s.mem page 4 + 1) % pageModulus)) 4) := by
  rw [State.writeRecord]
  simp only
  rw [if_pos ((pageRoom_iff _ _).mp h), poke_mem, poke_mem]
  rfl

theorem writeRecord_mem_full (h : ¬ PageRoom s.mem page) : (s.writeRecord page bits).mem =
    writeBytes s.mem (page + 8) (toBytes (BitVec.ofNat 32 (readNat s.mem (page + 8) 4 + 1)) 4) := by
  rw [State.writeRecord]
  simp only
  rw [if_neg (mt (pageRoom_iff _ _).mpr h), poke_mem]

variable (w : Memory.wf s.mem = true)
include w

/-- A record's bytes stand at its index. -/
theorem writeRecord_record (h : PageRoom s.mem page) {i : Nat} (hi : i < 64) :
    cellRead (s.writeRecord page bits).mem (recordPlace s.mem page + i) = bitsAt bits (8 * i) 8 := by
  rw [writeRecord_mem_room bits h, cellRead_writeBytes_other (wf_writeBytes w) (by rw [length_toBytes, recordPlace]; omega),
    cellRead_writeBytes_at w (by rw [length_toBytes]; exact hi)]
  simp [toBytes, byteAt]

theorem writeRecord_head (h : PageRoom s.mem page) :
    readNat (s.writeRecord page bits).mem page 4 = (readNat s.mem page 4 + 1) % 4227858432 := by
  rw [writeRecord_mem_room bits h, readNat_writeBytes_word (wf_writeBytes w), BitVec.toNat_ofNat, pageModulus]
  omega

theorem writeRecord_frame (h : PageRoom s.mem page) {a : Nat} (hhead : a < page ∨ page + 4 ≤ a)
    (hrec : a < recordPlace s.mem page ∨ recordPlace s.mem page + 64 ≤ a) : cellRead (s.writeRecord page bits).mem a = cellRead s.mem a := by
  rw [writeRecord_mem_room bits h, cellRead_writeBytes_other (wf_writeBytes w) (by rw [length_toBytes]; exact hhead),
    cellRead_writeBytes_other w (by rw [length_toBytes]; exact hrec)]

theorem writeRecord_lost (h : ¬ PageRoom s.mem page) :
    readNat (s.writeRecord page bits).mem (page + 8) 4 = (readNat s.mem (page + 8) 4 + 1) % 2 ^ 32 := by
  rw [writeRecord_mem_full bits h, readNat_writeBytes_word w, BitVec.toNat_ofNat]

theorem writeRecord_frame_full (h : ¬ PageRoom s.mem page) {a : Nat} (ha : a < page + 8 ∨ page + 12 ≤ a) :
    cellRead (s.writeRecord page bits).mem a = cellRead s.mem a := by
  rw [writeRecord_mem_full bits h, cellRead_writeBytes_other w (by rw [length_toBytes]; omega)]
end

/-! ## Delivery (R374, R375) -/

theorem deliver_no_page {s : State} {r : FaultRec} (h : s.faultPage r.world = none) :
    s.deliver r = { s with seqNo := s.seqNo + 1, lostRec := s.lostRec + 1 } := by
  rw [State.deliver]
  simp only [h]

theorem deliver_waits {s : State} {r : FaultRec} {page : Nat} (h : s.faultPage r.world = some page) (hw : s.faultWaits r.world page = true) :
    s.deliver r = { s with seqNo := s.seqNo + 1, sysWaits := s.sysWaits ++ [.fault r.world (faultBits r s.seqNo)] } := by
  rw [State.deliver]
  simp only [h]
  rw [if_pos hw]

theorem deliver_writes {s : State} {r : FaultRec} {page : Nat} (h : s.faultPage r.world = some page) (hw : s.faultWaits r.world page = false) :
    s.deliver r = ({ s with seqNo := s.seqNo + 1 }.writeRecord page (faultBits r s.seqNo)).sendMsi (s.reg (0x5008 + 16 * r.world.toNat)) := by
  rw [State.deliver]
  simp only [h]
  rw [if_neg (by simp [hw])]
  rfl

/-- Where nothing is held and nothing waits, a record need not wait. -/
theorem faultWaits_of_free {s : State} (hlines : s.heldLines = []) (hengine : s.kvHolds = []) (hwaits : s.sysWaits = []) (w : BitVec 8) (page : Nat) :
    s.faultWaits w page = false := by
  simp [State.faultWaits, State.areaHeld, State.lineHeld, State.engineHolds, hlines, hengine, hwaits]

/-- Each delivery takes a SEQ (R374). -/
theorem deliver_seqNo (s : State) (r : FaultRec) : (s.deliver r).seqNo = s.seqNo + 1 := by
  cases hp : s.faultPage r.world with
  | none => rw [deliver_no_page hp]
  | some page =>
    cases hw : s.faultWaits r.world page with
    | true => rw [deliver_waits hp hw]
    | false => rw [deliver_writes hp hw, sendMsi_seqNo, (writeRecord_store _ _ _).seqNo]

/-- What a delivery leaves that need not wait: the interrupt word last, over the record or the count of the lost ones. -/
theorem deliver_written {s : State} {r : FaultRec} {page : Nat} (hmem : Memory.wf s.mem = true) (hpage : s.faultPage r.world = some page)
    (hw : s.faultWaits r.world page = false) :
    let t := s.deliver r
    let msi := s.reg (0x5008 + 16 * r.world.toNat)
    t.lostRec = s.lostRec ∧ (bitAt msi 0 = true → t.msis = s.msis ++ [(msiPlace msi, (bitsAt msi 52 11).toNat)]) ∧
      (bitAt msi 0 = false → t.msis = s.msis) ∧
      (bitAt msi 0 = true → inHbm (msiPlace msi) = true → readNat t.mem (msiPlace msi) 4 = (bitsAt msi 52 11).toNat) ∧
      (PageRoom s.mem page →
        (∀ i < 64, MsiSpares msi (recordPlace s.mem page + i) →
          cellRead t.mem (recordPlace s.mem page + i) = bitsAt (faultBits r s.seqNo) (8 * i) 8) ∧
        ((∀ i < 4, MsiSpares msi (page + i)) → readNat t.mem page 4 = (readNat s.mem page 4 + 1) % 4227858432) ∧
        ∀ a, MsiSpares msi a → (a < page ∨ page + 4 ≤ a) → (a < recordPlace s.mem page ∨ recordPlace s.mem page + 64 ≤ a) →
          cellRead t.mem a = cellRead s.mem a) ∧
      (¬ PageRoom s.mem page →
        ((∀ i < 4, MsiSpares msi (page + 8 + i)) → readNat t.mem (page + 8) 4 = (readNat s.mem (page + 8) 4 + 1) % 2 ^ 32) ∧
        ∀ a, MsiSpares msi a → (a < page + 8 ∨ page + 12 ≤ a) → cellRead t.mem a = cellRead s.mem a) := by
  intro t msi
  have ht : t = ({ s with seqNo := s.seqNo + 1 }.writeRecord page (faultBits r s.seqNo)).sendMsi msi := deliver_writes hpage hw
  generalize hs1 : ({ s with seqNo := s.seqNo + 1 } : State) = s1 at ht
  have hm1 : s1.mem = s.mem := by rw [← hs1]
  have hmem1 : Memory.wf s1.mem = true := by rw [hm1]; exact hmem
  generalize hu1 : s1.writeRecord page (faultBits r s.seqNo) = u at ht
  have hu : Memory.wf u.mem = true := by rw [← hu1]; exact writeRecord_wf _ _ hmem1
  have hstore : SameButStore s1 u := by rw [← hu1]; exact writeRecord_store _ _ _
  have hcell {a : Nat} (ha : MsiSpares msi a) : cellRead t.mem a = cellRead u.mem a := by rw [ht]; exact cellRead_sendMsi hu ha
  have hword {a : Nat} (ha : ∀ i < 4, MsiSpares msi (a + i)) : readNat t.mem a 4 = readNat u.mem a 4 :=
    readNat_congr fun b h1 h2 => hcell (by have := ha (b - a) (by omega); rwa [Nat.add_sub_cancel' h1] at this)
  rw [← hm1]
  refine ⟨?_, fun hm => ?_, fun hm => ?_, fun hm hin => ?_, fun hroom => ⟨fun i hi hs => ?_, fun hs => ?_, fun a hs h1 h2 => ?_⟩,
    fun hroom => ⟨fun hs => ?_, fun a hs h1 => ?_⟩⟩
  · rw [ht, sendMsi_lostRec, hstore.lostRec, ← hs1]
  · rw [ht, sendMsi_msis hm, hstore.msis, ← hs1]
  · rw [ht, sendMsi_off hm, hstore.msis, ← hs1]
  · rw [ht]; exact sendMsi_word hu hm hin
  · rw [hcell hs, ← hu1]; exact writeRecord_record _ hmem1 hroom hi
  · rw [hword hs, ← hu1]; exact writeRecord_head _ hmem1 hroom
  · rw [hcell hs, ← hu1]; exact writeRecord_frame _ hmem1 hroom h1 h2
  · rw [hword hs, ← hu1]; exact writeRecord_lost _ hmem1 hroom
  · rw [hcell hs, ← hu1]; exact writeRecord_frame_full _ hmem1 hroom h1

/-- Settles O33: a record without a page, one that waits, one with room and one without, and after each the interrupt word. -/
theorem faultRecordsReachTheFaultPage : Obligations.FaultRecordsReachTheFaultPage := by
  unfold Obligations.FaultRecordsReachTheFaultPage
  refine ⟨fun s r hmem => ?delivery, fun r seq => ?layout⟩
  case delivery =>
    intro t fpg msi page word still head tail room at'
    have hnone (h : bitAt fpg 0 = false) : s.faultPage r.world = none := by rw [State.faultPage]; exact if_neg (by simpa using h)
    have hsome (h : bitAt fpg 0 = true) : s.faultPage r.world = some page := by rw [State.faultPage]; exact if_pos h
    refine ⟨deliver_seqNo s r, fun hv => ?noPage, fun hl hk hw => faultWaits_of_free hl hk hw _ _, fun hv hw => ?waits, fun hv hw => ?writes⟩
    case noPage =>
      simp only [t, deliver_no_page (hnone hv)]
      trivial
    case waits =>
      simp only [t, deliver_waits (hsome hv) hw]
      trivial
    case writes =>
      have h := deliver_written hmem (hsome hv) hw
      clear_value page
      exact h
  case layout =>
    intro b
    refine ⟨?_, ?_, faultBits_v r seq, ?_, ?_, ?_, ?_, ?_, ?_, ?_, ?_, ?_, ?_, ?_, ?_, ?_, ?_, ?_, ?_, ?_, ?_, ?_, ?_⟩ <;>
      simp (disch := omega) only [b, bitsAt_faultBits, bitsAt_append_low, bitsAt_append_high, Nat.reduceSub, bitsAt_all, BitVec.toNat_ofNat,
        Nat.reducePow]

end Sys2Proof.Machine
end

section
/-! SUPPORT. KVPACK (R308, R319): the values of BF16 codes, the scale rounded up, the codes rounded to nearest, and the largest magnitude of a
head vector. -/

namespace Sys2Proof.Machine

/-! ## Values of BF16 codes (R37) -/

/-- A sign as a factor. -/
def signOf (neg : Bool) : ℚ := if neg then -1 else 1

theorem dyadic_is (neg : Bool) (m : Nat) (e : Int) : (XVal.dyadic neg m e).is (signOf neg * (m * 2 ^ e)) := by
  rw [XVal.dyadic, signOf]
  by_cases hm : m = 0
  · simp [hm, XVal.is]
  · rw [if_neg hm]
    by_cases he : 0 ≤ e
    · have hz : (2 : ℚ) ^ e = 2 ^ e.toNat := by conv_lhs => rw [← Int.toNat_of_nonneg he, zpow_natCast]
      simp only [if_pos he, XVal.is, hz]
      refine ⟨by cases neg <;> simp [hm], by decide, by cases neg <;> push_cast <;> simp⟩
    · have hz : (2 : ℚ) ^ e = (2 ^ (-e).toNat)⁻¹ := by
        conv_lhs => rw [← neg_neg e, ← Int.toNat_of_nonneg (show 0 ≤ -e by omega), zpow_neg, zpow_natCast]
      simp only [if_neg he, XVal.is, hz]
      refine ⟨by cases neg <;> simp [hm], by positivity, by cases neg <;> push_cast <;> simp <;> field_simp⟩

theorem XVal.is_unique {a : XVal} {p q : ℚ} (hp : a.is p) (hq : a.is q) : p = q := by
  cases a <;> simp only [XVal.is] at hp hq
  · rw [hp, hq]
  · rw [hp.2.2, hq.2.2]

/-- The significand of a finite BF16 code. -/
def bfSig (n : Nat) : Nat := if n / 128 = 0 then n % 128 else 128 + n % 128

/-- The exponent of a finite BF16 code. -/
def bfExp (n : Nat) : ℤ := (if n / 128 = 0 then 1 else n / 128 : Nat) - 134

/-- The magnitude of a BF16 code without its sign. -/
def bfMag (n : Nat) : ℚ := bfSig n * 2 ^ bfExp n

/-- What a BF16 code decodes to. -/
theorem fdecode_bf16_eq (c : Nat) : fdecode .bf16 c =
    if 0x7F7F < c % 32768 then (if c % 32768 = 0x7F80 then .inf (decide (c / 32768 % 2 = 1)) else .nan)
    else .dyadic (decide (c / 32768 % 2 = 1)) (bfSig (c % 32768)) (bfExp (c % 32768)) := by
  have hexp (e : Nat) : (e : ℤ) - 127 - 7 = e - 134 := by omega
  change (if c % 32768 > 32639 then (if c % 32768 = 32640 then XVal.inf (decide (c / 32768 % 2 = 1)) else .nan)
    else if c % 32768 / 128 = 0 then .dyadic (decide (c / 32768 % 2 = 1)) (c % 32768 % 128) (1 - 127 - 7)
    else .dyadic (decide (c / 32768 % 2 = 1)) (128 + c % 32768 % 128) ((c % 32768 / 128 : Nat) - 127 - 7)) = _
  rw [hexp]
  simp only [bfSig, bfExp]
  split_ifs <;> rfl

theorem fdecode_bf16 {c : Nat} (h : c % 32768 ≤ 0x7F7F) : ∃ neg, (fdecode .bf16 c).is (signOf neg * bfMag (c % 32768)) := by
  rw [fdecode_bf16_eq, if_neg (by omega)]
  exact ⟨_, dyadic_is _ _ _⟩

/-- A code without a sign decodes to its magnitude. -/
theorem fdecode_bf16_mag {n : Nat} (h : n ≤ 0x7F7F) : (fdecode .bf16 n).is (bfMag n) := by
  have hd := dyadic_is false (bfSig n) (bfExp n)
  have hsign : decide (n / 32768 % 2 = 1) = false := by simp; omega
  rw [fdecode_bf16_eq, Nat.mod_eq_of_lt (by omega), if_neg (by omega), hsign]
  rwa [signOf, if_neg (by decide), one_mul] at hd

theorem fdecode_bf16_special {c : Nat} (h : 0x7F7F < c % 32768) (p : ℚ) : ¬ (fdecode .bf16 c).is p := by
  rw [fdecode_bf16_eq, if_pos h]
  split <;> exact id

theorem bfMag_nonneg (n : Nat) : 0 ≤ bfMag n := by unfold bfMag; positivity

/-- The next code has the next magnitude: the significand grows by one, or the exponent does where the significand is full. -/
theorem bfMag_mono : Monotone bfMag := by
  refine monotone_nat_of_le_succ fun n => ?_
  have hpos : (0 : ℚ) ≤ 2 ^ bfExp n := by positivity
  by_cases hm : n % 128 = 127
  · by_cases he : n / 128 = 0
    · have hexp : bfExp (n + 1) = bfExp n := by simp only [bfExp]; split_ifs <;> omega
      have hsig : bfSig n ≤ bfSig (n + 1) := by simp only [bfSig]; split_ifs <;> omega
      rw [bfMag, bfMag, hexp]
      exact mul_le_mul_of_nonneg_right (by exact_mod_cast hsig) hpos
    · have hexp : bfExp (n + 1) = bfExp n + 1 := by simp only [bfExp]; split_ifs <;> omega
      have hsig : bfSig n ≤ bfSig (n + 1) * 2 := by simp only [bfSig]; split_ifs <;> omega
      have hsig' : (bfSig n : ℚ) ≤ bfSig (n + 1) * 2 := by exact_mod_cast hsig
      calc bfMag n ≤ bfSig (n + 1) * 2 * 2 ^ bfExp n := mul_le_mul_of_nonneg_right hsig' hpos
        _ = bfMag (n + 1) := by rw [bfMag, hexp, zpow_add_one₀ (by norm_num)]; ring
  · have hdiv : (n + 1) / 128 = n / 128 := by omega
    have hexp : bfExp (n + 1) = bfExp n := by simp only [bfExp, hdiv]
    have hsig : bfSig n ≤ bfSig (n + 1) := by simp only [bfSig, hdiv]; split <;> omega
    rw [bfMag, bfMag, hexp]
    exact mul_le_mul_of_nonneg_right (by exact_mod_cast hsig) hpos

theorem bfSig_eq_zero {n : Nat} : bfSig n = 0 ↔ n = 0 := by
  rw [bfSig]
  split <;> omega

theorem bfMag_eq_zero {n : Nat} : bfMag n = 0 ↔ n = 0 := by
  have hz : (2 : ℚ) ^ bfExp n ≠ 0 := by positivity
  rw [bfMag, mul_eq_zero, or_iff_left hz, Nat.cast_eq_zero, bfSig_eq_zero]

/-! ## The exponent of a fraction, and the rounder's code (R42) -/

theorem log2_bounds {n : Nat} (hn : 0 < n) : (2 : ℚ) ^ (Nat.log2 n : ℤ) ≤ n ∧ (n : ℚ) < 2 ^ ((Nat.log2 n : ℤ) + 1) := by
  have h1 : 2 ^ n.log2 ≤ n := Nat.log2_self_le hn.ne'
  have h2 : n < 2 ^ (n.log2 + 1) := Nat.lt_log2_self
  constructor
  · rw [zpow_natCast]; exact_mod_cast h1
  · rw [← Nat.cast_succ, zpow_natCast]; exact_mod_cast h2

/-- A fraction compared with a power of two, as the rounder does it. -/
theorem below_iff {n d : Nat} (hd : 0 < d) (k : ℤ) :
    (if 0 ≤ k then decide (n < d * 2 ^ k.toNat) else decide (n * 2 ^ (-k).toNat < d)) = true ↔ (n : ℚ) / d < 2 ^ k := by
  have hd' : (0 : ℚ) < d := by exact_mod_cast hd
  rw [div_lt_iff₀ hd']
  split
  · rename_i hk
    have hz : (2 : ℚ) ^ k = 2 ^ k.toNat := by conv_lhs => rw [← Int.toNat_of_nonneg hk, zpow_natCast]
    rw [hz, decide_eq_true_eq, mul_comm]
    exact_mod_cast Iff.rfl
  · rename_i hk
    have hz : (2 : ℚ) ^ k = (2 ^ (-k).toNat)⁻¹ := by
      conv_lhs => rw [← neg_neg k, ← Int.toNat_of_nonneg (show 0 ≤ -k by omega), zpow_neg, zpow_natCast]
    rw [hz, decide_eq_true_eq, inv_mul_eq_div, lt_div_iff₀ (by positivity)]
    exact_mod_cast Iff.rfl

/-- ⌊log₂ (n / d)⌋ bounds the fraction on both sides. -/
theorem ilog2_spec {n d : Nat} (hn : 0 < n) (hd : 0 < d) : (2 : ℚ) ^ ilog2 n d ≤ n / d ∧ (n : ℚ) / d < 2 ^ (ilog2 n d + 1) := by
  have hd' : (0 : ℚ) < d := by exact_mod_cast hd
  obtain ⟨hn1, hn2⟩ := log2_bounds hn
  obtain ⟨hd1, hd2⟩ := log2_bounds hd
  have hlow : (2 : ℚ) ^ ((n.log2 : ℤ) - d.log2 - 1) ≤ n / d := by
    rw [le_div_iff₀ hd', sub_sub, zpow_sub₀ (by norm_num), div_mul_eq_mul_div, div_le_iff₀ (by positivity)]
    exact mul_le_mul hn1 hd2.le hd'.le (by positivity)
  have hhigh : (n : ℚ) / d < 2 ^ ((n.log2 : ℤ) - d.log2 + 1) := by
    rw [div_lt_iff₀ hd', sub_add_eq_add_sub, zpow_sub₀ (by norm_num), div_mul_eq_mul_div, lt_div_iff₀ (by positivity)]
    exact mul_lt_mul hn2 hd1 (by positivity) (by positivity)
  have hbelow := below_iff (n := n) hd ((n.log2 : ℤ) - d.log2)
  rw [ilog2]
  by_cases hb : (n : ℚ) / d < 2 ^ ((n.log2 : ℤ) - d.log2)
  · rw [if_pos (hbelow.mpr hb), sub_add_cancel]
    exact ⟨hlow, hb⟩
  · rw [if_neg (mt hbelow.mp hb)]
    exact ⟨not_lt.mp hb, hhigh⟩

/-- The quotient of two numbers scaled by a power of two, as a fraction. -/
theorem unscale_spec {n d : Nat} (hd : 0 < d) (q : ℤ) :
    0 < (unscale n d q).2 ∧ ((unscale n d q).1 : ℚ) / (unscale n d q).2 = n / d / 2 ^ q := by
  rw [unscale]
  split
  · rename_i hq
    have hz : (2 : ℚ) ^ q = 2 ^ q.toNat := by conv_lhs => rw [← Int.toNat_of_nonneg hq, zpow_natCast]
    exact ⟨by positivity, by rw [hz]; push_cast; rw [div_div]⟩
  · rename_i hq
    have hz : (2 : ℚ) ^ q = (2 ^ (-q).toNat)⁻¹ := by
      conv_lhs => rw [← neg_neg q, ← Int.toNat_of_nonneg (show 0 ≤ -q by omega), zpow_neg, zpow_natCast]
    exact ⟨hd, by rw [hz]; push_cast; rw [div_inv_eq_mul, mul_div_right_comm]⟩

/-- A BF16 magnitude below 2^126 rounds to a code of a finite magnitude. -/
theorem magCode_bf16_le {rnd : BitVec 3} {neg : Bool} {n d : Nat} {xs : Word32} (hn : 0 < n) (hd : 0 < d) (h : (n : ℚ) / d < 2 ^ (126 : ℤ)) :
    magCode (fmtOf .bf16) rnd neg n d xs ≤ 0x7F7F := by
  obtain ⟨hlow, hhigh⟩ := ilog2_spec hn hd
  have he : ilog2 n d < 126 := (zpow_lt_zpow_iff_right₀ (by norm_num)).mp (hlow.trans_lt h)
  have hF : fmtOf .bf16 = ⟨16, 7, 127, true, 0x7F7F, 0x7FC0⟩ := rfl
  rw [hF, magCode]
  simp only
  generalize hq : (if ilog2 n d < 1 - ((127 : Nat) : ℤ) then 1 - ((127 : Nat) : ℤ) else ilog2 n d) - ((7 : Nat) : ℤ) = q
  have hq1 : ilog2 n d + 1 ≤ q + 8 := by rw [← hq]; split_ifs <;> omega
  have hq2 : q ≤ 118 := by rw [← hq]; split_ifs <;> omega
  obtain ⟨hpos, hval⟩ := unscale_spec (n := n) hd q
  generalize unscale n d q = nd at hpos hval ⊢
  have hlo : nd.1 / nd.2 < 256 := by
    rw [Nat.div_lt_iff_lt_mul hpos]
    have h1 : (nd.1 : ℚ) / nd.2 < 256 := by
      rw [hval, div_lt_iff₀ (by positivity)]
      calc (n : ℚ) / d < 2 ^ (ilog2 n d + 1) := hhigh
        _ ≤ 2 ^ (q + 8) := zpow_le_zpow_right₀ (by norm_num) hq1
        _ = 256 * 2 ^ q := by rw [zpow_add₀ (by norm_num)]; norm_num; ring
    rw [div_lt_iff₀ (by exact_mod_cast hpos)] at h1
    exact_mod_cast h1
  split_ifs <;> omega

/-- A magnitude below 2^126 is rounded to a finite BF16 code. -/
theorem fround_bf16_le {rnd : BitVec 3} {sat : Bool} {w : XVal} {p : ℚ} (hw : w.is p) (h0 : 0 ≤ p) (h : p < 2 ^ (126 : ℤ)) :
    fround .bf16 rnd sat w % 32768 ≤ 0x7F7F := by
  cases w with
  | nan => exact hw.elim
  | inf b => exact hw.elim
  | zero b => cases b <;> simp [fround, froundX, signed, fmtOf]
  | num n d =>
    obtain ⟨hn, hd, rfl⟩ := hw
    have hd' : (0 : ℚ) < d := by exact_mod_cast hd
    have hpos : 0 < n := by
      rcases lt_or_gt_of_ne hn with h1 | h1
      · exact absurd (div_neg_of_neg_of_pos (by exact_mod_cast h1) hd') (not_lt.mpr h0)
      · exact h1
    have hnat : ((n.natAbs : Nat) : ℚ) = n := by rw [Nat.cast_natAbs, abs_of_pos hpos]
    have hcode := magCode_bf16_le (rnd := rnd) (neg := false) (n := n.natAbs) (d := d) (xs := 0) (by omega) hd (by rw [hnat]; exact h)
    have hneg : decide (n < 0) = false := by simp; omega
    have hmax : (fmtOf .bf16).maxCode = 0x7F7F := rfl
    rw [fround, froundX]
    simp only [hneg, hmax, if_neg (Nat.not_lt.mpr hcode), signed, Bool.false_eq_true, if_false]
    omega

theorem bfMag_max : bfMag 0x7F7F < 2 ^ (128 : ℤ) := by
  norm_num [bfMag, bfSig, bfExp]

/-- A seventh of a finite BF16 magnitude, rounded up, is finite (R319). -/
theorem fround_seventh_finite {n : Nat} (hn : n ≤ 0x7F7F) {w : XVal} (hw : w.is (bfMag n / 7)) : fround .bf16 3 false w % 32768 ≤ 0x7F7F := by
  have hmax : bfMag n < 2 ^ (128 : ℤ) := (bfMag_mono hn).trans_lt bfMag_max
  refine fround_bf16_le hw (div_nonneg (bfMag_nonneg n) (by norm_num)) ?_
  rw [div_lt_iff₀ (by norm_num)]
  exact hmax.trans (by norm_num)

/-! ## Codes rounded to nearest (R319) -/

/-- Rounding to nearest goes away from zero past the middle, and at it where the quotient is odd (R40). -/
theorem roundsAway_nearest_iff (neg : Bool) (lo : Nat) {rem D : Nat} (hD : 0 < D) (xs : Word32) :
    roundsAway 0 neg lo rem D xs = true ↔ D < 2 * rem ∨ 2 * rem = D ∧ lo % 2 = 1 := by
  rw [roundsAway]
  split
  · simp only [Bool.false_eq_true, false_iff]
    omega
  · simp

/-- The nearest integer, ties to even, of a fraction of natural numbers. -/
theorem roundsAway_nearest (neg : Bool) {n d : Nat} (hd : 0 < d) (xs : Word32) :
    let r : Nat := if roundsAway 0 neg (n / d) (n % d) d xs then n / d + 1 else n / d
    |(n : ℚ) / d - r| ≤ 1 / 2 ∧ (|(n : ℚ) / d - r| = 1 / 2 → Even r) := by
  have hd' : (0 : ℚ) < d := by exact_mod_cast hd
  have hsplit : (n : ℚ) / d = (n / d : Nat) + ((n % d : Nat) : ℚ) / d := by
    have h : (d : ℚ) * (n / d : Nat) + (n % d : Nat) = n := by exact_mod_cast Nat.div_add_mod n d
    rw [← h]
    field_simp
  have hrem : ((n % d : Nat) : ℚ) / d < 1 := by
    rw [div_lt_one hd']
    exact_mod_cast Nat.mod_lt n hd
  have hnonneg : 0 ≤ ((n % d : Nat) : ℚ) / d := by positivity
  have hmid : ((n % d : Nat) : ℚ) / d < 1 / 2 ↔ 2 * (n % d) < d := by
    rw [div_lt_div_iff₀ hd' (by norm_num), one_mul, mul_comm]
    exact_mod_cast Iff.rfl
  have htie : ((n % d : Nat) : ℚ) / d = 1 / 2 ↔ 2 * (n % d) = d := by
    rw [div_eq_div_iff hd'.ne' (by norm_num), one_mul, mul_comm]
    exact_mod_cast Iff.rfl
  rw [hsplit]
  generalize ((n % d : Nat) : ℚ) / d = x at *
  by_cases haway : roundsAway 0 neg (n / d) (n % d) d xs = true
  · have hr := (roundsAway_nearest_iff neg (n / d) hd xs).mp haway
    have hx : 1 / 2 ≤ x := not_lt.mp fun h => by have := hmid.mp h; omega
    simp only [haway, if_true]
    have habs : |((n / d : Nat) : ℚ) + x - (n / d + 1 : Nat)| = 1 - x := by
      push_cast
      rw [add_sub_add_left_eq_sub, abs_of_neg (by linarith), neg_sub]
    rw [habs]
    refine ⟨by linarith, fun h => ?_⟩
    have := htie.mp (by linarith)
    rw [Nat.even_iff]
    omega
  · have hr := mt (roundsAway_nearest_iff neg (n / d) hd xs).mpr haway
    have hx : x ≤ 1 / 2 := by
      by_cases h : x = 1 / 2
      · exact h.le
      · exact (hmid.mpr (by have := mt htie.mpr h; omega)).le
    simp only [haway, Bool.false_eq_true, if_false]
    rw [add_sub_cancel_left, abs_of_nonneg hnonneg]
    refine ⟨hx, fun h => ?_⟩
    have := htie.mp h
    rw [Nat.even_iff]
    omega

/-- A finite value is coded as its nearest integer, ties to even, clamped to −7 to 7. -/
theorem kvRound_nearest {v : XVal} {p : ℚ} (hv : v.is p) :
    ∃ r : ℤ, |p - r| ≤ 1 / 2 ∧ (|p - r| = 1 / 2 → Even r) ∧ kvRound v = max (-7) (min 7 r) := by
  cases v with
  | nan => exact hv.elim
  | inf b => exact hv.elim
  | zero b =>
    obtain rfl : p = 0 := hv
    exact ⟨0, by norm_num, fun _ => by decide, rfl⟩
  | num n d =>
    obtain ⟨hn, hd, rfl⟩ := hv
    have hnear := roundsAway_nearest (decide (n < 0)) (n := n.natAbs) hd 0
    rw [kvRound]
    simp only at hnear ⊢
    generalize (if roundsAway 0 (decide (n < 0)) (n.natAbs / d) (n.natAbs % d) d 0 = true then n.natAbs / d + 1 else n.natAbs / d) = r at hnear ⊢
    obtain ⟨hle, htie⟩ := hnear
    by_cases hneg : n < 0
    · have habs : ((n.natAbs : Nat) : ℚ) = -n := by rw [Nat.cast_natAbs, abs_of_neg hneg]; push_cast; rfl
      have hflip : |(n : ℚ) / d - ((-(r : ℤ) : ℤ) : ℚ)| = |((n.natAbs : Nat) : ℚ) / d - r| := by
        rw [habs, ← abs_neg]
        congr 1
        push_cast
        ring
      refine ⟨-r, by rw [hflip]; exact hle, fun h => ?_, ?_⟩
      · rw [hflip] at h
        exact (Int.even_coe_nat r |>.mpr (htie h)).neg
      · rw [if_pos hneg]
        split_ifs <;> omega
    · have habs : ((n.natAbs : Nat) : ℚ) = n := by rw [Nat.cast_natAbs, abs_of_nonneg (by omega)]
      rw [habs] at hle htie
      refine ⟨r, by exact_mod_cast hle, fun h => (Int.even_coe_nat r).mpr (htie (by exact_mod_cast h)), ?_⟩
      rw [if_neg hneg]
      split_ifs <;> omega

/-- What is divided by a zero is coded as zero. -/
theorem kvRound_div_zero (a : XVal) (b : Bool) : kvRound (a.div (.zero b)) = 0 := by cases a <;> rfl

/-! ## The codes of a head vector (R319) -/

theorem getElem?_kvCodes (ms : List Token) (i : Nat) :
    (kvCodes ms)[i]? = (ms[i / 16]?).map fun t => laneU 16 t.pay (i % 16) := by
  rw [kvCodes]
  induction ms generalizing i with
  | nil => simp
  | cons t ms ih =>
    rw [List.flatMap_cons]
    by_cases hi : i < 16
    · rw [List.getElem?_append_left (by simpa using hi), Nat.div_eq_of_lt hi, Nat.mod_eq_of_lt hi]
      simp [hi]
    · obtain ⟨j, rfl⟩ : ∃ j, i = j + 16 := ⟨i - 16, by omega⟩
      rw [List.getElem?_append_right (by simp), Nat.add_div_right j (by decide), Nat.add_mod_right]
      simpa using ih j

/-- The largest magnitude code is that of a component, or zero, and no component's is larger. -/
theorem kvMax_spec (cs : List Nat) : (kvMax cs = 0 ∨ ∃ c ∈ cs, kvMax cs = c % 32768) ∧ ∀ c ∈ cs, c % 32768 ≤ kvMax cs := by
  have hfold (a : Nat) : let m := cs.foldl (fun a c => if a < c % 32768 then c % 32768 else a) a
      (m = a ∨ ∃ c ∈ cs, m = c % 32768) ∧ a ≤ m ∧ ∀ c ∈ cs, c % 32768 ≤ m := by
    induction cs generalizing a with
    | nil => simp
    | cons c cs ih =>
      obtain ⟨hfrom, hacc, hall⟩ := ih (if a < c % 32768 then c % 32768 else a)
      simp only [List.foldl_cons, List.mem_cons, exists_eq_or_imp, forall_eq_or_imp]
      generalize cs.foldl _ _ = m at *
      refine ⟨?_, by split_ifs at hacc <;> omega, by split_ifs at hacc <;> omega, hall⟩
      obtain rfl | h := hfrom
      · split_ifs
        · exact .inr (.inl rfl)
        · exact .inl rfl
      · exact .inr (.inr h)
  obtain ⟨hfrom, -, hall⟩ := hfold 0
  exact ⟨hfrom, hall⟩

section
variable {cs : List Nat}

/-- A component that is no number gives the scale 0x7FC0 and codes 0 (R319). -/
theorem kvQuant_special (h : ∃ c ∈ cs, 0x7F7F < c % 32768) : kvQuant cs = (0x7FC0, cs.map fun _ => 0) := by
  obtain ⟨c, hc, hbig⟩ := h
  have hmax := (kvMax_spec cs).2 c hc
  rw [kvQuant]
  simp only
  rw [if_pos (by omega)]

/-- The codes of components that are numbers. -/
theorem kvQuant_finite (h : ∀ c ∈ cs, c % 32768 ≤ 0x7F7F) : kvMax cs ≤ 0x7F7F ∧
    kvQuant cs = (fround .bf16 3 false ((fdecode .bf16 (kvMax cs)).div (.num 7 1)), cs.map fun c => if kvMax cs = 0 then 0 else
      kvRound ((fdecode .bf16 c).div (fdecode .bf16 (fround .bf16 3 false ((fdecode .bf16 (kvMax cs)).div (.num 7 1)))))) := by
  have hmax : kvMax cs ≤ 0x7F7F := by
    obtain h0 | ⟨c, hc, he⟩ := (kvMax_spec cs).1
    · omega
    · rw [he]; exact h c hc
  refine ⟨hmax, ?_⟩
  rw [kvQuant]
  simp only
  rw [if_neg (by omega)]
  rfl
end

/-- A quotient by a scale, zero scales included, is coded as its nearest integer. -/
theorem kvRound_div {a b : XVal} {p q : ℚ} (ha : a.is p) (hb : b.is q) :
    ∃ r : ℤ, |p / q - r| ≤ 1 / 2 ∧ (|p / q - r| = 1 / 2 → Even r) ∧ kvRound (a.div b) = max (-7) (min 7 r) := by
  by_cases hq : q = 0
  · subst hq
    obtain ⟨z, rfl⟩ := XVal.is_zero hb
    exact ⟨0, by norm_num, fun _ => by decide, kvRound_div_zero a z⟩
  · exact kvRound_nearest (XVal.div_is ha hb hq)

/-- A lane of a payload of 64 codes. -/
theorem laneU_codes (g : Nat → ℤ) {i : Nat} (hi : i < 64) :
    (laneU 4 (packLanes 4 ((List.range 64).map fun i => wrapTo 4 (g i))) i : ℤ) = g i % 16 := by
  rw [laneU_packLanes 4 _ i (by simpa using hi) (by simp)]
  have hlt := wrapTo_lt 4 (g i)
  simp only [List.getElem_map, List.getElem_range]
  rw [Nat.mod_eq_of_lt hlt, wrapTo]
  omega

/-- A half of the codes of a head vector as a token's payload (R319). -/
def kvHalf (q : List ℤ) (n : Nat) : Payload := packLanes 4 ((List.range 64).map fun i => wrapTo 4 (q.getD (n + i) 0))

theorem length_kvTokens_le (c : Ctx) (mk : Dst → Word64 → Bool → Payload → Emit) (u v w : Payload) : (c.kvTokens mk u v w).length ≤ 3 := by
  have hlen (d : Dst) (m : Emit) := length_toDst_le d m
  simp only [Ctx.kvTokens, List.length_append]
  exact Nat.add_le_add (Nat.add_le_add (hlen _ _) (hlen _ _)) (hlen _ _)

theorem exec_kvpack (f : Fields) (s : State) : exec (.kvpack f) s = execKvpack f s := rfl

/-- KVPACK on ordinary members sends its three tokens (R319). -/
theorem exec_kvpack_plain {f : Fields} {s : State} {c : Ctx} (hi : Issues f s c 3) (hp : c.Plain) :
    let q := kvQuant (kvCodes c.set.members)
    exec (.kvpack f) s = .next (c.issued c.e (c.kvTokens (fun d t l p => ⟨d, t, true, 0, l, 0, p⟩) (kvHalf q.2 0) (kvHalf q.2 64) (lane0 q.1))) := by
  rw [exec_kvpack, execKvpack]
  refine fireRaw_sends hi hp.raise _ _ _ ?_ rfl (length_kvTokens_le _ _ _ _ _)
  simp only [kvpackEffect, ReadySet.record?_eq_none hp.record, ReadySet.control_eq_false hp.control, ReadySet.bubbly_eq_false hp.bubble,
    Bool.false_eq_true, if_false]
  rfl

/-- Settles O32: the effect on ordinary members, then the quantiser with and without a component that is no number. -/
theorem kvpackQuantisesAHeadVector : Obligations.KvpackQuantisesAHeadVector := by
  unfold Obligations.KvpackQuantisesAHeadVector
  intro f s c hi hp _ hlen k code x sent packs
  generalize hcs : kvCodes c.set.members = cs
  have hget {i : Nat} (h : i < 128) : cs[i]? = some (code i) := by
    obtain ⟨t, ht⟩ : ∃ t, c.set.members[i / 16]? = some t := ⟨_, List.getElem?_eq_getElem (by omega)⟩
    rw [← hcs, getElem?_kvCodes]
    simp only [code, ht, Option.map_some, Option.getD_some]
  have hmem {p : Nat → Prop} (h : ∀ i < 128, p (code i)) : ∀ c ∈ cs, p c := by
    intro c hc
    obtain ⟨i, hi⟩ := List.getElem?_of_mem hc
    have hlt : i < 128 := by
      by_contra hge
      rw [← hcs, getElem?_kvCodes, List.getElem?_eq_none (by omega)] at hi
      exact absurd hi (by simp)
    rw [hget hlt] at hi
    exact Option.some.inj hi ▸ h i hlt
  have hpacks : packs (fun i => (kvQuant cs).2.getD i 0) (kvQuant cs).1 := by
    refine ⟨kvHalf (kvQuant cs).2 0, kvHalf (kvQuant cs).2 64, ?_, fun i hi => ⟨?_, laneU_codes _ hi⟩⟩
    · rw [exec_kvpack_plain hi hp, hcs, Ctx.kvTokens, hi.f_eq]
      rfl
    · rw [kvHalf, laneU_codes _ hi, Nat.zero_add]
  refine ⟨fun ⟨i, hi, hno⟩ => ?special, fun v hv => ?finite⟩
  case special =>
    have hbig : 0x7F7F < code i % 32768 := by
      by_contra h
      obtain ⟨neg, hval⟩ := fdecode_bf16 (Nat.not_lt.mp h)
      exact hno _ hval
    rw [kvQuant_special ⟨code i, List.mem_of_getElem? (hget hi), hbig⟩] at hpacks
    have hzero : (fun i => (cs.map fun _ => (0 : ℤ)).getD i 0) = fun _ => 0 := by
      funext i
      rw [List.getD_eq_getElem?_getD, List.getElem?_map]
      cases cs[i]? <;> rfl
    rwa [hzero] at hpacks
  case finite =>
    have hsmall : ∀ i < 128, code i % 32768 ≤ 0x7F7F := fun i hi => not_lt.mp fun h => fdecode_bf16_special h _ (hv i hi)
    have habs {i : Nat} (hi : i < 128) : |v i| = bfMag (code i % 32768) := by
      obtain ⟨neg, hval⟩ := fdecode_bf16 (hsmall i hi)
      rw [XVal.is_unique (hv i hi) hval, abs_mul, abs_of_nonneg (bfMag_nonneg _)]
      cases neg <;> simp [signOf]
    obtain ⟨hmax, hquant⟩ := kvQuant_finite (hmem hsmall)
    obtain ⟨hfrom, hall⟩ := kvMax_spec cs
    generalize kvMax cs = top at hmax hquant hfrom hall
    have hle : ∀ i < 128, |v i| ≤ bfMag top := fun i hi => by
      rw [habs hi]
      exact bfMag_mono (hall _ (List.mem_of_getElem? (hget hi)))
    have hw : ((fdecode .bf16 top).div (.num 7 1)).is (bfMag top / 7) :=
      XVal.div_is (fdecode_bf16_mag hmax) ⟨by decide, by decide, by norm_num⟩ (by norm_num)
    obtain ⟨neg, hscale⟩ := fdecode_bf16 (fround_seventh_finite hmax hw)
    have hcode {i : Nat} (hi : i < 128) : (kvQuant cs).2.getD i 0 = if top = 0 then 0 else
        kvRound ((fdecode .bf16 (code i)).div (fdecode .bf16 (fround .bf16 3 false ((fdecode .bf16 top).div (.num 7 1))))) := by
      rw [hquant, List.getD_eq_getElem?_getD, List.getElem?_map, hget hi]
      rfl
    refine ⟨_, _, bfMag top, _, hpacks, ?_, hle, hw, by rw [hquant], fun hm i hi => ?_, fun hm =>
      ⟨_, by rw [hquant]; exact hscale, fun i hi => ?_⟩⟩
    · obtain h0 | ⟨c, hc, hc'⟩ := hfrom
      · have h00 := hall _ (List.mem_of_getElem? (hget (i := 0) (by decide)))
        exact ⟨0, by decide, by rw [habs (by decide)]; congr 1; omega⟩
      · obtain ⟨i, hi, rfl⟩ := hmem (p := fun c => ∃ i, i < 128 ∧ code i = c) (fun i hi => ⟨i, hi, rfl⟩) c hc
        exact ⟨i, hi, by rw [habs hi, hc']⟩
    · simp only [hcode hi, if_pos (bfMag_eq_zero.mp hm)]
    · obtain ⟨r, hnear, htie, hr⟩ := kvRound_div (hv i hi) hscale
      exact ⟨r, hnear, htie, by simp only [hcode hi, if_neg (mt bfMag_eq_zero.mpr hm)]; exact hr⟩

end Sys2Proof.Machine
end

section
/-! SUPPORT. A sheet at work (R286, R289, R292, R294, R297, R299, R301, R302): what staging, a k-group, the end of a pass and a drain come to. -/

namespace Sys2Proof.Machine

/-! ## Staging (R286) -/

section
variable {g : Region} {h : Sheet} {row : Bool} {idx : Nat} {t : Token} {q : Stream}
  (hq : h.streams.find? (fun u => u.row == row && u.idx == idx && u.unfinished) = some q)
include hq

/-- A token of an unfinished stream is staged while its buffer has room. -/
theorem stageToken_joins (hcol : tagCol t.tag = tagCol q.tag) (hctx : tagCtx t.tag = tagCtx q.tag)
    (hroom : countIf (fun u => u.at' row idx q.buf) h.staged < bufferCap (g.feeder h row idx)) (now : Nat) :
    g.stageToken h row idx t now = .taken (g.putSheet { h with
      staged := h.staged ++ [Staged.mk row idx q.buf t]
      streams := h.streams.map fun u => if u.at' row idx q.buf then { u with unfinished := !(t.kind != 1 && t.last) } else u }) false := by
  rw [Region.stageToken]
  simp only [hq]
  rw [if_neg (by simp [hcol, hctx]), if_neg (by omega)]

/-- A token of another tag fails the stream that it meets. -/
theorem stageToken_fails (htag : tagCol t.tag ≠ tagCol q.tag ∨ tagCtx t.tag ≠ tagCtx q.tag) (now : Nat) :
    g.stageToken h row idx t now = .taken (g.putSheet (h.failStream q (mkCause 7 5))) true := by
  rw [Region.stageToken]
  simp only [hq]
  rw [if_pos htag]
end

theorem exec_streamTokenStaging (p : Site) (src : Src) (s : State) : exec (.streamTokenStaging p src) s = execStreamTokenStaging p src s := rfl

/-- What staging the oldest token of a source comes to at a sheet that takes it. -/
theorem execStreamTokenStaging_taken {s : State} {r : Rid} {l : Launch} {g : Region} (hr : Runs s r l g) {k : Link} {rest : List Link}
    (hlinks : g.links = k :: rest) (hport : k.port = none) {h : Sheet} {row : Bool} {idx : Nat} {g1 : Region} {consumed : Bool} :
    let g0 : Region := { g with
      links := rest
      deltas := g.deltas ++ [Delta.mk (.site k.x k.y) (tagKey k.tok.tag) 0 true false] }
    g0.streamTok k.x k.y k.tok = some (h, row, idx) → g0.stageToken h row idx k.tok s.cycle = .taken g1 consumed →
    execStreamTokenStaging ⟨r, k.x, k.y⟩ k.src s = .next (s.putRegion r
      (if consumed && k.tok.counted then g1.count (.site k.x k.y) k.tok.tag (-1) false else g1)) := by
  intro g0 htok hstage
  rw [execStreamTokenStaging]
  simp only [hr.launch, hr.region, nextLink_cons hlinks hport, hr.live, Bool.not_true, Bool.false_eq_true, if_false]
  simp only [g0] at htok hstage
  simp only [htok, hstage]
  cases consumed <;> simp

/-! ## The parts of a pass (R293) -/

theorem input_key (p : Pass) (row : Bool) (idx : Nat) : (p.input row idx).row = row ∧ (p.input row idx).idx = idx := by
  rw [Pass.input]
  cases hf : p.inputs.find? fun k => k.row == row && k.idx == idx with
  | none => exact ⟨rfl, rfl⟩
  | some k => simpa using List.find?_some hf

/-- Putting back an input of a pass changes none. -/
theorem input_putInput (p : Pass) (row row' : Bool) (idx idx' : Nat) :
    (p.putInput (p.input row idx)).input row' idx' = p.input row' idx' := by
  obtain ⟨hrow, hidx⟩ := input_key p row idx
  have hfind := find?_map_replace (fun k : PassInput => k.row == row' && k.idx == idx')
    (fun k => k.row == (p.input row idx).row && k.idx == (p.input row idx).idx) (p.input row idx) (fun k hk => by simp_all) p.inputs
  rw [Pass.input, Pass.putInput, hfind]
  by_cases hkey : row' = row ∧ idx' = idx
  · obtain ⟨rfl, rfl⟩ := hkey
    simp only [hrow, hidx, beq_self_eq_true, Bool.and_self, if_true]
    rw [Pass.input]
    cases hf : p.inputs.find? fun k => k.row == row' && k.idx == idx' with
    | none => rfl
    | some k =>
      have hk := List.find?_some hf
      simp
  · rw [if_neg (by simp [hrow, hidx]; exact fun h1 h2 => hkey ⟨h1.symm, h2.symm⟩), Pass.input]

/-- Where an input has the data item already, nothing is taken from staging. -/
theorem supply_of_data {h : Sheet} {p : Pass} {row : Bool} {idx D : Nat} (hD : D < (p.input row idx).data.length) (edge : Bool)
    (op : Token → Payload) : h.supply p row idx D edge op = (h, p.putInput (p.input row idx), [], true) := by
  rw [Sheet.supply]
  have hfeed (o : Operand) (fuel : Nat) (x : Taking) (hx : D < x.i.data.length) : Taking.feed o op D (fuel + 1) x = x := by
    rw [Taking.feed, if_pos (.inl hx)]
  simp only [hfeed _ _ ⟨h, p.input row idx, p.fail, []⟩ hD, ite_self, decide_eq_true hD, Bool.true_or]
  rfl

theorem loadItems_data {ks : List StreamItem} (h : ∀ k ∈ ks, k.side = none) (side : Nat) (l : Latches) : loadItems side l ks = l := by
  rw [loadItems]
  induction ks with
  | nil => rfl
  | cons k ks ih =>
    rw [List.foldl_cons, h k (List.mem_cons_self)]
    exact ih fun k' hk => h k' (List.mem_cons_of_mem _ hk)

/-! ## One k-group (R292, R294, R297) -/

/-- The sheet once a pass's first group has reached its bank, which the pass then owns (R297). -/
def Sheet.reached (h : Sheet) (p : Pass) (first : Prop) [Decidable first] : Sheet :=
  if first then h.setState p.bank { h.bankState p.bank with owner := some (tagCol p.reply.tag, tagCtx p.reply.tag) } else h

theorem reached_ops (h : Sheet) (p : Pass) (first : Prop) [Decidable first] : (h.reached p first).ops = h.ops := by
  rw [Sheet.reached]
  split <;> rfl

theorem reached_elems (h : Sheet) (p : Pass) (first : Prop) [Decidable first] : (h.reached p first).elems = h.elems := by
  rw [Sheet.reached]
  split <;> rfl

theorem reached_cs (h : Sheet) (p : Pass) (first : Prop) [Decidable first] : (h.reached p first).cs = h.cs := by
  rw [Sheet.reached]
  split <;> rfl

theorem reached_owner {h : Sheet} {p : Pass} {first : Prop} [Decidable first] (hfirst : first) (hbank : p.bank < h.banks.length) :
    ((h.reached p first).bankState p.bank).owner = some (tagCol p.reply.tag, tagCtx p.reply.tag) := by
  rw [Sheet.reached, if_pos hfirst]
  simp only [Sheet.bankState, Sheet.setState, List.getD_eq_getElem?_getD, List.getElem?_set_self hbank, Option.getD_some]

theorem setBank_ops (h : Sheet) (r c b : Nat) (k : Bank) : (h.setBank r c b k).ops = h.ops := rfl

theorem claim_free {h : Sheet} {p : Pass} (howner : (h.bankState p.bank).owner = none) :
    h.claim p = (h.setState p.bank { h.bankState p.bank with owner := some (tagCol p.reply.tag, tagCtx p.reply.tag) }, p) := by
  rw [Sheet.claim]
  simp only [howner]

/-- The pass of a group with its two inputs put back. -/
def Pass.supplied (p : Pass) (row col : Nat) : Pass :=
  (p.putInput (p.input true row)).putInput ((p.putInput (p.input true row)).input false col)

theorem input_supplied (p : Pass) (row col : Nat) (side : Bool) (idx : Nat) : (p.supplied row col).input side idx = p.input side idx := by
  rw [Pass.supplied, input_putInput, input_putInput]

section
variable {g : Region} {h : Sheet} {row col i : Nat} {ps : Pass} {e : Elem} {a b : StreamItem}

/-- A k-group whose items are data that have come, ahead of which its neighbours are (R292, R294). -/
theorem kgroup_adds (hpass : h.passAt row col = some (i, ps)) (he : g.sheetElem h row col = some e) (hrow : row < h.rs) (hcol : col < h.cs)
    (hwait : h.opWaits i ps.bank = false) (hforeign : ps.foreign = false) :
    let f := ps.reply.f
    let A := mmaOperand f true
    let B := mmaOperand f false
    let G := passG f
    let at' (r c : Nat) : ElemProg := ps.prog.getD (r * h.cs + c) ⟨0, 0, 0, 0⟩
    let n := (at' row col).n
    (col ≠ 0 → n < (at' row (col - 1)).n) → (row ≠ 0 → n < (at' (row - 1) col).n) →
    (row = 0 → col = 0 → n = 0 → (h.bankState ps.bank).owner = none) →
    (∀ k ∈ (ps.input true row).items ++ (ps.input false col).items, k.side = none) →
    (ps.input true row).items[n * G / A.k]? = some a → (ps.input false col).items[n * G / B.k]? = some b → a.pred = true → b.pred = true → ∃ na nb,
    let cbk := if n * G % B.k = 0 then e.lat.cbk else (at' row col).cbk
    let ks := (List.range G).map fun t => (n * G % A.k + t, n * G % B.k + t)
    ∀ (takes : Bool) (op : Token → Payload), g.kgroup h row col takes op = some ((g.putSheet { (h.reached ps (row = 0 ∧ col = 0 ∧ n = 0)).setBank row col ps.bank
        ((h.bank row col ps.bank).group f e.lat cbk a.pay b.pay ks) with
      ops := h.ops.set i (.pass { ps.supplied row col with prog := ps.prog.set (row * h.cs + col) ⟨n + 1, na, nb, cbk⟩ }) }).putElem e) := by
  intro f A B G at' n hwest hnorth howner hside hA hB hpa hpb
  refine ⟨Nat.max (at' row col).ia (itemsUpTo (n * G / A.k) (ps.input true row).items),
    Nat.max (at' row col).ib (itemsUpTo (n * G / B.k) (ps.input false col).items), ?_⟩
  intro cbk ks takes op
  have hdata (side : Bool) (idx : Nat) (hs : ∀ k ∈ (ps.input side idx).items, k.side = none) : (ps.input side idx).data = (ps.input side idx).items := by
    rw [PassInput.data, List.filter_eq_self]
    intro k hk
    rw [hs k hk]
    rfl
  have hdA := hdata true row fun k hk => hside k (List.mem_append_left _ hk)
  have hdB := hdata false col fun k hk => hside k (List.mem_append_right _ hk)
  have hsA := supply_of_data (h := h) (p := ps) (row := true) (idx := row) (D := n * G / A.k)
    (by rw [hdA]; exact (List.getElem?_eq_some_iff.mp hA).1) (takes && col == 0) op
  have hsB := supply_of_data (h := h) (p := ps.putInput (ps.input true row)) (row := false) (idx := col) (D := n * G / B.k)
    (by rw [input_putInput, hdB]; exact (List.getElem?_eq_some_iff.mp hB).1) (takes && row == 0) op
  have hahead : ((decide (col = 0) || decide (n < (at' row (col - 1)).n)) && (decide (row = 0) || decide (n < (at' (row - 1) col).n))) = true := by
    by_cases h1 : col = 0 <;> by_cases h2 : row = 0 <;> simp_all
  have hclaim : (if row = 0 ∧ col = 0 ∧ n = 0 then h.claim (ps.supplied row col) else (h, ps.supplied row col)) =
      (h.reached ps (row = 0 ∧ col = 0 ∧ n = 0), ps.supplied row col) := by
    rw [Sheet.reached]
    split
    · rename_i hfirst
      exact claim_free (p := ps.supplied row col) (howner hfirst.1 hfirst.2.1 hfirst.2.2)
    · rfl
  have hload (side : Bool) (idx : Nat) (hs : ∀ k ∈ (ps.input side idx).items, k.side = none) (x y z : Nat) (l : Latches) :
      loadItems z l (((ps.input side idx).items.take x).drop y) = l :=
    loadItems_data (fun k hk => hs k (List.mem_of_mem_take (List.mem_of_mem_drop hk))) z l
  have hloadA := hload true row fun k hk => hside k (List.mem_append_left _ hk)
  have hloadB := hload false col fun k hk => hside k (List.mem_append_right _ hk)
  have hout : ¬ (h.rs ≤ row ∨ h.cs ≤ col ∨ False ∨ true = false) := by simp; omega
  have hbank : (h.reached ps (row = 0 ∧ col = 0 ∧ n = 0)).bank row col ps.bank = h.bank row col ps.bank := by
    rw [Sheet.reached]
    split <;> rfl
  have hsupBank : (ps.supplied row col).bank = ps.bank := rfl
  have hsupForeign : (ps.supplied row col).foreign = false := hforeign
  rw [Region.kgroup]
  rw [← Pass.supplied] at hsB
  simp only [cbk, ks, n, at', A, B, G, f] at hsA hsB hahead hA hB hclaim hbank ⊢
  simp only [hpass, he, hsA, hsB, hahead, hwait, Bool.not_true, Bool.or_self, Bool.false_eq_true, if_false, List.append_nil,
    List.filter_nil, List.foldl_nil, hclaim, input_supplied, hdA, hdB, hA, hB, hpa, hpb, hloadA, hloadB, hbank, hsupBank, hsupForeign, Bool.and_self,
    Bool.not_false, if_true]
  rw [if_neg hout]
  simp only [setBank_ops, reached_ops]
  rfl
end

/-- A bank that has been replaced. -/
theorem bank_setBank {h : Sheet} {r c b : Nat} (hidx : r * h.cs + c < h.elems.length) (hb : b < (h.elems.getD (r * h.cs + c) []).length) (k : Bank) :
    (h.setBank r c b k).bank r c b = k := by
  simp only [Sheet.setBank, Sheet.bank, List.getD_eq_getElem?_getD, List.getElem?_set_self hidx, Option.getD_some]
  rw [List.getElem?_set_self (by rwa [List.getD_eq_getElem?_getD] at hb), Option.getD_some]

/-- The integer sum of products of a group is the sum over its k-steps. -/
theorem dotInt_eq (a b : ET) (pa pb : Payload) (ks : List (Nat × Nat)) (i j : Nat) :
    dotInt a b pa pb ks i j = (ks.map fun q => laneInt a pa (16 * q.1 + i) * laneInt b pb (16 * q.2 + j)).sum := by
  rw [dotInt, List.sum_eq_foldl, List.foldl_map]

theorem getD_map_range {α : Type} (n : Nat) (g : Nat → α) (d : α) {i : Nat} (hi : i < n) : ((List.range n).map g).getD i d = g i := by
  simp [List.getD_eq_getElem?_getD, hi]

section
variable (k : Bank) (f : Fields) (l : Latches) (cbk pa pb : Payload) (ks : List (Nat × Nat)) {i j : Nat}

/-- A k-group in I32 (R294). -/
theorem group_acc_int (hi : i < 16) (hj : j < 16) (hf : f.et ≠ .f32) : (k.group f l cbk pa pb ks).acc.getD (16 * i + j) 0 =
    fitInt .i32 f.sat (toSigned 32 (k.acc.getD (16 * i + j) 0) + (ks.map fun q => laneInt (mmaOperand f true).t pa (16 * q.1 + i) *
      laneInt (mmaOperand f false).t pb (16 * q.2 + j)).sum) := by
  have hdiv : (16 * i + j) / 16 = i := by omega
  have hmod : (16 * i + j) % 16 = j := by omega
  simp only [Bank.group]
  rw [getD_map_range _ _ _ (by omega), if_neg hf, dotInt_eq, hdiv, hmod]

/-- A k-group in F32 (R294). -/
theorem group_acc_float (hi : i < 16) (hj : j < 16) (hf : f.et = .f32) : (k.group f l cbk pa pb ks).acc.getD (16 * i + j) 0 =
    fround .f32 0 f.sat ((fdecode .f32 (k.acc.getD (16 * i + j) 0)).add false
      (((scaleVal (mmaOperand f true).sc l.scla l.sclaFmt i).mul (scaleVal (mmaOperand f false).sc l.sclb l.sclbFmt j)).mul
        (sumX (ks.map fun q => (sheetVal (mmaOperand f true).t 0 pa (16 * q.1 + i)).mul
          (sheetVal (mmaOperand f false).t cbk pb (16 * q.2 + j)))))) := by
  have hdiv : (16 * i + j) / 16 = i := by omega
  have hmod : (16 * i + j) % 16 = j := by omega
  simp only [Bank.group]
  rw [getD_map_range _ _ _ (by omega), if_pos hf, hdiv, hmod]

/-- The row sums beside a k-group (R294). -/
theorem group_rs (hi : i < 16) : (k.group f l cbk pa pb ks).rs.getD i 0 =
    fround .f32 0 false ((fdecode .f32 (k.rs.getD i 0)).add false ((scaleVal (mmaOperand f true).sc l.scla l.sclaFmt i).mul
      (sumX (ks.map fun q => sheetVal (mmaOperand f true).t 0 pa (16 * q.1 + i))))) := by
  simp only [Bank.group]
  rw [getD_map_range _ _ _ hi]
end

theorem exec_mmaKgroup (p : Site) (row col : Nat) (s : State) : exec (.mmaKgroup p row col) s = execMmaKgroup p row col s := rfl

theorem execMmaKgroup_adds {s : State} {r : Rid} {l : Launch} {g g1 : Region} {x y : Nat} {h : Sheet} (hr : Runs s r l g)
    (hs : g.sheet? x y = some h) {row col : Nat} (hk : ∀ takes op, g.kgroup h row col takes op = some g1) :
    execMmaKgroup ⟨r, x, y⟩ row col s = .next (s.putRegion r g1) := by
  rw [execMmaKgroup]
  simp only [hr.launch, hr.region, hs, hr.live, Bool.not_true, Bool.false_eq_true, if_false, hk]

/-! ## The end of a pass (R293, R297, R299) -/

/-- An input whose stream has ended takes nothing more. -/
theorem finish_ended (o : Operand) (op : Token → Payload) (fuel : Nat) {x : Taking} (h : x.i.ended = true) : Taking.finish o op fuel x = x := by
  cases fuel with
  | zero => rfl
  | succ n =>
    have hnext : x.next = none := by rw [Taking.next, if_pos h]
    rw [Taking.finish, hnext]

/-- An input of a pass put back in its place. -/
theorem putInput_self {p : Pass} (hnodup : (p.inputs.map fun k => (k.row, k.idx)).Nodup) {i : PassInput} (hi : i ∈ p.inputs) : p.putInput i = p := by
  have hmap : (p.inputs.map fun k => if k.row == i.row && k.idx == i.idx then i else k) = p.inputs := by
    conv_rhs => rw [← List.map_id p.inputs]
    refine List.map_congr_left fun k hk => ?_
    split
    · rename_i hkey
      obtain ⟨hrow, hidx⟩ : k.row = i.row ∧ k.idx = i.idx := by simpa using hkey
      exact List.inj_on_of_nodup_map hnodup hi hk (Prod.ext hrow.symm hidx.symm)
    · rfl
  rw [Pass.putInput, hmap]

/-- A pass whose streams have ended takes nothing more. -/
theorem finishPass_ended {h : Sheet} {p : Pass} (hend : ∀ k ∈ p.inputs, k.ended = true)
    (hnodup : (p.inputs.map fun k => (k.row, k.idx)).Nodup) (op : Token → Payload) : h.finishPass p op = (h, p, []) := by
  rw [Sheet.finishPass]
  have hfold (is : List PassInput) (his : ∀ i ∈ is, i ∈ p.inputs) : is.foldl (fun (q : Sheet × Pass × List Token) i =>
      let y := Taking.finish (mmaOperand p.reply.f i.row) op (q.1.staged.length + 1) ⟨q.1, i, q.2.1.fail, []⟩
      (y.h, { q.2.1.putInput y.i with fail := y.fail }, q.2.2 ++ y.used)) (h, p, []) = (h, p, []) := by
    induction is with
    | nil => rfl
    | cons i is ih =>
      have hi := his i List.mem_cons_self
      rw [List.foldl_cons]
      simp only [finish_ended _ _ _ (x := ⟨h, i, p.fail, []⟩) (hend i hi), putInput_self hnodup hi, List.append_nil]
      exact ih fun k hk => his k (List.mem_cons_of_mem _ hk)
  exact hfold p.inputs fun _ hi => hi

/-- The bank of a pass at its end: its failure poisons it, where the bank is its own (R299). -/
def Sheet.poisoned (h : Sheet) (p : Pass) : Sheet :=
  match p.fail with
  | some c => if p.foreign then h else h.setState p.bank { h.bankState p.bank with poison := some ((h.bankState p.bank).poison.getD c) }
  | none => h

/-- What a pass sends at its end (R299). -/
def Pass.answer (p : Pass) (s : State) (r : Rid) (z : Sender) : State :=
  match p.fail with
  | some c => answerRecord s r z p.reply (if p.foreign then mkCause 7 6 else c) 0
  | none => if p.foreign then answerRecord s r z p.reply (mkCause 7 6) 0 else answerAll s r z p.reply 0

theorem exec_mmaPassComplete (p : Site) (s : State) : exec (.mmaPassComplete p) s = execMmaPassComplete p s := rfl
theorem exec_mdrainComplete (p : Site) (s : State) : exec (.mdrainComplete p) s = execMdrainComplete p s := rfl

/-- The end of a pass whose streams have ended. -/
theorem execMmaPassComplete_ends {s : State} {r : Rid} {l : Launch} {g : Region} {x y : Nat} {h : Sheet} (hr : Runs s r l g)
    (hs : g.sheet? x y = some h) {i : Nat} {ps : Pass} (hdone : h.donePass = some (i, ps)) (hend : ∀ k ∈ ps.inputs, k.ended = true)
    (hnodup : (ps.inputs.map fun k => (k.row, k.idx)).Nodup) :
    let h2 := { h with ops := h.ops.eraseIdx i }.poisoned ps
    execMmaPassComplete ⟨r, x, y⟩ s = .next ((ps.answer (s.putRegion r ((g.putSheet h2).loadRest h2 ps)) r
      (h.sender r.m ps.reply.slot)).settleOps r x y h2.ops.length) := by
  have hany : (ps.inputs.any fun k => !k.ended) = false := by simpa using hend
  rw [execMmaPassComplete]
  simp only [hr.launch, hr.region, hs, hdone, hr.live, hany, Bool.not_true, Bool.and_false, Bool.or_self, Bool.false_eq_true, if_false,
    finishPass_ended hend hnodup, List.filter_nil, List.foldl_nil]
  cases hfail : ps.fail <;> simp only [Sheet.poisoned, Pass.answer, hfail]

/-! ## A drain (R301, R302) -/

section
variable {s : State} {r : Rid} {l : Launch} {g : Region} {x y : Nat} {h : Sheet} {i : Nat} {b : BankOp} (hr : Runs s r l g)
  (hs : g.sheet? x y = some h) (hnext : h.nextDrain = some (i, b))
include hr hs hnext

/-- A drain of a bank of another colour or context is refused. -/
theorem execMdrainComplete_foreign (hd : b.drain = none) (hf : h.foreignTo b = true) :
    execMdrainComplete ⟨r, x, y⟩ s = .next ((answerRecord (s.putRegion r (g.putSheet { h with ops := h.ops.eraseIdx i })) r
      (h.sender r.m b.reply.slot) b.reply (mkCause 7 6) 0).settleOps r x y h.ops.length) := by
  rw [execMdrainComplete]
  simp only [hr.launch, hr.region, hs, hnext, hr.live, Bool.not_true, Bool.false_eq_true, if_false, hd, hf]

/-- A drain of a poisoned bank gives the poison's cause. -/
theorem execMdrainComplete_poisoned (hd : b.drain = none) (hf : h.foreignTo b = false) {c : Cause} (hp : (h.bankState b.bank).poison = some c) :
    let h1 : Sheet := { h with ops := h.ops.eraseIdx i }
    execMdrainComplete ⟨r, x, y⟩ s = .next ((answerRecord (s.putRegion r (g.putSheet
      (if bitAt b.reply.f.xmod 2 then h1.zeroBank b.bank else h1))) r (h.sender r.m b.reply.slot) b.reply c 0).settleOps r x y h.ops.length) := by
  rw [execMdrainComplete]
  simp only [hr.launch, hr.region, hs, hnext, hr.live, Bool.not_true, Bool.false_eq_true, if_false, hd, hf, hp]

/-- A drain pushes what the columns' FIFOs have room for; it ends once nothing is left to push. -/
theorem execMdrainComplete_pushes (hf : h.foreignTo b = false) (hp : (h.bankState b.bank).poison = none) :
    let h1 : Sheet := { h with ops := h.ops.eraseIdx i }
    let pushed := g.pushColumns h (bitsAt b.reply.f.xmod 3 3).toNat 0 (b.drain.getD (g.drainLists h b))
    execMdrainComplete ⟨r, x, y⟩ s = if pushed.2.all List.isEmpty then
        .next ((answerAll (s.putRegion r (pushed.1.putSheet (if bitAt b.reply.f.xmod 2 then h1.zeroBank b.bank else h1))) r
          (h.sender r.m b.reply.slot) b.reply 0).settleOps r x y h.ops.length)
      else .next (s.putRegion r (pushed.1.putSheet { h with ops := h.ops.set i (.bank { b with drain := some pushed.2 }) })) := by
  rw [execMdrainComplete]
  simp only [hr.launch, hr.region, hs, hnext, hr.live, Bool.not_true, Bool.false_eq_true, if_false, hf, hp]
  cases b.drain <;> rfl
end

/-- Settles O53: staging, one k-group, the end of a pass and a drain, each from what its step comes to at the sheet. -/
theorem matrixPassesAccumulateAndDrain : Obligations.MatrixPassesAccumulateAndDrain := by
  unfold Obligations.MatrixPassesAccumulateAndDrain
  intro s r l g x y h hr hs
  refine ⟨?staging, ?group, ?passEnd, ?drain⟩
  case staging =>
    rintro _ _ k rest row idx q hlinks hport rfl rfl t g0 w runs htok hq
    refine ⟨fun hcol hctx hroom => ?_, fun htag hcounted => ?_⟩
    · exact (execStreamTokenStaging_taken hr hlinks hport htok (stageToken_joins (g := g0) hq hcol hctx hroom _)).trans rfl
    · refine (execStreamTokenStaging_taken hr hlinks hport htok (stageToken_fails (g := g0) hq htag _)).trans ?_
      rw [show k.tok.counted = true from hcounted]
      rfl
  case group =>
    intro row col i ps e a b hpass he hrow hcol hwait hforeign hbank hbanks f A B G at' n hprog htwo helems hwest hnorth howner hside hA hB hpa hpb
    obtain ⟨na, nb, hk⟩ := kgroup_adds hpass he hrow hcol hwait hforeign hwest hnorth howner hside hA hB hpa hpb
    refine ⟨_, _, execMmaKgroup_adds hr hs hk, rfl, ?_, rfl, rfl, fun hrow0 hcol0 hn0 =>
      reached_owner ⟨hrow0, hcol0, hn0⟩ (by omega), ?_⟩
    · simp only [List.getD_eq_getElem?_getD, List.getElem?_set_self hprog, Option.getD_some]
      rfl
    intro cbk av bv sa sb old new
    have hnew : new = old.group f e.lat cbk a.pay b.pay ((List.range G).map fun t => (n * G % A.k + t, n * G % B.k + t)) :=
      bank_setBank (h := h.reached ps (row = 0 ∧ col = 0 ∧ n = 0)) (by rw [reached_elems, reached_cs]; exact helems)
        (by rw [reached_elems, reached_cs, htwo]; exact hbank) _
    refine ⟨fun i j hi hj => ⟨fun hf => ?_, fun hf => ?_⟩, fun i hi => ?_⟩
    · rw [hnew, group_acc_int _ _ _ _ _ _ _ hi hj hf, List.map_map]
      rfl
    · rw [hnew, group_acc_float _ _ _ _ _ _ _ hi hj hf, List.map_map]
      rfl
    · rw [hnew, group_rs _ _ _ _ _ _ _ hi, List.map_map]
      rfl
  case passEnd =>
    intro i ps hdone hend hnodup h1 k done z
    have hexec := execMmaPassComplete_ends hr hs hdone hend hnodup
    refine ⟨fun hfail hforeign => ?_, fun hforeign => ?_, fun c hfail hforeign => ?_⟩
    · simp only [Sheet.poisoned, Pass.answer, hfail, hforeign] at hexec
      exact hexec
    · cases hfail : ps.fail <;> simp only [Sheet.poisoned, Pass.answer, hfail, hforeign, if_true] at hexec <;> exact hexec
    · simp only [Sheet.poisoned, Pass.answer, hfail, hforeign] at hexec
      exact hexec
  case drain =>
    intro i b hnext h1 cleared k z done
    refine ⟨fun hd hf => execMdrainComplete_foreign hr hs hnext hd hf, fun c hd hf hp => execMdrainComplete_poisoned hr hs hnext hd hf hp,
      fun hf hp => ?_⟩
    intro pushed
    refine ⟨fun hall => ?_, fun hall => ?_⟩
    · exact (execMdrainComplete_pushes hr hs hnext hf hp).trans (if_pos hall)
    · exact (execMdrainComplete_pushes hr hs hnext hf hp).trans (if_neg (by rw [hall]; decide))

end Sys2Proof.Machine
end

section
/-! SUPPORT. An eviction's step (R326, R261): what the compaction engine's work keeps, and what the step answers. -/

namespace Sys2Proof.Machine

/-! ## What the engine's work keeps -/

/-- The engine's work on memory and views leaves the holds, the registers apart from SLC_BYPASS, and the harts. -/
structure EngineKeeps (s t : State) : Prop where
  kvHolds : t.kvHolds = s.kvHolds
  regs : SameRegs s t
  harts : t.harts = s.harts

theorem EngineKeeps.refl (s : State) : EngineKeeps s s := ⟨rfl, .refl s, rfl⟩

theorem EngineKeeps.trans {s t u : State} (h : EngineKeeps s t) (k : EngineKeeps t u) : EngineKeeps s u :=
  ⟨k.kvHolds.trans h.kvHolds, h.regs.trans k.regs, k.harts.trans h.harts⟩

theorem EngineKeeps.foldl {α : Type} {f : State → α → State} (h : ∀ s a, EngineKeeps s (f s a)) (l : List α) (s : State) :
    EngineKeeps s (l.foldl f s) := by
  induction l generalizing s with
  | nil => exact .refl s
  | cons a l ih => exact (h s a).trans (ih _)

theorem SameButMemory.kvHolds {s t : State} (h : SameButMemory s t) : t.kvHolds = s.kvHolds := by
  have := congrArg State.kvHolds h.rest; exact this

theorem touch_keeps (s : State) (pa : Nat) (write : Bool) : EngineKeeps s (s.touch pa write) :=
  have h := (touch_same s pa write).memory
  ⟨h.kvHolds, touch_regs s pa write, h.harts⟩

theorem poke_keeps (s : State) (pa : Nat) (bs : List Byte) : EngineKeeps s (s.poke pa bs) :=
  have h := poke_same s pa bs
  ⟨h.kvHolds, poke_regs s pa bs, h.harts⟩

theorem peekLines_keeps (s : State) (ls : List Nat) : EngineKeeps s (s.peekLines ls) := .foldl (fun s n => touch_keeps s (128 * n) false) ls s

theorem rangePoke_keeps (v : VRange) (fuel : Nat) (s : State) (off : Nat) (bs : List Byte) : EngineKeeps s (v.poke fuel s off bs) := by
  induction fuel generalizing s off bs with
  | zero => exact .refl s
  | succ n ih =>
    rw [VRange.poke]
    split
    · exact .refl s
    · exact (poke_keeps _ _ _).trans (ih _ _ _)

theorem rangeWrite_keeps (v : VRange) (s : State) (off : Nat) (bs : List Byte) : EngineKeeps s (v.write s off bs) := rangePoke_keeps v 3 s off bs

theorem writeView_keeps (s : State) (bs : List Byte) (copy : Nat → Nat) (v : View) : EngineKeeps s (s.writeView bs copy v) := by
  rw [State.writeView, State.mapRegion]
  split
  · exact .refl s
  · rw [State.putRegion]
    split
    · exact .refl s
    · exact ⟨rfl, sameRegs_of_regs rfl, rfl⟩

theorem refreshViews_keeps (s : State) (e : KvSeq) (v : VRange) : EngineKeeps s (s.refreshViews e v) :=
  .foldl (fun s k => writeView_keeps s _ _ k) _ s

theorem move_keeps (x : Eviction) (d : Nat) (s : State) (n j : Nat) : EngineKeeps s (x.move d s n j) := by
  rw [Eviction.move]
  refine .trans ?_ (rangeWrite_keeps _ _ _ _)
  split
  · exact .refl s
  · exact .foldl (fun s p => rangeWrite_keeps _ s _ _) _ s

/-- The work of an eviction keeps what is not its memory or a view (R326). -/
theorem run_keeps (x : Eviction) (q : Request) (e : KvSeq) (s : State) : EngineKeeps s (x.run q e s).1 := by
  rw [Eviction.run]
  refine .trans ?_ (refreshViews_keeps _ _ _)
  refine .trans ?_ (rangeWrite_keeps _ _ _ _)
  refine .trans ?_ (.foldl (fun s k => rangeWrite_keeps _ s _ _) _ _)
  refine .trans ?_ (rangeWrite_keeps _ _ _ _)
  have hzeroed {f : State → Nat × Nat → State} (hf : ∀ s k, EngineKeeps s (f s k)) (kept : List (Nat × Nat)) (ls dead : List Nat)
      {z : State → Nat → State} (hz : ∀ s k, EngineKeeps s (z s k)) : EngineKeeps s (dead.foldl z (kept.foldl f (s.peekLines ls))) :=
    ((peekLines_keeps s ls).trans (.foldl hf kept _)).trans (.foldl hz dead _)
  split
  · refine .trans (hzeroed (fun s k => move_keeps x _ s _ _) _ _ _ fun s k => rangeWrite_keeps _ s _ _) (rangePoke_keeps _ _ _ _ _)
  · exact hzeroed (fun s k => move_keeps x _ s _ _) _ _ _ fun s k => rangeWrite_keeps _ s _ _

/-! ## What the eviction answers (R326) -/

theorem exec_kvevictCompaction (slice seq : Nat) (s : State) : exec (.kvevictCompaction slice seq) s = execKvevictCompaction slice seq s := rfl

theorem execKvevictCompaction_next (slice seq : Nat) (s : State) : ∃ t, execKvevictCompaction slice seq s = .next t := by
  rw [execKvevictCompaction]
  split <;> exact ⟨_, rfl⟩

/-- A hold in place is worked off in a running package. -/
theorem execKvevictCompaction_holds {slice seq : Nat} {s : State} {k : KvHold} (hpkg : s.pkg = .running)
    (hk : s.kvHolds.find? (fun q => q.slice == slice && q.seq == seq) = some k) :
    execKvevictCompaction slice seq s = .next (s.compact k).serveSys := by
  rw [execKvevictCompaction, hk]
  simp [hpkg]

/-- The access that a hold answers, as it stands in its region. -/
def KvHold.access (k : KvHold) (s : State) : Access := ((s.region? k.r).bind fun g => g.acc? k.acc.id).getD k.acc

/-- The state without a hold. -/
def State.dropHold (s : State) (k : KvHold) : State := { s with kvHolds := s.kvHolds.filter (· != k) }

section
variable {s : State} {k : KvHold}

theorem access_eq (k : KvHold) (s : State) : (match s.region? k.r with
    | some g => (g.acc? k.acc.id).getD k.acc
    | none => k.acc) = k.access s := by
  rw [KvHold.access]
  cases s.region? k.r <;> rfl

/-- An eviction of a sequence that is gone gives 0x8.02. -/
theorem compact_gone (he : s.kvSeqs.find? (fun e => e.pa == k.acc.pas.headD 0) = none) :
    s.compact k = (s.dropHold k).perform k.r (k.access s) (.record (mkCause 8 2)) := by
  rw [← access_eq, State.compact]
  simp only [he]
  rfl

variable {e : KvSeq} (he : s.kvSeqs.find? (fun e => e.pa == k.acc.pas.headD 0) = some e)
include he

/-- An eviction whose last checks fail gives their cause. -/
theorem compact_fails {c : Cause} (hc : s.eviction k.acc e = .error c) : s.compact k = (s.dropHold k).perform k.r (k.access s) (.record c) := by
  rw [← access_eq, State.compact]
  simp only [he, hc]
  rfl

/-- An eviction that runs answers with its payload. -/
theorem compact_runs {x : Eviction} (hx : s.eviction k.acc e = .ok x) :
    s.compact k = (x.run k.acc.req e (s.dropHold k)).1.perform k.r (k.access s) (.all (x.run k.acc.req e (s.dropHold k)).2) := by
  rw [← access_eq, State.compact]
  simp only [he, hx]
  rfl
end

/-- A slot is kept that is SINK or PINNED, lies within W of HIGH, or has at least the mass T (R326). -/
theorem kept_eq (x : Eviction) (s : State) (q : Request) : x.kept s q = (List.range x.live).filter fun j =>
    let w := (x.page (j / 128)).readNat s.mem (0x4200 + 8 * (j % 128)) 8
    decide (w / 8 % 2 = 1 ∨ w / 4 % 2 = 1 ∨ x.v.high s < ((w / 2 ^ 32 + (bitsAt q.a 96 32).toNat : Nat) : Int) ∨
      (bitsAt q.a 128 28).toNat ≤ w / 16 % 2 ^ 28) := by
  rw [Eviction.kept]
  congr 1
  funext j
  simp only [Eviction.keeps, Eviction.meta, Bool.decide_or, Bool.or_assoc]
  rfl

/-- The payload of an eviction: the slots kept, the pages freed, the slots that there were (R326). -/
theorem run_payload (x : Eviction) (q : Request) (e : KvSeq) (s : State) : (x.run q e s).2 =
    lane0 ((x.kept s q).length + 2 ^ 32 * (x.npages - ((x.kept s q).length + 127) / 128) + 2 ^ 96 * x.live) := by
  rw [Eviction.run]
  simp only [List.length_map, List.length_range]

/-- Settles O54: the hold's three ends, and for the last what the engine's work keeps. -/
theorem compactionKeepsItsSlots : Obligations.CompactionKeepsItsSlots := by
  unfold Obligations.CompactionKeepsItsSlots
  refine ⟨fun s slice seq => execKvevictCompaction_next slice seq s, ?_⟩
  intro s slice seq k hpkg hk a s0 q entry
  have hexec := execKvevictCompaction_holds hpkg hk
  refine ⟨fun hgone => ?gone, fun e he => ⟨fun c hc => ?fails, fun x hx => ?runs⟩⟩
  case gone => rw [exec_kvevictCompaction, hexec, compact_gone hgone]; rfl
  case fails => rw [exec_kvevictCompaction, hexec, compact_fails he hc]; rfl
  case runs =>
    intro kept
    have hkept : x.kept (s.dropHold k) q = kept := kept_eq x (s.dropHold k) q
    have hkeeps := run_keeps x q e (s.dropHold k)
    refine ⟨(x.run q e (s.dropHold k)).1, ?_, hkeeps.kvHolds, (sameRegs_of_regs rfl).trans hkeeps.regs, hkeeps.harts⟩
    rw [exec_kvevictCompaction, hexec, compact_runs he hx, run_payload, hkept]
    rfl

end Sys2Proof.Machine
end

section
/-! SUPPORT. Gallery messages at their router (R345, R347 to R351): what each kind of message does where it is the oldest. -/

namespace Sys2Proof.Machine

/-! ## The oldest message -/

/-- The state once its oldest gallery message is taken. -/
def State.afterMsg (s : State) (rest : List GMsg) : State := { s with gmsgs := rest }

theorem takeMsg_head {s : State} {m : GMsg} {rest : List GMsg} (h : s.gmsgs = m :: rest) : s.takeMsg m.id = some (m, s.afterMsg rest) := by
  rw [State.takeMsg, h, takeFirst_cons rest (beq_self_eq_true m.id)]
  rfl

section
variable {s : State} {m : GMsg} {rest : List GMsg} (hm : s.gmsgs = m :: rest) (hpkg : s.pkg = .running)
include hm hpkg

/-- An interest that its router handles. -/
theorem interestArrival_handled {exp : Word32} {room : Nat} {probe : Bool} {trail : List Face} (hb : m.body = .interest exp room probe trail)
    {t : State} (ht : (s.afterMsg rest).handle m exp room probe trail = some t) : exec (.interestArrival m.id) s = .next t := by
  change execInterestArrival m.id s = _
  simp [execInterestArrival, takeMsg_head hm, hb, hpkg, ht]

/-- An interest that finds its router's table full is held (R348). -/
theorem interestArrival_held {exp : Word32} {room : Nat} {probe : Bool} {trail : List Face} (hb : m.body = .interest exp room probe trail)
    (ht : (s.afterMsg rest).handle m exp room probe trail = none) :
    exec (.interestArrival m.id) s = .next { s with gmsgs := rest, gheld := s.gheld ++ [m] } := by
  have hrun : (s.pkg != .running) = false := by simp [hpkg]
  change execInterestArrival m.id s = _
  simp only [execInterestArrival, takeMsg_head hm, hb, hrun, ht]
  rfl
end

/-! ## What a router does with an interest (R347, R348) -/

section
variable {s : State} {m : GMsg} {exp : Word32} {room : Nat} {probe : Bool} {trail : List Face}

/-- An asker's interest that the entry router refuses is answered with the cause. -/
theorem handle_asker_refused {q : Rid} {ax ay ch : Nat} {num : Word32} {c : Cause} (hs : m.sender = .asker q ax ay ch num)
    (hc : s.entryCheck m room = .error c) : s.handle m exp room probe trail = some (s.answerAsker q ax ay ch num (.cause c)) := by
  simp [State.handle, hs, hc, State.sendNegative]

/-- What the entry router checks of an asker's interest for a name that a declaration holds. -/
theorem entryCheck_asker_declared {q : Rid} {ax ay ch : Nat} {num : Word32} {e : Route} (hs : m.sender = .asker q ax ay ch num)
    (he : s.routeOf m.name = some e) : s.entryCheck m room =
      if e.world ≠ m.world then .error (mkCause 9 4) else if room < e.size then .error (mkCause 9 6) else .ok (e.prod, none) := by
  simp [State.entryCheck, hs, he]

/-- A name that no declaration holds and that no external route names is unknown. -/
theorem entryCheck_asker_unknown {q : Rid} {ax ay ch : Nat} {num : Word32} (hs : m.sender = .asker q ax ay ch num)
    (he : s.routeOf m.name = none) (hx : s.extRoute m.world m.name = none) : s.entryCheck m room = .error (mkCause 9 2) := by
  simp [State.entryCheck, hs, he, hx]

variable {k : Nat} (hs : m.sender = .router k)
include hs

/-- A router that holds the tile sends it back (R347). -/
theorem handle_router_held {t : GTile} (ht : s.tileAt m.router m.world m.name = some t) : s.handle m exp room probe trail =
    some ((s.touchTile t).sendTile m.router m.prod m.world m.name t.bytes m.sender trail) := by
  simp [State.handle, hs, ht]

/-- An interest that comes too late is answered with EXPIRED (R347). -/
theorem handle_router_expired (ht : s.tileAt m.router m.world m.name = none) (hx : s.expired exp = true) :
    s.handle m exp room false trail = some (s.sendNegative m.router m.prod m.world m.name (mkCause 9 1) m.sender trail) := by
  simp [State.handle, hs, ht, hx]

/-- Away from the producer an interest that has not expired is recorded. -/
theorem handle_router_recorded (ht : s.tileAt m.router m.world m.name = none) (hx : s.expired exp = false) (hp : m.router ≠ m.prod) :
    s.handle m exp room false trail = s.record m exp room := by
  simp [State.handle, hs, ht, hx, hp]
  rw [← hs]
end

/-! ## Recording an interest (R345, R348) -/

section
variable {s : State} {m : GMsg} {exp : Word32} {room : Nat}

theorem full_of_chain {p : Pit} {front : List (List Face)} {last : List Face} (hc : p.chain = front ++ [last]) :
    p.full = decide (8 ≤ last.length) := by
  simp [Pit.full, hc]

/-- A face joins the last entry of a chain that has room for it (R345). -/
theorem add_room {p : Pit} {front : List (List Face)} {last : List Face} (hc : p.chain = front ++ [last]) (hl : last.length < 8) (f : Face) :
    p.add f = { p with chain := front ++ [last ++ [f]] } := by
  have hfull : p.full = false := by rw [full_of_chain hc]; simpa using hl
  simp [Pit.add, hfull, hc]

/-- A face begins an entry of its own where the last one of the chain is full (R345). -/
theorem add_full {p : Pit} {front : List (List Face)} {last : List Face} (hc : p.chain = front ++ [last]) (hl : 8 ≤ last.length) (f : Face) :
    p.add f = { p with chain := p.chain ++ [[f]] } := by
  have hfull : p.full = true := by rw [full_of_chain hc]; simpa using hl
  simp [Pit.add, hfull]

/-- An interest that expires no later than those of its entry is merged into it (R348). -/
theorem record_merges {p : Pit} (hp : s.pit? m.router m.world m.name = some p) (hroom : p.full = false ∨ s.pitUse m.router < 1024)
    (hexp : later exp p.upexp = false) : s.record m exp room = some (s.putPit (p.add ⟨m.sender, exp⟩)) := by
  have hfits : (p.full && decide (s.pitUse m.router ≥ 1024)) = false := by
    rcases hroom with h | h
    · rw [h, Bool.false_and]
    · rw [decide_eq_false (by omega), Bool.and_false]
  rw [State.record, hp]
  simp only [hfits, hexp, Bool.false_eq_true, if_false]
  rfl

/-- Without an entry an interest makes one and goes on along its path (R348). -/
theorem record_new (hp : s.pit? m.router m.world m.name = none) (huse : s.pitUse m.router < 1024) : s.record m exp room =
    some (State.forward { s with pits := s.pits ++ [⟨m.router, m.world, m.name, m.prod, exp, [[⟨m.sender, exp⟩]]⟩] } m exp room false []) := by
  rw [State.record, hp]
  exact if_neg (by omega)

/-- A full table takes no further entry (R348). -/
theorem record_full (huse : 1024 ≤ s.pitUse m.router) (hp : ∀ p, s.pit? m.router m.world m.name = some p → p.full = true) :
    s.record m exp room = none := by
  rw [State.record]
  split
  · next p heq => simp [hp p heq, huse]
  · exact if_pos huse

/-- Away from the producer an interest goes to the next router of its path (R346). -/
theorem forward_on (hp : m.router ≠ m.prod) (probe : Bool) (trail : List Face) : s.forward m exp room probe trail =
    s.gsend { m with router := nextRouter m.router m.prod, sender := .router m.router, body := .interest exp room probe trail } := if_neg hp
end

/-! ## Refreshes, tiles and negative answers (R349 to R351) -/

/-- The state in which the held interests of a refresh's sender have its expiry (R348). -/
def State.extendHeld (s : State) (m : GMsg) (exp : Word32) : State :=
  { s with gheld := s.gheld.map fun k => if k.refreshedBy m then k.extend exp else k }

/-- A pending entry in which the face of a refresh's sender has its expiry (R349). -/
def Pit.refreshed (p : Pit) (who : FaceTo) (exp : Word32) : Pit := { p with
  chain := p.chain.map (List.map fun f => if f.who == who then { f with exp := exp } else f)
  upexp := if later exp p.upexp then exp else p.upexp }

theorem refreshed_eq (p : Pit) (who : FaceTo) (exp : Word32) : p.refreshed who exp = { p with
    chain := p.chain.map fun e => e.map fun f => if f.who = who then { f with exp := exp } else f
    upexp := if later exp p.upexp then exp else p.upexp } := by
  simp [Pit.refreshed]

section
variable {s : State} {m : GMsg} {rest : List GMsg} (hm : s.gmsgs = m :: rest) (hpkg : s.pkg = .running)
include hm hpkg

/-- The oldest message, a refresh, reaches the held interests, and its face where its router has an entry (R348, R349). -/
theorem interestRefresh_eq {exp : Word32} (hb : m.body = .refresh exp) :
    exec (.interestRefresh m.id) s = .next (match ((s.afterMsg rest).extendHeld m exp).pit? m.router m.world m.name with
      | none => (s.afterMsg rest).extendHeld m exp
      | some p =>
        let t := ((s.afterMsg rest).extendHeld m exp).putPit (p.refreshed m.sender exp)
        if later exp p.upexp then t.refreshOn { m with prod := p.prod } exp else t) := by
  have hrun : (s.pkg != .running) = false := by simp [hpkg]
  have hfirst : (s.gmsgs.takeWhile fun k => k.id != m.id) = [] := by simp [hm]
  change execInterestRefresh m.id s = _
  simp only [execInterestRefresh, takeMsg_head hm, hb, hrun, hfirst, List.any_nil]
  rfl

/-- A refresh of a name without an entry reaches the held interests only. -/
theorem interestRefresh_no_entry {exp : Word32} (hb : m.body = .refresh exp) (hp : s.pit? m.router m.world m.name = none) :
    exec (.interestRefresh m.id) s = .next ((s.afterMsg rest).extendHeld m exp) := by
  have hp' : ((s.afterMsg rest).extendHeld m exp).pit? m.router m.world m.name = none := hp
  rw [interestRefresh_eq hm hpkg hb, hp']

/-- A refresh at the producer's router lengthens its face (R349). -/
theorem interestRefresh_at_producer {exp : Word32} (hb : m.body = .refresh exp) {p : Pit} (hp : s.pit? m.router m.world m.name = some p)
    (hprod : m.router = p.prod) :
    exec (.interestRefresh m.id) s = .next (((s.afterMsg rest).extendHeld m exp).putPit (p.refreshed m.sender exp)) := by
  have hp' : ((s.afterMsg rest).extendHeld m exp).pit? m.router m.world m.name = some p := hp
  have hon (t : State) : t.refreshOn { m with prod := p.prod } exp = t := if_pos hprod
  simp only [interestRefresh_eq hm hpkg hb, hp', hon, ite_self]

/-- A tile that no probe asked for is kept and serves its entry (R351). -/
theorem tileArrival_serves {bs : List Byte} (hb : m.body = .tile bs []) : exec (.tileArrival m.id) s =
    .next ((if m.router = m.prod then s.afterMsg rest else (s.afterMsg rest).keepCopy m.router m.world m.name bs).serve
      m.router m.world m.name bs) := by
  change execTileArrival m.id s = _
  simp [execTileArrival, takeMsg_head hm, hb, hpkg]

/-- A negative answer that no probe asked for goes to its entry (R351). -/
theorem negativeArrival_refuses {c : Cause} (hb : m.body = .negative c []) {p : Pit} (hp : s.pit? m.router m.world m.name = some p) :
    exec (.negativeAnswerArrival m.id) s = .next ((s.afterMsg rest).refusePit p c) := by
  have hp' : (s.afterMsg rest).pit? m.router m.world m.name = some p := hp
  change execNegativeAnswerArrival m.id s = _
  simp [execNegativeAnswerArrival, takeMsg_head hm, hb, hpkg, hp']
end

/-- A copy of a tile leaves the pending entries as they are. -/
@[simp] theorem keepCopy_pit? (s : State) (r : Nat) (w : BitVec 8) (n : Word64) (bs : List Byte) (q : Nat) (v : BitVec 8) (a : Word64) :
    (s.keepCopy r w n bs).pit? q v a = s.pit? q v a := by
  rw [State.keepCopy, State.storeTile]
  split
  · rfl
  · cases evict r (s.storeSize r) bs.length _ _ <;> rfl

/-- A tile without waiting faces serves none. -/
theorem serve_none {s : State} {r : Nat} {w : BitVec 8} {n : Word64} (hp : s.pit? r w n = none) (bs : List Byte) : s.serve r w n bs = s := by
  rw [State.serve, hp]

/-- A tile serves its entry's faces in order, but those that have expired, and frees the entry (R350, R351). -/
theorem serve_some {s : State} {r : Nat} {w : BitVec 8} {n : Word64} {p : Pit} (hp : s.pit? r w n = some p) (bs : List Byte) :
    s.serve r w n bs =
      p.faces.foldl (fun u f => if u.expired f.exp then u.expireFace f else u.sendTile r p.prod w n bs f.who []) (s.dropPit p) := by
  rw [State.serve, hp]

/-- An entry that is found is its router's, for its world and name. -/
theorem pit?_names {s : State} {r : Nat} {w : BitVec 8} {n : Word64} {p : Pit} (hp : s.pit? r w n = some p) :
    p.router = r ∧ p.world = w ∧ p.name = n := by
  simpa [and_assoc] using List.find?_some hp

/-! ## A held interest and an expired face (R348, R350) -/

/-- The oldest held interest that its router can handle now. -/
theorem interestRetry_handled {s : State} {m : GMsg} {rest : List GMsg} (hm : s.gheld = m :: rest) (hpkg : s.pkg = .running)
    {exp : Word32} {room : Nat} {probe : Bool} {trail : List Face} (hb : m.body = .interest exp room probe trail) {t : State}
    (ht : State.handle { s with gheld := rest } m exp room probe trail = some t) : exec (.interestRetry m.router) s = .next t := by
  have hrun : (s.pkg != .running) = false := by simp [hpkg]
  change execInterestRetry m.router s = _
  have hfirst : takeFirst (fun k => k.router == m.router) s.gheld = some (m, rest) := by
    rw [hm]
    exact takeFirst_cons rest (beq_self_eq_true m.router)
  simp only [execInterestRetry, hfirst, hb, hrun, ht]
  rfl

/-- An expired face goes from its entry, and its asker is told (R350). -/
theorem faceExpiry_drops {s : State} {r i j : Nat} {p : Pit} {f : Face} (hpkg : s.pkg = .running)
    (hp : (s.pits.filter fun p => p.router == r)[i]? = some p) (hf : p.faces[j]? = some f) (hx : s.expired f.exp = true) :
    exec (.faceExpiry r i j) s = .next ((s.dropFaces p fun k => k == f).expireFace f) := by
  change execFaceExpiry r i j s = _
  simp [execFaceExpiry, hp, hf, hpkg, hx]

/-- Without one of its faces an entry stays, or goes where no face is left. -/
theorem dropFaces_one (s : State) (p : Pit) (f : Face) : (s.dropFaces p fun k => k == f) =
    if ({ p with chain := p.chain.map fun e => e.filter fun k => k ≠ f } : Pit).faces = [] then s.dropPit p
    else s.putPit { p with chain := p.chain.map fun e => e.filter fun k => k ≠ f } := by
  have hother : (fun k : Face => !(k == f)) = fun k => decide (k ≠ f) := by
    funext k
    by_cases hk : k = f <;> simp [hk]
  rw [State.dropFaces, hother]
  simp [Pit.keep, Pit.spent]

/-- Settles O55: each message by what its router finds, the held interest by the same rule, and the expired face. -/
theorem galleryMessagesAreHandled : Obligations.GalleryMessagesAreHandled := by
  unfold Obligations.GalleryMessagesAreHandled
  intro s m rest hpkg w n r
  refine ⟨?arrivals, ?retry, ?expiry⟩
  case arrivals =>
    intro hm s1
    refine ⟨?interest, ?refresh, ?tile, ?negative⟩
    case interest =>
      intro exp room probe trail hb does
      refine ⟨?asker, ?router⟩
      case asker =>
        intro q ax ay ch num hs no
        have hno {c : Nat} (hc : s1.entryCheck m room = .error (mkCause 9 c)) : no c :=
          interestArrival_handled hm hpkg hb (handle_asker_refused hs hc)
        refine ⟨fun hroute hext => hno (entryCheck_asker_unknown hs hroute hext), fun e he => ?_⟩
        have hcheck := entryCheck_asker_declared (s := s1) (room := room) hs he
        exact ⟨fun hworld => hno (hcheck.trans (if_pos hworld)),
          fun hworld hsize => hno (hcheck.trans ((if_neg (not_not.mpr hworld)).trans (if_pos hsize)))⟩
      case router =>
        intro k hs
        refine ⟨fun t ht => interestArrival_handled hm hpkg hb (handle_router_held hs ht), fun ht hprobe => ?_⟩
        subst hprobe
        refine ⟨fun hx => interestArrival_handled hm hpkg hb (handle_router_expired hs ht hx), fun hx hprod => ?_⟩
        have hrec : s1.handle m exp room false trail = s1.record m exp room := handle_router_recorded hs ht hx hprod
        refine ⟨fun p front last hp hchain hexp => ⟨fun hl => ?_, fun hl huse => ?_, fun hl huse => ?_⟩, fun hp huse => ?_, fun hp huse => ?_⟩
        · refine interestArrival_handled hm hpkg hb (hrec.trans ?_)
          rw [record_merges (s := s1) hp (.inl (by rw [full_of_chain hchain]; simpa using hl)) hexp, add_room hchain hl]
        · refine interestArrival_handled hm hpkg hb (hrec.trans ?_)
          rw [record_merges (s := s1) hp (.inr huse) hexp, add_full hchain hl]
        · refine interestArrival_held hm hpkg hb (hrec.trans (record_full huse fun p' hp' => ?_))
          obtain rfl : p = p' := Option.some.inj (hp.symm.trans hp')
          rw [full_of_chain hchain]; simpa using hl
        · refine interestArrival_handled hm hpkg hb (hrec.trans ?_)
          rw [record_new (s := s1) hp huse, forward_on hprod]
          rfl
        · refine interestArrival_held hm hpkg hb (hrec.trans (record_full huse fun p' hp' => ?_))
          exact absurd (hp.symm.trans hp') nofun
    case refresh =>
      intro exp hb s2
      refine ⟨fun hp => interestRefresh_no_entry hm hpkg hb hp, fun p hp hprod => ?_⟩
      rw [interestRefresh_at_producer hm hpkg hb hp hprod, refreshed_eq]
      rfl
    case tile =>
      intro bs hb kept
      have hpit : kept.pit? r w n = s.pit? r w n := by
        by_cases hprod : r = m.prod
        · simp only [kept, if_pos hprod]; rfl
        · simp only [kept, if_neg hprod]; exact keepCopy_pit? ..
      refine ⟨fun hp => ?_, fun p hp => ?_⟩
      · exact (tileArrival_serves hm hpkg hb).trans (congrArg _ (serve_none (hpit.trans hp) bs))
      · exact (tileArrival_serves hm hpkg hb).trans (congrArg _ (serve_some (hpit.trans hp) bs))
    case negative =>
      intro c p hb hp
      obtain ⟨hr, hw, hn⟩ := pit?_names hp
      rw [negativeArrival_refuses hm hpkg hb hp, State.refusePit, hr, hw, hn]
      rfl
  case retry =>
    intro exp room probe trail k t hm hb hs ht
    exact interestRetry_handled hm hpkg hb (handle_router_held hs ht)
  case expiry =>
    intro i j p f hp hf hx q left
    have hstep := faceExpiry_drops hpkg hp hf hx
    rw [dropFaces_one] at hstep
    refine ⟨?_, ?_⟩
    · intro q' ax ay ch num hwho
      rw [hstep, State.expireFace, hwho]
      rfl
    · intro k hwho
      rw [hstep, State.expireFace]
      rcases hwho with hwho | hwho <;> rw [hwho]

end Sys2Proof.Machine
end

section
/-! SUPPORT. Launches: freezing, the scan, the release, the drain, the restore and the seal generations (R379 to R386, R405). -/

namespace Sys2Proof.Machine

variable {s : State} {h : Word32} {l : Launch}

/-! ## Freezing (R379) -/

/-- A launch as its freeze leaves it: its sheets have finished, and no cause and no hart waits. -/
def Launch.freezeBy (l : Launch) (by' : Option (Cause × Word32)) : Launch := { l with
  state := .frozen
  causes := []
  freezeReq := false
  freezeWaiters := []
  drainFrom := none
  scanned := false
  scanTried := false
  members := l.members.map Region.finishLanes
  frozenBy := by' }

/-- A running launch without a purge that is to freeze is frozen by its first cause, and its causes are recorded in order. -/
theorem execRegionFreeze_freezes (hpkg : s.pkg = .running) (hl : s.launch? h = some l) (hstate : l.state = .running) (hpurges : l.purges = [])
    (hdue : (l.causes.isEmpty && !l.freezeReq) = false) : execRegionFreeze h s =
      .next (((l.causes.foldl (fun a c => insertCause l c a) []).foldl (fun s c => s.deliverCause l c) (s.putLaunch (l.freezeBy
        (((l.causes.foldl (fun a c => insertCause l c a) []).head?.map fun c => (c.cause, s.seqNo)).or l.frozenBy)))).wakeFreezers l 0) := by
  have hlive : s.live l = true := by simp [State.live, hstate, hpkg]
  have hgo : (!s.live l || !l.purges.isEmpty || (l.causes.isEmpty && !l.freezeReq)) = false := by simp [hlive, hpurges, hdue]
  simp only [execRegionFreeze, hl, hgo]
  rfl

/-- The record of a cause in a member. -/
theorem deliverCause_member {c : FreezeCause} {g : Region} (hg : l.members[c.m]? = some g) (t : State) : t.deliverCause l c =
    t.deliver { siteFault t l g (g.tagWorld c.tag) c.cause 2 c.x c.y c.slot c.side c.tag c.extra with cycle := c.cycle } := by
  simp only [State.deliverCause, causeRecord, hg]
  rfl

/-! ## The scan (R380, R261) -/

section
variable (hpkg : s.pkg = .running) (hl : s.launch? h = some l) (hstate : l.state = .frozen) (hscan : l.scanned = false) (htried : l.scanTried = false)
include hpkg hl hstate hscan htried

/-- What the scan of a frozen launch does by the room in its world's pool. -/
theorem execSnapshotScan_eq : execSnapshotScan h s = match s.allocAreas l with
    | none => .next (match l.members[0]? with
      | some g => (s.putLaunch { l with scanTried := true }).deliver (regionFault s l g l.world (mkCause 14 2) 0 0 0)
      | none => s.putLaunch { l with scanTried := true })
    | some areas => if s.areasWait areas then .next s else
      .next (if l.toSaved then (s.writeSnaps l 0 areas).saveLaunch { l with scanned := true, areas := areas }
        else (s.writeSnaps l 0 areas).putLaunch { l with scanned := true, areas := areas }) := by
  have hgo : (s.pkg != .running || l.state != .frozen || l.scanned || l.scanTried) = false := by simp [hpkg, hstate, hscan, htried]
  simp only [execSnapshotScan, hl, hgo]
  cases s.allocAreas l <;> rfl

theorem execSnapshotScan_no_room {g : Region} (hroom : s.allocAreas l = none) (hg : l.members[0]? = some g) : execSnapshotScan h s =
    .next ((s.putLaunch { l with scanTried := true }).deliver (regionFault s l g l.world (mkCause 14 2) 0 0 0)) := by
  rw [execSnapshotScan_eq hpkg hl hstate hscan htried, hroom, hg]

theorem execSnapshotScan_waits {areas : List (Nat × Nat)} (hroom : s.allocAreas l = some areas) (hwait : s.areasWait areas = true) :
    execSnapshotScan h s = .next s := by
  rw [execSnapshotScan_eq hpkg hl hstate hscan htried, hroom]
  exact if_pos hwait

theorem execSnapshotScan_scans {areas : List (Nat × Nat)} (hroom : s.allocAreas l = some areas) (hwait : s.areasWait areas = false) :
    execSnapshotScan h s = .next (if l.toSaved then (s.writeSnaps l 0 areas).saveLaunch { l with scanned := true, areas := areas }
      else (s.writeSnaps l 0 areas).putLaunch { l with scanned := true, areas := areas }) := by
  rw [execSnapshotScan_eq hpkg hl hstate hscan htried, hroom]
  exact if_neg (by simp [hwait])
end

/-! ## The release (R382) -/

/-- A trusted store at PKG_RELEASE releases the launch that it names. -/
theorem actAt_release {b : BusStore} (hb : s.bus = some b) (htrust : b.a.trust = true) (hsize : b.size = 8) (hpa : b.pa = 0x9000000008000) :
    s.discards = some (bitAt b.value 32) ∧ s.actAt (· == 0x8000) = s.release b.value := by
  have haction : s.action? = some (b, 0x8000) := by simp [State.action?, hb, htrust, hsize, hpa, pkgOffset]
  have hkeep : b.value &&& regKeep 0x8000 = b.value := by
    have : regKeep 0x8000 = BitVec.allOnes 64 := by decide
    rw [this, BitVec.and_allOnes]
  refine ⟨by rw [State.discards, haction]; rfl, ?_⟩
  rw [State.actAt, haction]
  change (s.regStore b.a 0x8000 b.value).getD s = _
  rw [State.regStore, hkeep]
  rfl

/-- The launch that a release without a discard finds frozen is saved once it is scanned (R382). -/
theorem release_saves {v : Word64} (hl : s.launch? (bitsAt v 0 32) = some l) (hbit : bitAt v 32 = false) (hstate : l.state = .frozen)
    (hdead : l.hwDead = false) : s.release v = if l.scanned then s.saveLaunch l else s.putLaunch { l with toSaved := true } := by
  simp [State.release, hl, hbit, hstate, hdead]

/-- A frozen or saved launch is discarded where bit 32 is set (R382). -/
theorem release_discards {v : Word64} (hl : s.launch? (bitsAt v 0 32) = some l) (hbit : bitAt v 32 = true)
    (hstate : l.state = .frozen ∨ l.state = .saved) : s.release v = s.discard l := by
  rcases hstate with hstate | hstate <;> simp [State.release, hl, hbit, hstate]

/-- A discarded launch is retired without a token, and none of its tokens is left at a station (R382). -/
theorem discard_leaves (hl : s.launch? h = some l) : ∃ l', (s.discard l).launch? h = some l' ∧ l'.state = .retired ∧
    l'.closedSpans = l.openSpan + 1 ∧ l'.results = [] ∧ (s.discard l).mem = s.mem ∧ (∀ k ∈ (s.discard l).stnToks, k.h ≠ l.handle) ∧
    ∀ g ∈ l'.members, g.links = [] ∧ g.ctxReqs = [] ∧ (∀ e ∈ g.elems, e.store = [] ∧ e.ready = [] ∧ e.out = []) ∧ ∀ p ∈ g.ports, p.queue = [] := by
  have hframe := wakeFreezers_frame { s with stnToks := s.stnToks.filter fun k => k.h != l.handle }
    { l with members := l.members.map Region.emptied, spanReplies := [], purges := [] } 4
  have hh : l.handle = h := launch?_handle hl
  have hmem := congrArg State.mem hframe
  have htoks := congrArg State.stnToks hframe
  have hlaunches := congrArg State.launches hframe
  unfold State.discard State.retire
  simp only at hmem htoks hlaunches ⊢
  refine ⟨_, launch?_putLaunch_same (l := l) (by rw [State.launch?, hlaunches]; exact hl) hh, rfl, rfl, rfl, hmem, ?toks, ?members⟩
  case toks =>
    intro k hk
    have hk' : k ∈ s.stnToks.filter fun k => k.h != l.handle := htoks ▸ hk
    simpa using (List.mem_filter.mp hk').2
  case members => simp [Region.emptied]

/-! ## The drain (R385, R386) -/

section
variable {from' : Nat} (hdrain : l.drainFrom = some from') (hpkg : s.pkg = .running) (hl : s.launch? h = some l) (hstate : l.state = .running)
  (hfrozen : l.frozenBy = none)
include hdrain hpkg hl hstate hfrozen

/-- A drain that has settled for 64 cycles saves its launch (R385). -/
theorem execPreemptDrain_saves {areas : List (Nat × Nat)} (hpurges : l.purges = []) (hcauses : l.causes = [])
    (hquiet : ∀ g ∈ l.members, from' + 64 ≤ s.cycle ∧ g.quietFor + 64 ≤ s.cycle) (hroom : s.allocAreas l = some areas)
    (hwait : s.areasWait areas = false) : execPreemptDrain h s =
      .next ((s.writeSnaps { l with members := l.members.map Region.drained } 1 areas).saveLaunch
        { l with members := l.members.map Region.drained, areas := areas }) := by
  have hlive : s.live l = true := by simp [State.live, hstate, hpkg]
  have hgo : (!s.live l || !l.purges.isEmpty || !l.causes.isEmpty || l.frozenBy.isSome ||
      !l.members.all fun g => decide (from' + 64 ≤ s.cycle ∧ g.quietFor + 64 ≤ s.cycle)) = false := by
    have hall : (l.members.all fun g => decide (from' + 64 ≤ s.cycle ∧ g.quietFor + 64 ≤ s.cycle)) = true :=
      List.all_eq_true.mpr fun g hg => decide_eq_true (hquiet g hg)
    rw [hlive, hpurges, hcauses, hfrozen, hall]
    rfl
  simp only [execPreemptDrain, hl, hdrain, hgo, hroom, hwait]
  rw [← hfrozen]
  rfl

/-- A drain that has not settled after 2^16 cycles is recorded, and its launch is to freeze (R386). -/
theorem execDrainTimeout_records {g : Region} (hg : l.members[0]? = some g) (hlate : from' + 65536 ≤ s.cycle) : execDrainTimeout h s =
    .next ((s.putLaunch { l with freezeReq := true, frozenBy := some (mkCause 14 4, s.seqNo) }).deliver
      (regionFault s l g l.world (mkCause 14 4) 0 0 0)) := by
  have hlive : s.live l = true := by simp [State.live, hstate, hpkg]
  have hgo : (s.live l && l.frozenBy.isNone && decide (from' + 65536 ≤ s.cycle)) = true := by rw [hlive, hfrozen, decide_eq_true hlate]; rfl
  simp only [execDrainTimeout, hl, hdrain, hg, hgo]
  rfl
end

/-! ## The restore (R383, R384) -/

/-- The state once the areas of a restore have been read. -/
def State.peekAreas (s : State) (areas : List (Nat × Nat)) : State := areas.foldl (fun s a => s.peek a.1 a.2) s

section
variable (hpkg : s.pkg = .running) (hl : s.launch? h = some l) (hstate : l.state = .loading) (hscan : l.scanned = true)
  (hwait : s.areasWait l.areas = false)
include hpkg hl hstate hscan hwait

/-- What the restore of a placed launch does by what its areas give. -/
theorem execRegionRestore_eq : execRegionRestore h s = match (s.peekAreas l.areas).restored l (l.members.zip l.areas) with
    | none => .next (match l.members[0]? with
      | some g => ((s.peekAreas l.areas).saveLaunch l).deliver (regionFault (s.peekAreas l.areas) l g l.world (mkCause 14 5) 0 0 0)
      | none => s.peekAreas l.areas)
    | some ms => .next (((((s.peekAreas l.areas).putLaunch
      { l with state := .running, members := ms, scanned := false, areas := [], frozenBy := none }).rewriteViews h).releaseBrk h).bumpLayout) := by
  have hgo : (l.state != .loading || !l.scanned || s.pkg != .running || s.areasWait l.areas) = false := by simp [hpkg, hstate, hscan, hwait]
  simp only [execRegionRestore, hl, hgo]
  rfl

theorem execRegionRestore_refused {g : Region} (hno : (s.peekAreas l.areas).restored l (l.members.zip l.areas) = none)
    (hg : l.members[0]? = some g) : execRegionRestore h s =
      .next (((s.peekAreas l.areas).saveLaunch l).deliver (regionFault (s.peekAreas l.areas) l g l.world (mkCause 14 5) 0 0 0)) := by
  rw [execRegionRestore_eq hpkg hl hstate hscan hwait, hno, hg]

theorem execRegionRestore_restores {ms : List Region} (hms : (s.peekAreas l.areas).restored l (l.members.zip l.areas) = some ms) :
    execRegionRestore h s = .next (((((s.peekAreas l.areas).putLaunch
      { l with state := .running, members := ms, scanned := false, areas := [], frozenBy := none }).rewriteViews h).releaseBrk h).bumpLayout) := by
  rw [execRegionRestore_eq hpkg hl hstate hscan hwait, hms]
end

/-! ## Seal generations (R405) -/

/-- What a due advance of a running launch's seal generation does by what it finds. -/
theorem execSealAdvance_eq (hpkg : s.pkg = .running) (hl : s.launch? h = some l) (hstate : l.state = .running)
    (hdue : l.sl.waiting ≠ none ∨ l.sl.atMax = true) (hclear : l.sl.prevClear = true) (hspent : l.sl.spent = false) :
    execSealAdvance h s = match (s.advanceSeal l).2 with
      | some z => .next ((s.advanceSeal l).1.putLaunch { l with sl := { z with granted := l.sl.waiting, waiting := none } })
      | none => .next (((s.advanceSeal l).1.putLaunch { l with sl := { l.sl with spent := true } }).sealSpent l) := by
  have hlive : s.live l = true := by simp [State.live, hstate, hpkg]
  have hneed : (l.sl.waiting.isSome || l.sl.atMax) = true := by
    rcases hdue with hwaiting | hmax
    · rw [Option.isSome_iff_ne_none.mpr hwaiting, Bool.true_or]
    · rw [hmax, Bool.or_true]
  have hgo : (!s.live l || !(l.sl.waiting.isSome || l.sl.atMax) || !l.sl.prevClear || l.sl.spent) = false := by
    rw [hlive, hneed, hclear, hspent]
    rfl
  simp only [execSealAdvance, hl, hgo]
  rfl

end Sys2Proof.Machine
end

section
/-! SUPPORT. O57 assembled. -/

namespace Sys2Proof.Machine

/-- Settles O57: one equation for each step of a launch's life, and what a discard leaves. -/
theorem launchesFreezeSaveAndRestore : Obligations.LaunchesFreezeSaveAndRestore := by
  unfold Obligations.LaunchesFreezeSaveAndRestore
  intro s h l hpkg hl
  refine ⟨?freeze, ?scan, ?release, ?drain, ?timeout, ?restore, ?advance⟩
  case freeze =>
    intro hstate hpurges frozen
    refine ⟨fun hcauses hreq => ?_, ?_⟩
    · have hstep := execRegionFreeze_freezes hpkg hl hstate hpurges (by simp [hreq])
      rw [hcauses] at hstep
      exact hstep
    · intro c g hcauses hg u
      have hstep := execRegionFreeze_freezes hpkg hl hstate hpurges (by simp [hcauses])
      rw [hcauses] at hstep
      refine hstep.trans ?_
      change Host.Outcome.next ((u.deliverCause l c).wakeFreezers l 0) = _
      rw [deliverCause_member hg]
  case scan =>
    intro hstate hscan htried
    refine ⟨?_, fun areas hroom hwait => execSnapshotScan_waits hpkg hl hstate hscan htried hroom hwait, ?_⟩
    · intro g hroom hg u
      exact execSnapshotScan_no_room hpkg hl hstate hscan htried hroom hg
    · intro areas hroom hwait u l'
      have hstep := execSnapshotScan_scans hpkg hl hstate hscan htried hroom hwait
      exact ⟨fun hsaved => hstep.trans (congrArg _ (if_neg (by simp [hsaved]))), fun hsaved => hstep.trans (congrArg _ (if_pos hsaved))⟩
  case release =>
    intro b hb htrust hsize hpa hh
    obtain ⟨hdiscards, hact⟩ := actAt_release hb htrust hsize hpa
    rw [← hh] at hl
    refine ⟨fun hbit hstate hdead => ?_, fun hbit hstate => ?_⟩
    · have hstep : exec .pkgReleaseSave s = .next (if l.scanned then s.saveLaunch l else s.putLaunch { l with toSaved := true }) := by
        change Host.Outcome.next (if s.discards = some false then s.actAt (· == 0x8000) else s) = _
        rw [if_pos (hdiscards.trans (congrArg _ hbit)), hact, release_saves hl hbit hstate hdead]
      exact ⟨fun hscan => hstep.trans (congrArg _ (if_pos hscan)), fun hscan => hstep.trans (congrArg _ (if_neg (by simp [hscan])))⟩
    · obtain ⟨l', hl', hleft⟩ := discard_leaves hl
      refine ⟨s.discard l, l', ?_, hh ▸ hl', hleft⟩
      change Host.Outcome.next (if s.discards = some true then s.actAt (· == 0x8000) else s) = _
      rw [if_pos (hdiscards.trans (congrArg _ hbit)), hact, release_discards hl hbit hstate]
  case drain =>
    intro from' areas hdrain hstate hpurges hcauses hfrozen hquiet hroom hwait l1
    exact execPreemptDrain_saves hdrain hpkg hl hstate hfrozen hpurges hcauses hquiet hroom hwait
  case timeout =>
    intro from' g hdrain hstate hg hlate hfrozen u
    exact execDrainTimeout_records hdrain hpkg hl hstate hfrozen hg hlate
  case restore =>
    intro hstate hscan hwait u
    exact ⟨fun g hno hg => execRegionRestore_refused hpkg hl hstate hscan hwait hno hg,
      fun ms hms => execRegionRestore_restores hpkg hl hstate hscan hwait hms⟩
  case advance =>
    intro hstate hdue hclear hspent u
    have hstep := execSealAdvance_eq hpkg hl hstate hdue hclear hspent
    refine ⟨fun z hz => ?_, fun hz => ?_⟩ <;> rw [hz] at hstep <;> exact hstep

end Sys2Proof.Machine
end

section
/-! SUPPORT. The trust block's commands (R407 to R412): the oldest command, what a command finds of the state, and what each one does. -/

namespace Sys2Proof.Machine

/-! ## What reading and writing the buffer leaves -/

@[simp] theorem peek_keys (s : State) (pa n : Nat) : (s.peek pa n).keys = s.keys := by
  have h := congrArg State.keys (peek_same s pa n).rest
  exact h

@[simp] theorem peek_laygen (s : State) (pa n : Nat) : (s.peek pa n).laygen = s.laygen := by
  have h := congrArg State.laygen (peek_same s pa n).rest
  exact h

@[simp] theorem peek_tbQueue (s : State) (pa n : Nat) : (s.peek pa n).tbQueue = s.tbQueue := by
  have h := congrArg State.tbQueue (peek_same s pa n).rest
  exact h

@[simp] theorem poke_keys (s : State) (pa : Nat) (bs : List Byte) : (s.poke pa bs).keys = s.keys := by
  have h := congrArg State.keys (poke_same s pa bs).rest
  exact h

@[simp] theorem poke_laygen (s : State) (pa : Nat) (bs : List Byte) : (s.poke pa bs).laygen = s.laygen := by
  have h := congrArg State.laygen (poke_same s pa bs).rest
  exact h

@[simp] theorem poke_tbQueue (s : State) (pa : Nat) (bs : List Byte) : (s.poke pa bs).tbQueue = s.tbQueue := by
  have h := congrArg State.tbQueue (poke_same s pa bs).rest
  exact h

/-- What the trust block holds for a world depends on its keys alone. -/
theorem keysOf_of_keys {s t : State} (h : t.keys = s.keys) (w : BitVec 8) : t.keysOf w = s.keysOf w := by
  rw [State.keysOf, h, State.keysOf]

/-- Reading leaves the worlds' configuration words. -/
theorem peek_worldV (s : State) (pa n : Nat) (w : BitVec 8) : (s.peek pa n).worldV w = s.worldV w :=
  congrArg (bitAt · 63) (foldl_touch_regs false _ s (0xA000 + 16 * w.toNat) (by omega))

@[simp] theorem tbIn_peek (s : State) (c : TbCmd) (pa n off k : Nat) : (s.peek pa n).tbIn c off k = s.tbIn c off k := by
  rw [State.tbIn, peek_mem, State.tbIn]

@[simp] theorem tbNum_peek (s : State) (c : TbCmd) (pa n off k : Nat) : (s.peek pa n).tbNum c off k = s.tbNum c off k := by
  rw [State.tbNum, tbIn_peek, State.tbNum]

@[simp] theorem tbWorld_peek (s : State) (c : TbCmd) (pa n : Nat) : (s.peek pa n).tbWorld c = s.tbWorld c := by
  rw [State.tbWorld, tbNum_peek, State.tbWorld]

theorem blobKeys_peek (s : State) (pa n : Nat) (w : BitVec 8) (blob : List Byte) : (s.peek pa n).blobKeys w blob = s.blobKeys w blob := by
  rw [State.blobKeys, keysOf_of_keys (peek_keys s pa n), State.blobKeys]

theorem released_peek (s : State) (c : TbCmd) (pa n : Nat) (key : BitVec 256) : (s.peek pa n).released c key = s.released c key := by
  simp only [State.released, tbIn_peek, tbNum_peek]

/-! ## Keys -/

/-- What the trust block holds for a world is that world's. -/
theorem keysOf_world (s : State) (w : BitVec 8) : (s.keysOf w).world = w := by
  rw [State.keysOf]
  cases hk : s.keys.find? fun k => k.world == w with
  | none => rfl
  | some k => simpa using List.find?_some hk

/-- Keys put for a world are that world's. -/
theorem keysOf_putKeys_same {s : State} {k : WorldKeys} {w : BitVec 8} (hw : k.world = w) : (s.putKeys k).keysOf w = k := by
  simp [State.keysOf, State.putKeys, hw]

/-- Keys put for a world leave those of the others. -/
theorem keysOf_putKeys_other (s : State) {k : WorldKeys} {w : BitVec 8} (hw : w ≠ k.world) : (s.putKeys k).keysOf w = s.keysOf w := by
  have hk : (k.world == w) = false := beq_false_of_ne (Ne.symm hw)
  have hfind : ((k :: s.keys.filter fun q => q.world != k.world).find? fun q => q.world == w) = s.keys.find? fun q => q.world == w := by
    rw [List.find?_cons_of_neg (by simp [hk]), List.find?_filter]
    congr 1
    funext q
    by_cases hq : q.world = w <;> simp [hq, hw]
  simp only [State.keysOf, State.putKeys, hfind]

/-! ## The oldest command -/

/-- The oldest command of the mailboxes, that waits for no line. -/
structure TbReady (s : State) (c : TbCmd) (rest : List (BitVec 8 × Accessor × Word64)) : Prop where
  queue : s.tbQueue = (c.world, c.a, c.v) :: rest
  head : s.tbHead = some c

/-- The end of a command: the next one is the oldest, and TB_STAT has the status. -/
theorem tbDone_eq {u : State} {q : BitVec 8 × Accessor × Word64} {rest : List (BitVec 8 × Accessor × Word64)} (hq : u.tbQueue = q :: rest)
    (c : TbCmd) (status : Nat) :
    u.tbDone c status = { u with tbQueue := rest }.setReg (0xB008 + 16 * c.world.toNat) (BitVec.ofNat 64 status) := by
  rw [State.tbDone, hq]
  rfl

section
variable {s : State} {c : TbCmd} {rest : List (BitVec 8 × Accessor × Word64)} (hclock : s.clocked = true)
  (hq : s.tbQueue = (c.world, c.a, c.v) :: rest)
include hclock hq

/-- A command whose buffer meets a held line waits (R261). -/
theorem tbHead_held (hheld : s.areaHeld c.buf c.reach = true) : s.tbHead = none := by
  simp [State.tbHead, hclock, hq, hheld]

theorem tbReady_of_free (hheld : s.areaHeld c.buf c.reach = false) : TbReady s c rest :=
  ⟨hq, by simp [State.tbHead, hclock, hq, hheld]⟩
end

/-- Without a command to run nothing happens. -/
theorem tbRun_none {s : State} (hhead : s.tbHead = none) (op : Nat) (may : TbCmd → Bool) (run : State → TbCmd → State) :
    s.tbRun op may run = s := by
  rw [State.tbRun, hhead]

section
variable {s : State} {c : TbCmd} {rest : List (BitVec 8 × Accessor × Word64)} (hr : TbReady s c rest)
include hr

/-- The end of a command after its buffer has been read. -/
theorem TbReady.done_peek (pa n status : Nat) : (s.peek pa n).tbDone c status =
    { s.peek pa n with tbQueue := rest }.setReg (0xB008 + 16 * c.world.toNat) (BitVec.ofNat 64 status) :=
  tbDone_eq ((peek_tbQueue s pa n).trans hr.queue) c status

/-- A command that is none ends with BADCMD (R408). -/
theorem execTbBadcmd_bad (hbad : s.tbBad c = true) : execTbBadcmd s = .next (s.tbDone c 2) := by
  rw [execTbBadcmd, hr.head]
  exact congrArg _ (if_pos hbad)

variable (hfine : s.tbBad c = false) {op : Nat} (hop : c.op = op)
include hfine hop

/-- A command that its giver may not give ends with NOPRIV (R408). -/
theorem tbRun_refused {may : TbCmd → Bool} (hmay : may c = false) (run : State → TbCmd → State) : s.tbRun op may run = s.tbDone c 3 := by
  simp [State.tbRun, hr.head, hop, hfine, hmay]

/-- A command that its giver may give runs on its buffer. -/
theorem tbRun_runs {may : TbCmd → Bool} (hmay : may c = true) (run : State → TbCmd → State) :
    s.tbRun op may run = run (s.peek c.buf 0x800) c := by
  simp [State.tbRun, hr.head, hop, hfine, hmay]
end

/-! ## CREATE, DESTROY, EXTEND (R408) -/

/-- The configuration word of a world made by CREATE. -/
def State.tbConfig (s : State) (c : TbCmd) : Word64 := BitVec.ofNat 64
  (2 ^ 63 + (if s.tbNum c 1 1 % 2 = 1 then 2 ^ 62 else 0) + (if s.tbNum c 1 1 / 2 % 2 = 1 then 2 ^ 61 else 0))

/-- The keys that CREATE makes. -/
def State.freshKeys (s : State) (w : BitVec 8) : WorldKeys :=
  ⟨w, Config.random256 s.freshId, Config.random256 (s.freshId + 1), Config.random256 (s.freshId + 2), 0, 0, none⟩

/-- The state with a new world. -/
def State.created (s : State) (c : TbCmd) : State :=
  ((State.putKeys { s with freshId := s.freshId + 3 } (s.freshKeys (s.tbWorld c))).setReg (cfgOff (s.tbWorld c)) (s.tbConfig c)).bumpLayout

/-- The state without a world. -/
def State.destroyed (s : State) (w : BitVec 8) : State :=
  (State.setReg { s with keys := s.keys.filter fun k => k.world != w } (cfgOff w) 0).bumpLayout

/-- The keys of a world whose measurement is extended. -/
def State.extendedKeys (s : State) (c : TbCmd) : WorldKeys :=
  { s.keysOf (s.tbWorld c) with meas := Config.shake256 (toBytes (s.keysOf (s.tbWorld c)).meas 64 ++ s.tbIn c 0x40 64) }

section
variable {s : State} {c : TbCmd} {rest : List (BitVec 8 × Accessor × Word64)} (hr : TbReady s c rest) (hfine : s.tbBad c = false)
  (htrust : c.a.trust = true)
include hr hfine htrust

theorem execTbCreate_eq (hop : c.op = 1) : execTbCreate s = .next (if s.worldV (s.tbWorld c) then (s.peek c.buf 0x800).tbDone c 7
    else ((s.peek c.buf 0x800).created c).tbDone c 0) := by
  rw [execTbCreate, tbRun_runs hr hfine hop htrust]
  simp only [tbWorld_peek, peek_worldV]
  rw [State.created, tbWorld_peek]
  rfl

theorem execTbDestroy_eq (hop : c.op = 2) : execTbDestroy s =
    .next (if s.launches.any fun l => l.world == s.tbWorld c then (s.peek c.buf 0x800).tbDone c 8
      else ((s.peek c.buf 0x800).destroyed (s.tbWorld c)).tbDone c 0) := by
  rw [execTbDestroy, tbRun_runs hr hfine hop htrust]
  simp only [tbWorld_peek]
  rw [← (peek_same s c.buf 0x800).launches]
  rfl

theorem execTbExtend_eq (hop : c.op = 3) : execTbExtend s = .next (if s.worldV (s.tbWorld c) then
      (((s.peek c.buf 0x800).putKeys (s.extendedKeys c)).bumpLayout).tbDone c 0
    else (s.peek c.buf 0x800).tbDone c 6) := by
  rw [execTbExtend, tbRun_runs hr hfine hop htrust]
  simp only [tbWorld_peek, peek_worldV, tbIn_peek, keysOf_of_keys (peek_keys s c.buf 0x800)]
  cases s.worldV (s.tbWorld c) <;> rfl
end

/-! ## EVIDENCE and EXPORT (R409, R410) -/

/-- The evidence of a world: its body, the signature, and zeros. -/
def State.evidence (s : State) (c : TbCmd) : List Byte :=
  let body := s.evidenceBody c.world (s.tbIn c 0x20 32) (Config.random256 s.freshId)
  body ++ fitBytes 3309 (Config.dsaSign (s.layerSecret 3) body) ++ List.replicate 19 0

/-- The keys of a world with the secret key of its evidence under the nonce. -/
def State.evidenceKeys (s : State) (c : TbCmd) : WorldKeys :=
  { s.keysOf c.world with evidence := some (ofBytes 256 (s.tbIn c 0x20 32), Config.random256 s.freshId) }

/-- The state that an EVIDENCE leaves. -/
def State.evidenced (s : State) (c : TbCmd) : State :=
  (State.putKeys { s with freshId := s.freshId + 1 } (s.evidenceKeys c)).poke (c.buf + 0x800) (s.evidence c)

/-- The blob of a world's keys. -/
def State.keyBlob (s : State) (c : TbCmd) : List Byte :=
  let k := s.keysOf c.world
  blobHeader c.world ++ List.replicate 56 0 ++ s.tbIn c 0x40 64 ++ fitBytes 104 (Config.keyWrap (sealingKey k.meas (s.tbIn c 0x40 64))
    (toBytes k.fabric 32 ++ toBytes k.page 32 ++ toBytes k.capture 32)) ++ List.replicate 24 0

@[simp] theorem length_fitBytes (n : Nat) (bs : List Byte) : (fitBytes n bs).length = n := by
  simp [fitBytes]

@[simp] theorem length_leBytes (n v : Nat) : (leBytes n v).length = n := by
  simp [leBytes, length_toBytes]

theorem length_evidence (s : State) (c : TbCmd) : (s.evidence c).length = 4992 := by
  simp [State.evidence, State.evidenceBody, length_toBytes]

theorem length_keyBlob (s : State) (c : TbCmd) : (s.keyBlob c).length = 256 := by
  simp [State.keyBlob, blobHeader, State.tbIn]

section
variable {s : State} {c : TbCmd} {rest : List (BitVec 8 × Accessor × Word64)} (hr : TbReady s c rest) (hfine : s.tbBad c = false)
  (hmay : c.ownOrTrusted = true)
include hr hfine hmay

theorem execTbEvidence_eq (hop : c.op = 4) : execTbEvidence s = .next (((s.peek c.buf 0x800).evidenced c).tbDone c 0) := by
  rw [execTbEvidence, tbRun_runs hr hfine hop hmay]
  rfl

theorem execTbExport_eq (hop : c.op = 5) : execTbExport s =
    .next (((s.peek c.buf 0x800).poke (c.buf + 0x800) ((s.peek c.buf 0x800).keyBlob c)).tbDone c 0) := by
  rw [execTbExport, tbRun_runs hr hfine hop hmay]
  rfl
end

/-! ## IMPORT and RELEASE (R410 to R412) -/

/-- The keys of a world with those of a blob. -/
def State.importedKeys (s : State) (w : BitVec 8) (ks : List Byte) : WorldKeys := { s.keysOf w with
  fabric := ofBytes 256 (ks.take 32)
  page := ofBytes 256 ((ks.drop 32).take 32)
  capture := ofBytes 256 ((ks.drop 64).take 32) }

/-- The state once a world's evidence is used. -/
def State.useEvidence (s : State) (w : BitVec 8) : State := s.putKeys { s.keysOf w with evidence := none }

section
variable {s : State} {c : TbCmd} {rest : List (BitVec 8 × Accessor × Word64)} (hr : TbReady s c rest) (hfine : s.tbBad c = false)
  (hown : c.own = true)
include hr hfine hown

theorem execTbImport_stale (hop : c.op = 6) (hlay : s.tbNum c 8 8 ≠ s.laygen.toNat) :
    execTbImport s = .next ((s.peek c.buf 0x800).tbDone c 4) := by
  rw [execTbImport, tbRun_runs hr hfine hop hown]
  simp [hlay]

/-- A blob of another world's, or whose check fails. -/
theorem execTbImport_fails (hop : c.op = 6) (hlay : s.tbNum c 8 8 = s.laygen.toNat) (hno : s.blobKeys c.world (s.tbIn c 0x100 256) = none) :
    execTbImport s = .next ((s.peek c.buf 0x800).tbDone c 5) := by
  rw [execTbImport, tbRun_runs hr hfine hop hown]
  simp only [tbNum_peek, peek_laygen, tbIn_peek, blobKeys_peek, hlay, hno, ne_eq, not_true, if_false]

/-- A blob whose keys become the world's. -/
theorem execTbImport_imports (hop : c.op = 6) (hlay : s.tbNum c 8 8 = s.laygen.toNat) {ks : List Byte}
    (hks : s.blobKeys c.world (s.tbIn c 0x100 256) = some ks) :
    execTbImport s = .next ((((s.peek c.buf 0x800).putKeys (s.importedKeys c.world ks)).bumpLayout).tbDone c 0) := by
  rw [execTbImport, tbRun_runs hr hfine hop hown]
  simp only [tbNum_peek, peek_laygen, tbIn_peek, blobKeys_peek, keysOf_of_keys (peek_keys s c.buf 0x800), hlay, hks, ne_eq, not_true, if_false,
    State.importedKeys]

theorem execTbRelease_stale (hop : c.op = 7) (hlay : s.tbNum c 8 8 ≠ s.laygen.toNat) :
    execTbRelease s = .next ((s.peek c.buf 0x800).tbDone c 4) := by
  rw [execTbRelease, tbRun_runs hr hfine hop hown]
  simp [hlay]

/-- A nonce of no evidence that stands. -/
theorem execTbRelease_unknown (hop : c.op = 7) (hlay : s.tbNum c 8 8 = s.laygen.toNat)
    (hno : ∀ key, (s.keysOf c.world).evidence ≠ some (ofBytes 256 (s.tbIn c 0x20 32), key)) :
    execTbRelease s = .next ((s.peek c.buf 0x800).tbDone c 1) := by
  rw [execTbRelease, tbRun_runs hr hfine hop hown]
  simp only [tbNum_peek, peek_laygen, tbIn_peek, keysOf_of_keys (peek_keys s c.buf 0x800), hlay, ne_eq, not_true, if_false]
  cases hev : (s.keysOf c.world).evidence with
  | none => rfl
  | some q =>
    have hnonce : ¬ ofBytes 256 (s.tbIn c 0x20 32) = q.1 := fun heq => hno q.2 (by rw [hev, heq])
    exact congrArg _ (if_pos hnonce)

section
variable (hop : c.op = 7) (hlay : s.tbNum c 8 8 = s.laygen.toNat) {key : BitVec 256}
  (hev : (s.keysOf c.world).evidence = some (ofBytes 256 (s.tbIn c 0x20 32), key))
include hop hlay hev

/-- A secret whose check fails, under the evidence that stands, which is used. -/
theorem execTbRelease_fails (hno : s.released c key = none) : execTbRelease s =
    .next (((s.peek c.buf 0x800).putKeys { s.keysOf c.world with evidence := none }).tbDone c 5) := by
  rw [execTbRelease, tbRun_runs hr hfine hop hown]
  simp only [tbNum_peek, peek_laygen, tbIn_peek, released_peek, keysOf_of_keys (peek_keys s c.buf 0x800), hlay, hev, hno, ne_eq, not_true, if_false]

/-- A secret that is unwrapped under the evidence that stands, which is used. -/
theorem execTbRelease_unwraps {bs : List Byte} (hbs : s.released c key = some bs) : execTbRelease s =
    .next ((((s.peek c.buf 0x800).putKeys { s.keysOf c.world with evidence := none }).poke (c.buf + 0x800) bs).tbDone c 0) := by
  rw [execTbRelease, tbRun_runs hr hfine hop hown]
  simp only [tbNum_peek, peek_laygen, tbIn_peek, released_peek, keysOf_of_keys (peek_keys s c.buf 0x800), hlay, hev, hbs, ne_eq, not_true, if_false]
end
end

/-! ## What each command leaves -/

/-- A trust-block instruction without a command to run (R261). -/
theorem trustBlock_waits {s : State} (hnone : s.tbHead = none) :
    ∀ i ∈ [Instr.tbCreate, .tbDestroy, .tbExtend, .tbEvidence, .tbExport, .tbImport, .tbRelease, .tbBadcmd], exec i s = .next s := by
  have hrun (op : Nat) (may : TbCmd → Bool) (run : State → TbCmd → State) :
      (.next (s.tbRun op may run) : Host.Outcome State Fault Refusal) = .next s := congrArg _ (tbRun_none hnone op may run)
  have hbad : execTbBadcmd s = .next s := by rw [execTbBadcmd, hnone]
  simp only [List.forall_mem_cons, List.not_mem_nil, false_implies, implies_true, and_true]
  exact ⟨hrun .., hrun .., hrun .., hrun .., hrun .., hrun .., hrun .., hbad⟩

/-- A reserved OP is no command (R408). -/
theorem tbBad_of_op {s : State} {c : TbCmd} (hop : c.op = 0 ∨ 7 < c.op) : s.tbBad c = true := by
  rcases hop with hop | hop <;> simp [State.tbBad, hop]

/-- A command of Eftan's from another than a trusted accessor ends with NOPRIV (R408). -/
theorem trustBlock_refuses {s : State} {c : TbCmd} {rest : List (BitVec 8 × Accessor × Word64)} (hr : TbReady s c rest)
    (hfine : s.tbBad c = false) (htrust : c.a.trust = false) {i : Instr}
    (hi : c.op = 1 ∧ i = .tbCreate ∨ c.op = 2 ∧ i = .tbDestroy ∨ c.op = 3 ∧ i = .tbExtend) : exec i s = .next (s.tbDone c 3) := by
  rcases hi with ⟨hop, rfl⟩ | ⟨hop, rfl⟩ | ⟨hop, rfl⟩ <;> exact congrArg _ (tbRun_refused hr hfine hop htrust _)

section
variable {s : State} {c : TbCmd} {rest : List (BitVec 8 × Accessor × Word64)}

/-- The registers after a CREATE whose buffer has been read. -/
theorem created_regs (c : TbCmd) : ((s.peek c.buf 0x800).created c).regs =
    ((s.peek c.buf 0x800).setReg (0xA000 + 16 * (s.tbWorld c).toNat) (s.tbConfig c)).regs := by
  rw [State.created, tbWorld_peek, State.tbConfig, tbNum_peek]
  rfl

/-- What an EVIDENCE leaves of memory outside its 4,992 bytes (R409). -/
theorem evidenced_outside (hmem : s.memOk) {b : Nat} (hb : b < c.buf + 0x800 ∨ c.buf + 0x800 + 4992 ≤ b) :
    cellRead (s.evidenced c).mem b = cellRead s.mem b :=
  (poke_bytes (s := State.putKeys { s with freshId := s.freshId + 1 } (s.evidenceKeys c)) hmem _ _).2 b (by rwa [length_evidence])

theorem evidenced_tbQueue (s : State) (c : TbCmd) : (s.evidenced c).tbQueue = s.tbQueue :=
  poke_tbQueue (State.putKeys { s with freshId := s.freshId + 1 } (s.evidenceKeys c)) _ _

/-- The world's keys after an EVIDENCE. -/
theorem keysOf_evidenced : (s.evidenced c).keysOf c.world = s.evidenceKeys c :=
  (keysOf_of_keys (poke_keys _ _ _) _).trans (keysOf_putKeys_same (keysOf_world s c.world))

/-- The world's keys after an EXTEND. -/
theorem keysOf_extended (t : State) : ((t.putKeys (s.extendedKeys c)).bumpLayout).keysOf (s.tbWorld c) = s.extendedKeys c :=
  keysOf_putKeys_same (keysOf_world s (s.tbWorld c))
end

/-- Settles O60: what the oldest command does in each of its cases, and what each successful one leaves. -/
theorem trustBlockCommands : Obligations.TrustBlockCommands := by
  unfold Obligations.TrustBlockCommands
  intro s w a v rest hclock hq c ends buf byte who op own s' held
  have hreach : s.areaHeld c.buf c.reach = held := by
    simp only [held, TbCmd.reach, Bool.or_eq_true, beq_iff_eq, or_assoc]
    rfl
  have hends (u : State) (hu : u.tbQueue = s.tbQueue) (n : Nat) : u.tbDone c n = ends u n := tbDone_eq (hu.trans hq) c n
  have hpeek : s'.tbQueue = s.tbQueue := peek_tbQueue s _ _
  refine ⟨fun hheld => ?held, fun hheld => ⟨?bad, ?reserved, fun hfine => ?fine⟩⟩
  case held => exact trustBlock_waits (tbHead_held (c := c) hclock hq (hreach.trans hheld))
  case bad => exact fun hbad => (execTbBadcmd_bad (tbReady_of_free hclock hq (hreach.trans hheld)) hbad).trans (congrArg _ (hends s rfl 2))
  case reserved => exact fun hop => tbBad_of_op hop
  case fine =>
    have hr : TbReady s c rest := tbReady_of_free hclock hq (hreach.trans hheld)
    have hmay (h : own ∨ a.trust = true) : c.ownOrTrusted = true := by simpa [TbCmd.ownOrTrusted, TbCmd.own, c, own] using h
    have hown (h : own) : c.own = true := by simpa [TbCmd.own, c, own] using h
    have hmem : s'.mem = s.mem := peek_mem s _ _
    have hmemOk (hok : s.memOk) : s'.memOk := by rw [State.memOk, hmem]; exact hok
    have hbuf : buf = c.buf := rfl
    have hlaygen : s'.laygen = s.laygen := peek_laygen s _ _
    have hkeys (x : BitVec 8) : s'.keysOf x = s.keysOf x := keysOf_of_keys (peek_keys s _ _) x
    have hreads (off n : Nat) : s'.tbIn c off n = s.tbIn c off n := tbIn_peek s c _ _ off n
    refine ⟨?nopriv, ?create, ?destroy, ?extend, ?evidence, ?blob, ?load, ?secret⟩
    case nopriv => exact fun i hi htrust => (trustBlock_refuses hr hfine htrust hi).trans (congrArg _ (hends s rfl 3))
    case create =>
      intro hop htrust
      have hstep := execTbCreate_eq hr hfine htrust hop
      refine ⟨fun hv => hstep.trans (congrArg _ ((if_pos hv).trans (hends s' hpeek 7))), fun hv => ⟨s'.created c, ?_, congrArg (· + 1) hlaygen, hmem,
        ⟨s'.freshKeys (s'.tbWorld c), rfl, tbWorld_peek s c _ _, rfl, rfl, rfl⟩, created_regs c⟩⟩
      exact hstep.trans (congrArg _ ((if_neg (ne_true_of_eq_false hv)).trans (hends (s'.created c) hpeek 0)))
    case destroy =>
      intro hop htrust
      have hstep := execTbDestroy_eq hr hfine htrust hop
      refine ⟨fun hlive => ?_, fun hnone => ⟨s'.destroyed who, ?_, fun k hk => ?_, rfl, hmem, congrArg (· + 1) hlaygen⟩⟩
      · have hany : (s.launches.any fun l => l.world == s.tbWorld c) = true := by
          rw [List.any_eq_true]
          exact hlive.imp fun l hl => ⟨hl.1, beq_iff_eq.mpr hl.2⟩
        exact hstep.trans (congrArg _ ((if_pos hany).trans (hends s' hpeek 8)))
      · have hany : ¬ (s.launches.any fun l => l.world == s.tbWorld c) = true := by
          rw [List.any_eq_true]
          exact fun ⟨l, hl, hw⟩ => hnone l hl (beq_iff_eq.mp hw)
        exact hstep.trans (congrArg _ ((if_neg hany).trans (hends (s'.destroyed who) hpeek 0)))
      · simpa using (List.mem_filter.mp hk).2
    case extend =>
      intro hop htrust
      have hstep := execTbExtend_eq hr hfine htrust hop
      refine ⟨fun hv => hstep.trans (congrArg _ ((if_neg (ne_true_of_eq_false hv)).trans (hends s' hpeek 6))),
        fun hv => ⟨(s'.putKeys (s.extendedKeys c)).bumpLayout, ?_, ?_, fun x hx => ?_, congrArg (· + 1) hlaygen⟩⟩
      · exact hstep.trans (congrArg _ ((if_pos hv).trans (hends (s'.putKeys (s.extendedKeys c)).bumpLayout hpeek 0)))
      · exact congrArg WorldKeys.meas (keysOf_extended s')
      · exact (keysOf_putKeys_other s' (k := s.extendedKeys c) (hx.trans_eq (keysOf_world s (s.tbWorld c)).symm)).trans (hkeys x)
    case evidence =>
      intro hop h
      have hafter := keysOf_evidenced (s := s') (c := c)
      refine ⟨s'.evidenced c, ?_, fun hok b hb => have hok' := hmemOk hok; ?_, ?_, Config.random256 s'.freshId, ?_⟩
      · exact (execTbEvidence_eq hr hfine (hmay h) hop).trans (congrArg _ (hends (s'.evidenced c) ((evidenced_tbQueue ..).trans hpeek) 0))
      · rw [hbuf] at hb
        exact (evidenced_outside hok' hb).trans (congrArg (cellRead · b) hmem)
      · have hmeas : (s'.keysOf w).meas = (s.keysOf w).meas := congrArg WorldKeys.meas (hkeys w)
        exact (congrArg WorldKeys.meas hafter).trans hmeas
      · refine (congrArg WorldKeys.evidence hafter).trans ?_
        rw [State.evidenceKeys, hreads]
        rfl
    case blob =>
      intro hop h
      refine ⟨s'.poke (buf + 0x800) (s'.keyBlob c), ?_, (poke_keys ..).trans (peek_keys s _ _), (poke_laygen ..).trans hlaygen, fun hok b hb => have hok' := hmemOk hok; ?_⟩
      · exact (execTbExport_eq hr hfine (hmay h) hop).trans (congrArg _ (hends _ ((poke_tbQueue _ _ _).trans hpeek) 0))
      · exact ((poke_bytes hok' _ _).2 b (by rwa [length_keyBlob])).trans (congrArg (cellRead · b) hmem)
    case load =>
      intro hop h blob
      refine ⟨fun hlay => (execTbImport_stale hr hfine (hown h) hop hlay).trans (congrArg _ (hends s' hpeek 4)), fun hlay => ?_⟩
      refine ⟨fun hno => (execTbImport_fails hr hfine (hown h) hop hlay hno).trans (congrArg _ (hends s' hpeek 5)),
        fun ks hks => ⟨(s'.putKeys (s.importedKeys w ks)).bumpLayout, ?_, congrArg (· + 1) hlaygen, ?_⟩⟩
      · exact (execTbImport_imports hr hfine (hown h) hop hlay hks).trans (congrArg _ (hends (s'.putKeys (s.importedKeys w ks)).bumpLayout hpeek 0))
      · have hafter : ((s'.putKeys (s.importedKeys w ks)).bumpLayout).keysOf w = s.importedKeys w ks := keysOf_putKeys_same (keysOf_world s w)
        rw [hafter]
        exact ⟨rfl, rfl⟩
    case secret =>
      intro hop h nonce
      refine ⟨fun hlay => (execTbRelease_stale hr hfine (hown h) hop hlay).trans (congrArg _ (hends s' hpeek 4)), fun hlay => ⟨fun hno => ?_, ?_⟩⟩
      · exact (execTbRelease_unknown hr hfine (hown h) hop hlay hno).trans (congrArg _ (hends s' hpeek 1))
      · intro key hev used
        refine ⟨fun hno => (execTbRelease_fails hr hfine (hown h) hop hlay hev hno).trans (congrArg _ (hends used hpeek 5)), fun bs hbs => ?_⟩
        exact (execTbRelease_unwraps hr hfine (hown h) hop hlay hev hbs).trans
          (congrArg _ (hends (used.poke (buf + 0x800) bs) ((poke_tbQueue _ _ _).trans hpeek) 0))

end Sys2Proof.Machine
end

section
/-! SUPPORT. Collective stations and Brimen ports (R427 to R433, R435): a station word's action on one token, and what a port does with a
flit that it takes. -/

namespace Sys2Proof.Machine

/-! ## Stations (R427, R428) -/

/-- Two payloads are added lane by lane in I32, with the wrap. -/
theorem laneU_stationSum_i32 (a b : Payload) {i : Nat} (hi : i < 8) :
    laneU 32 (stationSum .i32 [a, b]) i = wrapTo 32 (laneInt .i32 a i + laneInt .i32 b i) := by
  have hlane := laneU_packLanes_range .i32 (fun i => wrapTo 32 (laneInt .i32 a i + laneInt .i32 b i)) i hi
  exact hlane.trans (Nat.mod_eq_of_lt (wrapTo_lt 32 _))

/-- Opening a token asks of the state its keys alone. -/
theorem openTok_of_keys {s t : State} (h : t.keys = s.keys) (z : SealState) (w : BitVec 8) (k : Token) : openTok t z w k = openTok s z w k := by
  simp only [openTok, State.fabricKey, State.keysOf, h]

theorem putRegion_keys (s : State) (r : Rid) (g : Region) : (s.putRegion r g).keys = s.keys := by
  rw [State.putRegion]
  cases s.launch? r.h <;> rfl

theorem putRegion_stnToks (s : State) (r : Rid) (g : Region) : (s.putRegion r g).stnToks = s.stnToks := by
  rw [State.putRegion]
  cases s.launch? r.h <;> rfl

/-- A capture changes no station token. -/
theorem capture_stnToks (s : State) (l : Launch) (t : Token) (port src : Nat) (mark : BitVec 16) :
    (s.capture l t port src mark).stnToks = s.stnToks := by
  have hpoke (u : State) (pa : Nat) (bs : List Byte) : (u.poke pa bs).stnToks = u.stnToks := by
    have h := congrArg State.stnToks (poke_same u pa bs).rest
    exact h
  have hdeliver (u : State) (r : FaultRec) : (u.deliver r).stnToks = u.stnToks := by
    have h := congrArg State.stnToks (deliver_same u r).rest
    exact h
  simp only [State.capture, State.captureAt]
  split_ifs
  · rfl
  · rfl
  · exact hpoke ..
  · split
    · exact hpoke ..
    · exact (hdeliver ..).trans (hpoke ..)
  · exact (hpoke ..).trans (hpoke ..)

/-- The launch of a region that is put in place. -/
theorem launch?_putRegion {s : State} {r : Rid} {l : Launch} (hl : s.launch? r.h = some l) (g : Region) :
    (s.putRegion r g).launch? r.h = some { l with members := l.members.set r.m g } := by
  have hh : l.handle = r.h := launch?_handle hl
  rw [putRegion_eq hl]
  exact launch?_putLaunch_same hl hh

/-- The input mask of a word of one input. -/
theorem inputs_single {m : BitVec 8} {input : Nat} (hin : input < 8) (hinm : ∀ j < 8, bitAt m j = true ↔ j = input) :
    ((List.range 8).filter fun j => bitAt m j) = [input] := by
  have hsame : ((List.range 8).filter fun j => bitAt m j) = (List.range 8).filter (· == input) :=
    List.filter_congr fun j hj => by
      rw [Bool.eq_iff_iff, beq_iff_eq]
      exact hinm j (List.mem_range.mp hj)
  rw [hsame, List.filter_beq, List.count_eq_one_of_mem List.nodup_range (List.mem_range.mpr hin), List.replicate_one]

/-- A word with a token in the queue of one input, the others empty. -/
def StnWord.loaded (w : StnWord) (input : Nat) (t : Token) : StnWord := { w with queues := (List.replicate 8 []).set input [t] }

section
variable {s : State} {h : Word32} {m k input : Nat} {l : Launch} {g : Region} {w : StnWord} {t : Token}

/-- A word of one input that does not reduce takes its token and sends it opened to every output (R428). -/
theorem stationAct_loaded (hl : s.launch? h = some l) (hg : l.members[m]? = some g) (hw : g.stns[k]? = some (w.loaded input t))
    (hin : input < 8) (hinm : ∀ j < 8, bitAt (stnInm w.word) j = true ↔ j = input) (hsop : stnSop w.word ≠ 1) :
    s.stationAct h m k = (s.putRegion ⟨h, m⟩
      (let g1 : Region := { g with stns := g.stns.set k { w with queues := List.replicate 8 [] } }
       if t.counted then g1.count (.port (bindEntry w.bind)) t.tag (-1) true else g1)).stationSendAll h m w
        (openTok s l.sl (g.tagWorld t.tag) t) fun _ => true := by
  have hins : ((List.range 8).filter fun j => bitAt (stnInm (w.loaded input t).word) j) = [input] := inputs_single hin hinm
  have hheads : ([input].filterMap fun j => ((w.loaded input t).queues.getD j []).head?) = [t] := by
    simp [StnWord.loaded, hin]
  have hqueues : ((w.loaded input t).queues.zipIdx.map fun q => if [input].contains q.2 then q.1.tail else q.1) = List.replicate 8 [] := by
    rw [StnWord.loaded]
    interval_cases input <;> rfl
  have hout (record : Cause → Word64 → Payload) (u : Token) : stationOut (w.loaded input t) record [u] = some u := by
    rw [stationOut]
    exact if_pos hsop
  simp only [State.stationAct, hl, hg, hw, hins, hheads, hqueues, List.map_cons, List.map_nil, hout, List.foldl_cons, List.foldl_nil]
  rfl

/-- A token at an empty word of one input that does not reduce passes it at once, opened. -/
theorem stationTake_passes {q : WordAt} (hl : s.launch? q.l.handle = some l) (hg : l.members[q.m]? = some g) (hw : g.stns[q.k]? = some w)
    (hempty : w.queues = List.replicate 8 []) (hin : input < 8) (hinm : ∀ j < 8, bitAt (stnInm w.word) j = true ↔ j = input)
    (hsop : stnSop w.word ≠ 1) (t : Token) : ∃ g' : Region, s.stationTake q input t =
      (s.putRegion ⟨q.l.handle, q.m⟩ g').stationSendAll q.l.handle q.m w (openTok s l.sl (g.tagWorld t.tag) t) (fun _ => true) ∧
      g'.stns = g.stns ∧ g'.links = g.links := by
  have hregion : s.region? ⟨q.l.handle, q.m⟩ = some g := by rw [State.region?, hl]; exact hg
  have hlen : q.k < g.stns.length := (List.getElem?_eq_some_iff.mp hw).1
  have hloaded : { w with queues := w.queues.set input (w.queues.getD input [] ++ [t]) } = w.loaded input t := by
    have hnone : (List.replicate 8 ([] : List Token)).getD input [] = [] := List.getD_replicate _ hin
    rw [hempty, hnone]
    rfl
  have hw' : { w with queues := List.replicate 8 [] } = w := by rw [← hempty]
  let g1 : Region := { g with stns := g.stns.set q.k (w.loaded input t) }
  let g2 : Region := if t.counted then g1.count (.port (bindEntry w.bind)) t.tag 1 false else g1
  have htake : s.stationTake q input t = (s.putRegion ⟨q.l.handle, q.m⟩ g2).stationAct q.l.handle q.m q.k := by
    simp only [State.stationTake, hregion, hw, hloaded]
    rfl
  have hstns : g2.stns = g.stns.set q.k (w.loaded input t) := by simp only [g2]; split <;> rfl
  have hlinks : g2.links = g.links := by simp only [g2]; split <;> rfl
  have hworld : g2.tagWorld t.tag = g.tagWorld t.tag := by simp only [g2]; split <;> rfl
  have hl2 := launch?_putRegion (r := ⟨q.l.handle, q.m⟩) hl g2
  have hact := stationAct_loaded (g := g2) hl2 (List.getElem?_set_self (List.getElem?_eq_some_iff.mp hg).1)
    (by rw [hstns]; exact List.getElem?_set_self hlen) hin hinm hsop
  rw [hw', putRegion_twice _ _ hregion, openTok_of_keys (putRegion_keys ..), hworld] at hact
  refine ⟨_, htake.trans hact, ?_, ?_⟩
  · have hback : (g2.stns.set q.k w) = g.stns := by
      obtain ⟨hlt, hget⟩ := List.getElem?_eq_some_iff.mp hw
      rw [hstns, List.set_set, ← hget]
      exact List.set_getElem_self hlt
    split <;> exact hback
  · split <;> exact hlinks
end

/-! ## The step of a token at a station -/

section
variable {s : State} {k : StnTok} {rest : List StnTok} {l : Launch} {g : Region}

/-- A token that does not count, rejected: a record 0xB.03 at its colour's exit (R427). -/
theorem stationReject_uncounted (hregion : s.region? ⟨k.h, k.m⟩ = some g) (hcount : k.tok.counted = false) :
    s.stationReject k.h k.m k.station k.tok =
      let z := portSender g k.m (g.stationEntry k.station) 3
      raiseToExit s ⟨k.h, k.m⟩ z.src z.prod z.ax z.ay z.slot 0 0 (mkCause 0xB 3) 0 k.tok.tag := by
  simp only [State.stationReject, hregion, hcount]
  rfl

variable (htoks : s.stnToks = k :: rest) (hready : s.stationReady k = true)
include htoks hready

/-- The oldest token that is ready, and reaches no word, is rejected (R427). -/
theorem stationInput_rejects (hwords : s.wordsFor k.die k.station k.input k.tok.tag = []) :
    exec (.stationInput k.die k.station k.input) s = .next (State.stationReject { s with stnToks := rest } k.h k.m k.station k.tok) := by
  have hfirst := takeFirst_cons rest (q := fun q : StnTok => q.die == k.die && q.station == k.station && q.input == k.input && s.stationReady q)
    (v := k) (by simp [hready])
  change execStationInput k.die k.station k.input s = _
  simp only [execStationInput, htoks, hfirst, hwords]
  rfl

variable (hl : s.launch? k.h = some l) (hg : l.members[k.m]? = some g)
include hl hg

/-- The oldest token that is ready, reaches one word, and is no side-band token, is counted out and taken by the word (R427). -/
theorem stationInput_takes {q : WordAt} (hwords : s.wordsFor k.die k.station k.input k.tok.tag = [q]) (hkind : k.tok.kind ≠ 1) :
    exec (.stationInput k.die k.station k.input) s = .next ((if k.tok.counted then State.putRegion { s with stnToks := rest } ⟨k.h, k.m⟩
      (g.count (.port (g.stationEntry k.station)) k.tok.tag (-1) false) else { s with stnToks := rest }).stationTake q k.input k.tok) := by
  have hfirst := takeFirst_cons rest (q := fun q : StnTok => q.die == k.die && q.station == k.station && q.input == k.input && s.stationReady q)
    (v := k) (by simp [hready])
  have hregion : State.region? { s with stnToks := rest } ⟨k.h, k.m⟩ = some g := by
    change (s.launch? k.h).bind (fun l => l.members[k.m]?) = some g
    rw [hl]
    exact hg
  have hgo : ([q].isEmpty || k.tok.kind == 1) = false := by simp [hkind]
  change execStationInput k.die k.station k.input s = _
  simp only [execStationInput, htoks, hfirst, hwords, hgo, hregion]
  rfl

/-- A token that passes the one word that it reaches (R428). -/
theorem stationInput_passes {q : WordAt} {w : StnWord} (hwords : s.wordsFor k.die k.station k.input k.tok.tag = [q]) (hql : q.l = l)
    (hqm : q.m = k.m) (hw : g.stns[q.k]? = some w) (hsop : stnSop w.word ≠ 1) (hkind : k.tok.kind ≠ 1) (hin : k.input < 8)
    (hinm : ∀ j < 8, bitAt (stnInm w.word) j = true ↔ j = k.input) (hempty : w.queues = List.replicate 8 []) :
    ∃ u : State, exec (.stationInput k.die k.station k.input) s =
        .next (u.stationSendAll k.h k.m w (openTok s l.sl (g.tagWorld k.tok.tag) k.tok) fun _ => true) ∧
      u.stnToks = rest ∧ u.mem = s.mem ∧ ∃ g', u.region? ⟨k.h, k.m⟩ = some g' ∧ g'.stns = g.stns ∧ g'.links = g.links := by
  have hh : q.l.handle = k.h := (congrArg Launch.handle hql).trans (launch?_handle hl)
  let s0 : State := { s with stnToks := rest }
  let gc : Region := g.count (.port (g.stationEntry k.station)) k.tok.tag (-1) false
  have hstep := stationInput_takes htoks hready hl hg hwords hkind
  have hl0 : s0.launch? q.l.handle = some l := by rw [hh]; exact hl
  have hregion0 : s0.region? ⟨q.l.handle, q.m⟩ = some g := by rw [State.region?, hl0, hqm]; exact hg
  by_cases hcount : k.tok.counted = true
  case pos =>
    have hl1 := launch?_putRegion (r := ⟨q.l.handle, q.m⟩) hl0 gc
    have hg1 : (l.members.set q.m gc)[q.m]? = some gc := by
      rw [hqm]
      exact List.getElem?_set_self (List.getElem?_eq_some_iff.mp hg).1
    obtain ⟨g', htake, hstns, hlinks⟩ := stationTake_passes hl1 hg1 hw hempty hin hinm hsop k.tok
    rw [putRegion_twice _ _ hregion0, openTok_of_keys (putRegion_keys ..)] at htake
    rw [if_pos hcount, ← hh, ← hqm] at hstep
    refine ⟨s0.putRegion ⟨q.l.handle, q.m⟩ g', ?_, putRegion_stnToks .., putRegion_mem .., g', ?_, hstns, hlinks⟩
    · rw [← hh, ← hqm]
      exact hstep.trans (congrArg _ htake)
    · rw [← hh, ← hqm]
      exact region?_putRegion_same hregion0
  case neg =>
    obtain ⟨g', htake, hstns, hlinks⟩ := stationTake_passes (s := s0) hl0 (by rw [hqm]; exact hg) hw hempty hin hinm hsop k.tok
    rw [if_neg hcount] at hstep
    refine ⟨s0.putRegion ⟨q.l.handle, q.m⟩ g', ?_, putRegion_stnToks .., putRegion_mem .., g', ?_, hstns, hlinks⟩
    · rw [← hh, ← hqm]
      exact hstep.trans (congrArg _ htake)
    · rw [← hh, ← hqm]
      exact region?_putRegion_same hregion0
end

/-! ## The link level of a port (R429, R431) -/

/-- A sealed flit's CRC holds. -/
theorem flitCrcOk_sealFlit (b : BitVec 480) : flitCrcOk (sealFlit b) = true := by
  have hcrc : bitsAt (sealFlit b) 0 32 = flitCrc b := (bitsAt_append_low b (flitCrc b) (by omega)).trans (bitsAt_all _)
  have hbits : bitsAt (sealFlit b) 32 480 = b := (bitsAt_append_high b (flitCrc b) (by omega)).trans (bitsAt_all b)
  rw [flitCrcOk, hcrc, hbits, beq_self_eq_true]

/-- A flit whose CRC fails is accepted by no port. -/
theorem accepts_of_bad_crc {f : BitVec 512} (hcrc : flitCrcOk f = false) (s : State) (p : Nat) : s.accepts p f = false := by
  simp [State.accepts, hcrc]

/-- An acknowledgement leaves the expected SEQ. -/
theorem acked_expect (b : Brimen) (a : BitVec 12) (now : Nat) : (b.acked a now).expect = b.expect := by
  rw [Brimen.acked]
  split <;> rfl

/-- An acknowledgement of the oldest flit retires it (R431). -/
theorem acked_oldest {b : Brimen} {f : BitVec 512} {rest : List (BitVec 512)} {a : BitVec 12} (hb : b.unacked = f :: rest)
    (ha : flitSeq f = a) (hwait : b.waiting = []) (now : Nat) : (b.acked a now).unacked = rest ∧ (b.acked a now).tries = 0 := by
  have hfirst : (b.unacked.findIdx? fun f => flitSeq f == a) = some 0 := by simp [hb, List.findIdx?_cons, ha]
  rw [Brimen.acked, hfirst]
  simp [hb, hwait]

/-- A port that is put in place. -/
theorem port_putPort {s : State} {p : Nat} (hp : p < s.brimen.length) (b : Brimen) : (s.putPort p b).port p = b := by
  simp [State.port, State.putPort, hp]

/-! ## A flit that its port takes (R430, R432, R433, R435) -/

section
variable {s : State} {p : Nat} {f : BitVec 512} (hacc : s.accepts p f = true)
include hacc

/-- A flit for another device goes on along its route (R432). -/
theorem onFlit_forwards (hme : s.isMe (flitDev f) = false) (here : State → State) : s.onFlit p (flitType f) f here =
    (s.taken p f).sendToward (BitVec.ofNat 4 (flitType f)) (flitDev f) (flitBody f) (flitExt f) := by
  simp [State.onFlit, hacc, hme]

/-- A flit for this device is handled here (R432). -/
theorem onFlit_here {type : Nat} (htype : flitType f = type) (hme : s.isMe (flitDev f) = true) (here : State → State) :
    s.onFlit p type f here = here (s.taken p f) := by
  simp [State.onFlit, hacc, htype, hme]

/-- A flit of a type that carries something, for another device (R432). -/
theorem flit_forwards (hme : s.isMe (flitDev f) = false) {i : Instr}
    (hi : flitType f = 1 ∧ i = .flitStationToken p f ∨ flitType f = 3 ∧ i = .flitGalleryInterest p f ∨ flitType f = 5 ∧ i = .flitGalleryAnswer p f ∨
      flitType f = 6 ∧ i = .flitManagement p f ∨ flitType f = 4 ∧ i = .flitTileData p f) :
    exec i s = .next ((s.taken p f).sendToward (BitVec.ofNat 4 (flitType f)) (flitDev f) (flitBody f) (flitExt f)) := by
  have hon {type : Nat} (htype : flitType f = type) (here : State → State) : (.next (s.onFlit p type f here) : Host.Outcome State Fault Refusal) =
      .next ((s.taken p f).sendToward (BitVec.ofNat 4 (flitType f)) (flitDev f) (flitBody f) (flitExt f)) :=
    congrArg _ (htype ▸ onFlit_forwards hacc hme here)
  have hroom : s.tileWaits p f = false := by simp [State.tileWaits, hme]
  rcases hi with ⟨htype, rfl⟩ | ⟨htype, rfl⟩ | ⟨htype, rfl⟩ | ⟨htype, rfl⟩ | ⟨htype, rfl⟩
  · exact hon htype _
  · exact hon htype _
  · exact hon htype _
  · exact hon htype _
  · refine Eq.trans ?_ (hon htype fun s => s.placeTile p f)
    exact congrArg _ (if_neg (by simp [hroom]))

theorem flitAcknowledge_takes (htype : flitType f = 0 ∨ flitType f = 7) : exec (.flitAcknowledge p f) s = .next (s.taken p f) := by
  have hgo : (s.accepts p f && (flitType f == 0 || flitType f == 7)) = true := by simp [hacc, htype]
  exact congrArg _ (if_pos hgo)

theorem droppedFlit_counts (htype : flitType f = 2 ∨ 8 ≤ flitType f) :
    exec (.droppedFlit p f) s = .next ((s.taken p f).setReg 0x8108 (s.reg 0x8108 + 1)) := by
  have hgo : (s.accepts p f && reservedType (flitType f)) = true := by simp [hacc, reservedType, htype]
  exact congrArg _ (if_pos hgo)

variable (hme : s.isMe (flitDev f) = true)
include hme

/-- A station token joins its station's input (R433). -/
theorem flitStationToken_joins (htype : flitType f = 1) {q : WordAt} {words : List WordAt}
    (hwords : s.wordsFor (p / 6) (p % 6) 1 (bitsAt f 352 64) = q :: words) : ∃ u : State, exec (.flitStationToken p f) s = .next u ∧
      u.stnToks = s.stnToks ++ [StnTok.mk (p / 6) (p % 6) 1 q.l.handle q.m ⟨bitsAt f 416 32, bitsAt f 352 64, bitsAt f 96 256, none⟩] := by
  have hwords' : (s.taken p f).wordsFor (p / 6) (p % 6) 1 (bitsAt f 352 64) = q :: words := hwords
  refine ⟨_, congrArg Host.Outcome.next (onFlit_here hacc htype hme _), ?_⟩
  simp only [State.chipToken, hwords', List.head?_cons, capture_stnToks, putRegion_stnToks]
  rfl

/-- An interest in a name without a declaration is answered UNKNOWN (R435). -/
theorem flitGalleryInterest_unknown (htype : flitType f = 3) (hroute : s.routeOf (bitsAt f 384 64) = none) :
    exec (.flitGalleryInterest p f) s = .next ((s.taken p f).sendNegative (256 + p) (256 + p) (bitsAt f 376 8) (bitsAt f 384 64) (mkCause 9 2)
      (.device (bitsAt f 292 20).toNat) []) := by
  have hroute' : (s.taken p f).routeOf (bitsAt f 384 64) = none := hroute
  refine congrArg _ ((onFlit_here hacc htype hme _).trans ?_)
  simp only [State.handle, State.entryCheck, hroute', if_true]
  rfl

/-- The first unit of a tile of several waits for the others (R430). -/
theorem flitTileData_waits (htype : flitType f = 4) (hfirst : s.reasm? p (bitsAt f 120 8) (bitsAt f 128 64) = none) {size : Nat}
    (hsize : 32 * ((bitsAt f 109 11).toNat + 1) = size) (hroom : s.reasmUsed p + size ≤ 524288) (hin : (flitExt f).toNat < size)
    (hunit : (flitExt f).toNat % 32 = 0) (hmore : 32 < size) : exec (.flitTileData p f) s = .next { s.taken p f with
      reasm := ⟨p, bitsAt f 120 8, bitsAt f 128 64, size, [((flitExt f).toNat, toBytes (bitsAt f 192 256) 32)]⟩ :: s.reasm } := by
  have hfree : s.tileWaits p f = false := by
    have hfits : decide (524288 < s.reasmUsed p + size) = false := decide_eq_false (by omega)
    rw [State.tileWaits, hsize, hfits, Bool.and_false, Bool.false_and]
  have hfirst' : (s.taken p f).reasm? p (bitsAt f 120 8) (bitsAt f 128 64) = none := hfirst
  have hdrop : (s.taken p f).dropReasm p (bitsAt f 120 8) (bitsAt f 128 64) = s.taken p f := by
    have hkeep : ((s.taken p f).reasm.filter fun r => !(r.port == p && r.world == bitsAt f 120 8 && r.name == bitsAt f 128 64)) =
        (s.taken p f).reasm := List.filter_eq_self.mpr fun r hr => by
      rw [Bool.not_eq_true']
      exact Bool.eq_false_of_not_eq_true (List.find?_eq_none.mp hfirst r hr)
    rw [State.dropReasm, hkeep]
  have hplace : (s.taken p f).placeTile p f = { s.taken p f with
      reasm := ⟨p, bitsAt f 120 8, bitsAt f 128 64, size, [((flitExt f).toNat, toBytes (bitsAt f 192 256) 32)]⟩ :: s.reasm } := by
    have hgood : ¬ (size ≠ size ∨ size ≤ (flitExt f).toNat ∨ (flitExt f).toNat % 32 ≠ 0) := by omega
    have hopen : [((flitExt f).toNat, toBytes (bitsAt f 192 256) 32)].length < size / 32 := by
      rw [List.length_singleton]
      omega
    simp only [State.placeTile, hfirst', Option.getD_none, hdrop, hsize]
    rw [if_neg hgood, if_pos hopen]
    rfl
  have hon := onFlit_here hacc htype hme fun s => s.placeTile p f
  exact congrArg _ ((if_neg (by simp [hfree])).trans (hon.trans hplace))

/-- A negative answer goes to the faces that wait (R435). -/
theorem flitGalleryAnswer_refuses (htype : flitType f = 5) {e : Pit} (he : s.pit? (256 + p) (bitsAt f 376 8) (bitsAt f 384 64) = some e) :
    exec (.flitGalleryAnswer p f) s = .next ((s.taken p f).refusePit e (bitsAt f 366 10)) := by
  have he' : (s.taken p f).pit? (chipRouter p) (bitsAt f 376 8) (bitsAt f 384 64) = some e := he
  refine congrArg _ ((onFlit_here hacc htype hme _).trans ?_)
  simp only [he']

/-- Management bytes reach the processor (R430). -/
theorem flitManagement_reaches (htype : flitType f = 6) : exec (.flitManagement p f) s = .next { s.taken p f with
    mgmt := s.mgmt ++ [toBytes (flitBody f) (min 44 (bitsAt f 32 8).toNat)] } :=
  congrArg _ (onFlit_here hacc htype hme _)
end

/-! ## A port without an acknowledgement (R431) -/

section
variable {s : State} {p : Nat} (hpkg : s.pkg = .running) (hup : (s.port p).down = false) (hsent : (s.port p).unacked ≠ [])
  (hlate : (s.port p).lastAck + 4096 ≤ s.cycle)
include hpkg hup hsent hlate

/-- Without an acknowledgement for 4,096 cycles a port sends again, or goes down after seven times. -/
theorem linkRetryTimeout_eq : exec (.linkRetryTimeout p) s = .next (if 7 ≤ (s.port p).tries then s.portDown p
    else s.putPort p { s.port p with tries := (s.port p).tries + 1, lastAck := s.cycle }) := by
  have hgo : (s.pkg != .running || (s.port p).down || (s.port p).unacked.isEmpty || decide (s.cycle < (s.port p).lastAck + 4096)) = false := by
    have hnonempty : (s.port p).unacked.isEmpty = false := by simpa using hsent
    rw [hpkg, hup, hnonempty, decide_eq_false (by omega)]
    rfl
  exact congrArg _ (if_neg (by simp [hgo]))
end

/-- A port goes down without records where no station word is bound to it. -/
theorem portDown_no_words {s : State} {p : Nat} (hwords : s.stationWords (p / 6) (p % 6) = []) : s.portDown p =
    { s.putPort p { s.port p with unacked := [], waiting := [], down := true } with reasm := s.reasm.filter fun k => k.port != p } := by
  have hwords' (b : Brimen) (rs : List Reasm) : State.stationWords { s.putPort p b with reasm := rs } (p / 6) (p % 6) = [] := hwords
  rw [State.portDown]
  simp only [State.portRecords, hwords', List.foldl_nil]
  rfl

/-- Settles O56: the lanes of a sum, the token at a station, and a port's flits and its silence case by case. -/
theorem stationsAndPortsCarryTokens : Obligations.StationsAndPortsCarryTokens := by
  unfold Obligations.StationsAndPortsCarryTokens
  refine ⟨fun a b i hi => laneU_stationSum_i32 a b hi, ?station, ?port, ?crc, ?retry⟩
  case station =>
    intro s k rest l g htoks hready hl hg hpkg runs words
    refine ⟨?_, fun q w hwords hql hqm hw hsop hkind hin hinm hempty =>
      stationInput_passes htoks hready hl hg hwords hql hqm hw hsop hkind hin hinm hempty⟩
    intro hwords hcount z
    have hregion : State.region? { s with stnToks := rest } ⟨k.h, k.m⟩ = some g := by
      change (s.launch? k.h).bind (fun l => l.members[k.m]?) = some g
      rw [hl]
      exact hg
    exact (stationInput_rejects htoks hready hwords).trans (congrArg _ (stationReject_uncounted hregion hcount))
  case port =>
    intro s p b hpkg hup hseq hp f old s1 w n
    have hacc : s.accepts p f = true := by
      have hcrc : flitCrcOk f = true := flitCrcOk_sealFlit b
      have hnext : flitSeq f = (s.port p).expect := hseq
      simp [State.accepts, hpkg, hup, hcrc, hnext]
    have hport : s1.port p = { old.acked (flitAck f) s.cycle with expect := (old.acked (flitAck f) s.cycle).expect + 1 } := port_putPort hp _
    refine ⟨⟨?_, fun a rest hold hack hwait => ?_⟩, fun i hi hme => flit_forwards hacc hme hi, fun htype => flitAcknowledge_takes hacc htype,
      fun htype => droppedFlit_counts hacc htype, fun hme => ⟨fun q words htype hwords => flitStationToken_joins hacc hme htype hwords,
        fun htype hroute => flitGalleryInterest_unknown hacc hme htype hroute, ?_, fun e htype he => flitGalleryAnswer_refuses hacc hme htype he,
        fun htype => flitManagement_reaches hacc hme htype⟩⟩
    · rw [hport]
      exact congrArg (· + 1) (acked_expect _ _ _)
    · rw [hport]
      exact acked_oldest hold hack hwait s.cycle
    · intro htype v nm size hfirst hroom hin hunit hmore
      exact flitTileData_waits hacc hme htype hfirst rfl hroom hin hunit hmore
  case crc =>
    intro s p b hcrc
    have hno : ¬ (s.accepts p b && reservedType (flitType b)) = true := by rw [accepts_of_bad_crc hcrc]; exact Bool.false_ne_true
    exact congrArg _ (if_neg hno)
  case retry =>
    intro s p hpkg hup hsent hlate b
    have hstep := linkRetryTimeout_eq hpkg hup hsent hlate
    refine ⟨fun htries => hstep.trans (congrArg _ (if_neg (Nat.not_le.mpr htries))), fun htries hwords => ?_⟩
    exact hstep.trans (congrArg _ ((if_pos htries).trans (portDown_no_words hwords)))

end Sys2Proof.Machine
end
